-- ==== Sys2Proof/Word.lean ====
section
/-! DEFINITION. The words of the machine: a 64-bit register value, a byte, and the 1,024 bits of a vector register. -/

namespace Sys2Proof

/-- A 64-bit word: the value of a general register, a control register, an address (R51, R71). -/
abbrev Word := BitVec 64

/-- A byte of memory. -/
abbrev Byte := BitVec 8

/-- The 1,024 bits of a vector register (R66). -/
abbrev VBits := BitVec 1024

end Sys2Proof
end

