-- ==== Sys2Proof/Machine/Map.lean ====
section
/-! DEFINITION. Sparse data by number: a list of (key, value) pairs with keys rising. Every table of the machine that
is indexed by a number is one of these, and so is memory (Host.Cell), so that states are plain data that can be
compared and written down. -/

namespace Sys2Proof.Machine

/-- The value at a key; the search ends at the first key that is greater. -/
def mapGet {α : Type} : List (Nat × α) → Nat → Option α
  | [], _ => none
  | (k, v) :: t, i => if i = k then some v else if i < k then none else mapGet t i

/-- The map with a value at a key. -/
def mapPut {α : Type} : List (Nat × α) → Nat → α → List (Nat × α)
  | [], i, x => [(i, x)]
  | (k, v) :: t, i, x =>
    if i = k then (k, x) :: t else if i < k then (i, x) :: (k, v) :: t else (k, v) :: mapPut t i x

/-- The map with nothing at a key. -/
def mapDel {α : Type} : List (Nat × α) → Nat → List (Nat × α)
  | [], _ => []
  | (k, v) :: t, i => if k < i then (k, v) :: mapDel t i else ((k, v) :: t).dropWhile (fun p => p.1 ≤ i)

/-- The value at a key, or a default. -/
def mapGetD {α : Type} (m : List (Nat × α)) (k : Nat) (d : α) : α := (mapGet m k).getD d

/-- Are the keys strictly rising? -/
def rising {α : Type} : List (Nat × α) → Bool
  | [] => true
  | [_] => true
  | p :: q :: t => decide (p.1 < q.1) && rising (q :: t)

/-! ## Memory in its canonical form -/

/-- What a byte of memory that nothing has written reads as (DESIGN CHOICE, log entry 1; R428 and R332 write zero). -/
def emptyByte : Byte := 0

/-- The byte at an address. -/
def memGet (m : List Host.Cell) (a : Nat) : Byte := mapGetD m a emptyByte

/-- Memory with a byte at an address: a byte that reads as an unlisted one is not listed. -/
def memSet (m : List Host.Cell) (a : Nat) (b : Byte) : List Host.Cell :=
  if b = emptyByte then mapDel m a else mapPut m a b

/-- The canonical form: addresses strictly rising, and no entry equal to what an unlisted address reads as. -/
def memWf (m : List Host.Cell) : Bool := rising m && m.all (fun c => c.2 != emptyByte)

/-- `n` bytes from an address on. -/
def memRead (m : List Host.Cell) (a : Nat) : Nat → List Byte
  | 0 => []
  | n + 1 => memGet m a :: memRead m (a + 1) n

/-- Bytes written from an address on. -/
def memWrite (m : List Host.Cell) (a : Nat) : List Byte → List Host.Cell
  | [] => m
  | b :: bs => memWrite (memSet m a b) (a + 1) bs

/-- Numbers that are set, as a rising list: granule tags, WRITTEN bits, poisoned words. -/
def setMem (l : List Nat) (a : Nat) : Bool := l.contains a

/-- A number added to a rising list. -/
def setAdd : List Nat → Nat → List Nat
  | [], a => [a]
  | x :: t, a => if a = x then x :: t else if a < x then a :: x :: t else x :: setAdd t a

/-- A number taken out of a list. -/
def setDel (l : List Nat) (a : Nat) : List Nat := l.filter (fun x => x ≠ a)

/-- Bits [lo + w − 1 : lo] of a number. -/
def fld (x lo w : Nat) : Nat := x / 2 ^ lo % 2 ^ w

/-- A number with bits [lo + w − 1 : lo] replaced. -/
def setFld (x lo w v : Nat) : Nat := x - fld x lo w * 2 ^ lo + v % 2 ^ w * 2 ^ lo

/-- A field of `w` bits read as two's complement. -/
def sext (w v : Nat) : Int := if v % 2 ^ w < 2 ^ (w - 1) then (v % 2 ^ w : Nat) else ((v % 2 ^ w : Nat) : Int) - (2 ^ w : Nat)

/-- An integer modulo 2^w. -/
def wrap (w : Nat) (v : Int) : Nat := (v % (2 ^ w : Nat)).toNat

/-- An integer as a 64-bit word, modulo 2^64. -/
def wordOfInt (v : Int) : Word := BitVec.ofInt 64 v

/-- Bytes, little-endian, as a number (R3). -/
def leNat : List Byte → Nat
  | [] => 0
  | b :: bs => b.toNat + 256 * leNat bs

/-- The `n` bytes of a number, little-endian (R3). -/
def leBytes : Nat → Nat → List Byte
  | 0, _ => []
  | n + 1, w => BitVec.ofNat 8 w :: leBytes n (w / 256)

end Sys2Proof.Machine
end

