-- ==== Sys2Proof/Machine/Flags.lean ====
section
/-! DEFINITION. The FLAGS register (R75): its bits, and how they are set and cleared. What sets each bit stands with the
operation that finds it: Formats.lean for rounding and arithmetic, Ops.lean for the commit. -/

namespace Sys2Proof.Machine

def flagEXP : Nat := 1
def flagSAT : Nat := 2
def flagCNT : Nat := 4
def flagINX : Nat := 8
def flagINV : Nat := 16
def flagDZ : Nat := 32
def flagABSNAN : Nat := 64

/-- A flag when a condition holds. -/
def flagIf (b : Bool) (f : Nat) : Nat := if b then f else 0

/-- FLAGS after a commit has set some bits and a W1C write has cleared some: a bit that is both set and cleared in one
clk is set. -/
def flagsAfter (old sets clears : Nat) : Nat := ((old ^^^ (old &&& clears)) ||| sets) % 128

end Sys2Proof.Machine
end

