-- ==== Sys2Proof/Syntax.lean ====
section
/-! DEFINITION. The syntax of Tyanatar 2: register names, operand forms, the fields every instruction word has, and
the one inductive of instruction forms and events, whose constructors are the rows of spec/opcode_table.json. -/

namespace Sys2Proof

/-- g0 to g63 (R51). -/
abbrev GReg := Fin 64
/-- v0 to v31 (R66). -/
abbrev VReg := Fin 32
/-- a0 to a3 (R69). -/
abbrev AReg := Fin 4
/-- q0 to q15 (R65). -/
abbrev QReg := Fin 16
/-- d0 to d7 (R32). -/
abbrev DReg := Fin 8
/-- s0 to s7 (R68). -/
abbrev SReg := Fin 8
/-- A control register's number, 0x000 to 0x03F (R71). -/
abbrev CReg := Fin 64

/-- The number formats of R79, with NONE. -/
inductive Fmt where
  | noFmt | f32 | bf16 | f16 | f8 | f8w | i32 | i16 | i8 | l16 | mask | i64
  deriving DecidableEq, Repr

/-- The guard of R116: always, if qk is 1, if qk is 0, or an element mask. -/
inductive Guard where
  | always
  | ifQ (k : QReg)
  | ifNotQ (k : QReg)
  | elem (v : VReg)
  deriving DecidableEq, Repr

/-- What every word carries besides its operands: the guard (R116) and the hints (R124). `wait` has bit k for slot
dk; `set` is the slot set, none for 0xF; `delay` is 0 to 255; `short` is L and `phase` is E. -/
structure Head where
  guard : Guard
  wait  : BitVec 8
  set   : Option DReg
  delay : Nat
  short : Bool
  phase : Bool
  deriving DecidableEq, Repr

/-- A head with no guard and no hints: SET 0xF and the rest zero. -/
def Head.plain : Head := ⟨.always, 0, none, 0, false, false⟩

/-- The function field of the V, X and T columns (R112). -/
structure VFn where
  fmt    : Fmt
  policy : Bool
  pass   : Bool
  stream : Bool
  sat    : Bool
  deriving DecidableEq, Repr

/-- A memory operand (R118, R120): the capability's register, the mode, and the signed count. -/
structure MemOp where
  g     : GReg
  post  : Bool
  count : Int
  deriving DecidableEq, Repr

/-- A g register or a short immediate (R163). -/
inductive GImm where
  | reg (g : GReg)
  | imm (v : Int)
  deriving DecidableEq, Repr

/-- A g register, a short immediate or the 32 bits of a joined immediate (R122). -/
inductive GImmJ where
  | reg (g : GReg)
  | imm (v : Int)
  | joined (v : Nat)
  deriving DecidableEq, Repr

/-- A g register or the 32 bits of a joined immediate. -/
inductive GJ where
  | reg (g : GReg)
  | joined (v : Nat)
  deriving DecidableEq, Repr

/-- A short immediate or the 32 bits of a joined immediate. -/
inductive ImmJ where
  | imm (v : Int)
  | joined (v : Nat)
  deriving DecidableEq, Repr

/-- A vector operand: a v register, a stream, or memory (R190). -/
inductive VSM where
  | v (r : VReg)
  | s (r : SReg)
  | m (m : MemOp)
  deriving DecidableEq, Repr

/-- A vector operand or a short immediate: the shift count of VSHL, VSHR and VSRA (R195). -/
inductive VSMI where
  | v (r : VReg)
  | s (r : SReg)
  | m (m : MemOp)
  | imm (n : Int)
  deriving DecidableEq, Repr

/-- The access size of the M column (R113). -/
inductive Size where
  | b1 | b2 | b4 | b8
  deriving DecidableEq, Repr

/-- ORD of an atomic (R113): plain, acquire, release, both. -/
inductive Ordering where
  | plain | acquire | release | both
  deriving DecidableEq, Repr

/-- The functions of QOP and VMLOG (R160). -/
inductive QFn where
  | and | or | xor | andn | orn | xnor | nand | nor
  deriving DecidableEq, Repr

/-- The products MULH reads (R166): signed by signed, unsigned by unsigned, signed by unsigned. -/
inductive MulhKind where
  | ss | uu | su
  deriving DecidableEq, Repr

/-- The conditions of CMP (R169). -/
inductive CmpCond where
  | eq | ne | lt | le | gt | ge | ltu | leu | gtu | geu | tst
  deriving DecidableEq, Repr

/-- The fields CGET reads (R174). -/
inductive CapField where
  | base | top | len | perm | seal | tag | metaBits | off
  deriving DecidableEq, Repr

/-- The tests of CTEST (R175). -/
inductive CapTest where
  | tag | sub | inb | isSealed
  deriving DecidableEq, Repr

/-- The conditions of FCMP (R178). -/
inductive FCond where
  | eq | lt | le | un | ne
  deriving DecidableEq, Repr

/-- The sources of FCVT (R179). -/
inductive CvtSrc where
  | f32 | bf16 | f16 | f8 | f8w | i64
  deriving DecidableEq, Repr

/-- The sign rules of FSGN (R178). -/
inductive SgnOp where
  | cpy | neg | xor
  deriving DecidableEq, Repr

/-- The operations of AMM (R186). -/
inductive AmmOp where
  | smin | smax | umin | umax
  deriving DecidableEq, Repr

/-- The operations of ALOG (R186). -/
inductive AlogOp where
  | and | or | xor
  deriving DecidableEq, Repr

/-- The layouts CMUT reads (R244). -/
inductive Layout where
  | f8z | f32 | bf16 | f16 | f8 | f8w
  deriving DecidableEq, Repr

/-- The instruction forms and the events of spec/opcode_table.json, one constructor for each row: those
with operands in the order of the table, then those without. An instruction form carries its operands: its head, which is the same for every form, is read beside it. An event
has no fields: what it acts on stands in the state. -/
inductive Instr where
  /-- `B` (R146): Redirects to PC plus an immediate offset and pops the loop entries whose body does not contain the target. -/
  | b (off : Int)
  /-- `BR` (R147): Redirects through a code capability checked by CodeTarget. -/
  | br (gn : GReg)
  /-- `CALL` (R148): Writes the link entry capability for PC+1 into g1 and redirects to PC plus an offset. -/
  | call (off : Int)
  /-- `CALLR` (R148): Writes the link entry capability into g1 and redirects through a code capability. -/
  | callr (gn : GReg)
  /-- `RET` (R147): Redirects through g1, or through a named g register, without popping loop entries. -/
  | ret (gn : GReg)
  /-- `LOOP` (R149): Pushes a hardware loop entry, or skips the body when the count is zero. -/
  | loop (count : GImm) (endOff : Int)
  /-- `LOOPX` (R149): Pushes a hardware loop entry with an exit predicate. -/
  | loopx (qk : QReg) (count : GImm) (endOff : Int)
  /-- `BENG_Z` (R153): Branches when the sampled dependency slot is zero. -/
  | bengZ (dk : DReg) (off : Int)
  /-- `BENG_NZ` (R153): Branches when the sampled dependency slot is not zero. -/
  | bengNz (dk : DReg) (off : Int)
  /-- `BENG_F` (R153): Branches when the sampled engine fault flag is set. -/
  | bengF (e off : Int)
  /-- `BENG_FC` (R153): Branches on the sampled engine fault flag and clears the flag as seen. -/
  | bengFc (e off : Int)
  /-- `WAIT` (R154): Holds dispatch until the named slot and the slots in the wait mask are zero. -/
  | wait (dk : Option DReg)
  /-- `RGN` (R298): Opens a region: reads its descriptor and records the loop stack, stream indices and receive-queue marks. -/
  | rgn (desc : Int)
  /-- `TBLK` (R344): Opens a timed block at its planned start vc, or raises TIMING when that vc has passed. -/
  | tblk (blk : GImm)
  /-- `EXIT` (R155): Once older work is complete and acknowledged, ends the unit in DONE with a 16-bit status. -/
  | exit (status : GImm)
  /-- `TRAP` (R295): Drains the unit's work, then raises TRAP_SW with RESUME NEXT. -/
  | trap (code : Int)
  /-- `BKPT` (R460): Stops under BKSTOP, or raises BKPT with RESUME NEXT. -/
  | bkpt (code : Int)
  /-- `SLEEP` (R157): Dispatches nothing for n clk, ending early on a pre-emption request or a cancel. -/
  | sleep (n : GImm)
  /-- `QOP` (R160): Sets a q register to a two-input logic function of two q registers. -/
  | qop (f : QFn) (qd qa qb : QReg)
  /-- `QMOV` (R161): Copies one q register to another. -/
  | qmov (qd qa : QReg)
  /-- `QMOV_G` (R161): Sets a q register to 1 when a g register's value is not zero. -/
  | qmovG (qd : QReg) (gn : GReg)
  /-- `QMOV_I` (R161): Sets a q register to the immediate, 0 or 1. -/
  | qmovI (qd : QReg) (v : Int)
  /-- `QRD` (R162): Packs a group of q registers into a g register. -/
  | qrd (gd : GReg) (qk : QReg) (n : Int)
  /-- `FOLLOW` (R363): Asks a leader core, named by number, to register this core as its follower, and writes the status. -/
  | follow (gd : GReg) (leader : GJ)
  /-- `FOLLOW_REL` (R363): Asks a leader named by row and column deltas to register this core as its follower. -/
  | followRel (gd : GReg) (spec : Int)
  /-- `BARARM_REP` (R369): Arms a barrier instance in REPEAT mode, or checks that its settings match. -/
  | bararmRep (id : GReg) (par : Option GReg)
  /-- `BARARM_ONCE` (R369): Arms a barrier instance in ONCE mode, or checks that its settings match. -/
  | bararmOnce (id : GReg) (par : Option GReg)
  /-- `BARARM_FREE` (R369): Frees a barrier instance, breaking every waiter with reason FREED. -/
  | bararmFree (id : GReg)
  /-- `BARARV` (R372): Arrives at a barrier after the release wait and writes the episode token. -/
  | bararv (gd id : GReg)
  /-- `BARWT` (R372): Waits until the episode named by the token is released or broken. -/
  | barwt (id tok : GReg)
  /-- `BARAW` (R372): Arrives at a barrier and waits for that episode's release. -/
  | baraw (id : GReg)
  /-- `SNAP` (R374): Writes a snapshot record, then arrives at a package or global barrier and waits. -/
  | snap (id gb : GReg)
  /-- `BUDG` (R350): Arms the section budget with n clk, clamped to the wall deadline. -/
  | budg (n : GImmJ)
  /-- `ADD` (R166): Adds two 64-bit integers, wrapping. -/
  | add (gd ga : GReg) (b : GImm)
  /-- `SUB` (R166): Subtracts two 64-bit integers, wrapping. -/
  | sub (gd ga : GReg) (b : GImm)
  /-- `MUL` (R166): Writes the low 64 bits of the product. -/
  | mul (gd ga : GReg) (b : GImm)
  /-- `MULH` (R166): Writes the high 64 bits of a signed, unsigned or mixed product. -/
  | mulh (k : MulhKind) (gd ga : GReg) (b : GImm)
  /-- `DIV` (R167): Divides, rounding toward zero, with fixed results for divide by zero and overflow. -/
  | div (u : Bool) (gd ga : GReg) (b : GImm)
  /-- `REM` (R167): Writes the remainder, which takes the sign of the dividend. -/
  | rem (u : Bool) (gd ga : GReg) (b : GImm)
  /-- `AND` (R166): Bitwise AND. -/
  | and (gd ga : GReg) (b : GImm)
  /-- `OR` (R166): Bitwise OR. -/
  | or (gd ga : GReg) (b : GImm)
  /-- `XOR` (R166): Bitwise exclusive OR. -/
  | xor (gd ga : GReg) (b : GImm)
  /-- `ANDN` (R166): Bitwise AND with the complement of the second operand. -/
  | andn (gd ga : GReg) (b : GImm)
  /-- `SHL` (R166): Shifts left by b mod 64. -/
  | shl (gd ga : GReg) (b : GImm)
  /-- `SHR` (R166): Shifts right logically by b mod 64. -/
  | shr (gd ga : GReg) (b : GImm)
  /-- `SRA` (R166): Shifts right arithmetically by b mod 64. -/
  | sra (gd ga : GReg) (b : GImm)
  /-- `ROT` (R166): Rotates right by b mod 64. -/
  | rot (gd ga : GReg) (b : GImm)
  /-- `MIN` (R166): Writes the lesser operand, signed or unsigned. -/
  | min (u : Bool) (gd ga : GReg) (b : GImm)
  /-- `MAX` (R166): Writes the greater operand, signed or unsigned. -/
  | max (u : Bool) (gd ga : GReg) (b : GImm)
  /-- `CLZ` (R166): Counts leading zero bits. -/
  | clz (gd ga : GReg)
  /-- `CTZ` (R166): Counts trailing zero bits. -/
  | ctz (gd ga : GReg)
  /-- `POPC` (R166): Counts the one bits. -/
  | popc (gd ga : GReg)
  /-- `BFX` (R168): Extracts a bit field, zero- or sign-extended. -/
  | bfx (gd ga : GReg) (spec : Nat)
  /-- `BFI` (R168): Inserts a bit field into the destination, keeping its other bits. -/
  | bfi (gd ga : GReg) (spec : Nat)
  /-- `MOVI` (R166): Writes a sign-extended immediate. -/
  | movi (gd : GReg) (v : ImmJ)
  /-- `MOVHI` (R166): Writes an immediate into the high 32 bits and keeps the low 32 bits. -/
  | movhi (gd : GReg) (v : ImmJ)
  /-- `MOV` (R166): Copies all 129 bits of a g register. -/
  | mov (gd ga : GReg)
  /-- `CMP` (R169): Sets a q register by an integer comparison. -/
  | cmp (c : CmpCond) (qd : QReg) (ga : GReg) (b : GImm)
  /-- `SEL` (R170): Selects one of two g registers by a q register. -/
  | sel (k : QReg) (gd ga gb : GReg)
  /-- `CSETB` (R173): Narrows a capability's bounds to [x, x+len), rounding out to granules. -/
  | csetb (gd ga : GReg) (b : GImm)
  /-- `CSETBX` (R173): Narrows a capability's bounds exactly, clearing the tag when rounding would be needed. -/
  | csetbx (gd ga : GReg) (b : GImm)
  /-- `CANDP` (R174): Masks a capability's permissions. -/
  | candp (gd ga : GReg) (b : GImm)
  /-- `CINC` (R174): Moves a capability's address by a delta, keeping the bounds. -/
  | cinc (gd ga : GReg) (b : GImm)
  /-- `CSETA` (R174): Sets a capability's address, keeping the bounds. -/
  | cseta (gd ga : GReg) (b : GImm)
  /-- `CGET` (R174): Reads one field of a capability as data. -/
  | cget (f : CapField) (gd ga : GReg)
  /-- `CSEAL` (R174): Seals a capability with a kind. -/
  | cseal (gd ga : GReg) (t : Int)
  /-- `CUNSEAL` (R174): Unseals a capability sealed with the named kind. -/
  | cunseal (gd ga : GReg) (t : Int)
  /-- `CCLRT` (R174): Copies a register and clears its tag. -/
  | cclrt (gd ga : GReg)
  /-- `CREL` (R174): Sets the row and column deltas of a coordinate-relative capability. -/
  | crel (gd ga : GReg) (spec : Nat)
  /-- `CABS` (R174): Resolves a coordinate-relative capability to an absolute one. -/
  | cabs (gd ga : GReg)
  /-- `CTEST` (R175): Sets a q register by a capability test. -/
  | ctest (t : CapTest) (qd : QReg) (ga : GReg) (gb : Option GReg)
  /-- `FADD` (R177): Adds scalar floats. -/
  | fadd (fmt : Fmt) (rtz : Bool) (gd ga gb : GReg)
  /-- `FSUB` (R177): Subtracts scalar floats. -/
  | fsub (fmt : Fmt) (rtz : Bool) (gd ga gb : GReg)
  /-- `FMUL` (R177): Multiplies scalar floats. -/
  | fmul (fmt : Fmt) (rtz : Bool) (gd ga gb : GReg)
  /-- `FFMA` (R177): Computes a·b plus the old destination, with one rounding. -/
  | ffma (fmt : Fmt) (rtz : Bool) (gd ga gb : GReg)
  /-- `FDIV` (R177): Divides scalar floats. -/
  | fdiv (fmt : Fmt) (rtz : Bool) (gd ga gb : GReg)
  /-- `FSQRT` (R177): Takes the square root of a scalar float. -/
  | fsqrt (fmt : Fmt) (rtz : Bool) (gd ga : GReg)
  /-- `FMIN` (R178): Writes the lesser float, with −0 below +0. -/
  | fmin (fmt : Fmt) (gd ga gb : GReg)
  /-- `FMAX` (R178): Writes the greater float, with −0 below +0. -/
  | fmax (fmt : Fmt) (gd ga gb : GReg)
  /-- `FCMP` (R178): Sets a q register by a float comparison, which is false on absent. -/
  | fcmp (fmt : Fmt) (c : FCond) (qd : QReg) (ga gb : GReg)
  /-- `FCVT` (R179): Converts a scalar between float and integer formats. -/
  | fcvt (fmt : Fmt) (rtz : Bool) (src : CvtSrc) (gd ga : GReg)
  /-- `FSGN` (R178): Combines a's magnitude with a sign derived from b. -/
  | fsgn (fmt : Fmt) (op : SgnOp) (gd ga gb : GReg)
  /-- `FCLASS` (R180): Writes a one-hot class of the value. -/
  | fclass (fmt : Fmt) (gd ga : GReg)
  /-- `MKABS` (R180): Writes the absent code of the format. -/
  | mkabs (fmt : Fmt) (gd : GReg)
  /-- `LD` (R182): Loads 1 to 8 bytes into a g register. -/
  | ld (sz : Size) (sx : Bool) (gd : GReg) (m : MemOp)
  /-- `ST` (R182): Stores 1 to 8 bytes. -/
  | st (sz : Size) (m : MemOp) (a : GImm)
  /-- `LDC` (R182): Loads a 16-byte capability together with its tag. -/
  | ldc (gd : GReg) (m : MemOp)
  /-- `STC` (R182): Stores a 16-byte capability together with its tag. -/
  | stc (m : MemOp) (ga : GReg)
  /-- `LDAQ` (R185): Loads, then performs the acquire action when the data lands. -/
  | ldaq (sz : Size) (sx : Bool) (gd : GReg) (m : MemOp)
  /-- `STRL` (R185): Waits for the release conditions, then stores. -/
  | strl (sz : Size) (m : MemOp) (a : GImm)
  /-- `AADD` (R187): Atomic add at the home word. -/
  | aadd (sz : Size) (ord : Ordering) (gd : GReg) (m : MemOp) (gb : GReg)
  /-- `AMM` (R187): Atomic signed or unsigned minimum or maximum. -/
  | amm (sz : Size) (ord : Ordering) (op : AmmOp) (gd : GReg) (m : MemOp) (gb : GReg)
  /-- `AXCHG` (R187): Atomic exchange. -/
  | axchg (sz : Size) (ord : Ordering) (gd : GReg) (m : MemOp) (gb : GReg)
  /-- `ACAS` (R187): Atomic compare-and-swap. -/
  | acas (sz : Size) (ord : Ordering) (gd : GReg) (m : MemOp) (gb : GReg)
  /-- `ALOG` (R187): Atomic AND, OR or XOR. -/
  | alog (sz : Size) (ord : Ordering) (op : AlogOp) (gd : GReg) (m : MemOp) (gb : GReg)
  /-- `AFADD` (R188): Atomic float add that passes absent. -/
  | afadd (sz : Size) (ord : Ordering) (bf : Bool) (gd : GReg) (m : MemOp) (gb : GReg)
  /-- `VLD` (R196): Loads one vector register or a pair and sets its tag. -/
  | vld (f : VFn) (vd : VReg) (m : MemOp) (pair : Bool)
  /-- `VST` (R196): Stores one vector register or a pair. -/
  | vst (f : VFn) (m : MemOp) (va : VReg) (pair : Bool)
  /-- `VLDS` (R197): Strided vector load. -/
  | vlds (f : VFn) (vd : VReg) (m : MemOp) (b : GImm)
  /-- `VSTS` (R197): Strided vector store. -/
  | vsts (f : VFn) (m : MemOp) (va : VReg) (b : GImm)
  /-- `VLDX` (R197): Indexed vector gather. -/
  | vldx (f : VFn) (vd : VReg) (m : MemOp) (vi : VReg)
  /-- `VSTX` (R197): Indexed vector scatter. -/
  | vstx (f : VFn) (m : MemOp) (va vi : VReg)
  /-- `VBCAST` (R198): Broadcasts a scalar to every element. -/
  | vbcast (f : VFn) (vd : VReg) (a : GImmJ)
  /-- `VMOV` (R198): Copies a vector register with its tag and expiry. -/
  | vmov (f : VFn) (vd va : VReg)
  /-- `VADD` (R199): Element-wise add. -/
  | vadd (f : VFn) (d a b : VSM)
  /-- `VSUB` (R199): Element-wise subtract. -/
  | vsub (f : VFn) (d a b : VSM)
  /-- `VMUL` (R199): Element-wise multiply. -/
  | vmul (f : VFn) (d a b : VSM)
  /-- `VFMA` (R199): Element-wise fused multiply-add. -/
  | vfma (f : VFn) (d a b : VSM)
  /-- `VFMS` (R199): Element-wise fused multiply-subtract. -/
  | vfms (f : VFn) (d a b : VSM)
  /-- `VMIN` (R199): Element-wise minimum. -/
  | vmin (f : VFn) (d a b : VSM)
  /-- `VMAX` (R199): Element-wise maximum. -/
  | vmax (f : VFn) (d a b : VSM)
  /-- `VABS` (R200): Element-wise absolute value. -/
  | vabs (f : VFn) (d a : VSM)
  /-- `VNEG` (R200): Element-wise negation. -/
  | vneg (f : VFn) (d a : VSM)
  /-- `VAND` (R201): Bitwise AND of element patterns. -/
  | vand (f : VFn) (d a b : VSM)
  /-- `VOR` (R201): Bitwise OR of element patterns. -/
  | vor (f : VFn) (d a b : VSM)
  /-- `VXOR` (R201): Bitwise XOR of element patterns. -/
  | vxor (f : VFn) (d a b : VSM)
  /-- `VNOT` (R201): Bitwise NOT of element patterns. -/
  | vnot (f : VFn) (d a : VSM)
  /-- `VSHL` (R201): Element-wise shift left. -/
  | vshl (f : VFn) (d a : VSM) (b : VSMI)
  /-- `VSHR` (R201): Element-wise logical shift right. -/
  | vshr (f : VFn) (d a : VSM) (b : VSMI)
  /-- `VSRA` (R201): Element-wise arithmetic shift right. -/
  | vsra (f : VFn) (d a : VSM) (b : VSMI)
  /-- `VCMP` (R202): Compares elements and writes a mask. -/
  | vcmp (f : VFn) (vd : VReg) (a : VSM) (spec : Nat)
  /-- `VSEL` (R203): Selects elements by a mask. -/
  | vsel (f : VFn) (d a b : VSM)
  /-- `VPRES` (R204): Writes a mask of the present elements. -/
  | vpres (f : VFn) (vd : VReg) (a : VSM)
  /-- `VMKABS` (R204): Makes the elements marked by a mask absent. -/
  | vmkabs (f : VFn) (d a : VSM) (vm : VReg)
  /-- `VCNT` (R204): Counts the present elements. -/
  | vcnt (f : VFn) (gd : GReg) (a : VSM)
  /-- `VCVT` (R205): Converts elements between formats, by part. -/
  | vcvt (f : VFn) (vd va : VReg) (spec : Nat)
  /-- `VQUANT` (R206): Scales and narrows elements with one rounding. -/
  | vquant (f : VFn) (vd va : VReg) (gb : GReg)
  /-- `VZENC` (R207): Encodes half of an F8 register as one F8Z block. -/
  | vzenc (f : VFn) (vd va : VReg) (half : Int)
  /-- `VZDEC` (R207): Decodes one F8Z block into half of an F8 register. -/
  | vzdec (f : VFn) (vd va : VReg) (half : Int)
  /-- `VREDS` (R208): Tree sum with a count of present elements. -/
  | vreds (f : VFn) (gd : GReg) (a : VSM) (gc : Option GReg)
  /-- `VREDX` (R208): Tree maximum with a count. -/
  | vredx (f : VFn) (gd : GReg) (a : VSM) (gc : Option GReg)
  /-- `VREDN` (R208): Tree minimum with a count. -/
  | vredn (f : VFn) (gd : GReg) (a : VSM) (gc : Option GReg)
  /-- `VREDM` (R208): Reduction giving a mean, a zero-filled sum or a count. -/
  | vredm (f : VFn) (gd : GReg) (a : VSM) (mode : Int)
  /-- `VREDQ` (R209): Adds vectors popped from a receive queue into an accumulator row. -/
  | vredq (f : VFn) (ak : AReg) (gn : GReg) (spec : Nat)
  /-- `VPERM` (R211): Permutes elements by an index vector. -/
  | vperm (f : VFn) (vd va vi : VReg)
  /-- `VSLIDE` (R211): Slides elements by an offset. -/
  | vslide (f : VFn) (vd va : VReg) (b : GImm)
  /-- `VCMPR` (R212): Compresses the elements marked by a mask. -/
  | vcmpr (f : VFn) (vd va vm : VReg)
  /-- `VEXPD` (R212): Expands elements into the positions marked by a mask. -/
  | vexpd (f : VFn) (vd va vm : VReg)
  /-- `VMLOG` (R213): Combines two masks by a logic function. -/
  | vmlog (f : VFn) (vd va : VReg) (spec : Nat)
  /-- `VMPOP` (R213): Counts the set bits of a mask. -/
  | vmpop (f : VFn) (gd : GReg) (vm : VReg)
  /-- `VIOTA` (R213): Writes each element's index. -/
  | viota (f : VFn) (vd : VReg)
  /-- `VEXTR` (R214): Extracts one element into a g register. -/
  | vextr (f : VFn) (gd : GReg) (va : VReg) (b : GImm)
  /-- `VINS` (R214): Inserts a g register into one element. -/
  | vins (f : VFn) (vd : VReg) (ga : GReg) (b : GImm)
  /-- `VRETAG` (R198): Copies the bits and sets a new tag. -/
  | vretag (f : VFn) (vd va : VReg)
  /-- `SCFG` (R215): Configures a stream from a descriptor. -/
  | scfg (f : VFn) (sk : SReg) (ga : GReg) (m : MemOp)
  /-- `SSTAT` (R218): Reads a stream's indices and state. -/
  | sstat (f : VFn) (gd : GReg) (sk : SReg)
  /-- `SRST` (R218): Releases a stream. -/
  | srst (f : VFn) (sk : SReg)
  /-- `VBADDQ` (R219): Adds two blocks that carry counts and requantises the sum. -/
  | vbaddq (f : VFn) (vd va vb : VReg)
  /-- `VRNG` (R220): Fills a register with counter-based hash values. -/
  | vrng (f : VFn) (vd : VReg) (ga gb : GReg)
  /-- `VTOLOG` (R224): Converts float elements to L16. -/
  | vtolog (f : VFn) (vd va : VReg) (p : Nat)
  /-- `VFRLOG` (R224): Converts L16 elements to a float format. -/
  | vfrlog (f : VFn) (vd va : VReg) (p : Nat)
  /-- `VLADD` (R225): Adds L16 values in the log domain. -/
  | vladd (f : VFn) (d a b : VSM)
  /-- `VEXP2` (R226): Computes 2 to the power x through the tables. -/
  | vexp2 (f : VFn) (d a : VSM)
  /-- `VLOG2` (R226): Computes log2 x through the tables. -/
  | vlog2 (f : VFn) (d a : VSM)
  /-- `VRSQ` (R226): Computes the reciprocal square root through the tables. -/
  | vrsq (f : VFn) (d a : VSM)
  /-- `VRCP` (R226): Computes the reciprocal through the tables. -/
  | vrcp (f : VFn) (d a : VSM)
  /-- `VACT` (R227): Computes sigmoid, tanh, GELU-tanh or softplus. -/
  | vact (f : VFn) (d a : VSM) (fn : Nat)
  /-- `MCFG` (R231): Configures the slice's depth, B decoding and strides. -/
  | mcfg (f : VFn) (ga gb : GReg)
  /-- `MZERO` (R242): Zeroes an accumulator and sets its tag. -/
  | mzero (f : VFn) (ak : AReg)
  /-- `MLDB` (R232): Loads the B buffer, plain or as F8Z. -/
  | mldb (f : VFn) (m : MemOp)
  /-- `MMA` (R233): Multiplies A by the B buffer into an accumulator, chunk by chunk. -/
  | mma (f : VFn) (ak : AReg) (m : MemOp)
  /-- `GMMA` (R238): Gang-wide multiply with A delivered by the tile-walk engine. -/
  | gmma (f : VFn) (ak : AReg) (m : MemOp)
  /-- `MDRN` (R241): Drains an accumulator row through a drain mode, optionally clearing it. -/
  | mdrn (f : VFn) (vd : VReg) (ak : AReg) (spec : Nat)
  /-- `MRDR` (R242): Reads an accumulator row raw into three vector registers. -/
  | mrdr (f : VFn) (vd : VReg) (ak : AReg) (row : Int)
  /-- `MWRR` (R242): Writes an accumulator row from three vector registers. -/
  | mwrr (f : VFn) (ak : AReg) (va : VReg) (row : Int)
  /-- `MSTAT` (R243): Reads the slice and accumulator status. -/
  | mstat (f : VFn) (gd : GReg)
  /-- `MRST` (R243): Resets the selected accumulators, the configuration and RPR. -/
  | mrst (f : VFn) (mask : Nat)
  /-- `CPY_IN` (R251): Copies from a handle side to a local side. -/
  | cpyIn (grp : Fin 16) (m : MemOp) (gh : GReg) (len : GImm)
  /-- `CPY_OUT` (R251): Copies from a local side to a handle side. -/
  | cpyOut (grp : Fin 16) (m : MemOp) (gh : GReg) (len : GImm)
  /-- `CPY_LL` (R251): Copies from one local side to another. -/
  | cpyLl (grp : Fin 16) (m : MemOp) (gc : GReg) (len : GImm)
  /-- `CPYS_IN` (R252): Copies rows from a handle side to the local side. -/
  | cpysIn (grp : Fin 16) (m : MemOp) (gh gb : GReg)
  /-- `CPYS_OUT` (R252): Copies rows from the local side to a handle side. -/
  | cpysOut (grp : Fin 16) (m : MemOp) (gh gb : GReg)
  /-- `CPYF` (R253): Fills a local range with the absent code of a format. -/
  | cpyf (grp : Fin 16) (fmt : Fmt) (m : MemOp) (len : GImm)
  /-- `CPYF_PAT` (R253): Fills a local range with an 8-byte pattern. -/
  | cpyfPat (grp : Fin 16) (m : MemOp) (ga : GReg) (len : GImm)
  /-- `CPYW` (R254): Completes when every earlier copy operation of the named groups has completed. -/
  | cpyw (mask : GJ)
  /-- `CPYQ` (R255): Reads a copy group's count, FAULT bit and descriptor use. -/
  | cpyq (grp : Fin 16) (gd : GReg)
  /-- `CPYQ_C` (R255): Reads a copy group's status and clears its FAULT bit. -/
  | cpyqC (grp : Fin 16) (gd : GReg)
  /-- `CMUT` (R256): Copies weights from a handle with Perturb applied. -/
  | cmut (grp : Fin 16) (lay : Layout) (m : MemOp) (gh gp : GReg)
  /-- `MCAST` (R257): Multicasts a local range to a rectangle of cores. -/
  | mcast (grp : Fin 16) (gr : GReg) (m : MemOp) (len : GImm)
  /-- `SEND` (R258): Writes bytes to a destination in the load-store domain. -/
  | send (grp : Fin 16) (dst src : MemOp) (len : GImm)
  /-- `SEND_Q` (R259): Pushes vectors to a receive queue of a target core. -/
  | sendQ (grp : Fin 16) (k : Fin 8) (dst src : MemOp) (len : GImm)
  /-- `RECV` (R260): Pops the oldest vector of a receive queue into a register. -/
  | recv (fmt : Fmt) (vd : VReg) (k : Int)
  /-- `SQTAG` (R265): Arms scratchpad lines with the expected sequence tag. -/
  | sqtag (m : MemOp) (len : GImm)
  /-- `SQTAG_CLR` (R265): Disarms scratchpad lines. -/
  | sqtagClr (m : MemOp) (len : GImm)
  /-- `FITSET` (R408): Writes FITNESS and moves the evaluation state. -/
  | fitset (ga : GReg)
  /-- `FITGET_RANK` (R408): Reads a member's rank from the last RANK. -/
  | fitgetRank (gd : GReg) (gc : Option GReg)
  /-- `FITGET_SAMP` (R408): Reads a member's fitness as sampled by the last RANK. -/
  | fitgetSamp (gd : GReg) (gc : Option GReg)
  /-- `FITGET_STATE` (R408): Reads a member's evaluation and copy states. -/
  | fitgetState (gd : GReg) (gc : Option GReg)
  /-- `RANK` (R411): Ranks every member of a population by sampled fitness. -/
  | rank (gd : GReg) (p : GImm)
  /-- `POPSTEP` (R413): Claims the losers and starts truncation selection with mutation. -/
  | popstep (gd : GReg) (p : GImm)
  /-- `PWAIT` (R412): Holds dispatch until every member of the population is scored or ended. -/
  | pwait (gd : GReg) (p : GImm)
  /-- `WSWAP` (R417): Switches to the pending copy. -/
  | wswap (gd : GReg)
  /-- `WSWAP_ANY` (R417): Switches the active copy even when nothing is pending. -/
  | wswapAny (gd : GReg)
  /-- `WBASE` (R418): Computes the address of the active copy. -/
  | wbase (gd ga : GReg)
  /-- `WBASE_INACT` (R418): Computes the address of the inactive copy. -/
  | wbaseInact (gd ga : GReg)
  /-- `MIGR` (R419): Sends this core's active copy to another individual. -/
  | migr (gd gt : GReg)
  /-- `LINRD_ID` (R420): Reads a lineage id. -/
  | linrdId (gd : GReg) (gc : Option GReg)
  /-- `LINRD_PEND` (R420): Reads the pending lineage id. -/
  | linrdPend (gd : GReg)
  /-- `LINRD_GEN` (R420): Reads a population's generation. -/
  | linrdGen (gd : GReg) (p : GImm)
  /-- `LINRD_CNT` (R420): Reads a population's lineage record count. -/
  | linrdCnt (gd : GReg) (p : GImm)
  /-- `PSEED` (R410): Sets a population's seed. -/
  | pseed (gd : GReg) (p : GImm) (gs : GReg)
  /-- `PCFG_IND` (R409): Makes this core's individual a member of a population. -/
  | pcfgInd (gd ga : GReg)
  /-- `PCFG_POP` (R403): Configures or updates a population record from a descriptor. -/
  | pcfgPop (gd : GReg) (m : MemOp)
  /-- `PCFG_RET` (R409): Retires this core's individual. -/
  | pcfgRet (gd : GReg)
  /-- `TSUB` (R398): Appends a task packet to a packet queue. -/
  | tsub (gd : GReg) (m : MemOp) (gq : GReg)
  /-- `TNEXT` (R397): Completes the held chunk and asks the dealer for the next one. -/
  | tnext (gd : GReg)
  /-- `CNTADD` (R396): After the release wait, adds to an event counter or decrements a node slot. -/
  | cntadd (gc : GReg) (b : GImm)
  /-- `CNTWT_LE` (R396): Waits until a counter is at most b. -/
  | cntwtLe (gc : GReg) (b : GImm)
  /-- `CNTWT_GE` (R396): Waits until a counter is at least b. -/
  | cntwtGe (gc : GReg) (b : GImm)
  /-- `CNTWT_LE_A` (R396): Sets a slot that clears when a counter is at most b. -/
  | cntwtLeA (dk : DReg) (gc : GReg) (b : GImm)
  /-- `CNTWT_GE_A` (R396): Sets a slot that clears when a counter is at least b. -/
  | cntwtGeA (dk : DReg) (gc : GReg) (b : GImm)
  /-- `CANCEL` (R399): Cancels the work a counter id names and completes when that work has ended. -/
  | cancel (gc : GReg)
  /-- `QPUSH` (R400): After the release wait, pushes one item to an item queue. -/
  | qpush (qd : QReg) (gq gv : GReg)
  /-- `QPOP` (R400): Waits for an item, pops it and performs the acquire action. -/
  | qpop (gd gq : GReg)
  /-- `QPOP_NB` (R400): Pops an item if one is present, without waiting. -/
  | qpopNb (gd gq : GReg) (qk : QReg)
  /-- `CRR` (R305): Reads a control register. -/
  | crr (gd : GReg) (n : CReg)
  /-- `CRW` (R305): Writes a control register under its field access codes. -/
  | crw (n : CReg) (a : GImmJ)
  /-- `CRSET` (R305): Sets bits of a control register's RW fields. -/
  | crset (n : CReg) (a : GImmJ)
  /-- `CRCLR` (R305): Clears bits of RW fields and clears W1C bits. -/
  | crclr (n : CReg) (a : GImmJ)
  /-- `TLBINV_VA` (R326): Invalidates translations of a range. -/
  | tlbinvVa (ga : GReg) (b : GImm)
  /-- `TLBINV_DROP` (R326): Discards this core's parked stores to a range. -/
  | tlbinvDrop (ga : GReg) (b : GImm)
  /-- `PGHINT_T` (R327): Prefetches up to 8 translations. -/
  | pghintT (ga : GReg) (b : GImm)
  /-- `PGHINT_LOCK` (R327): Prefetches and locks up to 8 translations. -/
  | pghintLock (ga : GReg) (b : GImm)
  /-- `PGHINT_CLRW` (R327): Clears the WRITTEN bits of the lines of a range. -/
  | pghintClrw (ga : GReg) (b : GImm)
  /-- `HNDL_LEN` (R329): Reads a handle entry's length word. -/
  | hndlLen (gd gh : GReg)
  /-- `HNDL_BASE` (R329): Reads a handle entry's base. -/
  | hndlBase (gd gh : GReg)
  /-- `HNDL_SET` (R329): Writes a handle entry. -/
  | hndlSet (gh gb : GReg)
  /-- `HNDL_CLR` (R329): Invalidates a handle entry. -/
  | hndlClr (gh : GReg)
  /-- `TRACE` (R460): Writes a user trace record. -/
  | trace (ga : GReg) (tag : Int)
  /-- `SMPL` (R460): Reads the core's latest Whistle latch. -/
  | smpl (gd : GReg)
  /-- `NOP` (R158): Has no effect beyond its hints: delay, wait mask and slot. -/
  | nop
  /-- `WAIT_ALL` (R154): Holds dispatch until every slot is zero, every queue is empty and every fixed-latency result has landed. -/
  | waitAll
  /-- `TEND` (R345): Closes the timed block and clears STATUS.TIMED and STATUS.STRICT. -/
  | tend
  /-- `REALIGN` (R342): Stops this die's VCC at the planned vc and reports to the master die for realignment. -/
  | realign
  /-- `HALT` (R156): Waits as WAIT.ALL does, then stops the core under its debug module with reason HALT. -/
  | halt
  /-- `TRAP_ESC` (R295): Escalates the trap record that stands in the trap registers. -/
  | trapEsc
  /-- `ERET` (R296): Leaves the handler and resumes by the recorded RESUME kind: region replay, in place, next, or end of unit. -/
  | eret
  /-- `ERET_RGN` (R296): Leaves the handler and forces a region replay unless RESUME is NONE. -/
  | eretRgn
  /-- `FOLLOW_REQUEST` (R363): A FOLLOW request reaches the leader, which registers the follower or refuses with FULL. -/
  | followRequest
  /-- `FOLLOW_REPLY` (R363): The leader's reply reaches the requester, which writes the status and becomes a diverged follower on OK. -/
  | followReply
  /-- `DETACH` (R364): Releases all of this leader's followers, or leaves this follower's set. -/
  | detach
  /-- `FORWARDED_WORD_DISPATCH` (R44): An attached follower dispatches the oldest buffered word 4 clk after the leader. -/
  | forwardedWordDispatch
  /-- `LEADER_END_DETACH` (R365): A leader's unit ends while a follower is not attached, and the follower is detached with reason END. -/
  | leaderEndDetach
  /-- `BARRIER_RELEASE` (R372): After the release latency, waiting members leave the wait and perform the acquire action. -/
  | barrierRelease
  /-- `GLOBAL_BARRIER_ARRIVAL` (R369): An arrival from another package reaches a global barrier instance and is counted. -/
  | globalBarrierArrival
  /-- `BUDG_OFF` (R350): Disarms the section budget. -/
  | budgOff
  /-- `ACQ` (R185): Performs the acquire action alone. -/
  | acq
  /-- `REL` (R185): Performs the release wait alone. -/
  | rel
  /-- `FENCE_ALL` (R185): Drains the write-combining buffer and waits for stores, parked stores and engine operations. -/
  | fenceAll
  /-- `FENCE_ST` (R185): Drains and waits for stores, the write-combining buffer and the replay queue only. -/
  | fenceSt
  /-- `FENCE_ENG` (R185): Waits for engine operations only. -/
  | fenceEng
  /-- `VREDQ_VECTOR` (R209): VREDQ takes one vector from its queue and adds it into the row, updating its progress. -/
  | vredqVector
  /-- `CHUNK_LAND` (R233): One chunk's updates land in the accumulator, or its load-pipe fault writes RPR and traps. -/
  | chunkLand
  /-- `GMMA_JOIN` (R238): When the last member is ready, the wire joins the gang's GMMAs and they issue together or break. -/
  | gmmaJoin
  /-- `RECEIVE_QUEUE_PUSH` (R259): A sent vector enters a receive queue when there is room. -/
  | receiveQueuePush
  /-- `COPY_BEAT_WRITE` (R250): A copy engine writes one whole beat at a destination and sets the line's SEQ. -/
  | copyBeatWrite
  /-- `COPY_COMPLETE` (R250): A copy operation ends, normally or by a response error, freeing its descriptor and decrementing its group and slot. -/
  | copyComplete
  /-- `FITSET_CLR` (R408): Writes FITNESS absent. -/
  | fitsetClr
  /-- `RANK_COMPLETE` (R411): At issue + 8 + N the ranks, lists and states are applied and the status lands. -/
  | rankComplete
  /-- `POPSTEP_PAIR_DONE` (R413): The engine finishes one winner-to-loser pair and its lineage record, or fails it, and the POPSTEP completes after the last pair. -/
  | popstepPairDone
  /-- `PWAIT_COMPLETE` (R412): PWAIT completes in the first clk in which every member is SCORED or ended. -/
  | pwaitComplete
  /-- `MIGR_ARRIVAL` (R419): A migration request reaches the target's draft unit, which accepts or refuses it. -/
  | migrArrival
  /-- `MIGR_COPY_DONE` (R419): A migration copy finishes, the target reaches SWAP_PENDING and replies. -/
  | migrCopyDone
  /-- `MIGR_REPLY` (R419): The target's reply returns the source to copy state none and lands the status. -/
  | migrReply
  /-- `DEAL_REQUEST` (R386): A TNEXT request reaches the dealer, which hands out the next chunk. -/
  | dealRequest
  /-- `TDONE` (R397): Completes the held chunk. -/
  | tdone
  /-- `TLBINV_ALL` (R326): Invalidates every translation of the context. -/
  | tlbinvAll
  /-- `PGHINT_UNLOCK` (R327): Clears every TLB lock of the core. -/
  | pghintUnlock
  /-- `TRACE_SYNC` (R460): Writes a sync trace record. -/
  | traceSync
  /-- `SMPL_REQ` (R460): Requests a Whistle tick. -/
  | smplReq
  /-- `RESULT_LANDS` (R34): A fixed-latency result lands in its register, and its slot decrements. -/
  | resultLands
  /-- `OPERATION_COMPLETE` (R33): An asynchronous operation completes or ends in a fault, decrementing its slot and possibly setting an engine fault flag. -/
  | operationComplete
  /-- `INSTRUCTION_COMMIT` (R48): The umpire passes an instruction, which commits in program order. -/
  | instructionCommit
  /-- `VRF_REFRESH` (R41): When VCC mod 1024 equals 256·b, vector bank b is refreshed and its accesses slip one clk. -/
  | vrfRefresh
  /-- `SHORT_LIVED_EXPIRY` (R42): A short-lived vector value expires 4,096 vc after landing. -/
  | shortLivedExpiry
  /-- `REMOTE_LOAD_AT_HOME` (R271): A remote load request is served at the home word. -/
  | remoteLoadAtHome
  /-- `REMOTE_LOAD_DATA` (R271): Remote load data arrives, lands in the register and fills the cache. -/
  | remoteLoadData
  /-- `REMOTE_STORE_AT_HOME` (R270): A remote store is written at the home, which updates the owner, revokes the previous owner and acknowledges. -/
  | remoteStoreAtHome
  /-- `REVOKE` (R270): A revoke for a word reaches the previous owner and clears its OWN bit. -/
  | revoke
  /-- `STORE_ACKNOWLEDGEMENT` (R270): A store's acknowledgement reaches the writer and sets OWN for a Normal store. -/
  | storeAcknowledgement
  /-- `ATOMIC_AT_HOME` (R189): An atomic is performed at its home word, in arrival order, and its old value returned. -/
  | atomicAtHome
  /-- `REMOTE_CONTROL_WINDOW_ACCESS` (R71): A remote window access is applied at the home core with S rights. -/
  | remoteControlWindowAccess
  /-- `PAGE_WALK_COMPLETE` (R314): A table walk finishes its HBM reads and ends at a leaf or a fault. -/
  | pageWalkComplete
  /-- `INVALIDATION_COMPLETE` (R324): An invalidation completes once entries are gone, older walks have ended and older tensor loads are done. -/
  | invalidationComplete
  /-- `TRAP_DELIVERY` (R291): At a delivery point the highest-priority pending event is taken: rollback, trap, engine fault, cancel, deadline, budget or pre-emption. -/
  | trapDelivery
  /-- `CORE_SAVED` (R307): A pre-empted core, once drained, writes its record and stops; the context is SUSPENDED when all have stopped. -/
  | coreSaved
  /-- `CREATE` (R285): CTX_CMD CREATE moves a free context to BUILDING. -/
  | create
  /-- `COMMIT` (R285): CTX_CMD COMMIT moves a built context to READY. -/
  | commit
  /-- `PREEMPT` (R285): CTX_CMD PREEMPT requests pre-emption on every core. -/
  | preempt
  /-- `PREEMPT_FORCE` (R306): CTX_CMD PREEMPT_FORCE requests a forced pre-emption. -/
  | preemptForce
  /-- `CTX_RESUME` (R310): CTX_CMD RESUME restores a suspended context or resumes the stopped cores of a faulted one. -/
  | ctxResume
  /-- `DUMP` (R465): CTX_CMD DUMP stops the context, holds traffic and writes a live dump of each core. -/
  | dump
  /-- `DUMP_COMPLETE` (R465): The dump records are written, held requests are released and the context returns to its prior state. -/
  | dumpComplete
  /-- `DESTROY` (R312): CTX_CMD DESTROY starts the drain sequence. -/
  | destroy
  /-- `CTX_RESET` (R312): CTX_CMD RESET starts the drain sequence. -/
  | ctxReset
  /-- `FUNCTION_LEVEL_RESET` (R285): A PCIe function-level reset of a virtual function acts as RESET on its context. -/
  | functionLevelReset
  /-- `SCRUB_COMPLETE` (R312): DRAINING completes its scrub and the context becomes FREE. -/
  | scrubComplete
  /-- `DRAIN_TIMEOUT` (R285): A core or link does not finish the drain within 1 ms, and the context becomes DEAD. -/
  | drainTimeout
  /-- `PREEMPT_LIMIT_EXPIRY` (R285): PREEMPT_LIMIT expires during PREEMPTING: unsaved cores stop and the context becomes FAULTED. -/
  | preemptLimitExpiry
  /-- `INV_RANGE` (R313): INV_CMD 1 invalidates translations of [INV_VA, INV_VA+INV_LEN). -/
  | invRange
  /-- `INV_ALL` (R313): INV_CMD 2 invalidates every translation of the context. -/
  | invAll
  /-- `INV_HANDLES` (R313): INV_CMD 3 invalidates the context's cached handle entries. -/
  | invHandles
  /-- `LAUNCH_BIND` (R354): A pending launch binds all cores of its rectangle once they are unbound, and loading begins. -/
  | launchBind
  /-- `LOAD_COMPLETE` (R332): A unit finishes loading and becomes READY, or faults on a response error. -/
  | loadComplete
  /-- `START_RELEASE` (R339): When every unit is READY, the release starts all units at one wall clk with VCC 0. -/
  | startRelease
  /-- `PAUSE_SPREAD` (R341): A pause on one die reaches another die of the timing group L(d,e) clk later and pauses it. -/
  | pauseSpread
  /-- `REALIGN_REPORT` (R342): A die's REALIGN report reaches the master, which sends the release once all have reported. -/
  | realignReport
  /-- `REALIGN_RELEASE` (R342): The release reaches a die, which waits M − L(m,e) clk and resumes its VCC. -/
  | realignRelease
  /-- `BLOCK_START_PASSED` (R344): A die's VCC reaches a block's START with a member not yet at its TBLK: an elastic block pauses, a strict one marks TIMING. -/
  | blockStartPassed
  /-- `DEADLINE_EXPIRY` (R349): CLK reaches BUDGET_WALL and DEADLINE becomes pending. -/
  | deadlineExpiry
  /-- `BUDGET_EXPIRY` (R350): BUDGET_LEFT reaches 0 and BUDGET becomes pending. -/
  | budgetExpiry
  /-- `ROLLBACK` (R375): The members of the last released SNAP instance are restored from their snapshot buffers and resume together. -/
  | rollback
  /-- `QUEUE_DOORBELL` (R377): A write to Q_PROD advances the producer index, or sends the queue to ERROR. -/
  | queueDoorbell
  /-- `QUEUE_ENABLE` (R378): Writing Q_CTL.ENABLE := 1 enables the queue or sends it to ERROR. -/
  | queueEnable
  /-- `QUEUE_DISABLE` (R378): Writing Q_CTL.ENABLE := 0 starts draining the queue. -/
  | queueDisable
  /-- `QUEUE_DRAINED` (R378): Every launch dispatched from a draining queue is complete, and the queue becomes DISABLED. -/
  | queueDrained
  /-- `HOST_CONSUME` (R376): A host write to Q_CONS of a host-drained queue frees items. -/
  | hostConsume
  /-- `PACKET_READ` (R378): The queue engine reads the head packet and checks its header and handles. -/
  | packetRead
  /-- `LAUNCH_PACKET` (R381): A launch packet is dispatched when its launch is accepted and bound, or fails. -/
  | launchPacket
  /-- `GRAPH_NODE_PACKET` (R388): A graph-node packet registers its launch in a node slot. -/
  | graphNodePacket
  /-- `JOB_CARD_PACKET` (R386): A job-card packet starts a launch whose units share dealt argument records. -/
  | jobCardPacket
  /-- `CTRL_NOP` (R381): A control NOP packet is dispatched at once. -/
  | ctrlNop
  /-- `CTRL_WAIT` (R381): A control WAIT packet is dispatched when its counter is at most the value. -/
  | ctrlWait
  /-- `CTRL_CANCEL` (R381): A control CANCEL packet cancels its counter id. -/
  | ctrlCancel
  /-- `CTRL_ADD` (R381): A control ADD packet adds to a counter as CNTADD does. -/
  | ctrlAdd
  /-- `CTRL_FENCE` (R381): A control FENCE packet is dispatched when every earlier packet of the queue has completed. -/
  | ctrlFence
  /-- `LAUNCH_COMPLETE` (R385): A launch's last unit ends: the completion record is written and the successors are decremented or cancelled. -/
  | launchComplete
  /-- `SHOT_CLOCK_EXPIRY` (R390): A launch's shot clock expires: a record is posted, and DEADLINE or a cancel follows per its flags. -/
  | shotClockExpiry
  /-- `SHOT_CLOCK_WRITE` (R390): A supervisor write to SHOT_CLOCK disarms or rearms the launch's shot clock. -/
  | shotClockWrite
  /-- `COUNTER_SELECT` (R383): A host write of a counter id to CNT_SEL selects the counter that CNT_VAL returns. -/
  | counterSelect
  /-- `BUDGET_PERIOD` (R394): A new 8 µs budget period starts and the waiting requests are served first. -/
  | budgetPeriod
  /-- `FITNESS_WRITE` (R404): A write to FITNESS acts as FITSET of the written value. -/
  | fitnessWrite
  /-- `V_ISL_UP` (R423): V_ISL reaches its level and the island boots. -/
  | vIslUp
  /-- `V_ISL_REMOVED` (R423): V_ISL is removed, the island goes OFF and every passenger loses power. -/
  | vIslRemoved
  /-- `GO` (R477): BOOT_CTL.GO starts discovery with COORD. -/
  | go
  /-- `SPLIT_RESET` (R428): ISL_CMD SPLIT_RESET fences, drains and resets one compute die. -/
  | splitReset
  /-- `SPLIT_DRAIN_TIMEOUT` (R428): After 10 µs, responses still owed by a resetting die are answered DIE_DOWN. -/
  | splitDrainTimeout
  /-- `POWER_OFF` (R424): ISL_CMD POWER_OFF unpowers a passenger and orphans its endpoint. -/
  | powerOff
  /-- `POWER_ON` (R424): ISL_CMD POWER_ON powers a passenger and holds it in reset. -/
  | powerOn
  /-- `ISLAND_RESET` (R430): ISL_CMD ISLAND_RESET resets the island, dropping every Birdar port. -/
  | islandReset
  /-- `FREQ` (R438): ISL_CMD FREQ changes a die's clock, ordered against port width changes. -/
  | freq
  /-- `ENDPOINT_RESET_RELEASE` (R424): The island releases a passenger's reset and UCIe training begins. -/
  | endpointResetRelease
  /-- `ENDPOINT_TRAINING_DONE` (R424): UCIe-3D training completes, the endpoint becomes ACTIVE and held beats are delivered. -/
  | endpointTrainingDone
  /-- `ENDPOINT_TRAINING_FAIL` (R424): A 1 ms training attempt fails; the third failure orphans the endpoint with CAUSE TRAIN. -/
  | endpointTrainingFail
  /-- `HEARTBEAT_TIMEOUT` (R424): No heartbeat for 100 µs orphans the endpoint with CAUSE HUNG. -/
  | heartbeatTimeout
  /-- `MESH_LINK_FAIL` (R432): An island mesh link or port fails its checks and the island becomes DEGRADED. -/
  | meshLinkFail
  /-- `FLIT_RECEIVED` (R435): A Birdar flit arrives and is accepted, or a negative acknowledge is sent. -/
  | flitReceived
  /-- `ACKNOWLEDGE_RECEIVED` (R435): An acknowledge frees replay-buffer entries. -/
  | acknowledgeReceived
  /-- `NEGATIVE_ACKNOWLEDGE` (R435): A negative acknowledge makes the sender replay; the 8th replay poisons a VC 2 flit or retrains the port. -/
  | negativeAcknowledge
  /-- `PORT_ENABLE` (R436): PORT_CTL.EN := 1 starts training a Birdar port. -/
  | portEnable
  /-- `PORT_DISABLE` (R436): PORT_CTL.EN := 0 drops the port to DOWN, failing traffic through it. -/
  | portDisable
  /-- `PORT_WIDTH_REQUEST` (R436): A write of PORT_CTL.WIDTH starts a width change. -/
  | portWidthRequest
  /-- `PORT_TRAINING_DONE` (R437): Lanes train and a version is agreed, and the port becomes ACTIVE or DEGRADED. -/
  | portTrainingDone
  /-- `PORT_TRAINING_FAIL` (R436): Training finds no common version or lanes, or a third 10 ms attempt fails, and the port FAILS. -/
  | portTrainingFail
  /-- `LANE_LOSS_OF_LOCK` (R436): A lane loses lock and the port enters RETRAIN. -/
  | laneLossOfLock
  /-- `LANE_ERROR_RATE` (R436): A lane's error rate exceeds 1 in 10^6 codewords and the port changes width. -/
  | laneErrorRate
  /-- `RETRAIN_DONE` (R436): A retrain succeeds within 1 ms and replay resumes. -/
  | retrainDone
  /-- `RETRAIN_FAIL` (R436): A third failed retrain makes the port FAILED: traffic errors, global barriers break and gateway cores take LINK. -/
  | retrainFail
  /-- `WIDTH_CHANGE_DONE` (R436): The new width trains and the port returns to ACTIVE or DEGRADED. -/
  | widthChangeDone
  /-- `LINJ_ARM` (R446): A PF write to LINJ arms a lane injector. -/
  | linjArm
  /-- `COLLECTIVE_ENABLE` (R440): Writing COLL_CTL.EN := 1 starts a collective and its shot clock, or fails it. -/
  | collectiveEnable
  /-- `COLLECTIVE_ABANDON` (R440): Writing COLL_CTL.EN := 0 abandons the collective and clears its status. -/
  | collectiveAbandon
  /-- `CONTRIBUTION_WRITE` (R441): A 256-byte write into the contribution area sends a shard to every participant. -/
  | contributionWrite
  /-- `SHARD_ARRIVAL` (R444): A shard arrives at a participant's block queue, or is discarded. -/
  | shardArrival
  /-- `SHARD_DELIVERY` (R442): The block queue delivers the next shard in order to receive queue 7 of a gateway core. -/
  | shardDelivery
  /-- `PASS_THROUGH_SHARD` (R443): A halted package with PASS set sends an absent shard for each unwritten block. -/
  | passThroughShard
  /-- `HALT_NOTICE` (R443): A halt notice from a halted package reaches a participant. -/
  | haltNotice
  /-- `COLLECTIVE_SHOT_EXPIRY` (R444): A collective's shot clock expires: missing shards enter absent, or COLLECTIVE is raised for a halted source. -/
  | collectiveShotExpiry
  /-- `SCRUB` (R447): The scrubber reads the next word of the core's SRAMs in an idle clk. -/
  | scrub
  /-- `ERRINJ_ARM` (R452): Writing ERRINJ_CTL.ARM := 1 arms a one-shot error on a word. -/
  | errinjArm
  /-- `DBG_HALT` (R454): DBG_CTL.HALT requests a stop at the next delivery point. -/
  | dbgHalt
  /-- `DBG_RESUME` (R454): DBG_CTL.RESUME continues a stopped core at its stop PC. -/
  | dbgResume
  /-- `DBG_STEP` (R455): DBG_CTL.STEP lets a stopped core commit STEPN instructions, then stop. -/
  | dbgStep
  /-- `WHISTLE_TICK` (R463): At each PERIOD multiple, every core latches its PC and run state and the island writes a record. -/
  | whistleTick
  /-- `WHISTLE_REQ` (R463): WHISTLE_CTL.REQ requests a tick. -/
  | whistleReq
  /-- `ATT_CMD` (R480): Writing ATT_CMD makes the island write a signed attestation report. -/
  | attCmd
  /-- `QOWN_WRITE` (R472): A PF write to QOWN assigns a disabled queue to a function. -/
  | qownWrite
  /-- `COWN_WRITE` (R472): A PF write to COWN assigns an unbound core to a function. -/
  | cownWrite
  /-- `HOST_WINDOW_TIMEOUT` (R473): A host-window request without a completion for 50 ms becomes a response error. -/
  | hostWindowTimeout
  /-- `THERMAL_THROTTLE` (R482): Power above the cap or a junction above 105 °C freezes every compute die 1 clk in 8. -/
  | thermalThrottle
  /-- `OVERTEMP_POWER_OFF` (R482): A die at 115 °C is powered off and logged. -/
  | overtempPowerOff
  /-- `REGISTER_WRITE` (R5): A write to a register without a row of its own replaces its RW fields, clears W1C bits and ignores RO and RSV. -/
  | registerWrite
  /-- `COLUMN_ISSUE` (R29): A dispatched instruction issues at the first cycle at or after its planned issue cycle in which it heads its queue, its column accepts an issue and its wait-mask slots are zero. -/
  | columnIssue
  /-- `SLEEP_END` (R157): After n clk of SLEEP the sequencer resumes dispatch at PC + 1. -/
  | sleepEnd
  /-- `FREQ_COMPLETE` (R438): A clock change of a die completes, releasing any port width change that was held behind it. -/
  | freqComplete
  /-- `RESERVED_OPCODE` (R127): The sequencer decodes a word whose opcode is reserved, including region-descriptor bytes or data fetched as a word, and raises ILLEGAL with FIELD 0. -/
  | reservedOpcode
  /-- `FETCH_OUTSIDE_INSTRUCTION_WORDS` (R109): When the sequencer falls through to a next PC of 2,730 or more, the core raises ILLEGAL at that fetch with FIELD 7 and REASON 6. -/
  | fetchOutsideInstructionWords
  deriving DecidableEq, Repr

end Sys2Proof
end

