-- ==== Sys2Proof/Machine/Formats.lean ====
section
/-! DEFINITION. The number formats of spec/04_formats.md: reading an element, exact arithmetic on what was read, and the
one rounding that writes it back, with the flags each raises; the L16 tables and helpers; F8Z blocks. -/

namespace Sys2Proof.Machine

/-! ## Exact numbers -/

/-- An exact fraction n/d; d is positive. -/
structure Frac where
  n : Int
  d : Nat
  deriving DecidableEq, Repr

def Frac.ofInt (n : Int) : Frac := ⟨n, 1⟩
def Frac.add (a b : Frac) : Frac := if a.d = b.d then ⟨a.n + b.n, a.d⟩ else ⟨a.n * b.d + b.n * a.d, a.d * b.d⟩
def Frac.mul (a b : Frac) : Frac := ⟨a.n * b.n, a.d * b.d⟩
def Frac.neg (a : Frac) : Frac := ⟨-a.n, a.d⟩
def Frac.sub (a b : Frac) : Frac := a.add b.neg
/-- a · 2^k for any integer k. -/
def Frac.scale (a : Frac) (k : Int) : Frac :=
  if 0 ≤ k then ⟨a.n * 2 ^ k.toNat, a.d⟩ else ⟨a.n, a.d * 2 ^ (-k).toNat⟩
/-- The greatest integer not above. -/
def Frac.floor (a : Frac) : Int := a.n / (a.d : Int)
/-- Is it an integer? -/
def Frac.isInt (a : Frac) : Bool := a.n % (a.d : Int) = 0
def Frac.lt (a b : Frac) : Bool := a.n * b.d < b.n * a.d
def Frac.le (a b : Frac) : Bool := a.n * b.d ≤ b.n * a.d
/-- To the nearest integer, ties to even (R87). -/
def Frac.roundNE (a : Frac) : Int :=
  let f := a.floor
  let r := 2 * (a.n % (a.d : Int))
  if r < a.d then f else if r = a.d ∧ f % 2 = 0 then f else f + 1
/-- Toward zero. -/
def Frac.roundTZ (a : Frac) : Int := if 0 ≤ a.n then a.floor else -(a.neg.floor)

/-- Floor of the base-2 logarithm of n/d, for positive n and d. -/
def log2Frac (n d : Nat) : Int :=
  let e : Int := (n.log2 : Int) - (d.log2 : Int)
  let ge := if 0 ≤ e then d * 2 ^ e.toNat ≤ n else d ≤ n * 2 ^ (-e).toNat
  if ge then e else e - 1

/-- The integer square root, `k` bits of it still to try. -/
def isqrtAux : Nat → Nat → Nat → Nat
  | 0, _, r => r
  | k + 1, n, r =>
    let c := r + 2 ^ k
    isqrtAux k n (if c * c ≤ n then c else r)

def isqrt (n : Nat) : Nat := isqrtAux (n.log2 / 2 + 1) n 0

/-! ## Elements -/

/-- What an element reads as: absent, a NaN, an infinity, or ± n/d (R79 to R85). -/
inductive Num where
  | absent
  | nan (sig : Bool)
  | inf (neg : Bool)
  | fin (neg : Bool) (n d : Nat)
  deriving DecidableEq, Repr

def Num.zero (neg : Bool) : Num := .fin neg 0 1
def Num.isZero : Num → Bool
  | .fin _ n _ => n == 0
  | _ => false
def Num.isAbsent : Num → Bool
  | .absent => true
  | _ => false
def Num.isNan : Num → Bool
  | .nan _ => true
  | _ => false
/-- A signalling NaN raises INV when it is read (R81). -/
def Num.sigFlag : Num → Nat
  | .nan true => flagINV
  | _ => 0
def Num.sign : Num → Bool
  | .inf s => s
  | .fin s _ _ => s
  | _ => false
/-- The exact value of a finite element. -/
def Num.frac : Num → Frac
  | .fin s n d => ⟨if s then -(n : Int) else n, d⟩
  | _ => ⟨0, 1⟩
/-- An exact fraction as an element; zero takes the sign given. -/
def Num.ofFrac (zneg : Bool) (f : Frac) : Num := if f.n = 0 then .zero zneg else .fin (f.n < 0) f.n.natAbs f.d
def Num.negate : Num → Num
  | .inf s => .inf !s
  | .fin s n d => .fin (!s) n d
  | x => x

/-- A float format: its width, fraction bits, exponent bias, largest finite pattern, its infinity if it has one, its
canonical NaN, its absent code, and whether it has −0 (R79 to R83). -/
structure FloatSpec where
  w      : Nat
  p      : Nat
  bias   : Int
  maxFin : Nat
  inf    : Option Nat
  nan    : Nat
  absent : Nat
  negz   : Bool
  deriving DecidableEq, Repr

def specF32 : FloatSpec := ⟨32, 23, 127, 0x7F7FFFFF, some 0x7F800000, 0x7FC00000, 0xFF800001, true⟩
def specBF16 : FloatSpec := ⟨16, 7, 127, 0x7F7F, some 0x7F80, 0x7FC0, 0xFF81, true⟩
def specF16 : FloatSpec := ⟨16, 10, 15, 0x7BFF, some 0x7C00, 0x7E00, 0xFC01, true⟩
def specF8 : FloatSpec := ⟨8, 3, 7, 0x7E, none, 0x7F, 0x80, false⟩
def specF8W : FloatSpec := ⟨8, 2, 15, 0x7B, some 0x7C, 0x7E, 0x80, false⟩

/-- The float format of a format code. -/
def floatSpec : Fmt → Option FloatSpec
  | .f32 => some specF32
  | .bf16 => some specBF16
  | .f16 => some specF16
  | .f8 => some specF8
  | .f8w => some specF8W
  | _ => none

/-- Bits of one element; NONE has none (R66). -/
def fmtWidth : Fmt → Nat
  | .i64 => 64
  | .f32 | .i32 => 32
  | .bf16 | .f16 | .i16 | .l16 => 16
  | .f8 | .f8w | .i8 => 8
  | .mask => 1
  | .noFmt => 0

/-- Elements of a vector register: 1,024 divided by the width, and 128 for MASK (R66). -/
def fmtCount : Fmt → Nat
  | .i64 => 16
  | .f32 | .i32 => 32
  | .bf16 | .f16 | .i16 | .l16 => 64
  | .f8 | .f8w | .i8 => 128
  | .mask => 128
  | .noFmt => 0

/-- The 4-bit code of a format (R79). -/
def fmtCode : Fmt → Nat
  | .noFmt => 0 | .f32 => 1 | .bf16 => 2 | .f16 => 3 | .f8 => 4 | .f8w => 5
  | .i32 => 6 | .i16 => 7 | .i8 => 8 | .l16 => 9 | .mask => 10 | .i64 => 11

def isFloatFmt (f : Fmt) : Bool := (floatSpec f).isSome

/-- The absent code of a format, 0 for MASK and NONE (R79). -/
def absentCode : Fmt → Nat
  | .f32 => 0xFF800001
  | .bf16 => 0xFF81
  | .f16 => 0xFC01
  | .f8 | .f8w | .i8 => 0x80
  | .i32 => 0x80000000
  | .i16 => 0x8000
  | .l16 => 0xC000
  | .i64 => 0x8000000000000000
  | .mask | .noFmt => 0

/-- Reads a float pattern (R80 to R83). -/
def FloatSpec.read (f : FloatSpec) (x : Nat) : Num :=
  if x = f.absent then .absent
  else
    let s := fld x (f.w - 1) 1 = 1
    let mag := x % 2 ^ (f.w - 1)
    let e := mag / 2 ^ f.p
    let m := mag % 2 ^ f.p
    if mag > f.maxFin then
      if f.inf = some mag then .inf s else .nan (f.inf.isSome && decide (m < 2 ^ (f.p - 1)))
    else
      let q : Int := (if e = 0 then 1 else (e : Int)) - f.bias - f.p
      let t := if e = 0 then m else m + 2 ^ f.p
      if 0 ≤ q then .fin s (t * 2 ^ q.toNat) 1 else .fin s t (2 ^ (-q).toNat)

/-- Rounds an exact number and writes its pattern, with the flags of R88 and R89. `sat` selects the saturating
column, `rtz` rounds toward zero. -/
def FloatSpec.write (f : FloatSpec) (rtz sat : Bool) (x : Num) : Nat × Nat :=
  let top := 2 ^ (f.w - 1)
  let sg (s : Bool) := if s then top else 0
  let clamp (s : Bool) : Nat × Nat := (sg s + f.maxFin, flagSAT)
  match x with
  | .absent => (f.absent, 0)
  | .nan _ => (f.nan, 0)
  | .inf s =>
    match f.inf with
    | some i => (sg s + i, 0)
    | none => if sat then clamp s else (f.nan, flagINX)
  | .fin s n d =>
    if n = 0 then (if f.negz then sg s else 0, 0)
    else
      let qmin : Int := 1 - f.bias - f.p
      let q : Int := max (log2Frac n d - f.p) qmin
      let v : Frac := (⟨n, d⟩ : Frac).scale (-q)
      let t := (if rtz then v.roundTZ else v.roundNE).toNat
      let bits := (q - qmin).toNat * 2 ^ f.p + t
      if bits > f.maxFin then
        if sat || rtz then clamp s
        else match f.inf with
          | some i => (sg s + i, flagINX)
          | none => (f.nan, flagINX)
      else
        let inx := flagIf (!v.isInt) flagINX
        (if bits = 0 && !f.negz then 0 else sg s + bits, inx)

/-- The greatest magnitude of an integer format (R84). -/
def intMax (w : Nat) : Int := 2 ^ (w - 1) - 1

/-- An exact integer clamped into an integer format (R84). -/
def intClamp (w : Nat) (v : Int) : Nat × Nat :=
  if v > intMax w then (wrap w (intMax w), flagSAT)
  else if v < -intMax w then (wrap w (-intMax w), flagSAT)
  else (wrap w v, 0)

/-- Rounds a number into an integer format (R88, R90). -/
def intWrite (w : Nat) (rtz : Bool) (x : Num) : Nat × Nat :=
  match x with
  | .absent => (2 ^ (w - 1), 0)
  | .nan _ => (0, flagINV)
  | .inf s => (wrap w (if s then -intMax w else intMax w), flagSAT)
  | .fin .. =>
    let v := x.frac
    let i := if rtz then v.roundTZ else v.roundNE
    let (b, f) := intClamp w i
    (b, if f = 0 then flagIf (!v.isInt) flagINX else f)

/-- Reads an integer pattern (R84). -/
def intRead (w : Nat) (x : Nat) : Num :=
  if x % 2 ^ w = 2 ^ (w - 1) then .absent
  else let v := sext w x; .fin (v < 0) v.natAbs 1

/-! ## L16 (R85, R96 to R98) -/

def tableD : List Int :=
  [0, 861, 1636, 2329, 2944, 3487, 3960, 4368, 4714, 5001, 5231, 5408, 5533, 5610, 5640, 5626,
   5568, 5470, 5332, 5156, 4944, 4697, 4416, 4103, 3759, 3384, 2981, 2549, 2090, 1605, 1094, 559, 0]
def tableP : List Int :=
  [0, 613, 1194, 1744, 2260, 2744, 3192, 3606, 3984, 4326, 4630, 4895, 5122, 5309, 5456, 5560,
   5622, 5641, 5615, 5543, 5426, 5261, 5047, 4784, 4470, 4105, 3686, 3214, 2686, 2103, 1461, 761, 0]
def tableG : List Int :=
  [32768, 30764, 28849, 27022, 25282, 23628, 22059, 20573, 19168, 17842, 16592, 15416, 14311, 13275, 12305, 11397,
   10549, 9758, 9020, 8334, 7695, 7102, 6552, 6041, 5568, 5130, 4725, 4350, 4004, 3684, 3389, 3117] ++
  [2866, 2635, 2421, 2225, 2044, 1878, 1725, 1584, 1455, 1336, 1226, 1126, 1033, 948, 870, 799,
   733, 673, 617, 566, 519, 477, 437, 401, 368, 337, 310, 284, 260, 239, 219, 201, 184]

/-- LogReal of R223: the exact y of LogEncode, for a finite element that is not zero. -/
def logReal (x : Num) : Frac :=
  match x with
  | .fin _ n d =>
    let e := log2Frac n d
    let m23 : Frac := ((⟨n, d⟩ : Frac).scale (23 - e))
    let m : Int := m23.floor - 2 ^ 23
    let i := (m / 2 ^ 18).toNat
    let t := m % 2 ^ 18
    let dI := tableD.getD i 0
    let dJ := tableD.getD (i + 1) 0
    let num : Int := (m + 128 * dI) * 2 ^ 11 + (dJ - dI) * t
    Frac.add ⟨1024 * e, 1⟩ ⟨num, 2 ^ 24⟩
  | _ => ⟨0, 1⟩

/-- The L16 code of a sign and an exponent k in range. -/
def l16Code (s : Bool) (k : Int) : Nat := (if s then 0x8000 else 0) + wrap 15 k

/-- A log value clamped into L16 (R96, R225); one clamped to the bound sets SAT alone (R88). -/
def l16Clamp (s : Bool) (k : Int) (inx : Bool) : Nat × Nat :=
  if k > 16383 then (l16Code s 16383, flagSAT)
  else if k < -16383 then (0x4000, flagINX)
  else (l16Code s k, flagIf inx flagINX)

/-- LogEncode (R96) with the special values of R90. -/
def l16Write (x : Num) : Nat × Nat :=
  match x with
  | .absent => (0xC000, 0)
  | .nan _ => (0xC000, flagABSNAN)
  | .inf s => (l16Code s 16383, flagSAT)
  | .fin s n _ =>
    if n = 0 then (0x4000, 0)
    else let y := logReal x; l16Clamp s y.roundNE (!y.isInt)

/-- Pow2 of R223. -/
def pow2L (k : Int) : Frac :=
  let n := k / 1024
  let g := k % 1024
  let i := (g / 32).toNat
  let t := g % 32
  let pI := tableP.getD i 0
  let pJ := tableP.getD (i + 1) 0
  let m : Int := (65536 + 64 * g - pI) * 32 - (pJ - pI) * t
  (⟨m, 32 * 65536⟩ : Frac).scale n

/-- PowDecode before its rounding (R97). -/
def l16Read (h : Nat) : Num :=
  if h = 0x4000 then .zero false
  else if h = 0xC000 then .absent
  else
    let v := pow2L (sext 15 h)
    .fin (fld h 15 1 = 1) v.n.natAbs v.d

/-- GaussLog (R98), in units of 2^−15. -/
def gaussLog (u : Nat) : Frac :=
  if u ≥ 16384 then ⟨0, 1⟩
  else
    let k := u / 1024 - 7
    let w := u - 1024 * k
    let j := w / 128
    let t : Int := (w % 128 : Nat)
    let gJ := tableG.getD j 0
    let gK := tableG.getD (j + 1) 0
    ⟨gJ * 128 + (gK - gJ) * t, 128 * 2 ^ k⟩

/-! ## Reading and writing an element of any format -/

/-- Reads an element of a format; MASK and NONE are not read as numbers. -/
def readElem (f : Fmt) (x : Nat) : Num :=
  match floatSpec f with
  | some s => s.read x
  | none => if f = .l16 then l16Read x else intRead (fmtWidth f) x

/-- Rounds a number into a format (R87, R88, R90). -/
def writeElem (f : Fmt) (rtz sat : Bool) (x : Num) : Nat × Nat :=
  match floatSpec f with
  | some s => s.write rtz sat x
  | none => if f = .l16 then l16Write x else intWrite (fmtWidth f) rtz x

/-- Is an element absent? -/
def elemAbsent (f : Fmt) (x : Nat) : Bool := f != .mask && f != .noFmt && x == absentCode f

/-! ## IEEE 754 arithmetic on present elements (R81, R87, R89): the exact result, and INV or DZ -/

def numAdd (a b : Num) : Num × Nat :=
  match a, b with
  | .nan _, _ => (.nan false, a.sigFlag ||| b.sigFlag)
  | _, .nan _ => (.nan false, b.sigFlag)
  | .inf s, .inf t => if s = t then (.inf s, 0) else (.nan false, flagINV)
  | .inf s, _ => (.inf s, 0)
  | _, .inf t => (.inf t, 0)
  | _, _ => (.ofFrac (a.sign && b.sign) (a.frac.add b.frac), 0)

def numSub (a b : Num) : Num × Nat := numAdd a b.negate

def numMul (a b : Num) : Num × Nat :=
  let s := a.sign != b.sign
  match a, b with
  | .nan _, _ => (.nan false, a.sigFlag ||| b.sigFlag)
  | _, .nan _ => (.nan false, b.sigFlag)
  | .inf _, _ => if b.isZero then (.nan false, flagINV) else (.inf s, 0)
  | _, .inf _ => if a.isZero then (.nan false, flagINV) else (.inf s, 0)
  | _, _ => (.ofFrac s (a.frac.mul b.frac), 0)

/-- a·b + c with one rounding still to come. -/
def numFma (a b c : Num) : Num × Nat :=
  let (p, f) := numMul a b
  let (r, g) := numAdd p c
  (r, f ||| g)

def numDiv (a b : Num) : Num × Nat :=
  let s := a.sign != b.sign
  match a, b with
  | .nan _, _ => (.nan false, a.sigFlag ||| b.sigFlag)
  | _, .nan _ => (.nan false, b.sigFlag)
  | .inf _, .inf _ => (.nan false, flagINV)
  | .inf _, _ => (.inf s, 0)
  | _, .inf _ => (.zero s, 0)
  | .fin _ n d, .fin _ m e =>
    if m = 0 then (if n = 0 then (.nan false, flagINV) else (.inf s, flagDZ))
    else if n = 0 then (.zero s, 0)
    else (.fin s (n * e) (d * m), 0)
  | _, _ => (.absent, 0)

/-- A number that rounds as √a does: exact when the root is, else strictly between its neighbours at 2^−116. -/
def numSqrt (a : Num) : Num × Nat :=
  match a with
  | .nan _ => (.nan false, a.sigFlag)
  | .inf false => (.inf false, 0)
  | .inf true => (.nan false, flagINV)
  | .fin s n d =>
    if n = 0 then (a, 0)
    else if s then (.nan false, flagINV)
    else
      let v := n * 4 ^ 115 / d
      let r := isqrt v
      if r * r * d = n * 4 ^ 115 then (.fin false r (2 ^ 115), 0) else (.fin false (2 * r + 1) (2 ^ 116), 0)
  | .absent => (.absent, 0)

/-- a < b for ordered elements; −0 = +0. -/
def numLt (a b : Num) : Bool :=
  match a, b with
  | .inf s, .inf t => s && !t
  | .inf s, .fin .. => s
  | .fin .., .inf t => !t
  | .fin .., .fin .. => a.frac.lt b.frac
  | _, _ => false

/-- a = b for ordered elements; −0 = +0. -/
def numEq (a b : Num) : Bool :=
  match a, b with
  | .inf s, .inf t => s == t
  | .fin .., .fin .. => !a.frac.lt b.frac && !b.frac.lt a.frac
  | _, _ => false

/-- The lesser or greater of two present elements, −0 below +0; a NaN gives the canonical NaN (R178). -/
def numMinMax (mx : Bool) (a b : Num) : Num × Nat :=
  let f := a.sigFlag ||| b.sigFlag
  if a.isNan || b.isNan then (.nan false, f)
  else
    let aless := numLt a b || (numEq a b && a.sign && !b.sign)
    (if aless != mx then a else b, f)

/-- The sum of a list of present numbers, exact; zero of a list of −0 alone is −0 (R106, R108). -/
def numSum (l : List Num) : Num × Nat :=
  let f := l.foldl (fun f x => f ||| x.sigFlag) 0
  if l.any Num.isNan then (.nan false, f)
  else
    let pinf := l.any (fun x => x == .inf false)
    let ninf := l.any (fun x => x == .inf true)
    if pinf && ninf then (.nan false, f ||| flagINV)
    else if pinf then (.inf false, f)
    else if ninf then (.inf true, f)
    else (.ofFrac (l.all Num.sign && !l.isEmpty) (l.foldl (fun a x => a.add x.frac) ⟨0, 1⟩), f)

/-- Rounds to F32 and reads back, as an intermediate rounding (R107, R225, R227). -/
def roundF32 (x : Num) : Num × Nat :=
  let (b, f) := specF32.write false false x
  (specF32.read b, f)

/-! ## F8Z blocks (R91 to R95) -/

/-- Bit p of a token stream (R92). -/
def streamBit (bs : List Byte) (p : Nat) : Nat := fld ((bs.getD (p / 8) 0).toNat) (p % 8) 1

/-- The codes of a table: bits, with the delta, or none for the escape (R92). -/
def f8zCodes : Nat → List (List Nat × Option Int)
  | 0 => [([0], some 0), ([1, 0, 0], some 1), ([1, 0, 1], some (-1)), ([1, 1, 0, 0], some 2), ([1, 1, 0, 1], some (-2)),
          ([1, 1, 1], none)]
  | 1 => [([0, 0], some 0), ([0, 1, 0], some 1), ([0, 1, 1], some (-1)), ([1, 0, 0], some 2), ([1, 0, 1], some (-2)),
          ([1, 1, 0, 0], some 3), ([1, 1, 0, 1], some (-3)), ([1, 1, 1], none)]
  | _ => [([0, 0, 0], some 0), ([0, 0, 1], some 1), ([0, 1, 0], some (-1)), ([0, 1, 1], some 2), ([1, 0, 0], some (-2)),
          ([1, 0, 1, 0], some 3), ([1, 0, 1, 1], some (-3)), ([1, 1, 0, 0], some 4), ([1, 1, 0, 1], some (-4)),
          ([1, 1, 1], none)]

/-- Four bits, the first the most significant. -/
def nibbleBits (x : Nat) : List Nat := [fld x 3 1, fld x 2 1, fld x 1 1, fld x 0 1]

/-- `n` exponents from bit p on, with the position after them; none where the tokens break a rule of R94. -/
def f8zTokens (bs : List Byte) (tab : Nat) (e0 : Int) (len : Nat) : Nat → Nat → List Nat → Option (List Nat × Nat)
  | 0, p, acc => some (acc.reverse, p)
  | n + 1, p, acc =>
    let nib (q : Nat) := 8 * streamBit bs q + 4 * streamBit bs (q + 1) + 2 * streamBit bs (q + 2) + streamBit bs (q + 3)
    if tab = 3 then
      if p + 4 ≤ len then f8zTokens bs tab e0 len n (p + 4) (nib p :: acc) else none
    else
      let hit := (f8zCodes tab).find? (fun c => (List.range c.1.length).all (fun i => streamBit bs (p + i) == c.1.getD i 0))
      match hit with
      | none => none
      | some (c, some dl) =>
        let e := e0 + dl
        if p + c.length ≤ len ∧ 0 ≤ e ∧ e ≤ 15 then f8zTokens bs tab e0 len n (p + c.length) (e.toNat :: acc) else none
      | some (c, none) =>
        if p + c.length + 4 ≤ len then f8zTokens bs tab e0 len n (p + c.length + 4) (nib (p + c.length) :: acc) else none

/-- Decodes a block from its bytes (a byte past the end reads as zero); INV when malformed (R94). -/
def f8zDecode (bs : List Byte) : List Nat × Nat :=
  let hdr := leNat (bs.take 4)
  let tab := fld hdr 30 2
  let e0 := fld hdr 26 4
  let len := fld hdr 16 10
  let bad : List Nat × Nat := (List.replicate 64 0x80, flagINV)
  if hdr % 65536 ≠ 0 ∨ (tab = 3 ∧ len ≠ 256) ∨ len > 448 then bad
  else
    match f8zTokens (bs.drop 36) tab (e0 : Nat) len 64 0 [] with
    | some (es, p) =>
      if p = len then
        ((List.range 64).map (fun i =>
          let nb := fld ((bs.getD (4 + i / 2) 0).toNat) (4 * (i % 2)) 4
          (nb / 8) * 128 + es.getD i 0 * 8 + nb % 8), 0)
      else bad
    | none => bad

/-- The token of an exponent in a table (R92). -/
def f8zToken (tab : Nat) (e0 e : Nat) : List Nat :=
  if tab = 3 then nibbleBits e
  else
    match (f8zCodes tab).find? (fun c => c.2 == some ((e : Int) - (e0 : Int))) with
    | some (c, _) => c
    | none => [1, 1, 1] ++ nibbleBits e

/-- Bits packed into bytes, the first bit the least significant (R92). -/
def packBits : Nat → List Nat → List Byte
  | 0, _ => []
  | n + 1, l => BitVec.ofNat 8 ((List.range 8).foldl (fun a i => a + l.getD i 0 * 2 ^ i) 0) :: packBits n (l.drop 8)

/-- Encodes 64 F8 elements (R93): header, plane, stream, and padding to a multiple of 8 bytes. -/
def f8zEncode (el : List Nat) : List Byte :=
  let ex := el.map (fun x => fld x 3 4)
  let cnt (e : Nat) := (ex.filter (· == e)).length
  let e0 := (List.range 16).foldl (fun b e => if cnt e > cnt b then e else b) 0
  let strm (t : Nat) := ex.flatMap (f8zToken t e0)
  let t := (List.range 4).foldl (fun b t => if (strm t).length < (strm b).length then t else b) 0
  let bits := strm t
  let hdr := t * 2 ^ 30 + (if t = 3 then 0 else e0) * 2 ^ 26 + bits.length * 2 ^ 16
  let nb (x : Nat) := fld x 7 1 * 8 + fld x 0 3
  let plane := (List.range 32).map (fun i => BitVec.ofNat 8 (nb (el.getD (2 * i) 0) + 16 * nb (el.getD (2 * i + 1) 0)))
  let body := leBytes 4 hdr ++ plane ++ packBits ((bits.length + 7) / 8) bits
  body ++ List.replicate ((8 - body.length % 8) % 8) 0

end Sys2Proof.Machine
end

