-- ==== Sys2Proof/Config.lean ====
section
/-! DEFINITION. What one package fixes and what the spec leaves open. A constant without a body is a free value: no
proof can see what it is, so what is proved holds whatever it is. -/

namespace Sys2Proof.Config

/-- The latency, in clk, of something whose time the spec does not give: a message, a walk, a copy beat, a draft-unit
pair, a training. It is drawn with the state's counter of free values (log entry 6); while a launch has the package to itself,
with the number of draws since its start and what R351 holds equal. -/
opaque freeLatency : Option Nat → Nat → Nat

/-- What the latencies of a launch that has the package to itself depend on (R351): the bytes of its descriptor and of memory
at its start. -/
opaque loneSeed : List Byte → List Host.Cell → Nat

/-- PART (R356): true for SK3840-P, whose dies have 30 logical rows; fused. -/
opaque smallPart : Bool

/-- The fused latency L(d, e) of R341 for d below e, before its bounds. -/
opaque fusedLatency : Nat → Nat → Nat

/-- FWVER, from firmware (R422). -/
opaque firmwareVersion : BitVec 16

/-- The id that the driver fills for a handle symbol of an image, by the image's handle word and the symbol's index (R141). -/
opaque handleId : Nat → Nat → BitVec 16

/-- The major version of the image interface that the loader implements (R143). -/
opaque imageMajor : BitVec 16

/-- The fused device id, SVN, the firmware digest and the device key's public half (R480), by byte. -/
opaque attestByte : Nat → Byte

/-- The signature of R480 over the bytes before it, drawn with the counter of free values, by byte. -/
opaque attestSignature : Nat → Nat → Byte

/-- The syndrome of an error record (R450). -/
opaque syndrome : Nat → BitVec 16

/-- What boot finds (R475, R476, R478): 0 when all is well, else the BOOTERR of the step that fails: 1 the firmware, 2 the
passengers, 3 discovery. -/
opaque bootFinds : Nat → Nat

/-- Has a pair of router ports no working route once these mesh links have failed (R432)? The grid is fused. -/
opaque noRoute : List Nat → Nat → Nat → Bool

/-- What a corrupted flit reads as (R446). -/
opaque corruptFlit : Nat → List Byte

/-- A latency of at least one clk. -/
def latency (seed : Option Nat) (n : Nat) : Nat := freeLatency seed n + 1

/-- Logical rows of a compute die (R356). -/
def nrows : Nat := if smallPart then 30 else 32

/-- A table of latencies between dies that is 0 on the diagonal, symmetric, and from 4 to 24 elsewhere. -/
def rawLatency (d e : Nat) : Nat :=
  if d = e then 0 else 4 + fusedLatency (min d e) (max d e) % 21

/-- Is that table one of a shipped part (R341)? -/
def latencyShipped : Bool :=
  (List.range 10).all (fun d => (List.range 10).all (fun e => (List.range 10).all (fun f =>
    decide (rawLatency d f ≤ rawLatency d e + rawLatency e f))))

/-- L(d, e) of R341: every table that the rule admits is one of these. -/
def dieLatency (d e : Nat) : Nat := if d = e then 0 else if latencyShipped then rawLatency d e else 4

end Sys2Proof.Config
end

