-- ==== Sys2Proof/Machine/CoreState.lean ====
section
/-! DEFINITION. The state of one core: its registers, its results in flight, its engines' records, its unit, and its
debug module. Every table that is indexed by a number is a rising list of pairs (Machine/Map.lean), and a number that
is not listed holds the reset value. -/

namespace Sys2Proof.Machine

/-- A general register: value, metadata, tag (R51). -/
structure GVal where
  val : Word
  md  : Word
  tag : Bool
  deriving DecidableEq, Repr

/-- Data with tag 0 and zero metadata (R52). -/
def GVal.data (v : Word) : GVal := ⟨v, 0, false⟩

/-- A vector register: 1,024 bits, the format tag, and the vc it expires at when it is short-lived (R66, R42). -/
structure VVal where
  bits   : VBits
  fmt    : Fmt
  expiry : Option Nat
  deriving DecidableEq, Repr

/-- A configured stream (R68). -/
structure Stream where
  cap : GVal
  wr  : Bool
  fmt : Fmt
  n0 : Nat
  n1 : Nat
  n2 : Nat
  s0 : Int
  s1 : Int
  s2 : Int
  i0 : Nat
  i1 : Nat
  i2 : Nat
  deriving DecidableEq, Repr

/-- An accumulator: its type tag (NONE, F32 or I32) and its elements, row i and column j at key 64·i + j, each a
32-bit value and a count; an element that is not listed is zero with count 0 (R69). -/
structure Acc where
  tag   : Fmt
  cells : List (Nat × (BitVec 32 × Nat))
  deriving DecidableEq, Repr

/-- One entry of the loop stack (R149). -/
structure LoopEntry where
  start : Nat
  stop  : Nat
  cnt   : Nat
  xq    : Option QReg
  deriving DecidableEq, Repr

/-- What a precise trap or an imprecise event carries (R287, R290): cause, address, information, the RESUME kind of
R288, whether it is imprecise. -/
structure Trap where
  cause     : Nat
  addr      : Nat
  info      : Nat
  resume    : Nat
  imprecise : Bool
  deriving DecidableEq, Repr

/-- When a v register written by a result expires: never, 4,096 vc after it lands, or with the source of VMOV
(R42, R198). -/
inductive Expiry where
  | never | fresh | at (vc : Nat)
  deriving DecidableEq, Repr

/-- The evaluation states of R405. -/
inductive EvalSt where
  | empty | loaded | evaluating | scored | ranked | winner | loser | retired
  deriving DecidableEq, Repr

/-- A line of the write-combining buffer (R278): the number of its 128 bytes, its first virtual address, the bytes held, the
granules of it that stand as one STC with tag 1 left them (R268), and whether it is on its way. -/
structure WcLine where
  phys  : Nat
  va    : Nat
  bytes : List (Nat × Byte)
  tags  : List Nat
  sent  : Bool
  deriving DecidableEq, Repr

/-- A write that lands. -/
inductive Wr where
  /-- A general register. -/
  | g (r : GReg) (v : GVal)
  /-- A q register. -/
  | q (r : QReg) (b : Bool)
  /-- A vector register: the bits marked in `keep` stay as a read of the register in the landing clk gives them (R102, R42);
  those marked in `part` stay so when its tag is `fmt`, and are absent otherwise (R205, R207, R241). -/
  | v (r : VReg) (fmt : Fmt) (bits keep part : VBits) (e : Expiry)
  /-- A vector register put back exactly. -/
  | vPut (r : VReg) (x : VVal)
  /-- A vector register released by SRST or taken by SCFG: tag NONE. -/
  | stream (k : SReg) (s : Option Stream)
  /-- An accumulator's tag and some elements. -/
  | acc (k : AReg) (tag : Fmt) (cells : List (Nat × (BitVec 32 × Nat)))
  /-- A whole accumulator. -/
  | accPut (k : AReg) (a : Acc)
  /-- One row of an accumulator set to +0 with count 0 (R241). -/
  | accClearRow (k : AReg) (row : Nat)
  /-- Bytes stored in this core's local memory from a mesh key on, with the granule tag when STC wrote it (R60). -/
  | mem (key : Nat) (bytes : List Byte) (tag : Option Bool)
  /-- Bytes stored so by the M column (R183); `waits` while the store still gives way to V in its bank (R40). -/
  | st (key : Nat) (bytes : List Byte) (tag : Option Bool) (waits : Bool)
  /-- Bytes of a memory destination or stream push of the X column; `waits` while it still gives way to V in its bank (R222). -/
  | xput (key : Nat) (bytes : List Byte) (waits : Bool)
  /-- A line of the write-combining buffer (R278). -/
  | wc (i : Nat) (line : Option WcLine)
  /-- A word of the remote-read cache, by number, where it is valid (R269). -/
  | cached (w : Nat) (v : Word)
  /-- Memory put back exactly: bytes, the tags set among the granules touched, the WRITTEN lines among those touched. -/
  | memPut (key : Nat) (bytes : List Byte) (tags written : List Nat)
  /-- EXPECT and ARM of scratchpad lines, by mesh key (R265, R266). -/
  | lines (l : List (Nat × (Nat × Bool)))
  /-- A control register. -/
  | cr (n : Nat) (v : Word)
  /-- The slice's configuration (R231). -/
  | slice (kcfg : Nat) (bz : Bool) (astr bstr : Int)
  /-- The slice's B buffer (R232): tag, depth, rows. -/
  | bbuf (fmt : Fmt) (kb : Nat) (rows : List (Nat × Nat))
  /-- FLAGS bits of an operation that completes after it committed (R75). -/
  | flags (f : Nat)
  /-- A local store's acknowledgement, in the vc after it is written (R273, R372). -/
  | ack (id : Nat)
  /-- FLAGS bits cleared by a W1C write (R75). -/
  | flagsClr (m : Nat)
  /-- Settings of an engine fault flag, by their clk, taken away by BENG.FC, or put back (R153). -/
  | engDel (e : Nat) (clks : List Nat)
  | engAdd (e : Nat) (clks : List Nat)
  /-- FITNESS written as FITSET writes it; its commit moves the evaluation state (R405, R408). -/
  | fit (v : Word)
  /-- Vectors popped from a receive queue (R260, R261). -/
  | pop (k : Nat) (n : Int)
  /-- The vector at a place of a receive queue taken out, and its mark moved with it (R261). -/
  | qDel (k pos : Nat)
  /-- A vector put back. -/
  | qIns (k pos : Nat) (x : VBits)
  /-- A copy group's FAULT bit (R255). -/
  | copyFault (grp : Nat) (at_ : Option Nat)
  /-- The acquire action when a load's data lands (R272). -/
  | acquire
  /-- Nothing. -/
  | none
  deriving DecidableEq, Repr

/-- A result in flight: the vc it lands at, the serial of its instruction, the write, the slot that decrements with
it, and whether it is its instruction's last (R33, R34). -/
structure Landing where
  due    : Nat
  serial : Nat
  wr     : Wr
  slot   : Option DReg
  last   : Bool
  deriving DecidableEq, Repr

/-- The region record (R298), with the descriptor and PC its commit puts into REGION_PC and the flag byte of the
descriptor (R299). The marks of the receive queues (R261) stand with the queues. -/
structure RegionRec where
  desc    : Nat
  pc      : Nat
  flags   : Nat
  loops   : List LoopEntry
  indices : List (Nat × (Nat × Nat × Nat))
  deriving DecidableEq, Repr

/-- A dispatched instruction that has not committed (R48): what it is, whether its results have landed, the FLAGS it will set and those
it will clear (R75), the precise trap it raised, its hint E, the trace record its commit writes (R461),
the region record that an RGN's commit puts in force (R298), and the loop stack and the timed block that stood when it
was dispatched, which come back when it is discarded. -/
structure Rob where
  serial : Nat
  pc     : Nat
  instr  : Instr
  done   : Bool
  flags  : Nat
  clear  : Nat
  trap   : Option Trap
  phase  : Bool
  trace  : Option (List Byte)
  region : Option RegionRec
  loops  : List LoopEntry
  block  : Option (Nat × Bool)
  deriving DecidableEq, Repr

/-- One landed write of an uncommitted instruction, with what stood there before (R48, log entry 10). -/
structure LogEntry where
  serial : Nat
  wr     : Wr
  old    : Wr
  deriving DecidableEq, Repr

/-- An instruction in a column queue: its planned issue vc (R29), the SEQ_EXPECT value stamped on it (R264), and the
timed block it was dispatched in with whether that block is strict (R345). -/
structure QEntry where
  serial  : Nat
  pc      : Nat
  head    : Head
  instr   : Instr
  planned : Nat
  stamp   : Nat
  block   : Option (Nat × Bool)
  deriving DecidableEq, Repr

/-- A stream-run instruction between two steps (R217): its serial, the steps made and their number, the slot that its last
result frees, and the running result and count of a reduction (R208). -/
structure StreamRun where
  serial : Nat
  step   : Nat
  total  : Nat
  slot   : Option DReg
  val    : Int
  cnt    : Nat
  deriving DecidableEq, Repr

/-- What an S instruction that holds the sequencer is waiting for: the run states of R463. -/
inductive HoldKind where
  /-- Its delay, its wait mask or the q scoreboard (R28, R29, R37). -/
  | ready
  /-- It has executed and waits: WAITING when `unit` is true (R334). -/
  | waiting (unit : Bool)
  deriving DecidableEq, Repr

/-- The instruction that stands in the sequencer (R28). `phase` counts the stages of an instruction that executes in
several: 0 before its first, and what each later one means is said where it is set. `mark` is a clk or a number the
stage needs, `retry` the clk it is tried again in, and `limit` the vc past which it is late in a timed block, if any. -/
structure Held where
  entry : QEntry
  kind  : HoldKind
  stage : Nat
  mark  : Nat
  retry : Nat
  limit : Option Nat
  deriving DecidableEq, Repr

/-- The owner of a range-lock entry: a copy group, or the MLDB, MMA or GMMA of a serial (R280). -/
inductive LockOwner where
  | group (g : Nat)
  | tensor (serial : Nat)
  deriving DecidableEq, Repr

/-- A range-lock entry: its hulls as half-open ranges of local offsets (R280). -/
structure Lock where
  owner : LockOwner
  rd    : Option (Nat × Nat)
  wr    : Option (Nat × Nat)
  deriving DecidableEq, Repr

/-- How a parked store stands (R319, R320): transient, resolved to a mesh address and memory type, failed with a reason
of R318, or failed and reported. -/
inductive ParkState where
  | transient
  | resolved (phys mt : Nat)
  | failed (reason level : Nat)
  | reported
  deriving DecidableEq, Repr

/-- An entry of the replay queue (R282): its number, address, data and memory type, the permissions of the capability and the
privilege it was issued with, and whether its data is a core-bound capability. -/
structure Parked where
  serial : Nat
  slot   : Nat
  va     : Nat
  bytes  : List Byte
  tag    : Option Bool
  mt     : Nat
  perms  : Nat
  priv   : Bool
  bound  : Bool
  st     : ParkState
  deriving DecidableEq, Repr

/-- A line of the remote-read cache (R43): its aligned mesh address, its valid words with their OWN bits, its use. -/
structure CacheLine where
  phys  : Nat
  words : List (Nat × (Word × Bool))
  use   : Nat
  deriving DecidableEq, Repr

/-- A TLB entry (R321): the virtual page, its size in bytes, the leaf, the lock, its use. -/
structure TlbEntry where
  va   : Nat
  size : Nat
  leaf : Word
  lock : Bool
  use  : Nat
  deriving DecidableEq, Repr

/-- A receive queue (R259, R261): the vectors from the mark on, and how many of them are popped; `mark` is the entry
the mark stands at. -/
structure RecvQ where
  vecs   : List VBits
  popped : Nat
  mark   : Nat
  deriving DecidableEq, Repr

/-- The tensor slice (R229). -/
structure Slice where
  kcfg : Nat
  bz   : Bool
  astr : Int
  bstr : Int
  bfmt : Fmt
  kb   : Nat
  rows : List (Nat × Nat)
  deriving DecidableEq, Repr

/-- A running MMA, GMMA or MLDB (R232, R233, R238): the vc it issued in, the chunks or 128-byte beats from `first` to
`count`, the next to be read and the next to land, the clk its load pipe has waited, the addresses of the rows in memory,
the rows of B (of an MLDB, those read so far; of an F8Z tensor, its bytes so far as one entry), the chunks read with the vc
each lands in, the g register of its capability, what ended its reading, and the mesh address in another package whose
bytes it waits for. -/
structure TensorOp where
  serial : Nat
  pc     : Nat
  gang   : Bool
  load   : Bool
  fmt    : Fmt
  acc    : AReg
  start  : Nat
  first  : Nat
  count  : Nat
  next   : Nat
  lands  : Nat
  delay  : Nat
  vas    : List Nat
  kb     : Nat
  bz     : Bool
  rows   : List (Nat × Nat)
  data   : List (Nat × (Nat × List Byte))
  flags  : Nat
  slot   : Option DReg
  reg    : GReg
  cap    : GVal
  block  : Option (Nat × Bool)
  fault  : Option Trap
  asked  : Option Nat
  deriving DecidableEq, Repr

/-- A GMMA that is ready and waits for its gang (R238): its serial, and the clk it became ready in. -/
structure GmmaWait where
  serial : Nat
  ready  : Nat
  deriving DecidableEq, Repr

/-- A running VREDQ (R209): its queue, row, format, total, the vectors taken so far, those whose additions have not landed
with the vc they land at, and one more than the vc the last was taken in. -/
structure VredqOp where
  serial : Nat
  pc     : Nat
  acc    : AReg
  g      : GReg
  q      : Nat
  row    : Nat
  fmt    : Fmt
  total  : Nat
  prog   : Nat
  slot   : Option DReg
  taken  : List (Nat × VBits)
  lastVc : Nat
  deriving DecidableEq, Repr

/-- A part of one side of a copy operation: a physical mesh address, the virtual address it was reached at when that was
through a capability, its length, whether its page is absent-fill, and the memory type (R279). -/
structure CPiece where
  phys : Nat
  va   : Option Nat
  len  : Nat
  af   : Bool
  mt   : Nat
  deriving DecidableEq, Repr

/-- A beat still to be written (R250): its place in the operation's bytes, its length, where it goes, and what it reads. -/
structure Beat where
  off  : Nat
  len  : Nat
  dst  : Nat
  dva  : Option Nat
  mt   : Nat
  srcs : List CPiece
  deriving DecidableEq, Repr

/-- The parameters of a copy with mutation (R256, R414): elements, first index, seed, child, σ, threshold, layout. -/
structure Mutation where
  n      : Nat
  e0     : Nat
  seed   : Nat
  child  : Nat
  sigma  : Nat
  thresh : Nat
  lay    : Layout
  deriving DecidableEq, Repr

/-- What a copy operation does (R251 to R259). -/
inductive CopyKind where
  /-- CPY, CPYS, SEND with Q = 0, MCAST: bytes from source to destination. -/
  | move
  /-- CPYF: a pattern repeated over the range. -/
  | fill (pattern : List Byte)
  /-- CMUT (R256). -/
  | cmut (m : Mutation)
  /-- SEND with Q = 1 to queue k of a core (R259). -/
  | sendq (target k : Nat)
  deriving DecidableEq, Repr

/-- A copy operation in its descriptor (R245): class of R393, group, slot, the serial of its instruction, the SENDTAG
stamped on it; its beats, one list for each target written independently; the ranges it reads and writes, and the
operations it waits for (R249); the sides of a copy whose beats are found when it starts; whether it reads everything
before it writes, and what it has read; whether it waits for an answer; the
clk of its next beat, and the clk it began in; the watch register it waits for (R458); its flags; the clk in which the last of its
beats is acknowledged (R270, R279); the mesh address in another package whose acknowledgement it waits for; and its
response error, with PHYS. -/
structure CopyOp where
  kind    : CopyKind
  cls     : Nat
  group   : Nat
  slot    : Option DReg
  serial  : Nat
  tag     : Nat
  streams : List (List Beat)
  reads   : List (Nat × Nat)
  writes  : List (Nat × Nat)
  after   : List Nat
  srcs    : List CPiece
  dsts    : List CPiece
  whole   : Bool
  held    : Option (List Byte)
  asked   : Bool
  due     : Nat
  since   : Nat
  stall   : Option Nat
  flags   : Nat
  acked   : Nat
  away    : Option Nat
  err     : Option (Nat × Bool)
  deriving DecidableEq, Repr

/-- A copy group (R245): its count, and the clk its FAULT bit was set in. -/
structure CopyGroup where
  count : Nat
  fault : Option Nat
  deriving DecidableEq, Repr

/-- What an asynchronous operation does when it completes, besides its slot. -/
inductive AsyncKind where
  /-- Nothing. -/
  | plain
  /-- A general register. -/
  | writeG (r : GReg) (v : GVal)
  /-- A q register. -/
  | writeQ (r : QReg) (b : Bool)
  /-- QPOP.NB: both. -/
  | writeGQ (r : GReg) (v : GVal) (qr : QReg) (b : Bool)
  /-- A local atomic: the old value, and the acquire action after it (R187). -/
  | atomic (r : GReg) (v : GVal) (acq : Bool)
  /-- CPYW: complete when the listed descriptors' operations have (R254). -/
  | cpyw (ops : List Nat)
  /-- CNTWT.A: complete when the counter holds (R396). -/
  | cntwt (id : Nat) (b : Int) (ge : Bool)
  /-- CNTADD: the counter is updated when it completes (R396). -/
  | cntadd (id : Nat) (v : Word)
  /-- QPUSH: the item is written then (R400). -/
  | qpush (q : Nat) (v : Word) (qd : QReg)
  /-- TSUB: the packet is appended then; status 2 stands for a header that R380 refuses (R398). -/
  | tsub (q : Nat) (bytes : List Byte) (gd : GReg) (bad : Bool)
  /-- CANCEL: complete when the listed targets have ended (R399). -/
  | cancel (units nodes launches : List Nat)
  /-- WSWAP waiting for its copy (R417). -/
  | wswap (r : GReg) (any : Bool)
  /-- MIGR waiting for the target's reply (R419). -/
  | migr (r : GReg)
  /-- A remote load, LDC or atomic whose data has not come (R271, R189). -/
  | remote
  /-- RANK and POPSTEP: the draft unit completes them (R411, R413). -/
  | draft (r : GReg)
  /-- PWAIT on a population (R412). -/
  | pwait (r : GReg) (p : Nat)
  /-- A P instruction's result; `own` when a later WBASE, LINRD, FITGET.STATE or PCFG waits for it (R407). -/
  | status (r : GReg) (v : Word) (own : Bool)
  /-- A P instruction that ended in a response error at an address while its core was frozen (R338, R413, R419). -/
  | failed (r : GReg) (addr : Nat)
  /-- TLBINV: the invalidation completes it (R324). -/
  | inval
  /-- PGHINT.T or .LOCK: its walks (R327). -/
  | hint
  /-- HNDL.SET and HNDL.CLR: the entry's two words are written, or its V becomes 0 (R329). -/
  | handle (id : Nat) (e : Option (Word × Word))
  /-- A table walk that fills the TLBs when its reads are done (R321); `lock` locks the entry. -/
  | walk (va : Nat) (lock pipe : Bool)
  deriving DecidableEq, Repr

/-- An asynchronous operation in flight (R33): the clk it completes in, none when something else completes it. -/
structure AsyncOp where
  id     : Nat
  serial : Nat
  kind   : AsyncKind
  slot   : Option DReg
  due    : Option Nat
  cls    : Nat
  flags  : Nat
  deriving DecidableEq, Repr

/-- A store, or an atomic, in flight (R269): its number, its mesh address, its size, its memory type. -/
structure StoreInFlight where
  id   : Nat
  phys : Nat
  size : Nat
  mt   : Nat
  deriving DecidableEq, Repr

/-- Events pending for a delivery point (R291). -/
structure Pending where
  rollback : Option Trap
  engine   : List (Nat × Trap)
  watch    : List (Nat × Trap)
  link     : Option Trap
  coll     : Option Trap
  cancel   : Bool
  deadline : Option Nat
  budget   : Bool
  preempt  : Bool
  forced   : Bool
  stop     : Option Nat
  deriving DecidableEq, Repr

def Pending.empty : Pending := ⟨none, [], [], none, none, false, none, false, false, false, none⟩

/-- The states of a unit (R334); `none` stands for a core without one. -/
inductive UnitState where
  | none | pending | loading | ready | running | preempted | faulted | done | cancelled
  deriving DecidableEq, Repr

/-- A word in the forwarding buffer (R44): PC, bits, and the vc it may be dispatched at. -/
structure FwdWord where
  pc  : Nat
  w   : Nat
  due : Nat
  deriving DecidableEq, Repr

/-- A WSWAP, and the copy-state codes of R405. -/
inductive CopySt where
  | none | overwriting | swapPending | migratingOut | migratingIn
  deriving DecidableEq, Repr

/-- What the copy-and-mutate engine writes into a core's inactive copy (R413, R419): the copy, who asked (a core, or
8,192 times one more than a chip field, plus its core) and under which number, whether for a MIGR, the population's
number, and the lineage id that becomes pending. -/
structure Incoming where
  op   : CopyOp
  asker : Nat
  id   : Nat
  migr : Bool
  pop  : Nat
  child : Word
  deriving DecidableEq, Repr

/-- A trace record waiting in the encoder (R461): its sixteen bytes. -/
abbrev TraceRec := List Byte

/-- The debug module and the trace encoder (R453, R461), with the Whistle latch (R463). -/
structure Debug where
  ctl      : Word
  stopped  : Bool
  reason   : Nat
  pc       : Nat
  steps    : Option Nat
  traceCtl : Word
  traceBuf : Word
  ptr      : Nat
  drop     : Nat
  buffer   : List TraceRec
  sync     : Bool
  since    : Nat
  latchPc  : Nat
  latchSt  : Nat
  latchSeq : Nat
  prevPc   : Nat
  prevSt   : Nat
  deriving DecidableEq, Repr

/-- One core. `block` is the timed block it is in, with whether that is strict: STATUS.TIMED and STATUS.STRICT (R344);
`blockNo` is one more than the last block entered; `slack` how many vc each
column is behind by rules that are no deviation (R31); `flagsSet` the FLAGS bits set last, with their clk (R75); `seqSpec` the
SEQ_EXPECT value that the next dispatched instruction is stamped with (R264); `crAt` one more than the clk of the last
control-register instruction (R71); `checkTo` the clk that an umpire's replay blocks commits to (R49); `frozenIn` the clk its VCC was last held back in (R338); `saving` is
0, or the stage of a pre-emption (R306, R307) with what `savedPc` and `savedKind` then hold; `forced` whether it was forced (R238); `snapAt` the instance, the
episode, the mesh address and the size of its last snapshot (R374). -/
structure Core where
  /- Registers -/
  g         : List (Nat × GVal)
  q         : BitVec 16
  v         : List (Nat × VVal)
  streams   : List (Nat × Stream)
  acc       : List (Nat × Acc)
  slots     : List (Nat × Nat)
  slotLog   : List (Nat × (Nat × Bool))
  engFlags  : List (Nat × List Nat)
  pc        : Nat
  loops     : List LoopEntry
  trapLoops : List LoopEntry
  region    : RegionRec
  cr        : List (Nat × Word)
  priv      : Bool
  detached  : Bool
  flags     : Nat
  flagsSet  : Nat × Nat
  /- Time and order -/
  vcc       : Nat
  seqAt     : Nat
  serial    : Nat
  rob       : List Rob
  queues    : List (Nat × List QEntry)
  colFree   : List (Nat × Nat)
  colHold   : List (Nat × Nat)
  slack     : List (Nat × Nat)
  runs      : List (Nat × StreamRun)
  landings  : List Landing
  wlog      : List LogEntry
  qWriters  : List (Nat × (Nat × Nat))
  held      : Option Held
  block     : Option (Nat × Bool)
  bankUse   : List (Nat × Nat)
  trapAt    : Option Nat
  seqSpec   : Word
  crAt      : Nat
  checkTo   : Nat
  pend      : Pending
  /- Memory side -/
  descs     : List (Nat × CopyOp)
  groups    : List (Nat × CopyGroup)
  ops       : List AsyncOp
  opId      : Nat
  stores    : List StoreInFlight
  locks     : List (Nat × Lock)
  replay    : List Parked
  wcb       : List (Nat × WcLine)
  draining  : Bool
  cache     : List (Nat × CacheLine)
  tlb       : List (Nat × TlbEntry)
  tlbUse    : Nat
  pipeTlb   : List (Nat × TlbEntry)
  rqs       : List (Nat × RecvQ)
  slice     : Slice
  tops      : List TensorOp
  vredq     : Option VredqOp
  joins     : List Nat
  gmma      : Option GmmaWait
  /- Unit, group, population -/
  ctx       : Option Nat
  unit      : UnitState
  waiting   : Bool
  launch    : Nat
  unitNo    : Nat
  status    : Nat
  chunk     : Option (Nat × Nat)
  residency : Nat
  mode      : Nat
  peer      : Nat
  followers : List Nat
  fwd       : List FwdWord
  pendFol   : Bool
  eval      : EvalSt
  copySt    : CopySt
  pendId    : Word
  incoming  : Option Incoming
  rank      : Option Nat
  samp      : Option Nat
  frozenTo  : Nat
  frozenIn  : Nat
  blockNo   : Nat
  pauses    : Nat
  pauseOwn  : Nat
  late      : List Nat
  fetched   : Option (Nat × Nat)
  refreshed : Nat
  saving    : Nat
  forced    : Bool
  savedPc   : Nat
  savedKind : Nat
  snapAt    : List (Nat × (Nat × (Nat × Nat)))
  dbg       : Debug
  deriving DecidableEq, Repr

end Sys2Proof.Machine
end

