-- ==== Sys2Proof/Machine/System.lean ====
section
/-! DEFINITION. The state of the package outside its cores: messages on the island mesh, contexts with their barriers,
node slots and populations, queues and launches, the island and its endpoints, the Birdar ports, the collectives; and
the model's own records of what the step in hand acts for, of what comes from outside and of what leaves. -/

namespace Sys2Proof.Machine

/-- What an atomic does at its home word (R187, R188). -/
inductive AtomKind where
  | add
  | minMax (op : AmmOp)
  | xchg
  | cas
  | logic (op : AlogOp)
  | fadd (fmt : Fmt)
  deriving DecidableEq, Repr

/-- A remote access on its way (R267): who asks and under which number, the mesh address, the virtual address, size,
memory type, the destination register, what happens when the data lands, whether the page is absent-fill (R322), and the
bytes of the write-combining buffer that a load returns (R278). A requester of 8,192 or more stands on another package:
chip field plus one, times 8,192, plus core. -/
structure MemReq where
  src    : Nat
  id     : Nat
  phys   : Nat
  va     : Nat
  size   : Nat
  mt     : Nat
  reg    : Nat
  sx     : Bool
  cap    : Bool
  ldcap  : Bool
  acq    : Bool
  fill   : Bool
  serial : Nat
  af     : Bool
  wcHeld : List (Nat × Byte)
  deriving DecidableEq, Repr

/-- What a message carries. -/
inductive MsgBody where
  | load (m : MemReq)
  /-- `err` is 0, 1 for an error response, or 2 plus the error id of an uncorrectable word. -/
  | data (m : MemReq) (bytes : List Byte) (tag : Bool) (words : List (Nat × Word)) (err : Nat)
  | store (m : MemReq) (bytes : List Byte) (tag : Option Bool)
  | wcLine (m : MemReq) (bytes : List (Nat × Byte)) (tags : List Nat)
  | ack (m : MemReq) (own err : Bool)
  | revoke (word : Nat)
  | atomic (m : MemReq) (k : AtomKind) (opnd cmp : Word)
  | atomicOld (m : MemReq) (old : Word) (flags : Nat) (err : Nat)
  | window (m : MemReq) (write : Bool) (v : Word)
  | vector (op desc q : Nat) (bits : VBits)
  | followReq
  | followReply (status : Nat)
  | followGone (follower : Nat)
  | leaderEnd (leader : Nat)
  | deal
  | dealt (first count : Nat)
  | migr (asker id : Nat) (wactive : Word) (lineage : Word) (bytes : Option (List Byte))
  | migrReply (id status addr : Nat)
  | pause (launch die start len : Nat)
  | realignReport (launch die vc : Nat)
  | realignRelease (launch die : Nat) (bad : Bool)
  deriving DecidableEq, Repr

/-- A message in flight: the clk it arrives in, who sent it, to which core or die. -/
structure Msg where
  due  : Nat
  src  : Nat
  dst  : Nat
  body : MsgBody
  deriving DecidableEq, Repr

/-- The arguments of an event from outside: what it names, two values, bytes, and further numbers. -/
structure Arg where
  ix    : Nat
  a     : Nat
  b     : Nat
  bytes : List Byte
  deriving DecidableEq, Repr

def Arg.empty : Arg := ⟨0, 0, 0, []⟩

/-- An event from outside the package, with the clk it comes in (log entry 4). -/
structure Input where
  clk   : Nat
  event : Instr
  arg   : Arg
  deriving DecidableEq, Repr

/-- Where something that leaves the package goes (log entry 5). -/
inductive OutKind where
  /-- A write to host memory, or an interrupt, through a host port. -/
  | host
  /-- A flit on a Birdar port. -/
  | flit
  /-- A request to another package's island. -/
  | chip
  /-- A read of as many bytes as the bytes give, through a host port or of another package. -/
  | read
  deriving DecidableEq, Repr

/-- Something that has left the package. -/
structure Out where
  clk   : Nat
  kind  : OutKind
  dst   : Nat
  addr  : Nat
  bytes : List Byte
  deriving DecidableEq, Repr

/-- An entry for no instruction: a NOP with nothing set. -/
def QEntry.empty : QEntry := ⟨0, 0, Head.plain, .nop, 0, 0, none⟩

/-- What the step in hand acts for: the core, the instruction with its PC, serial, head and stamp, the stage and mark
of an instruction that executes in several, the arguments of an event, the message an event was brought by (log entry
3). -/
structure Hand where
  core  : Nat
  entry : QEntry
  stage : Nat
  mark  : Nat
  arg   : Arg
  msg   : Option MsgBody
  deriving DecidableEq, Repr

def Hand.empty : Hand := ⟨0, QEntry.empty, 0, 0, Arg.empty, none⟩

/-! ## Contexts -/

/-- The states of a context (R284, R285). -/
inductive CtxState where
  | free | building | ready | running | preempting | suspended | faulted | dumping | draining | dead
  deriving DecidableEq, Repr

/-- The states of a barrier instance (R369). -/
inductive BarState where
  | free | armed | collecting | released | broken
  deriving DecidableEq, Repr

/-- A member waiting at an instance: its core and the episode it waits for. -/
structure Waiter where
  core    : Nat
  episode : Nat
  deriving DecidableEq, Repr

/-- A barrier instance (R367, R369), with its releases in progress and what R374 and R375 keep. `place` is the gang or
die; `last` lists the release clk of recent episodes; `snapped` whether a SNAP has arrived in this episode, `snapEp`
the EPISODE after the last release that carried one, with the members ended then and the rollbacks to it. -/
structure Barrier where
  ctx      : Nat
  kind     : Nat
  place    : Nat
  slot     : Nat
  st       : BarState
  once     : Bool
  launch   : Nat
  n        : Nat
  count    : Nat
  episode  : Nat
  tag      : Nat
  p        : Nat
  reason   : Nat
  waiters  : List Waiter
  last     : List (Nat × Nat)
  releases : Nat
  brokenAt : Nat
  snapped  : Bool
  snapEp   : Option Nat
  snapEnd  : Nat
  rolls    : Nat
  deriving DecidableEq, Repr

/-- The states of a node slot (R388). -/
inductive NodeState where
  | held | waiting | dispatched
  deriving DecidableEq, Repr

/-- A node slot that is not FREE: H or the count, the packet it was registered with, its queue, its launch. -/
structure Node where
  st     : NodeState
  n      : Nat
  queue  : Nat
  packet : List Byte
  launch : Option Nat
  deriving DecidableEq, Repr

/-- A RANK or POPSTEP in progress (R411, R413): the core and the number of the operation that issued it, the clk a RANK
completes in, the members with their sampled fitness in order of rank, whether a NaN was sampled; of a POPSTEP the pair
in hand, the next generation, the winners' recorded copies and the flags so far. -/
structure DraftOp where
  core  : Nat
  id    : Nat
  step  : Bool
  due   : Nat
  order : List (Nat × Nat)
  nan   : Bool
  pair  : Nat
  gen   : Nat
  acts  : List Nat
  flags : Nat
  deriving DecidableEq, Repr

/-- A population record (R403). `die` 0 to 7, or 8 and 9 for the I/O dies. -/
structure Population where
  ctx     : Nat
  die     : Nat
  p       : Nat
  launch  : Nat
  k       : Nat
  sigma   : Nat
  thresh  : Nat
  rlog    : Nat
  ring    : Nat
  gen     : Nat
  seed    : Nat
  rcount  : Nat
  winners : List Nat
  losers  : List Nat
  fresh   : Bool
  members : List Nat
  op      : Option DraftOp
  deriving DecidableEq, Repr

/-- An activity budget entry (R393), with the bytes it has let through in the current period. -/
structure Budget where
  kind  : Nat
  id    : Nat
  bytes : Nat
  lo    : Nat
  hi    : Nat
  used  : Nat
  deriving DecidableEq, Repr

/-- An invalidation in progress (R324): its range, whether the host asked, the operation of a core that waits, the clk
it can complete in, its kind (1 a range, 2 everything, 3 handle entries), and the walks and tensor operations that were
in flight when it began, each by its core. -/
structure Inval where
  lo    : Nat
  hi    : Nat
  host  : Bool
  core  : Nat
  op    : Nat
  due   : Nat
  kind  : Nat
  walks : List (Nat × Nat)
  tops  : List (Nat × Nat)
  deriving DecidableEq, Repr

/-- What goes with a core's record in the save area and is not in it (R307, R310, log entry 16): the launch and unit it
leaves, its VCC and the clk of that, its individual, its residency record and its last snapshot. -/
structure SavedCore where
  launch    : Nat
  unitNo    : Nat
  vcc       : Nat
  clk       : Nat
  eval      : EvalSt
  copySt    : CopySt
  pendId    : Word
  rank      : Option Nat
  samp      : Option Nat
  chunk     : Option (Nat × Nat)
  mode      : Nat
  peer      : Nat
  followers : List Nat
  blockNo   : Nat
  joins     : List Nat
  snapAt    : List (Nat × (Nat × (Nat × Nat)))
  pend      : Pending
  deriving DecidableEq, Repr

/-- A context (R284, R313, R383, R393, R465). `saved` lists the cores whose records stand in the save area. -/
structure Ctx where
  st         : CtxState
  before     : CtxState
  saveBase   : Word
  saveStride : Word
  limit      : Word
  limitAt    : Option Nat
  eventQ     : Word
  ptRoot     : Word
  htBase     : Word
  htCount    : Word
  ptRootEff  : Word
  htBaseEff  : Word
  htCountEff : Word
  invVa      : Word
  invLen     : Word
  invBusy    : Bool
  invals     : List Inval
  cntSel     : Word
  dumpBase   : Word
  dumpStride : Word
  budgets    : List (Nat × Budget)
  events     : List (Nat × Word)
  nodes      : List (Nat × Node)
  drainAt    : Option Nat
  saved      : List (Nat × SavedCore)
  deriving DecidableEq, Repr

/-! ## Queues and launches -/

/-- The states of a queue (R376, R378). -/
inductive QState where
  | disabled | enabled | running | blocked | draining | error
  deriving DecidableEq, Repr

/-- A queue (R376): its registers, QOWN (R472), its head packet once read, the clk from which it reads the next. -/
structure Queue where
  ring  : Word
  ctl   : Word
  prod  : Nat
  cons  : Nat
  st    : QState
  err   : Nat
  errIx : Nat
  drop  : Nat
  own   : Option Nat
  head  : Option (List Byte)
  due   : Nat
  deriving DecidableEq, Repr

/-- A timetable entry (R340). -/
structure Block where
  no     : Nat
  start  : Nat
  tblk   : Nat
  tend   : Nat
  strict : Bool
  deriving DecidableEq, Repr

/-- A residency range (R140, R309): its local range and whether it is clean, save or scratch (0, 1, 2). -/
structure Resid where
  lo  : Nat
  hi  : Nat
  cls : Nat
  deriving DecidableEq, Repr

/-- What the loader keeps of an image (R142): ENTRY, WORDS, the flags, timetable, residency map. -/
structure Image where
  entry  : Nat
  words  : Nat
  gang   : Bool
  timed  : Bool
  blocks : List Block
  resid  : List Resid
  deriving DecidableEq, Repr

/-- The states of a launch: its descriptor and image are still to be checked, it waits for its cores (R354), it is bound
and loads (R355), its units run; a launch that has completed is not listed. -/
inductive LaunchState where
  | reading | pending | bound | started
  deriving DecidableEq, Repr

/-- A launch: its context, queue and packet fields (R380, R381), its descriptor (R330), its image and, when that came from
outside the package, its bytes; its number of units, state, status (R331) and cores; the clk each core's loading ends in;
the units that have ended; its start release (R339); its shot clock in ns (R390); its job card's dealer (R386); what
REALIGN has reported and which dies it holds (R342). -/
structure Launch where
  ctx     : Nat
  queue   : Nat
  work    : Nat
  graph   : Option Nat
  job     : Nat
  slot    : Option Nat
  record  : Word
  word    : Word
  pflags  : Nat
  succ    : List Nat
  desc    : List Byte
  file    : Option (List Byte)
  image   : Image
  units   : Nat
  st      : LaunchState
  status  : Nat
  cores   : List Nat
  loads   : List (Nat × Nat)
  ended   : List (Nat × (UnitState × Nat))
  startAt : Option Nat
  shotNs  : Nat
  shotAt  : Option Nat
  shotHit : Bool
  cancelled : Bool
  card    : Option Nat
  args    : Word
  count   : Nat
  recsize : Nat
  dealt   : Nat
  doneRecs : Nat
  reports : List (Nat × Nat)
  realign : List (Nat × Nat)
  deriving DecidableEq, Repr

/-- A read that the device's engines have sent to the host or another package: its mesh address, and the clk it fails in. -/
structure Ask where
  phys  : Nat
  limit : Nat
  deriving DecidableEq, Repr

/-! ## The island -/

/-- The states of the island router (R423); OFF before V_ISL is up. -/
inductive IslState where
  | off | boot | active | degraded
  deriving DecidableEq, Repr

/-- The states of an endpoint (R424). -/
inductive EpState where
  | absent | reset | linkup | active | orphaned
  deriving DecidableEq, Repr

/-- An endpoint (R424, R426, R428): state, CAUSE, messages held for it, training attempts, the step of a split reset
and the clk its limit ends in. -/
structure Endpoint where
  st      : EpState
  cause   : Nat
  held    : List Msg
  tries   : Nat
  step    : Nat
  limitAt : Option Nat
  deriving DecidableEq, Repr

/-- The states of a Birdar port (R436). -/
inductive PortState where
  | down | training | active | retrain | widthChange | degraded | failed
  deriving DecidableEq, Repr

/-- A flit kept for replay (R435): its number, its virtual channel, its bytes. -/
structure FlitRec where
  seq   : Nat
  vc    : Nat
  bytes : List Byte
  deriving DecidableEq, Repr

/-- A Birdar port (R434 to R439, R446): its registers and counters; its numbers and flits kept; `again` the number a peer
last asked for and how often; failed attempts; its injectors with the flits they have seen; what it holds for others; the
clk its line is free in; and the values flits of shards whose counts flit has not come, each with its source chip. -/
structure Port where
  vmin     : Nat
  vmax     : Nat
  widthReq : Nat
  en       : Bool
  st       : PortState
  retrains : Nat
  failr    : Nat
  ver      : Nat
  lanes    : Nat
  uncorr   : Nat
  corr     : Nat
  poisoned : Nat
  replays  : Nat
  sendSeq  : Nat
  recvSeq  : Nat
  since    : Nat
  replay   : List FlitRec
  heldOut  : List FlitRec
  again    : Nat × Nat
  tries    : Nat
  linj     : List (Nat × Word)
  linjCnt  : List (Nat × Nat)
  freqHeld : Option Nat
  widthHeld : Bool
  discard  : Bool
  busyTo   : Nat
  values   : List (Nat × List Byte)
  deriving DecidableEq, Repr

/-- A shard that has entered and is not delivered (R441, R442): block, source chip, values and counts. -/
structure Shard where
  blk    : Nat
  src    : Nat
  vals   : VBits
  cnts   : VBits
  deriving DecidableEq, Repr

/-- A collective entry (R440): its registers, the shards that wait, for each of the eight gateway cores the number of its
blocks delivered, the place in the box's order and whether the values have gone (R442), the blocks sent from here, the
halted sources, whether this package's own halt notice has gone, the ns its shot clock ends in. -/
structure Coll where
  ctl       : Word
  box       : Word
  shot      : Word
  broken    : Bool
  missing   : Bool
  poison    : Bool
  shards    : List Shard
  places    : List (Nat × (Nat × (Nat × Bool)))
  written   : List Nat
  halts     : List Nat
  noted     : Bool
  endAt     : Option Nat
  deriving DecidableEq, Repr

/-- The island's own registers and state (R422, R450, R462, R477, R480, R482, R499). `clkAt` is the clk of the exit from
BOOT, which CLK counts from (R336); `whBuf` holds the Whistle records being written, each with the clk it is done in, and
`whNext` the µs of the next tick; `freq` the FREQ in progress or held and `mhz` the clocks set. -/
structure Island where
  st        : IslState
  bootErr   : Nat
  clkAt     : Nat
  bootStep  : Nat
  fwver     : Nat
  coord     : Nat
  torus     : Nat
  pass      : Bool
  logCnt    : Nat
  errCnt    : Nat
  errId     : Nat
  whCtl     : Word
  whRing    : Word
  whDrops   : Nat
  whWritten : Nat
  whSeq     : Nat
  whOff     : Nat
  whKey     : Bool
  whReq     : Option Nat
  whBuf     : List (Nat × List Byte)
  whNext    : Nat
  nonce     : List (Nat × Word)
  pwrCap    : Nat
  hot       : Bool
  links     : List Nat
  freq      : List (Nat × Nat)
  mhz       : List (Nat × Nat)
  deriving DecidableEq, Repr

end Sys2Proof.Machine
end

