-- ==== Sys2Proof/Machine/State.lean ====
section
/-! DEFINITION. The state of one package, the reasons a step can stop, and the machine right after reset. -/

namespace Sys2Proof.Machine

/-- Why the machine stops with a fault. -/
inductive Fault where
  /-- Nothing in the model raises it: the type has to have a constructor. Safe. -/
  | never
  deriving DecidableEq, Repr

/-- Why a step has no meaning. -/
inductive Refusal where
  /-- An instruction whose meaning is not written. Safe. -/
  | notModelled (mnemonic : String)
  deriving DecidableEq, Repr

/-- A line word of the scratchpad: SEQ, EXPECT, ARM (R262). -/
structure LineWord where
  seq    : Nat
  expect : Nat
  arm    : Bool
  deriving DecidableEq, Repr

/-- One Skeura package. Memory is one list of bytes at mesh keys: the low 44 bits of a physical mesh address (space,
core, offset, or an HBM or device control offset). `asks` and `ext` hold what the device's
engines read from outside the package and what came back, none for an error. `funcs` keeps the FUNC fields of QOWN and COWN (R5, R472),
`lone` what a launch that runs alone draws its latencies with (R351). `tags`, `written`, `lines` and `owners` list granules, 128-byte
lines, scratchpad lines and words by their number (key divided by their size), `poison` words by their key. -/
structure State where
  clk      : Nat
  cores    : List (Nat × Core)
  mem      : List Host.Cell
  tags     : List Nat
  written  : List Nat
  poison   : List (Nat × Nat)
  lines    : List (Nat × LineWord)
  owners   : List (Nat × Nat)
  ctxs     : List (Nat × Ctx)
  barriers : List (Nat × Barrier)
  pops     : List (Nat × Population)
  queues   : List (Nat × Queue)
  launches : List (Nat × Launch)
  nextLaunch : Nat
  latest   : List (Nat × Nat)
  cown     : List (Nat × Nat)
  funcs    : List (Nat × Nat)
  isl      : Island
  eps      : List (Nat × Endpoint)
  ports    : List (Nat × Port)
  colls    : List (Nat × Coll)
  msgs     : List Msg
  inputs   : List Input
  outbox   : List Out
  asks     : List Ask
  ext      : List (Nat × Option (List Byte))
  period   : Nat
  lltlb    : List (Nat × List (Nat × TlbEntry))
  hand     : Hand
  free     : Nat
  lone     : Option (Nat × Nat)
  deriving DecidableEq, Repr

/-- The debug module after core reset: SIZE 12, everything else 0 (R453). -/
def Debug.reset : Debug :=
  { ctl := 0, stopped := false, reason := 0, pc := 0, steps := none, traceCtl := 0x0C00#64, traceBuf := 0, ptr := 0,
    drop := 0, buffer := [], sync := false, since := 0, latchPc := 0, latchSt := 0, latchSeq := 0, prevPc := 0,
    prevSt := 0 }

/-- The slice after core reset (R229). -/
def Slice.reset : Slice := ⟨0, false, 0, 0, .noFmt, 0, []⟩

/-- A core after core reset (R77), at S privilege (R74), without a unit. -/
def Core.reset : Core :=
  { g := [], q := 0, v := [], streams := [], acc := [], slots := [], slotLog := [], engFlags := [], pc := 0,
    loops := [], trapLoops := [], region := ⟨0xFFF, 0, 0, [], []⟩, cr := [], priv := true, detached := false, flags := 0, flagsSet := (0, 0), vcc := 0, seqAt := 0, serial := 0, rob := [], queues := [], colFree := [],
    colHold := [], slack := [], runs := [], landings := [], wlog := [], qWriters := [], held := none, block := none, bankUse := [],
    trapAt := none, seqSpec := 0, crAt := 0, checkTo := 0, pend := Pending.empty, descs := [], groups := [], ops := [], opId := 0,
    stores := [], locks := [], replay := [], wcb := [], draining := false, cache := [], tlb := [],
    tlbUse := 0, pipeTlb := [], rqs := [], slice := Slice.reset, tops := [], vredq := none, joins := [], gmma := none, ctx := none,
    unit := .none, waiting := false, launch := 0, unitNo := 0, status := 0, chunk := none, residency := 0, mode := 0,
    peer := 0, followers := [], fwd := [], pendFol := false, eval := .empty, copySt := .none, pendId := 0, incoming := none, rank := none,
    samp := none, frozenTo := 0, frozenIn := 0, blockNo := 0, pauses := 0, pauseOwn := 0, late := [],
    fetched := none, refreshed := 0, saving := 0, forced := false, savedPc := 0, savedKind := 0, snapAt := [],
    dbg := Debug.reset }

/-- A context after a function-level reset: FREE, every register zero (R284, R313, R393, R465). -/
def Ctx.reset : Ctx :=
  { st := .free, before := .free, saveBase := 0, saveStride := 0, limit := 0, limitAt := none, eventQ := 0, ptRoot := 0,
    htBase := 0, htCount := 0, ptRootEff := 0, htBaseEff := 0, htCountEff := 0, invVa := 0, invLen := 0,
    invBusy := false, invals := [], cntSel := 0, dumpBase := 0, dumpStride := 0, budgets := [], events := [],
    nodes := [], drainAt := none, saved := [] }

/-- A queue after reset: every register zero, no owner (R376, R472). -/
def Queue.reset : Queue :=
  { ring := 0, ctl := 0, prod := 0, cons := 0, st := .disabled, err := 0, errIx := 0, drop := 0, own := none,
    head := none, due := 0 }

/-- An endpoint after island reset: ABSENT, CAUSE 0, HELD 0 (R422). -/
def Endpoint.reset : Endpoint := ⟨.absent, 0, [], 0, 0, none⟩

/-- A port after island reset: VMIN and VMAX 1, everything else 0 (R439, R446). -/
def Port.reset : Port :=
  { vmin := 1, vmax := 1, widthReq := 0, en := false, st := .down, retrains := 0, failr := 0, ver := 0, lanes := 0,
    uncorr := 0, corr := 0, poisoned := 0, replays := 0, sendSeq := 0, recvSeq := 0, since := 0, replay := [],
    heldOut := [], again := (0, 0), tries := 0, linj := [], linjCnt := [], freqHeld := none, widthHeld := false,
    discard := false, busyTo := 0, values := [] }

/-- A collective entry after island reset (R440). -/
def Coll.reset : Coll :=
  { ctl := 0, box := 0, shot := 0, broken := false, missing := false, poison := false,
    shards := [], places := [], written := [], halts := [], noted := false, endAt := none }

/-- The island after its reset: BOOT at its first step, TORUS_EXT 127, 63, 95, SIZE 16 in WHISTLE_CTL, PWR_CAP 1,700
(R422, R462, R477, R482, R499). -/
def Island.reset : Island :=
  { st := .boot, bootErr := 0, clkAt := 0, bootStep := 1, fwver := 0, coord := 0, torus := 0xFFFDF, pass := false,
    logCnt := 0, errCnt := 0, errId := 0, whCtl := 0x100000#64, whRing := 0, whDrops := 0, whWritten := 0, whSeq := 0,
    whOff := 0, whKey := true, whReq := none, whBuf := [], whNext := 0, nonce := [], pwrCap := 1700, hot := false, links := [], freq := [],
    mhz := [] }

/-- The package right after reset: the island in BOOT, every endpoint ABSENT, every core at core reset and unbound,
every context FREE, nothing listed in memory, CLK 0 (R336). -/
def State.reset : State :=
  { clk := 0, cores := [], mem := [], tags := [], written := [], poison := [], lines := [], owners := [], ctxs := [],
    barriers := [], pops := [], queues := [], launches := [], nextLaunch := 1, latest := [], cown := [], funcs := [],
    isl := Island.reset, eps := [], ports := [], colls := [], msgs := [], inputs := [], outbox := [], asks := [], ext := [], period := 0,
    lltlb := [], hand := Hand.empty, free := 0, lone := none }

end Sys2Proof.Machine
end

