-- ==== Sys2Proof/Machine/Ops.lean ====
section
/-! DEFINITION. The named operations over the machine: the tables of State, registers, memory with its tags, results in
flight, issuing, timing groups, event records, and taking an exception (R287) with its escalation (R293). -/

namespace Sys2Proof.Machine

/-- What a meaning answers. -/
abbrev Res := Host.Outcome State Fault Refusal

/-! ## The tables of State -/

def State.core (s : State) (c : Nat) : Core := mapGetD s.cores c Core.reset
def State.setCore (s : State) (c : Nat) (k : Core) : State := { s with cores := mapPut s.cores c k }
def State.modCore (s : State) (c : Nat) (f : Core → Core) : State := s.setCore c (f (s.core c))
/-- The core the step acts for. -/
def State.me (s : State) : Core := s.core s.hand.core
def State.setMe (s : State) (k : Core) : State := s.setCore s.hand.core k
def State.modMe (s : State) (f : Core → Core) : State := s.setMe (f s.me)
/-- The instruction the step acts for. -/
def State.ent (s : State) : QEntry := s.hand.entry
def State.head (s : State) : Head := s.hand.entry.head

def State.ctx (s : State) (i : Nat) : Ctx := mapGetD s.ctxs i Ctx.reset
def State.setCtx (s : State) (i : Nat) (x : Ctx) : State := { s with ctxs := mapPut s.ctxs i x }
def State.modCtx (s : State) (i : Nat) (f : Ctx → Ctx) : State := s.setCtx i (f (s.ctx i))
def State.queue (s : State) (i : Nat) : Queue := mapGetD s.queues i Queue.reset
def State.setQueue (s : State) (i : Nat) (x : Queue) : State := { s with queues := mapPut s.queues i x }
def State.modQueue (s : State) (i : Nat) (f : Queue → Queue) : State := s.setQueue i (f (s.queue i))
def State.launch (s : State) (i : Nat) : Option Launch := mapGet s.launches i
def State.setLaunch (s : State) (i : Nat) (x : Launch) : State := { s with launches := mapPut s.launches i x }
def State.modLaunch (s : State) (i : Nat) (f : Launch → Launch) : State :=
  match s.launch i with
  | some l => s.setLaunch i (f l)
  | none => s
def State.ep (s : State) (i : Nat) : Endpoint := mapGetD s.eps i Endpoint.reset
def State.modEp (s : State) (i : Nat) (f : Endpoint → Endpoint) : State := { s with eps := mapPut s.eps i (f (s.ep i)) }
def State.port (s : State) (i : Nat) : Port := mapGetD s.ports i Port.reset
def State.modPort (s : State) (i : Nat) (f : Port → Port) : State := { s with ports := mapPut s.ports i (f (s.port i)) }
def State.coll (s : State) (i : Nat) : Coll := mapGetD s.colls i Coll.reset
def State.modColl (s : State) (i : Nat) (f : Coll → Coll) : State := { s with colls := mapPut s.colls i (f (s.coll i)) }
def State.modIsl (s : State) (f : Island → Island) : State := { s with isl := f s.isl }

/-- A latency the spec does not give (log entry 6). Of a launch that has the package to itself it depends on what R351 names
and on the draws since its start, so that two such runs draw the same. -/
def State.draw (s : State) : Nat × State :=
  (match s.lone with
    | some (seed, n) => Config.latency (some seed) (s.free - n)
    | none => Config.latency none s.free, { s with free := s.free + 1 })

/-- CLK (R336): the clk since the island left BOOT. -/
def State.now (s : State) : Nat := s.clk - s.isl.clkAt

/-- Sends a message that arrives `lat` clk from now. -/
def State.send (s : State) (lat dst : Nat) (b : MsgBody) : State :=
  { s with msgs := s.msgs ++ [⟨s.clk + lat, s.hand.core, dst, b⟩] }

/-- The number that stands for the device's own registers, for other packages and for the host among destinations. -/
def toDevice : Nat := 8189
def toChip : Nat := 8190
def toHost : Nat := 8191

/-- Sends a message that comes after those in flight that `after` picks, at a time the spec does not give. -/
def State.sendAfter (s : State) (after : Msg → Bool) (extra dst : Nat) (b : MsgBody) : State :=
  let (l, s) := s.draw
  let due := (s.msgs.filter after).foldl (fun d m => max d m.due) (s.clk + l + extra)
  { s with msgs := s.msgs ++ [⟨due, s.hand.core, dst, b⟩] }

/-- Sends a message whose time the spec does not give. -/
def State.sendFree (s : State) (dst : Nat) (b : MsgBody) : State :=
  let (l, s) := s.draw
  s.send l dst b

/-- Leaves the package, `lat` clk from now. -/
def State.emitIn (s : State) (lat : Nat) (kind : OutKind) (dst addr : Nat) (bytes : List Byte) : State :=
  { s with outbox := s.outbox ++ [⟨s.clk + lat, kind, dst, addr, bytes⟩] }
/-- Leaves the package. -/
def State.emit (s : State) (kind : OutKind) (dst addr : Nat) (bytes : List Byte) : State := s.emitIn 0 kind dst addr bytes

/-- The request a message carries. -/
def MsgBody.req : MsgBody → Option MemReq
  | .load m => some m
  | .store m .. => some m
  | .wcLine m .. => some m
  | .atomic m .. => some m
  | .window m .. => some m
  | _ => none

/-- The serial of the store a message carries, 0 for a store that has committed. -/
def MsgBody.storeOf : MsgBody → Option MemReq
  | .store m .. => some m
  | .window m true _ => some m
  | _ => none

/-- The number that stands among destinations for what leaves the package once its store has committed. -/
def leaving : Nat := 8188

/-! ## Core numbers (R13 to R15) -/

def isGateway (c : Nat) : Bool := 4096 ≤ c
/-- Does a core of this number exist (R2, R13)? -/
def coreExists (c : Nat) : Bool :=
  if c < 4096 then decide (c / 16 % 32 < 30) || !Config.smallPart else decide (c < 4144)
/-- The die of a core: compute dies 0 to 7, and 8 and 9 for the I/O dies (R13, R15). -/
def dieOf (c : Nat) : Nat := if c < 4096 then c / 512 else if c < 4120 then 8 else 9
/-- The socket a core's die stands in (R9). -/
def socketOf (c : Nat) : Nat := if c < 4096 then c / 512 else if c < 4120 then 16 else 17
/-- The gang of a compute core (R14). -/
def gangOf (c : Nat) : Nat := c / 16

/-! ## Physical mesh addresses (R17, R18, R471) -/

/-- The chip field of a coordinate laid out as CHIP_COORD (R73). -/
def chipField (coord : Nat) : Nat := fld coord 0 7 * 2 ^ 13 + fld coord 7 6 * 2 ^ 7 + fld coord 13 7
/-- The coordinate of a chip field. -/
def chipCoord (f : Nat) : Nat := fld f 13 7 + fld f 7 6 * 2 ^ 7 + fld f 0 7 * 2 ^ 13
/-- This package's chip field. -/
def State.chip (s : State) : Nat := chipField s.isl.coord
/-- A mesh address of this package from its low 44 bits. -/
def State.phys (s : State) (key : Nat) : Nat := s.chip * 2 ^ 44 + key
def keyOf (phys : Nat) : Nat := phys % 2 ^ 44
def spaceOf (phys : Nat) : Nat := fld phys 42 2
def coreOf (phys : Nat) : Nat := fld phys 29 13
def offOf (phys : Nat) : Nat := fld phys 0 20
def coreKey (c off : Nat) : Nat := c * 2 ^ 29 + off
def hbmKey (a : Nat) : Nat := 2 ^ 42 + a
def devKey (a : Nat) : Nat := 2 * 2 ^ 42 + a
/-- Is it on this package? -/
def State.isHere (s : State) (phys : Nat) : Bool := phys / 2 ^ 44 == s.chip

/-- The store a local offset lies in: 0 weight SRAM, 1 scratchpad, 2 instruction SRAM, 3 control window, 4 reserved
(R70, R16). -/
def offKind (c off : Nat) : Nat :=
  if off < 0x10000 then 0
  else if off < 0x40000 then (if isGateway c then 4 else 0)
  else if off < 0x58000 then 1
  else if off < 0x60000 then 4
  else if off < 0x68000 then 2
  else if off < 0x70000 then 4
  else if off < 0x80000 then 3
  else 4
/-- The bank of an offset: 0 to 2 in the scratchpad (R38), 3 for weight SRAM (R192), 4 elsewhere. -/
def bankOf (off : Nat) : Nat := if off < 0x40000 then 3 else if off ≥ 0x58000 then 4 else (off - 0x40000) / 0x8000

/-! ## Registers -/

def Core.rg (k : Core) (r : GReg) : GVal := if r = 0 then GVal.data 0 else mapGetD k.g r.val (GVal.data 0)
def Core.rgv (k : Core) (r : GReg) : Word := (k.rg r).val
/-- A write to g0 is discarded (R51). -/
def Core.wg (k : Core) (r : GReg) (v : GVal) : Core := if r = 0 then k else { k with g := mapPut k.g r.val v }
/-- q15 reads 1 (R65). -/
def Core.rq (k : Core) (r : QReg) : Bool := r = 15 || k.q.getLsbD r.val
def Core.wq (k : Core) (r : QReg) (b : Bool) : Core :=
  if r = 15 then k
  else { k with q := if b then k.q ||| (1#16 <<< r.val) else k.q &&& ~~~(1#16 <<< r.val) }

/-- The absent code in every element (R42, R66). -/
def absentBits (f : Fmt) : VBits :=
  let w := fmtWidth f
  if w = 0 then 0 else BitVec.ofNat 1024 ((2 ^ 1024 - 1) / (2 ^ w - 1) * absentCode f)

def VVal.empty : VVal := ⟨0, .noFmt, none⟩
def Core.vraw (k : Core) (r : VReg) : VVal := mapGetD k.v r.val VVal.empty
/-- Has a short-lived register expired (R42)? -/
def Core.vExpired (k : Core) (r : VReg) : Bool :=
  match (k.vraw r).expiry with
  | some e => e ≤ k.vcc
  | none => false
/-- A v register as a read in this vc gives it (R42). -/
def Core.rv (k : Core) (r : VReg) : VVal :=
  let x := k.vraw r
  if k.vExpired r then { x with bits := absentBits x.fmt } else x
def Core.wv (k : Core) (r : VReg) (x : VVal) : Core := { k with v := mapPut k.v r.val x }
/-- Element i of width w. -/
def elemAt (b : VBits) (w i : Nat) : Nat := b.toNat / 2 ^ (w * i) % 2 ^ w
/-- The elements of width w, from element 0. -/
def elems (b : VBits) (w : Nat) : List Nat := if w = 0 then [] else (List.range (1024 / w)).map (elemAt b w)
/-- Bits from elements of width w. -/
def packElems (w : Nat) (l : List Nat) : VBits :=
  BitVec.ofNat 1024 (l.foldr (fun x acc => x % 2 ^ w + acc * 2 ^ w) 0)
def bytesOfV (b : VBits) : List Byte := leBytes 128 b.toNat
def vOfBytes (l : List Byte) : VBits := BitVec.ofNat 1024 (leNat l)

def Acc.empty : Acc := ⟨.noFmt, []⟩
def Core.ra (k : Core) (r : AReg) : Acc := mapGetD k.acc r.val Acc.empty
def Core.wa (k : Core) (r : AReg) (x : Acc) : Core := { k with acc := mapPut k.acc r.val x }
def Acc.at (a : Acc) (row col : Nat) : BitVec 32 × Nat := mapGetD a.cells (64 * row + col) (0, 0)
def Acc.put (a : Acc) (key : Nat) (x : BitVec 32 × Nat) : Acc :=
  { a with cells := if x = (0, 0) then mapDel a.cells key else mapPut a.cells key x }

def Core.slot (k : Core) (d : DReg) : Nat := mapGetD k.slots d.val 0

/-- The reset value of a control register (R72): REGION_PC names the entry region, FITNESS is absent (R297, R404). -/
def crReset (n : Nat) : Word := if n = 0x00F then 0xFFF000#64 else if n = 0x010 then 0xFF800001#64 else 0
/-- A stored control register. -/
def Core.cv (k : Core) (n : Nat) : Word := mapGetD k.cr n (crReset n)
def Core.setCv (k : Core) (n : Nat) (v : Word) : Core := { k with cr := mapPut k.cr n v }
/-- A field of a stored control register. -/
def Core.cf (k : Core) (n lo w : Nat) : Nat := fld (k.cv n).toNat lo w
def Core.setCf (k : Core) (n lo w v : Nat) : Core := k.setCv n (BitVec.ofNat 64 (setFld (k.cv n).toNat lo w v))

def crTRAP_CAUSE : Nat := 0x005
def crTRAP_PC : Nat := 0x006
def crTRAP_ADDR : Nat := 0x007
def crTRAP_INFO : Nat := 0x008
def crHANDLER : Nat := 0x009
def crBUDGET_WALL : Nat := 0x00A
def crBUDGET_LEFT : Nat := 0x00B
def crRPR : Nat := 0x00C
def crFLAGS : Nat := 0x00D
def crFOLLOW : Nat := 0x00E
def crREGION : Nat := 0x00F
def crFITNESS : Nat := 0x010
def crLINEAGE : Nat := 0x011
def crWACTIVE : Nat := 0x012
def crSEQ : Nat := 0x013
def crRECT : Nat := 0x014
def crSHOT : Nat := 0x015

/-- TRAP_CAUSE.ACTIVE (R288). -/
def Core.active (k : Core) : Bool := k.cf crTRAP_CAUSE 15 1 == 1

/-! ## Memory with its tags, WRITTEN bits and poison -/

/-- The numbers of the units of `u` bytes that `n` bytes from `a` on touch. -/
def unitsOf (u a n : Nat) : List Nat :=
  if n = 0 then [] else (List.range ((a + n - 1) / u - a / u + 1)).map (fun i => a / u + i)

/-- The units of `u` bytes that lie wholly in `n` bytes from `a` on. -/
def wholeUnits (u a n : Nat) : List Nat :=
  (unitsOf u a n).filter (fun i => decide (a ≤ i * u) && decide (i * u + u ≤ a + n))

/-- The words a poison entry stands for: 8 bytes of a core's memory, or the 32-byte unit of HBM (R449). -/
def poisonUnit (key : Nat) : Nat := if spaceOf key = 0 then 8 else 32
/-- The poisoned words that an access touches, with their error ids. -/
def State.poisoned (s : State) (key n : Nat) : Option (Nat × Nat) :=
  if s.poison.isEmpty then none
  else s.poison.find? (fun p => (unitsOf (poisonUnit key) key n).contains (p.1 / poisonUnit key))

/-- The residency entries of a core that a write to a local range marks (R309). -/
def markResid (l : Launch) (off n old : Nat) : Nat :=
  (l.image.resid.zipIdx).foldl
    (fun m (r, i) => if r.lo < off + n && off < r.hi then m ||| 2 ^ i else m) old

/-- Bytes written at a mesh key of this package: memory, the tags of the granules touched (set by STC alone, R60),
the WRITTEN bits (R322), poison wholly covered (R449), the owner core's residency record (R309). -/
def State.memStore (s : State) (key : Nat) (bytes : List Byte) (tag : Option Bool) : State :=
  let n := bytes.length
  let s := { s with mem := memWrite s.mem key bytes,
                    poison := if s.poison.isEmpty then []
                      else s.poison.filter (fun p => !(wholeUnits (poisonUnit key) key n).contains (p.1 / poisonUnit key)) }
  if spaceOf key = 0 then
    let s := { s with tags := (unitsOf 16 key n).foldl (fun t g =>
                        if tag = some true ∧ offKind (coreOf key) (offOf key) ≤ 1 then setAdd t g else setDel t g) s.tags,
                      written := (unitsOf 128 key n).foldl setAdd s.written }
    let c := coreOf key
    match s.launch (s.core c).launch with
    | some l =>
      let r := markResid l (offOf key) n (s.core c).residency
      if r = (s.core c).residency then s else s.modCore c (fun k => { k with residency := r })
    | none => s
  else s

/-- Bytes of this package's memory, as stored. -/
def State.memLoad (s : State) (key n : Nat) : List Byte := memRead s.mem key n
/-- The granule tag at a key. -/
def State.tagAt (s : State) (key : Nat) : Bool := setMem s.tags (key / 16)
def State.writtenAt (s : State) (key : Nat) : Bool := setMem s.written (key / 128)
def State.lineAt (s : State) (key : Nat) : LineWord := mapGetD s.lines (key / 128) ⟨0, 0, false⟩
def State.setLine (s : State) (key : Nat) (l : LineWord) : State :=
  { s with lines := if l = ⟨0, 0, false⟩ then mapDel s.lines (key / 128) else mapPut s.lines (key / 128) l }
/-- The owner of a word (R270). -/
def State.ownerOf (s : State) (key : Nat) : Option Nat := mapGet s.owners (key / 8)
def State.setOwner (s : State) (key : Nat) (o : Option Nat) : State :=
  { s with owners := match o with
      | some c => mapPut s.owners (key / 8) c
      | none => mapDel s.owners (key / 8) }

/-! ## Results in flight (R33, R34) -/

/-- A landing put in its place: by due vc, then by serial, then in the order given. -/
def landInsert : List Landing → Landing → List Landing
  | [], x => [x]
  | y :: t, x => if x.due < y.due ∨ (x.due = y.due ∧ x.serial < y.serial) then x :: y :: t else y :: landInsert t x

/-- Does V or X use a bank in a vc, which M gives way to (R40, R222)? -/
def Core.vecUses (k : Core) (vc b : Nat) : Bool := k.bankUse.contains (vc, b) || k.bankUse.contains (vc, 4 + b)
/-- Does any column use a bank in a vc, which load pipes, engines and remote requests give way to (R40)? -/
def Core.usesBank (k : Core) (vc b : Nat) : Bool := k.vecUses vc b || k.bankUse.contains (vc, 8 + b)

/-- Is the bank of a v register refreshed in this vc (R41)? -/
def Core.refreshing (k : Core) (r : VReg) : Bool := k.vcc % 1024 = 256 * (r.val / 8)

/-- Adds the landings of one instruction: its writes, then a last one that frees the slot and marks it done. -/
def Core.land (k : Core) (serial lat : Nat) (slot : Option DReg) (wrs : List Wr) : Core :=
  let due := k.vcc + lat
  let ls := wrs.foldl (fun ls w => landInsert ls ⟨due, serial, w, none, false⟩) k.landings
  { k with landings := landInsert ls ⟨due, serial, .none, slot, true⟩ }

/-- Adds one landing of an instruction beside those of `land`. -/
def Core.landAt (k : Core) (serial lat : Nat) (w : Wr) : Core :=
  { k with landings := landInsert k.landings ⟨k.vcc + lat, serial, w, none, false⟩ }

/-- Records a slot event for BENG (R153) and counts (R32). -/
def Core.slotInc (k : Core) (clk : Nat) (d : Option DReg) : Core :=
  match d with
  | none => k
  | some d => { k with slots := mapPut k.slots d.val (k.slot d + 1), slotLog := k.slotLog ++ [(clk, (d.val, true))] }
def Core.slotDec (k : Core) (clk : Nat) (d : Option DReg) : Core :=
  match d with
  | none => k
  | some d => { k with slots := mapPut k.slots d.val (k.slot d - 1), slotLog := k.slotLog ++ [(clk, (d.val, false))] }

/-- The serial of the instruction an asynchronous operation belongs to. -/
def Core.opSerial (k : Core) (id : Nat) : Nat := ((k.ops.find? (fun o => o.id == id)).map AsyncOp.serial).getD 0

/-- The result of an asynchronous operation that completes now: it lands with the other results of this clk, in program
order (R34). -/
def Core.landOp (k : Core) (serial : Nat) (w : Wr) : Core := k.landAt serial 0 w

/-- An engine fault flag set now (R152). -/
def Core.setEngFlag (k : Core) (clk e : Nat) : Core :=
  { k with engFlags := mapPut k.engFlags e (mapGetD k.engFlags e [] ++ [clk]) }

/-! ## The list of dispatched and uncommitted instructions (R48) -/

def Core.modRob (k : Core) (serial : Nat) (f : Rob → Rob) : Core :=
  { k with rob := k.rob.map (fun r => if r.serial = serial then f r else r) }
def Core.robHead (k : Core) : Option Nat := k.rob.head?.map Rob.serial
/-- Marks an instruction done: its results have landed. -/
def Core.finish (k : Core) (serial : Nat) : Core := k.modRob serial (fun r => { r with done := true })
/-- Sets FLAGS bits in a clk (R75). -/
def Core.setFlags (k : Core) (clk f : Nat) : Core :=
  if f = 0 then k
  else { k with flags := k.flags ||| f, flagsSet := (clk, if k.flagsSet.1 = clk then k.flagsSet.2 ||| f else f) }
/-- Clears FLAGS bits in a clk: a bit that is set in the same clk stays set (R75). -/
def Core.clearFlags (k : Core) (clk m : Nat) : Core :=
  let m := if k.flagsSet.1 = clk then m ^^^ (m &&& k.flagsSet.2) else m
  { k with flags := k.flags ^^^ (k.flags &&& m) }
/-- ORs flags that the instruction's commit writes (R75). -/
def Core.addFlags (k : Core) (serial f : Nat) : Core :=
  if f = 0 then k else k.modRob serial (fun r => { r with flags := r.flags ||| f })

/-! ## Issuing (R29, R117) -/

def colI : Nat := 0
def colF : Nat := 1
def colM : Nat := 2
def colV : Nat := 3
def colX : Nat := 4
def colT : Nat := 5
def colC : Nat := 6
def colP : Nat := 7

def Core.free (k : Core) (col : Nat) : Nat := mapGetD k.colFree col 0
def Core.occupy (k : Core) (col n : Nat) : Core := { k with colFree := mapPut k.colFree col (max (k.free col) (k.vcc + n)) }
def Core.queueOf (k : Core) (col : Nat) : List QEntry := mapGetD k.queues col []
def Core.setQueueOf (k : Core) (col : Nat) (l : List QEntry) : Core :=
  { k with queues := if l.isEmpty then mapDel k.queues col else mapPut k.queues col l }

/-- Does a guard of mode 00, 01 or 10 hold (R116)? Mode 11 holds: it predicates elements. -/
def Core.guardOk (k : Core) : Guard → Bool
  | .always => true
  | .ifQ q => k.rq q
  | .ifNotQ q => !k.rq q
  | .elem _ => true

/-- A writer of a q register is visible to the sequencer from a vc on (R37). -/
def Core.qVisible (k : Core) (serial vis : Nat) : Core :=
  { k with qWriters := k.qWriters.map (fun w => if w.1 = serial then (w.1, (w.2.1, vis)) else w) }

/-- A column instruction whose guard is false: its slot counts and falls in the next clk, its column is occupied as if it
ran, and nothing else (R117). -/
def State.skip (s : State) (col : Nat) (occ : Nat := 1) : State :=
  let e := s.ent
  s.modMe (fun k => (((k.slotInc s.clk e.head.set).occupy col occ).qVisible e.serial (k.vcc + 1)).land e.serial 1 e.head.set [])

/-- Issues a fixed-latency instruction: its slot counts, its flags wait for its commit, its writes land `lat` vc from
now, and its column accepts the next issue `occ` vc from now. -/
def State.issue (s : State) (col lat occ flags : Nat) (wrs : List Wr) : State :=
  let e := s.ent
  s.modMe (fun k =>
    ((((k.slotInc s.clk e.head.set).occupy col occ).addFlags e.serial flags).qVisible e.serial (k.vcc + lat + 1)).land
      e.serial lat e.head.set wrs)

/-- Issues a column instruction under its guard. -/
def State.guarded (s : State) (col : Nat) (body : State → State) (occ : Nat := 1) : Res :=
  .next (if s.me.guardOk s.head.guard then body s else s.skip col occ)

/-- An instruction that cannot issue yet goes back to the head of its queue, to be tried in the next vc. -/
def State.requeue (s : State) (col : Nat) : State :=
  s.modMe (fun k => (k.setQueueOf col (s.ent :: k.queueOf col)).occupy col 1)

/-- A column is n vc behind by a rule that is no deviation (R31). -/
def Core.allow (k : Core) (col n : Nat) : Core :=
  if n = 0 then k else { k with slack := mapPut k.slack col (mapGetD k.slack col 0 + n) }

/-- The last vc in which an instruction of a column is not late (R30): its planned one, or the later one up to which rules that
are no deviation keep its column from it (R31). -/
def Core.issueLimit (k : Core) (col : Nat) (e : QEntry) : Nat :=
  e.planned + min (mapGetD k.slack col 0) (k.free col - e.planned)

/-- Issues an asynchronous operation: its slot counts and it commits (R50). `kind` says what its completion does; `due`
is the clk it completes in, or none. Answers its number. -/
def State.issueAsync (s : State) (col occ cls : Nat) (kind : AsyncKind) (due : Option Nat) : Nat × State :=
  let e := s.ent
  let id := s.me.opId
  (id, s.modMe (fun k =>
    let k := ((k.slotInc s.clk e.head.set).occupy col occ).finish e.serial
    { k with opId := id + 1, ops := k.ops ++ [⟨id, e.serial, kind, e.head.set, due, cls, 0⟩] }))

/-! ## S instructions -/

/-- The PC modulo 2^16: a target outside the words of the image is fetched from and faults there (log entry 11). -/
def pcWrap (t : Int) : Nat := wrap 16 t

/-- A redirect: the next word is word t, after 2 vc without a dispatch (R36, R146). -/
def Core.redirect (k : Core) (t : Nat) : Core := { k with pc := t, seqAt := k.vcc + 3 }

/-- Pops the loop entries whose body does not hold the target (R146). -/
def popLoops (t : Nat) : List LoopEntry → List LoopEntry
  | [] => []
  | e :: l => if e.start ≤ t ∧ t ≤ e.stop then e :: l else popLoops t l

/-- The end test of R150 on a loop stack: the stack after it, and the start to loop back to. -/
def endTest (k : Core) (pc : Nat) : List LoopEntry → List LoopEntry × Option Nat
  | [] => ([], none)
  | e :: l =>
    if e.stop ≠ pc then (e :: l, none)
    else
      let exits := match e.xq with
        | some q => k.rq q
        | none => false
      if exits then endTest k pc l
      else if e.cnt > 1 then ({ e with cnt := e.cnt - 1 } :: l, some e.start)
      else endTest k pc l

/-- The q registers that the end test at a PC would read (R150). -/
def endTestReads (k : Core) (pc : Nat) : List LoopEntry → List QReg
  | [] => []
  | e :: l =>
    if e.stop ≠ pc then []
    else match e.xq with
      | some q => q :: (if k.rq q then endTestReads k pc l else if e.cnt > 1 then [] else endTestReads k pc l)
      | none => if e.cnt > 1 then [] else endTestReads k pc l

/-- The sequencer goes on after the word at a PC: to PC + 1, or back to a loop's start (R150). -/
def Core.advance (k : Core) (pc : Nat) : Core :=
  match endTest k pc k.loops with
  | (l, some t) => { k with loops := l }.redirect t
  | (l, none) => { k with loops := l, pc := pc + 1, seqAt := k.vcc + 1 }

/-- The g and q results of an S instruction land in the next vc (R145), and it is done. -/
def State.sFinish (s : State) (wrs : List Wr) : State :=
  let e := s.ent
  s.modMe (fun k =>
    let k := { k.qVisible e.serial (k.vcc + 1) with held := none, waiting := false }
    if wrs.isEmpty then k.finish e.serial else k.land e.serial 1 none wrs)

/-- An S instruction that has executed and does not redirect. -/
def State.sDone (s : State) (wrs : List Wr) : State :=
  (s.sFinish wrs).modMe (fun k => k.advance s.ent.pc)

/-- An S instruction that redirects (R146). -/
def State.sRedirect (s : State) (wrs : List Wr) (t : Nat) : State :=
  (s.sFinish wrs).modMe (fun k => k.redirect t)

/-- An S instruction goes on waiting: it stands in the sequencer, at a stage, and is tried again at a clk. -/
def State.sWait (s : State) (waiting : Bool) (stage mark retry : Nat) (limit : Option Nat) : State :=
  s.modMe (fun k => { k with held := some ⟨s.ent, .waiting waiting, stage, mark, retry, limit⟩, waiting := waiting })

/-- It is tried in the next clk, and is late in a timed block past its planned vc. -/
def State.sHold (s : State) (waiting : Bool) (stage mark : Nat) : State :=
  s.sWait waiting stage mark (s.clk + 1) (some s.ent.planned)

/-- Something else ends the wait: it is not tried again by itself. -/
def retryNever : Nat := 2 ^ 64

/-- An S instruction whose q guard is false finishes; a slot it names counts until the next clk (R117). -/
def State.sSkip (s : State) : State :=
  match s.head.set with
  | none => s.sDone []
  | some d =>
    let e := s.ent
    s.modMe (fun k =>
      let k := { k.qVisible e.serial (k.vcc + 1) with held := none, waiting := false }
      ((k.slotInc s.clk (some d)).land e.serial 1 (some d) []).advance e.pc)

/-- Executes an S instruction under its guard (R117). -/
def State.sGuarded (s : State) (body : State → State) : Res :=
  .next (if s.me.guardOk s.head.guard then body s else s.sSkip)

/-- An S instruction that starts an operation: its slot counts, and the operation completes later (R125). -/
def State.sAsync (s : State) (cls : Nat) (kind : AsyncKind) (due : Option Nat) : Nat × State :=
  let e := s.ent
  let id := s.me.opId
  let s := s.sDone []
  (id, s.modMe (fun k =>
    let k := k.slotInc s.clk e.head.set
    { k with opId := id + 1, ops := k.ops ++ [⟨id, e.serial, kind, e.head.set, due, cls, 0⟩] }))

/-! ## Timing groups and pauses (R337, R338, R341) -/

/-- The cores of a core's timing group that stand on a die. -/
def State.groupOn (s : State) (c die : Nat) : List Nat :=
  match s.launch (s.core c).launch with
  | some l => if l.image.timed then l.cores.filter (fun x => dieOf x == die) else if dieOf c = die then [c] else []
  | none => if dieOf c = die then [c] else []

/-- The other dies of a core's timing group. -/
def State.otherDies (s : State) (c : Nat) : List Nat :=
  match s.launch (s.core c).launch with
  | some l => if l.image.timed then ((List.range 10).filter (fun d => d != dieOf c && l.cores.any (fun x => dieOf x == d))) else []
  | none => []

/-- Begins or ends a pause of a core's timing group on its own die, and sends it to the group's other dies, where it
comes L(d, e) clk later (R341). `own` marks the elastic pause of R338, which counts completions as they come. -/
def State.pauseGroup (s : State) (c : Nat) (begins own : Bool) : State :=
  let f (k : Core) : Core :=
    if begins then { k with pauses := k.pauses + 1, pauseOwn := k.pauseOwn + (if own then 1 else 0) }
    else { k with pauses := k.pauses - 1, pauseOwn := k.pauseOwn - (if own then 1 else 0) }
  let s' := (s.groupOn c (dieOf c)).foldl (fun s x => s.modCore x f) s
  (s.otherDies c).foldl
    (fun s e => { s with msgs := s.msgs ++
      [⟨s.clk + Config.dieLatency (dieOf c) e, c, e, .pause (s.core c).launch e (if begins then 1 else 0) 0⟩] }) s'

/-- Freezes a core's timing group for n clk on its die, and later on the others (R49, R482). -/
def State.freezeGroup (s : State) (c n : Nat) : State :=
  let s' := (s.groupOn c (dieOf c)).foldl (fun s x => s.modCore x (fun k => { k with frozenTo := max k.frozenTo (s.clk + n) })) s
  (s.otherDies c).foldl
    (fun s e => { s with msgs := s.msgs ++
      [⟨s.clk + Config.dieLatency (dieOf c) e, c, e, .pause (s.core c).launch e 2 n⟩] }) s'

/-- Is the VCC of a core held back when this clk ends: frozen, paused, or throttled with every compute die for one clk in
eight (R482)? -/
def State.holding (s : State) (c : Nat) : Bool :=
  let k := s.core c
  decide (s.clk < k.frozenTo) || k.pauses != 0 || (s.isl.hot && decide (c < 4096) && s.now % 8 == 0)

/-- Is a core frozen in this clk: was its VCC held back when the clk began (R338)? -/
def State.frozen (s : State) (c : Nat) : Bool := (s.core c).frozenIn == s.clk && s.clk != 0

/-- Are asynchronous completions of a core held back in this clk (R338)? -/
def State.asyncFrozen (s : State) (c : Nat) : Bool := s.frozen c && (s.core c).pauseOwn == 0

/-! ## Handles, and writes by a physical mesh address -/

/-- A handle-table entry: base, length, R, W, memory type (R328). -/
structure HandleEntry where
  base : Nat
  len  : Nat
  r    : Bool
  w    : Bool
  mt   : Nat
  deriving DecidableEq, Repr

/-- Is a chip field inside the installed torus (R21, R499)? -/
def State.chipInstalled (s : State) (f : Nat) : Bool :=
  decide (fld f 13 7 ≤ fld s.isl.torus 0 7) && decide (fld f 7 6 ≤ fld s.isl.torus 7 6) &&
    decide (fld f 0 7 ≤ fld s.isl.torus 13 7)

/-- Does [base, base + len) lie wholly in one store of an installed chip (R21, R328)? -/
def State.handleRange (s : State) (base len : Nat) : Bool :=
  let off := base % 2 ^ 42
  s.chipInstalled (base / 2 ^ 44) && match spaceOf base with
  | 0 =>
    let c := coreOf base
    let o := fld base 0 29
    let kind := offKind c o
    (!s.isHere base || coreExists c) && decide (o < 2 ^ 20) && kind < 3 &&
      (len = 0 || (decide (o + len ≤ 2 ^ 20) &&
        (match kind with
         | 0 => decide (o + len ≤ (if isGateway c then 0x10000 else 0x40000))
         | 1 => decide (o + len ≤ 0x58000)
         | _ => decide (o + len ≤ 0x68000))))
  | 1 => decide (off + len ≤ 0x6000000000)
  | 2 => decide (off + len ≤ 2 ^ 42)
  | _ => false

/-- The bytes of a handle-table entry (R328). -/
def State.handleWords (s : State) (x id : Nat) : Nat × Nat :=
  let a := hbmKey ((s.ctx x).htBaseEff.toNat + 16 * id)
  (leNat (s.memLoad a 8), leNat (s.memLoad (a + 8) 8))

/-- A handle entry, when it is valid (R328). -/
def State.handle (s : State) (x id : Nat) : Option HandleEntry :=
  if id < (s.ctx x).htCountEff.toNat then
    let (b, w) := s.handleWords x id
    let e : HandleEntry := ⟨b, fld w 0 40, fld w 41 1 == 1, fld w 42 1 == 1, fld w 43 2⟩
    if fld w 40 1 = 1 ∧ s.handleRange b e.len then some e else none
  else none

/-- A handle side checked over n bytes (R246): the mesh address and memory type, or the cause of its trap. -/
def State.handleSide (s : State) (x : Nat) (h : Word) (n : Nat) (wr : Bool) : Except Nat (Nat × Nat) :=
  match s.handle x (fld h.toNat 48 16) with
  | none => .error 0x05
  | some e =>
    if (if wr then e.w else e.r) then
      let off := fld h.toNat 0 48
      if off + n ≤ e.len then .ok (e.base + off, e.mt) else .error 0x06
    else .error 0x05

/-- A write the device makes at a physical mesh address: this package's cores and HBM, the host, or another package. -/
def State.devWrite (s : State) (phys : Nat) (bytes : List Byte) : State :=
  if !s.isHere phys then s.emit .chip (phys / 2 ^ 44) phys bytes
  else if spaceOf phys = 2 then
    let o := phys % 2 ^ 42
    if 0x20000000000 ≤ o then s.emit .host ((o - 0x20000000000) / 2 ^ 40) ((o - 0x20000000000) % 2 ^ 40) bytes
    else s
  else s.memStore (keyOf phys) bytes none

/-! ## Queues as rings of items (R376, R377, R391) -/

def Queue.size (q : Queue) : Nat := 2 ^ fld q.ctl.toNat 4 5
def Queue.kind (q : Queue) : Nat := fld q.ctl.toNat 1 1
def Queue.feed (q : Queue) : Nat := fld q.ctl.toNat 2 1
def Queue.drain (q : Queue) : Nat := fld q.ctl.toNat 3 1
/-- Bytes between CONS and PROD. -/
def Queue.held (q : Queue) : Nat := (q.prod + 2 ^ 32 - q.cons) % 2 ^ 32
def Queue.room (q : Queue) : Nat := q.size - q.held
def Queue.running (q : Queue) : Bool :=
  match q.st with
  | .enabled | .running | .blocked => true
  | _ => false
/-- Does context x own queue q (R472)? -/
def State.ownsQueue (s : State) (x q : Nat) : Bool := decide (q < 16384) && (s.queue q).own == some x

/-- The mesh address of a ring byte. -/
def State.ringAddr (s : State) (q i : Nat) : Option Nat :=
  let u := s.queue q
  match u.own with
  | none => none
  | some x =>
    match s.handle x (fld u.ring.toNat 48 16) with
    | some e => some (e.base + fld u.ring.toNat 0 48 + i % u.size)
    | none => none

/-- One 8-byte item appended at PROD. -/
def State.pushItem (s : State) (q : Nat) (v : Nat) : State :=
  match s.ringAddr q (s.queue q).prod with
  | some a => (s.devWrite a (leBytes 8 v)).modQueue q (fun u => { u with prod := (u.prod + 8) % 2 ^ 32 })
  | none => s

/-- Posts an event record to a context's EVENT_QUEUE, with its MSI-X, or counts it dropped (R391, R469). `body` is
24 bytes. -/
def State.postEvent (s : State) (x code src : Nat) (body : List Byte) : State :=
  let q := (s.ctx x).eventQ.toNat
  let u := s.queue q
  if s.ownsQueue x q && u.running && u.kind == 1 && u.feed == 1 && u.drain == 1 && decide (32 ≤ u.room) then
    let rec8 := code + 4 * 256 + src % 65536 * 65536
    let items := [rec8, leNat (body.take 8), leNat ((body.drop 8).take 8), leNat ((body.drop 16).take 8)]
    let s' := items.foldl (fun s v => s.pushItem q v) s
    if u.held = 0 then s'.emit .host x 0 [] else s'
  else if q < 16384 then s.modQueue q (fun u => { u with drop := u.drop + 1 })
  else s

/-! ## Trace records (R461) -/

def traceRec (ty b1 h2 h4 v : Nat) : List Byte := leBytes 1 ty ++ leBytes 1 b1 ++ leBytes 2 h2 ++ leBytes 2 h4 ++ leBytes 2 0 ++ leBytes 8 v
def traceOn (k : Core) : Bool := fld k.dbg.traceCtl.toNat 0 1 == 1
/-- The sync record: CLK and VCC. -/
def syncRec (clk : Nat) (k : Core) : List Byte := traceRec 0 0 (clk % 65536) (clk / 65536 % 65536) k.vcc

/-- A record enters the encoder, after the sync it owes, or is dropped when 64 wait. -/
def Core.traceAdd (k : Core) (clk : Nat) (r : List Byte) : Core :=
  if !traceOn k then k
  else
    let need := k.dbg.sync || k.dbg.since ≥ 4096
    let add := if need then [syncRec clk k, r] else [r]
    if k.dbg.buffer.length + add.length > 64 then { k with dbg := { k.dbg with drop := k.dbg.drop + 1, sync := true } }
    else { k with dbg := { k.dbg with buffer := k.dbg.buffer ++ add, sync := false, since := if need then 1 else k.dbg.since + 1 } }

/-- The record that an instruction's commit writes. -/
def State.traceAtCommit (s : State) (r : List Byte) : State :=
  s.modMe (fun k => if traceOn k then k.modRob s.ent.serial (fun x => { x with trace := some r }) else k)

/-! ## FITNESS (R404, R405, R408) -/

/-- The evaluation state after a FITSET of a value. -/
def EvalSt.fit (e : EvalSt) (v : Word) : EvalSt :=
  match e with
  | .empty => .empty
  | .retired => .retired
  | _ => if v.toNat % 2 ^ 32 = 0xFF800001 then .evaluating else .scored

/-- FITNESS changed by the draft unit: what an uncommitted FITSET replaced is changed with it. -/
def Core.setFitness (k : Core) (v : Word) : Core :=
  { k.setCv crFITNESS v with wlog := k.wlog.map (fun e => match e.wr with
      | .fit _ => { e with old := .fit v }
      | _ => e) }

/-- FITNESS as committed. -/
def Core.fitCommitted (k : Core) : Word :=
  match k.wlog.findSome? (fun e => match e.wr, e.old with
      | .fit _, .fit v => some v
      | _, _ => none) with
  | some v => v
  | none => k.cv crFITNESS

/-- A write of FITNESS from outside the core's program (R404). -/
def Core.fitNow (k : Core) (v : Word) : Core :=
  { k.setFitness (BitVec.ofNat 64 (v.toNat % 2 ^ 32)) with eval := k.eval.fit v }

/-! ## Region descriptors (R140, R299) -/

/-- The mesh key of a region descriptor in a core's instruction SRAM. -/
def descKey (c d : Nat) : Nat := coreKey c (0x60000 + 16 * d)

/-- The flag byte of a region descriptor; the entry region has none (R297, R299). -/
def State.descFlags (s : State) (c d : Nat) : Nat := if 2048 ≤ d then 0 else leNat (s.memLoad (descKey c d + 13) 1)

/-! ## Words of the remote-read cache (R43) -/

/-- A cached word with its OWN bit. -/
def Core.cacheWord (k : Core) (w : Nat) : Option (Word × Bool) :=
  match k.cache.find? (fun p => p.2.phys == w / 16) with
  | some (_, l) => mapGet l.words w
  | none => none

/-- A change to a cached word that is valid. -/
def Core.modWord (k : Core) (w : Nat) (f : Word × Bool → Word × Bool) : Core :=
  { k with cache := k.cache.map (fun p =>
      if p.2.phys = w / 16 then
        match mapGet p.2.words w with
        | some x => (p.1, { p.2 with words := mapPut p.2.words w (f x) })
        | none => p
      else p) }

/-! ## Landed writes and their undoing (R48, log entry 10) -/

/-- What stands in memory under n bytes at a key. -/
def State.memOld (s : State) (key n : Nat) : Wr :=
  .memPut key (s.memLoad key n) ((unitsOf 16 key n).filter (setMem s.tags)) ((unitsOf 128 key n).filter (setMem s.written))

/-- What stood where a write goes. -/
def State.oldOf (s : State) (c : Nat) (w : Wr) : Wr :=
  let k := s.core c
  match w with
  | .g r _ => .g r (k.rg r)
  | .q r _ => .q r (k.rq r)
  | .v r .. => .vPut r (k.vraw r)
  | .vPut r _ => .vPut r (k.vraw r)
  | .stream r _ => .stream r (mapGet k.streams r.val)
  | .acc r .. => .accPut r (k.ra r)
  | .accPut r _ => .accPut r (k.ra r)
  | .accClearRow r _ => .accPut r (k.ra r)
  | .mem key bs _ => s.memOld key bs.length
  | .st key bs .. => s.memOld key bs.length
  | .xput key bs _ => s.memOld key bs.length
  | .memPut key bs .. => s.memOld key bs.length
  | .wc i _ => .wc i (mapGet k.wcb i)
  | .cached w _ =>
    match k.cacheWord w with
    | some x => .cached w x.1
    | none => .none
  | .lines l => .lines (l.map (fun p => (p.1, ((s.lineAt p.1).expect, (s.lineAt p.1).arm))))
  | .cr n _ => .cr n (k.cv n)
  | .slice .. => .slice k.slice.kcfg k.slice.bz k.slice.astr k.slice.bstr
  | .bbuf .. => .bbuf k.slice.bfmt k.slice.kb k.slice.rows
  | .flags _ => .none
  | .flagsClr _ => .none
  | .engDel e l => .engAdd e l
  | .engAdd e l => .engDel e l
  | .fit _ => .fit (k.cv crFITNESS)
  | .ack _ => .none
  | .acquire => .none
  | .pop j n => .pop j (-n)
  | .copyFault g _ => .copyFault g (mapGetD k.groups g ⟨0, none⟩).fault
  | .qDel j pos =>
    match mapGet k.rqs j with
    | some q => .qIns j pos (q.vecs.getD pos 0)
    | none => .none
  | .qIns .. => .none
  | .none => .none

/-- Sets EXPECT and ARM of lines. -/
def State.setLines (s : State) (l : List (Nat × (Nat × Bool))) : State :=
  l.foldl (fun s p => s.setLine p.1 ⟨(s.lineAt p.1).seq, p.2.1, p.2.2⟩) s

/-- The words of the remote-read cache that stay: those with OWN set. -/
def CacheLine.acquire (l : CacheLine) : CacheLine := { l with words := l.words.filter (fun w => w.2.2) }

/-- The acquire action (R272). -/
def Core.acquire (k : Core) : Core :=
  { k with cache := (k.cache.map (fun p => (p.1, p.2.acquire))).filter (fun p => !p.2.words.isEmpty) }

/-- A write takes its place. -/
def State.applyWr (s : State) (c : Nat) (w : Wr) : State :=
  match w with
  | .g r v => s.modCore c (fun k => k.wg r v)
  | .q r b => s.modCore c (fun k => k.wq r b)
  | .v r fmt bits keep part e =>
    s.modCore c (fun k =>
      let old := k.rv r
      let base := if old.fmt = fmt then old.bits else absentBits fmt
      k.wv r ⟨(bits &&& ~~~(keep ||| part)) ||| (old.bits &&& keep) ||| (base &&& (part &&& ~~~keep)), fmt,
        match e with
        | .never => none
        | .fresh => some (k.vcc + 4096)
        | .at x => some x⟩)
  | .vPut r x => s.modCore c (fun k => k.wv r x)
  | .stream r x =>
    s.modCore c (fun k => match x with
      | some t => { k with streams := mapPut k.streams r.val t }
      | none => { k with streams := mapDel k.streams r.val })
  | .acc r tag cells =>
    s.modCore c (fun k => k.wa r (cells.foldl (fun a p => a.put p.1 p.2) { k.ra r with tag := tag }))
  | .accPut r a => s.modCore c (fun k => k.wa r a)
  | .accClearRow r row =>
    s.modCore c (fun k => k.wa r ((List.range 64).foldl (fun a j => a.put (64 * row + j) (0, 0)) (k.ra r)))
  | .mem key bs tag => s.memStore key bs tag
  | .st key bs tag _ => s.memStore key bs tag
  | .xput key bs _ => s.memStore key bs none
  | .wc i l =>
    s.modCore c (fun k =>
      { k with wcb := match l with
          | some l => mapPut k.wcb i l
          | none => mapDel k.wcb i })
  | .cached w v => s.modCore c (fun k => k.modWord w (fun x => (v, x.2)))
  | .memPut key bs ts ws =>
    { s with mem := memWrite s.mem key bs,
             tags := (unitsOf 16 key bs.length).foldl (fun t g => if ts.contains g then setAdd t g else setDel t g) s.tags,
             written := (unitsOf 128 key bs.length).foldl (fun t g => if ws.contains g then setAdd t g else setDel t g) s.written }
  | .lines l => s.setLines l
  | .cr n v =>
    s.modCore c (fun k =>
      let k := k.setCv n v
      if n = crREGION then { k with region := { k.region with desc := fld v.toNat 12 12, pc := fld v.toNat 0 12,
                                                              flags := s.descFlags c (fld v.toNat 12 12) } }
      else k)
  | .slice kc bz a b => s.modCore c (fun k => { k with slice := { k.slice with kcfg := kc, bz := bz, astr := a, bstr := b } })
  | .bbuf f kb rows => s.modCore c (fun k => { k with slice := { k.slice with bfmt := f, kb := kb, rows := rows } })
  | .flags f => s.modCore c (fun k => k.setFlags s.clk f)
  | .flagsClr m => s.modCore c (fun k => k.clearFlags s.clk m)
  | .engDel e l =>
    s.modCore c (fun k =>
      match (mapGetD k.engFlags e []).filter (fun t => !l.contains t) with
      | [] => { k with engFlags := mapDel k.engFlags e }
      | l => { k with engFlags := mapPut k.engFlags e l })
  | .engAdd e l => s.modCore c (fun k => { k with engFlags := mapPut k.engFlags e (l ++ mapGetD k.engFlags e []) })
  | .acquire => s.modCore c Core.acquire
  | .fit v => s.modCore c (fun k => k.setCv crFITNESS (BitVec.ofNat 64 (v.toNat % 2 ^ 32)))
  | .ack id => s.modCore c (fun k => { k with stores := k.stores.filter (fun x => x.id != id) })
  | .pop j n =>
    s.modCore c (fun k =>
      match mapGet k.rqs j with
      | some q => { k with rqs := mapPut k.rqs j { q with popped := ((q.popped : Int) + n).toNat } }
      | none => k)
  | .copyFault g f =>
    s.modCore c (fun k => { k with groups := mapPut k.groups g { mapGetD k.groups g ⟨0, none⟩ with fault := f } })
  | .qDel j pos =>
    s.modCore c (fun k =>
      match mapGet k.rqs j with
      | some q => { k with rqs := mapPut k.rqs j { q with vecs := q.vecs.eraseIdx pos, mark := (q.mark + 1) % 16 } }
      | none => k)
  | .qIns j pos x =>
    s.modCore c (fun k =>
      match mapGet k.rqs j with
      | some q =>
        { k with rqs := mapPut k.rqs j { q with vecs := q.vecs.take pos ++ x :: q.vecs.drop pos, mark := (q.mark + 15) % 16 } }
      | none => k)
  | .none => s

/-- Does a write go to memory? -/
def Wr.toMem (w : Wr) : Bool :=
  match w with
  | .mem .. => true
  | .xput .. => true
  | .st .. => true
  | _ => false

/-- A landing write: what it replaces is kept until its instruction has committed. An asynchronous instruction commits when it
issues (R50): what it lands later stays. So does what the steps of a stream run before a step that has raised a trap have
written to memory (R217). -/
def State.landWr (s : State) (c serial : Nat) (w : Wr) : State :=
  match w with
  | .none => s
  | .flags _ => s.applyWr c w
  | .ack _ => s.applyWr c w
  | .acquire => s.applyWr c w
  | _ =>
    let old := s.oldOf c w
    let s := s.applyWr c w
    match (s.core c).rob.find? (fun r => r.serial == serial && !r.done) with
    | some r => s.modCore c (fun k => { k with wlog := k.wlog ++ [⟨if r.trap.isSome && w.toMem then 0 else serial, w, old⟩] })
    | none => s

/-- The landed writes of instructions from `from` on are undone: from the first of them on all are taken back, newest first,
and those of older instructions made again. -/
def State.rewind (s : State) (c fromSerial : Nat) : State :=
  let log := (s.core c).wlog
  let old (e : LogEntry) : Bool := decide (e.serial < fromSerial)
  if log.all old then s
  else
    let late := log.dropWhile old
    let s := late.reverse.foldl (fun s e => s.applyWr c e.old) s
    let s := (late.filter old).foldl (fun s e => s.applyWr c e.wr) s
    s.modCore c (fun k => { k with wlog := log.filter old })

/-- The mark in `colHold` of a GMMA that waits for its gang. -/
def gmmaHold : Nat := 2 ^ 41

/-- A GMMA that waits for its gang is discarded: its join is the last of its core. -/
def Core.dropGmma (k : Core) : Core :=
  match k.gmma with
  | some _ =>
    { k with gmma := none, joins := k.joins.dropLast, colHold := k.colHold.filter (fun p => p.2 != gmmaHold) }
  | none => k

/-- SEQ_ADVANCE (R264): both tags advance by one. -/
def seqAdvance (v : Word) : Word :=
  let x := v.toNat
  BitVec.ofNat 64 (setFld (setFld x 0 8 (fld x 0 8 + 1)) 8 8 (fld x 8 8 + 1))

/-- SEQ_EXPECT after an end-of-phase marker: it advances where AUTO is 1 (R264). -/
def seqMarked (v : Word) : Word := if fld v.toNat 16 1 = 1 then seqAdvance v else v

/-- Is a landed write one of SEQ_EXPECT? -/
def LogEntry.isSeq (e : LogEntry) : Bool :=
  match e.wr with
  | .cr n _ => n == crSEQ
  | _ => false

/-- The SEQ_EXPECT value that every instruction dispatched so far leaves (R264): the last one written, and the markers of the
uncommitted instructions from that write on. -/
def Core.stampSeq (k : Core) : Core :=
  let last := (k.wlog.filter LogEntry.isSeq).foldl (fun n e => max n e.serial) 0
  let marks := k.rob.countP (fun r => r.phase && decide (last ≤ r.serial))
  { k with seqSpec := seqMarked^[marks] (k.cv crSEQ) }

/-- Discards every dispatched instruction from a serial on (R48, R287): its queue entry, its results in flight, its
landed writes, its parked store and its store on the way (R7). A slot that only such a result held is freed. -/
def State.flushFrom (s : State) (c n : Nat) : State :=
  let s := s.rewind c n
  let clk := s.clk
  let young (m : Msg) : Option Nat := match m.body.storeOf with
    | some r => if m.src = c ∧ r.src = c ∧ n ≤ r.serial then some r.id else none
    | none => none
  let unsent := s.msgs.filterMap young
  let s := { s with msgs := s.msgs.filter (fun m => (young m).isNone) }
  s.modCore c (fun k =>
    let k := match k.rob.find? (fun r => decide (n ≤ r.serial)) with
      | some r => { k with loops := r.loops, block := r.block }
      | none => k
    let stays (l : Landing) : Bool := decide (l.serial < n) ||
      (k.rob.any (fun r => r.serial == l.serial && r.done) && (match l.wr with
        | .ack _ => false
        | _ => true))
    let gone := k.landings.filter (fun l => !stays l)
    let lost := gone.filterMap (fun l => match l.wr with
      | .ack id => some id
      | _ => none) ++ unsent
    let k := { k with stores := k.stores.filter (fun x => !lost.contains x.id),
                      colHold := k.colHold.filter (fun p => !(p.1 == colM && unsent.contains p.2)),
                      replay := k.replay.filter (fun p => decide (p.serial < n)) }
    let k := gone.foldl (fun k l => k.slotDec clk l.slot) k
    let k := match k.vredq with
      | some v =>
        if n ≤ v.serial then { k.slotDec clk v.slot with vredq := none, colHold := k.colHold.filter (fun p => p.2 != 2 ^ 40) } else k
      | none => k
    let k := match k.gmma with
      | some w => if n ≤ w.serial then k.dropGmma else k
      | none => k
    let tgone := k.tops.filter (fun t => decide (n ≤ t.serial))
    let k := tgone.foldl (fun k t => k.slotDec clk t.slot) k
    let k := { k with
      landings := k.landings.filter stays
      rob := k.rob.filter (fun r => decide (r.serial < n))
      queues := (k.queues.map (fun (p : Nat × List QEntry) => (p.1, p.2.filter (fun (e : QEntry) => decide (e.serial < n))))).filter (fun p => !p.2.isEmpty)
      held := match k.held with
        | some h => if n ≤ h.entry.serial then none else some h
        | none => none
      qWriters := k.qWriters.filter (fun w => decide (w.1 < n))
      tops := k.tops.filter (fun t => decide (t.serial < n))
      locks := k.locks.filter (fun p => match p.2.owner with
        | .tensor m => decide (m < n)
        | .group _ => true)
      wlog := k.wlog.filter (fun e => decide (e.serial < n))
      trapAt := none }
    k.stampSeq)

/-- Some landed writes stay although their instruction is discarded. -/
def Core.keepWrites (k : Core) (p : LogEntry → Bool) : Core :=
  { k with wlog := k.wlog.map (fun e => if p e then { e with serial := 0 } else e) }

/-- Discards everything dispatched and not committed. -/
def State.flushAll (s : State) (c : Nat) : State :=
  match (s.core c).robHead with
  | some n => s.flushFrom c n
  | none => { s.modCore c (fun k => { k with held := none, queues := [], qWriters := [], trapAt := none }) with hand := s.hand }

/-! ## Barrier instances (R367 to R369) -/

/-- The key of an instance: its context, kind, gang or die or package, and slot. -/
def barKey (x kind place slot : Nat) : Nat := ((x * 4 + kind) * 512 + place) * 64 + slot

def Barrier.free (x kind place slot : Nat) : Barrier :=
  { ctx := x, kind := kind, place := place, slot := slot, st := .free, once := false, launch := 0, n := 0, count := 0,
    episode := 0, tag := 0, p := 0, reason := 0, waiters := [], last := [], releases := 0, brokenAt := 0,
    snapped := false, snapEp := none, snapEnd := 0, rolls := 0 }

/-- The place of an instance of a kind, seen from a core. -/
def barPlace (kind c : Nat) : Nat := if kind = 0 then gangOf c else if kind = 1 then dieOf c else 0

def State.bar (s : State) (key : Nat) : Barrier :=
  mapGetD s.barriers key (Barrier.free (key / 64 / 512 / 4) (key / 64 / 512 % 4) (key / 64 % 512) (key % 64))
def State.setBar (s : State) (key : Nat) (b : Barrier) : State := { s with barriers := mapPut s.barriers key b }
def State.modBar (s : State) (key : Nat) (f : Barrier → Barrier) : State := s.setBar key (f (s.bar key))

/-- The cores of a launch group that are members of an instance (R367). -/
def State.barMembers (s : State) (b : Barrier) : List Nat :=
  match s.launch b.launch with
  | some l => l.cores.filter (fun c => b.kind ≥ 2 || barPlace b.kind c == b.place)
  | none => []

/-- Members whose unit has entered DONE (R369). -/
def State.barEnded (s : State) (b : Barrier) : Nat :=
  ((s.barMembers b).filter (fun c => (s.core c).unit == .done)).length

/-- The release latency of a kind; a global instance's is variable (R367). -/
def State.barLatency (s : State) (kind : Nat) : Nat × State :=
  if kind = 0 then (3, s) else if kind = 1 then (6, s) else if kind = 2 then (24, s) else s.draw

/-- An instance breaks (R369): its waiters raise BARRIER_BROKEN after the release latency. -/
def State.barBreak (s : State) (key reason : Nat) : State :=
  let b := s.bar key
  match b.st with
  | .armed | .collecting =>
    let (lat, s) := s.barLatency b.kind
    s.setBar key { b with st := .broken, reason := reason, brokenAt := s.clk + lat }
  | _ => s

/-- The keys of the instances that a core of a launch is a member of. -/
def State.barsOf (s : State) (c : Nat) : List Nat :=
  let l := (s.core c).launch
  (s.barriers.filter (fun p => p.2.launch == l && l != 0 && (p.2.kind ≥ 2 || barPlace p.2.kind c == p.2.place))).map (·.1)

/-- A member is lost: the instances it belongs to break (R369). -/
def State.barMemberLost (s : State) (c reason : Nat) : State := (s.barsOf c).foldl (fun s key => s.barBreak key reason) s

/-! ## Stops, escalation, taking a trap (R287, R293, R454) -/

/-- The core stops under its debug module: reason, resume PC, the trace record, and the pause of its group. -/
def State.stopCore (s : State) (c reason pc : Nat) : State :=
  if (s.core c).dbg.stopped then s
  else
    let s := s.modCore c (fun k =>
      ({ k with dbg := { k.dbg with stopped := true, reason := reason, pc := pc % 4096, steps := none } }).traceAdd s.now
        (traceRec 7 reason (pc % 65536) 0 k.vcc))
    s.pauseGroup c true false

/-- The body of a fault record (R392). -/
def faultBody (t : Trap) (pc : Nat) (nested esc limit : Bool) : List Byte :=
  leBytes 8 t.addr ++ leBytes 8 t.info ++ leBytes 2 pc ++
    leBytes 1 ((if nested then 1 else 0) + (if esc then 2 else 0) + (if limit then 4 else 0)) ++ leBytes 1 t.resume ++ leBytes 4 0

/-- Escalation (R293): the core stops, its fault record is posted, its unit and its context are FAULTED. -/
def State.escalate (s : State) (c : Nat) (t : Trap) (pc : Nat) (nested : Bool) : State :=
  let k := s.core c
  let s := s.stopCore c 6 pc
  let s := s.modCore c (fun k => { k with unit := if k.unit = .running then .faulted else k.unit, waiting := false })
  let s := if k.unit = .running then s.barMemberLost c 3 else s
  match k.ctx with
  | some x =>
    let s := s.postEvent x t.cause c (faultBody t pc nested (fld k.region.flags 1 1 == 1) false)
    s.modCtx x (fun y => if y.st = .running then { y with st := .faulted } else y)
  | none => s

/-- TRAP_CAUSE as R288 lays it out, for a trap taken at a privilege. -/
def causeWord (t : Trap) (priv : Bool) : Word :=
  BitVec.ofNat 64 (2 ^ 15 + (if priv then 2 ^ 14 else 0) + (if t.imprecise then 2 ^ 13 else 0) + t.resume % 4 * 2 ^ 10 + t.cause % 256)

/-- One element of VREDQ (R209): value and count of the accumulator, the element, the value after, and flags. -/
def vredqElem (f : Fmt) (a : BitVec 32 × Nat) (x : Nat) : (BitVec 32 × Nat) × Nat :=
  if elemAbsent f x then (a, 0)
  else
    let old := readElem .f32 a.1.toNat
    let (r, g) : Num × Nat := if old.isAbsent then (readElem f x, (readElem f x).sigFlag) else numAdd old (readElem f x)
    let (b, h) := writeElem .f32 false false r
    ((BitVec.ofNat 32 b, min 65535 (a.2 + 1)), g ||| h ||| flagIf (a.2 == 65535) flagCNT)

/-- The additions of the oldest vector a running VREDQ has taken land: its row, its progress, its flags. -/
def State.vredqAdd (s : State) (c : Nat) : State :=
  match (s.core c).vredq with
  | none => s
  | some v =>
    match v.taken with
    | [] => s
    | (_, x) :: rest =>
      let k := s.core c
      let rs := ((elems x (fmtWidth v.fmt)).zipIdx).map (fun p => (64 * v.row + p.2, vredqElem v.fmt ((k.ra v.acc).at v.row p.2) p.1))
      let j := v.prog - rest.length
      let s := s.landWr c v.serial (.acc v.acc .f32 (rs.map (fun p => (p.1, p.2.1))))
      let s := s.landWr c v.serial (.g v.g (GVal.data (BitVec.ofNat 64 (setFld (k.rgv v.g).toNat 0 16 j))))
      s.modCore c (fun k =>
        { k.addFlags v.serial (rs.foldl (fun f p => f ||| p.2.2) 0) with vredq := some { v with taken := rest } })

/-- The mark in `colHold` of a VREDQ that holds the V column. -/
def vredqHold : Nat := 2 ^ 40

/-- A VREDQ leaves the V column. -/
def Core.freeVredq (k : Core) (clk : Nat) : Core :=
  match k.vredq with
  | some v => { k.slotDec clk v.slot with vredq := none, colHold := k.colHold.filter (fun p => p.2 != vredqHold) }
  | none => k

/-- A running VREDQ stops between two vectors (R210, R302): what it has taken is added and stays. -/
def State.stopVredq (s : State) (c : Nat) : State :=
  match (s.core c).vredq with
  | none => s
  | some v =>
    let s := v.taken.foldl (fun s _ => s.vredqAdd c) s
    s.modCore c (fun k => (k.freeVredq s.clk).keepWrites (fun e => e.serial == v.serial))

/-- The registers that trap entry writes: the trap fields of R287 when none is active, and the loop stack kept. -/
def Core.trapFields (k : Core) (t : Trap) (pc : Nat) : Core :=
  if k.active then k
  else
    let k := (((k.setCv crTRAP_CAUSE (causeWord t k.priv)).setCv crTRAP_PC (BitVec.ofNat 64 (pc % 4096))).setCv
      crTRAP_ADDR (BitVec.ofNat 64 t.addr)).setCv crTRAP_INFO (BitVec.ofNat 64 t.info)
    { k with trapLoops := k.loops, loops := [] }

/-- An attached follower that takes a trap or is pre-empted diverges (R45). MODE is R361's: 1 leader, 2 follower
attached, 3 follower diverged. -/
def Core.diverge (k : Core) : Core := if k.mode = 2 then { k with mode := 3 } else k

/-- Takes a trap at a PC (R287): everything uncommitted is discarded, the timed block ends, the trap fields and the
loop stack are kept, and the core goes to its handler at S privilege or escalates. RESUME 4 stands for a stop of the
debug module at the instruction, its reason in `info` (R456, R458). A trap in a timed block discards the block, and returns to its
region (R303). -/
def State.takeTrap (s : State) (c pc : Nat) (t : Trap) : State :=
  if t.resume = 4 then
    ((s.flushAll c).modCore c (fun k => { k with pc := pc, seqAt := k.vcc + 1 })).stopCore c t.info pc
  else
  let (s, pc, t) := match (s.core c).vredq with
    | some x =>
      if (s.core c).robHead = some x.serial then (s.stopVredq c, x.pc, { t with resume := if t.resume = 3 then 3 else 1 }) else (s, pc, t)
    | none => (s, pc, t)
  let s := s.flushAll c
  let k := s.core c
  let t := if k.block.isSome ∧ t.resume ≠ 3 then { t with resume := 0 } else t
  let nested := k.active
  let esc := nested || k.cf crHANDLER 12 1 == 0 || fld k.region.flags 1 1 == 1
  let k := { (k.trapFields t pc).diverge with block := none, waiting := false, saving := if k.saving = 1 then 0 else k.saving }
  if esc then (s.setCore c k).escalate c t pc nested
  else
    let h := k.cf crHANDLER 0 12
    let k := ({ k with priv := true }).redirect h
    s.setCore c (k.traceAdd s.now (traceRec 4 t.cause (pc % 4096) h k.vcc))

/-- The operations and results in flight that hold a slot. -/
def Core.slotHolders (k : Core) (d : DReg) : Nat :=
  k.landings.countP (fun l => l.slot == some d) + k.ops.countP (fun o => o.slot == some d) +
    k.descs.countP (fun p => p.2.slot == some d) + k.tops.countP (fun t => t.slot == some d) +
    (match k.vredq with
      | some v => if v.slot = some d then 1 else 0
      | none => 0)

/-- ReplayRegion (R301): the loop stack, the stream indices and the heads of the receive queues as the region record
has them, every slot that nothing holds at zero, and the next word at REGION_PC. -/
def Core.replayRegion (k : Core) : Core :=
  let back (p : Nat × Stream) : Nat × Stream :=
    match mapGet k.region.indices p.1 with
    | some (a, b, c) => (p.1, { p.2 with i0 := a, i1 := b, i2 := c })
    | none => p
  { k with
    loops := k.region.loops
    streams := k.streams.map back
    rqs := k.rqs.map (fun (p : Nat × RecvQ) => (p.1, { p.2 with popped := 0 }))
    slots := k.slots.filter (fun p => k.slotHolders (Fin.ofNat 8 p.1) != 0) }.redirect (k.cf crREGION 0 12)

/-- The return from a trap (R296) with a RESUME kind other than NONE: the privilege before it, ACTIVE 0, and the next
word at the region's start, at the instruction itself, or after it. -/
def Core.returnTrap (k : Core) (kind : Nat) : Core :=
  let pc := k.cf crTRAP_PC 0 12
  let k := { k.setCf crTRAP_CAUSE 15 1 0 with priv := k.cf crTRAP_CAUSE 14 1 == 1 }
  match kind with
  | 0 => k.replayRegion
  | 1 => { k with loops := k.trapLoops }.redirect pc
  | _ => { { k with loops := k.trapLoops }.advance pc with seqAt := k.vcc + 3 }

/-- Is an instruction the oldest uncommitted one but for a running VREDQ (R302)? -/
def Core.afterVredq (k : Core) (serial : Nat) : Bool :=
  match k.vredq, k.rob with
  | some v, a :: b :: _ => a.serial == v.serial && b.serial == serial
  | _, _ => false

/-- The instruction in hand raises a precise trap (R287, R7): taken at once when it is the oldest uncommitted one, else
when it has become that; until then nothing younger dispatches or issues. -/
def State.raise (s : State) (t : Trap) : State :=
  let e := s.ent
  let k := s.me
  if k.robHead = some e.serial ∨ k.rob.isEmpty ∨ k.afterVredq e.serial then s.takeTrap s.hand.core e.pc t
  else
    s.modMe (fun k =>
      { k.modRob e.serial (fun r => { r with trap := some t }) with
        trapAt := match k.trapAt with
          | some n => some (min n e.serial)
          | none => some e.serial })

/-- A precise trap with RESUME REGION (R290). -/
def State.trap (s : State) (cause addr info : Nat) : State := s.raise ⟨cause, addr, info, 0, false⟩

def causeILLEGAL : Nat := 0x01
def causePRIV : Nat := 0x02
def causeFORMAT : Nat := 0x03
def causeTAG : Nat := 0x04
def causePERM : Nat := 0x05
def causeBOUNDS : Nat := 0x06
def causeSEAL : Nat := 0x07
def causeALIGN : Nat := 0x08
def causePLOAD : Nat := 0x09
def causePARKED : Nat := 0x0A
def causePENGINE : Nat := 0x0B
def causeLOCK : Nat := 0x0C
def causeTIMING : Nat := 0x0D
def causeSCHEDULE : Nat := 0x0E
def causeDEADLINE : Nat := 0x0F
def causeBUDGET : Nat := 0x10
def causeBROKEN : Nat := 0x11
def causeOVERLAP : Nat := 0x12
def causeENGINE : Nat := 0x14
def causeECC : Nat := 0x15
def causeCHECKER : Nat := 0x16
def causeLINK : Nat := 0x17
def causeCOLL : Nat := 0x18
def causeSW : Nat := 0x20
def causeBKPT : Nat := 0x21
def causeWATCH : Nat := 0x22
def causeSTEP : Nat := 0x23
def causePREEMPT : Nat := 0x30
def causeCANCEL : Nat := 0x31

/-- TRAP_INFO of TIMING (R347). -/
def timingInfo (late block reason : Nat) : Nat := min late 0xFFFFFFFF * 65536 + block % 256 * 256 + reason

/-- TIMING at the instruction in hand. -/
def State.timing (s : State) (late reason : Nat) : State :=
  let b := match s.ent.block with
    | some (b, _) => b
    | none => match s.me.block with
      | some (b, _) => b
      | none => 0
  s.trap causeTIMING 0 (timingInfo late b reason)

/-- An engine fault becomes pending (R291): the first failing address of each engine is kept, and the flag is set. -/
def State.engineFault (s : State) (c e addr info : Nat) : State :=
  let clk := s.clk
  s.modCore c (fun k =>
    let k := k.setEngFlag clk e
    let held := (mapGet k.pend.engine e).isSome
    let l := if held then k.pend.engine else mapPut k.pend.engine e ⟨causeENGINE, addr, info, 0, true⟩
    { k with pend := { k.pend with engine := l } })

/-- A wait of n clk that the instruction in hand has found (R30): TIMING in a strict block, a pause in an elastic one
(answering that the result is not late in vc), and otherwise just late. Answers the state, the vc to add, and whether
a trap was raised. -/
def State.waitClk (s : State) (n : Nat) : State × Nat × Bool :=
  if n = 0 then (s, 0, false)
  else match s.ent.block with
    | none => (s, n, false)
    | some (_, true) => (s.timing n 1, 0, true)
    | some (_, false) => (s.freezeGroup s.hand.core n, 0, false)

end Sys2Proof.Machine
end

