-- ==== Sys2Proof/Machine/Operands.lean ====
section
/-! DEFINITION. Operands: immediates, capabilities and their checks (R55 to R61), translation (R314 to R321), the
range-lock table (R280), armed lines (R266), watch registers (R458), and errors met by a read (R449 to R452). -/

namespace Sys2Proof.Machine

/-! ## Values -/

/-- A g register's value, or the immediate sign-extended (R166). -/
def Core.gimm (k : Core) : GImm → Word
  | .reg g => k.rgv g
  | .imm v => wordOfInt v

/-- A g register's value, a short immediate sign-extended, or a joined one sign-extended from 32 bits. -/
def Core.gimmj (k : Core) : GImmJ → Word
  | .reg g => k.rgv g
  | .imm v => wordOfInt v
  | .joined v => wordOfInt (sext 32 v)

/-! ## Capabilities (R53 to R56) -/

def pR : Nat := 11
def pW : Nat := 10
def pX : Nat := 9
def pLDCAP : Nat := 8
def pSTCAP : Nat := 7
def pATOM : Nat := 6
def pREMOTE : Nat := 5
def pENGINE : Nat := 4
def pREL : Nat := 3
def pSPILL : Nat := 2
def pGLOBAL : Nat := 1
def pSYS : Nat := 0

def mdPerms (m : Word) : Nat := fld m.toNat 52 12
def mdG (m : Word) : Nat := fld m.toNat 46 6
def mdOfs (m : Word) : Int := sext 21 (fld m.toNat 25 21)
def mdLen (m : Word) : Nat := fld m.toNat 5 20
def mdSeal (m : Word) : Nat := fld m.toNat 0 5
/-- Metadata from its fields (R53). -/
def mdMake (perms g : Nat) (ofs : Int) (len sl : Nat) : Word :=
  BitVec.ofNat 64 (perms % 4096 * 2 ^ 52 + g % 64 * 2 ^ 46 + wrap 21 ofs * 2 ^ 25 + len % 2 ^ 20 * 2 ^ 5 + sl % 32)
def mdHas (m : Word) (p : Nat) : Bool := fld (mdPerms m) p 1 == 1

def capWhole (m : Word) : Bool := mdG m == 63 && mdOfs m == 0 && mdLen m == 0
/-- The base of R55, an exact integer. -/
def capBase (v m : Word) : Int :=
  if capWhole m then 0 else ((v.toNat / 2 ^ mdG m : Nat) - mdOfs m) * (2 ^ mdG m : Nat)
/-- The top of R55. -/
def capTop (v m : Word) : Int :=
  if capWhole m then 2 ^ 64 else capBase v m + ((mdLen m * 2 ^ mdG m : Nat) : Int)
/-- Is the metadata valid for the address (R55)? -/
def capValid (v m : Word) : Bool :=
  capWhole m || (decide (mdG m ≤ 44) && decide (0 ≤ capBase v m) && decide (capTop v m ≤ 2 ^ 64))
/-- Is an address in the representable window (R56)? -/
def capWindow (v m : Word) (a : Nat) : Bool :=
  capWhole m ||
    (decide (capBase v m - 2 ^ (mdG m + 20) ≤ (a : Int)) && decide ((a : Int) < capBase v m + 2 ^ (mdG m + 20)))
/-- The metadata with OFS rewritten so that base and top stay where they are (R56). -/
def capMoved (v m : Word) (a : Nat) : Word :=
  if capWhole m then m
  else mdMake (mdPerms m) (mdG m) ((a / 2 ^ mdG m : Nat) - capBase v m / (2 ^ mdG m : Nat)) (mdLen m) (mdSeal m)
/-- A capability with its address moved, as CINC and CSETA move it (R174): tag 0 outside the window. -/
def GVal.moveTo (c : GVal) (a : Nat) : GVal :=
  let a := a % 2 ^ 64
  ⟨BitVec.ofNat 64 a, capMoved c.val c.md a, c.tag && capWindow c.val c.md a⟩
/-- CapIncrement of R120. -/
def GVal.inc (c : GVal) (d : Int) : GVal := c.moveTo (wrap 64 (c.val.toNat + d))

/-- TRAP_INFO of a capability trap: field number and g index (R290). -/
def capInfo (field : Nat) (g : GReg) : Nat := field + 16 * g.val

/-- Steps 1 to 5 of R57: the cause of the first check that fails. `need` lists permission bits; `entry` accepts an
entry capability (R58). -/
def capCheck (c : GVal) (x n align : Nat) (need : List Nat) (entry : Bool) : Option Nat :=
  if !c.tag then some causeTAG
  else if !(mdSeal c.md == 0 || (entry && mdSeal c.md == 1)) then some causeSEAL
  else if !(need.all (mdHas c.md)) then some causePERM
  else if !(decide (capBase c.val c.md ≤ (x : Int)) && decide ((x : Int) + (n : Int) ≤ capTop c.val c.md)) then some causeBOUNDS
  else if align ≠ 0 ∧ x % align ≠ 0 then some causeALIGN
  else none

/-- The core named by a REL address (R61), or none where the group has no rectangle. -/
def relCore (rect : Nat) (x : Nat) : Option Nat :=
  let h := fld rect 12 9
  let w := fld rect 21 5
  if h = 0 ∨ w = 0 then none
  else
    let rr := (((fld rect 32 9 : Nat) : Int) + sext 8 (fld x 34 8)) % (h : Int)
    let cc := (((fld rect 44 4 : Nat) : Int) + sext 5 (fld x 29 5)) % (w : Int)
    if fld rect 26 1 = 1 then
      some (4096 + 8 * (fld rect 0 8 + rr.toNat) + fld rect 8 4 + cc.toNat)
    else
      let gr := fld rect 0 8 + rr.toNat
      some (gr / 32 * 512 + gr % 32 * 16 + fld rect 8 4 + cc.toNat)

/-- The virtual address a capability's address x stands for (R61), for the core in hand; none raises CAP_PERM. -/
def State.relResolve (s : State) (c : GVal) (x : Nat) : Option Nat :=
  if mdHas c.md pREL then
    match relCore (s.me.cv crRECT).toNat x with
    | none => none
    | some t =>
      if t ≠ s.hand.core ∧ !mdHas c.md pREMOTE then none else some (setFld x 29 13 t)
  else some x

/-- The address and the moved capability of a memory operand (R120). -/
def Core.memAddr (k : Core) (m : MemOp) (z : Nat) : Nat :=
  if m.post then (k.rgv m.g).toNat else wrap 64 ((k.rgv m.g).toNat + m.count * z)
/-- The write of a post-incremented register, landing with latency 1 (R120). -/
def Core.postInc (k : Core) (m : MemOp) (z : Nat) : List Wr :=
  if m.post then [.g m.g ((k.rg m.g).inc (m.count * z))] else []

/-! ## Errors met by a read (R447 to R452) -/

/-- Writes one error report, and posts codes 3 and 4 to the context concerned (R450). -/
def State.errReport (s : State) (code flags : Nat) (x : Option Nat) (id phys len va consumer kind b35 : Nat) : State :=
  let f := match x with
    | some y => y
    | none => 0xFFFF
  let body := leBytes 4 id ++ leBytes 8 phys ++ leBytes 4 len ++ leBytes 4 0 ++ leBytes 8 va ++
    leBytes 2 consumer ++ leBytes 1 kind ++ leBytes 1 b35 ++ leBytes 4 s.isl.coord ++ leBytes 8 s.now ++
    leBytes 2 (Config.syndrome s.isl.errCnt).toNat ++ List.replicate 14 0
  let r := leBytes 1 code ++ leBytes 1 flags ++ leBytes 2 f ++ body
  let s := { s with mem := memWrite s.mem (devKey (0x8000 + 64 * (s.isl.errCnt % 512))) r }
  let s := s.modIsl (fun i => { i with errCnt := i.errCnt + 1 })
  match x with
  | some y => if code = 3 ∨ code = 4 then s.postEvent y 0x15 0xFFFF (body.take 24) else s
  | none => s

/-- Writes one record of the island log (R427). -/
def State.islLog (s : State) (code b1 core coord addr special : Nat) : State :=
  let r := leBytes 1 code ++ leBytes 1 b1 ++ leBytes 2 core ++ leBytes 4 coord ++ leBytes 8 addr ++ leBytes 8 s.now ++
    leBytes 8 special
  let s := { s with mem := memWrite s.mem (devKey (0x2000 + 32 * (s.isl.logCnt % 256))) r }
  s.modIsl (fun i => { i with logCnt := i.logCnt + 1 })

/-- A new error id (R450). -/
def State.newErrId (s : State) : Nat × State := (s.isl.errId, s.modIsl (fun i => { i with errId := i.errId + 1 }))

/-- The core whose armed injection names a word that n bytes from a key on touch (R452). -/
def State.injAt (s : State) (key n : Nat) : Option Nat :=
  (s.cores.find? (fun p =>
    fld (p.2.cv 0x031).toNat 0 1 == 1 &&
      (let a := (p.2.cv 0x030).toNat / 8 * 8
       s.isHere a && decide (keyOf a < key + n) && decide (key < keyOf a + 8)))).map (·.1)

/-- Is the injection armed on a word uncorrectable? -/
def State.injBad (s : State) (key n : Nat) : Bool :=
  match s.injAt key n with
  | some c => fld ((s.core c).cv 0x031).toNat 8 1 == 1
  | none => false

/-- Is there neither poison nor an armed injection, so that no read meets an error? -/
def State.noErrors (s : State) : Bool := s.poison.isEmpty && s.cores.all (fun p => fld (p.2.cv 0x031).toNat 0 1 == 0)

/-- What a read meets: an injected error, which fires; a poisoned word. Answers the error id of an uncorrectable one. -/
def State.onRead (s : State) (x : Option Nat) (key n va consumer kind b35 : Nat) : State × Option Nat :=
  let corrected := if spaceOf key = 0 then 1 else 2
  let len := if kind = 3 then 12 else poisonUnit key
  match s.injAt key n with
  | some c =>
    let ctl := ((s.core c).cv 0x031).toNat
    let a := ((s.core c).cv 0x030).toNat / 8 * 8
    let s := s.modCore c (fun k => k.setCv 0x031 (BitVec.ofNat 64 (setFld (setFld ctl 0 1 0) 9 1 1)))
    let (id, s) := s.newErrId
    if fld ctl 8 1 = 0 then (s.errReport corrected 1 x id a len va consumer kind b35, none)
    else (s.errReport 3 1 x id a len va consumer kind b35, some id)
  | none =>
    match s.poisoned key n with
    | some (w, id) => (s.errReport 4 0 x id (s.phys w) len va consumer kind b35, some id)
    | none => (s, none)

/-- A core consumes an uncorrectable error: ECC_UNCORR becomes pending, with the highest priority (R291, R451). -/
def State.eccPend (s : State) (c va id : Nat) : State :=
  s.modCore c (fun k =>
    let t := k.pend.rollback.getD ⟨causeECC, va, id, 0, true⟩
    { k with pend := { k.pend with rollback := some t } })

/-- A read by a core of its own memory or its fetch: errors it meets become ECC_UNCORR. -/
def State.coreRead (s : State) (c key n va kind : Nat) : State :=
  if s.noErrors then s
  else
    match s.onRead (s.core c).ctx key n va c kind 0 with
    | (s, some id) => s.eccPend c va id
    | (s, none) => s

/-! ## The walk (R314 to R317) -/

/-- Page sizes by level. -/
def pageSize (lvl : Nat) : Nat := if lvl = 1 then 2 ^ 26 else if lvl = 2 then 2 ^ 21 else 2 ^ 16

def reasonUNMAPPED : Nat := 0
def reasonINVALID : Nat := 1
def reasonPERM : Nat := 2
def reasonEVICTED : Nat := 3
def reasonMIGRATING : Nat := 4
def reasonPOISONED : Nat := 5
def reasonNONCANON : Nat := 6
def reasonTABLE : Nat := 7
def reasonDISABLED : Nat := 8

/-- Are two chips in one load-store domain (R22)? -/
def sameDomain (f g : Nat) : Bool :=
  fld f 13 7 / 8 == fld g 13 7 / 8 && fld f 7 6 / 8 == fld g 7 6 / 8 && fld f 0 7 / 8 == fld g 0 7 / 8

/-- The Birdar port that traffic for a chip field leaves by (R15, R434): dimension order, the shorter way round, ties in the
+ direction; none for this package. -/
def State.routePort (s : State) (f : Nat) : Option Nat :=
  let way (lo w ext p : Nat) : Option Nat :=
    let a := fld s.chip lo w
    let b := fld f lo w
    let n := ext + 1
    if a = b then none else if 2 * ((b + n - a) % n) ≤ n then some p else some (p + 1)
  ((way 13 7 (fld s.isl.torus 0 7) 0).orElse (fun _ => way 7 6 (fld s.isl.torus 7 6) 2)).orElse
    (fun _ => way 0 7 (fld s.isl.torus 13 7) 4)

/-- Is a port operating (R436): trained, and neither DOWN nor FAILED since? -/
def Port.operating (q : Port) : Bool :=
  match q.st with
  | .down => false
  | .training => false
  | .failed => false
  | _ => true

/-- Does traffic for a chip field find its port operating? -/
def State.reaches (s : State) (f : Nat) : Bool :=
  match s.routePort f with
  | none => true
  | some p => (s.port p).operating

/-- Is a leaf with V = 1 invalid (R316)? -/
def State.leafInvalid (s : State) (lvl : Nat) (w : Nat) : Bool :=
  let phys := w / 2 ^ 16 * 2 ^ 16
  let sp := spaceOf phys
  lvl == 0 || fld w 11 5 != 0 || fld w 7 1 != 0 || decide (fld w 8 3 > 4) || phys % pageSize lvl != 0 || sp == 3 ||
    ((lvl == 1 || lvl == 2) && sp != 1) || !s.chipInstalled (phys / 2 ^ 44) ||
    (sp == 0 && (fld phys 20 9 != 0 || !sameDomain (phys / 2 ^ 44) s.chip || (s.isHere phys && !coreExists (coreOf phys)) ||
      decide (offOf phys ≥ 0x80000) ||
      (isGateway (coreOf phys) && decide (0x10000 ≤ offOf phys) && decide (offOf phys < 0x40000)))) ||
    (sp == 1 && decide (phys % 2 ^ 42 ≥ 0x6000000000)) || (fld w 4 1 == 1 && sp != 0)

/-- Is a table pointer with V = 1 invalid (R316)? -/
def pointerInvalid (lvl : Nat) (w : Nat) : Bool :=
  let next := w / 256 * 256
  lvl == 3 || fld w 2 6 != 0 || decide (next ≥ 0x6000000000) || (lvl == 0 && next % 65536 != 0)

/-- Do the endpoints of n bytes at a mesh key answer: the stacks of HBM bytes (R18), the die of a core's (R426)? -/
def State.placeUp (s : State) (key n : Nat) : Bool :=
  match spaceOf key with
  | 0 => (s.ep (socketOf (coreOf key))).st == .active
  | 1 => (unitsOf 4096 (key % 2 ^ 42) n).all (fun g => (s.ep (8 + g % 8)).st == .active)
  | _ => true

/-- Walks the levels that are left, from a table: the leaf and its page size, or a reason and the level (R317). -/
def State.walkFrom (s : State) (va : Nat) : Nat → List (Nat × Nat × Nat) → Except (Nat × Nat) (Nat × Nat)
  | _, [] => .error (reasonINVALID, 3)
  | table, (lvl, lo, w) :: rest =>
    let a := hbmKey (table + 8 * fld va lo w)
    if !s.placeUp a 8 || (s.poisoned a 8).isSome || s.injBad a 8 then .error (reasonTABLE, lvl)
    else
      let e := leNat (s.memLoad a 8)
      if fld e 0 1 = 0 then .error (reasonUNMAPPED, lvl)
      else if fld e 1 1 = 1 then
        if s.leafInvalid lvl e then .error (reasonINVALID, lvl)
        else if fld e 8 3 = 4 then .error (reasonPOISONED, lvl)
        else if fld e 8 3 = 3 then .error (reasonEVICTED, lvl)
        else if fld e 8 3 = 2 then .error (reasonMIGRATING, lvl)
        else .ok (e, pageSize lvl)
      else if pointerInvalid lvl e then .error (reasonINVALID, lvl)
      else s.walkFrom va (e / 256 * 256) rest

/-- The levels of a walk, with the bits that index each table (R314). -/
def walkLevels : List (Nat × Nat × Nat) := [(0, 39, 13), (1, 26, 13), (2, 21, 5), (3, 16, 5)]

/-- The walk of a virtual address in a context (R314). -/
def State.walk (s : State) (x va : Nat) : Except (Nat × Nat) (Nat × Nat) :=
  let root := (s.ctx x).ptRootEff.toNat
  if va / 2 ^ 52 ≠ 0 then .error (reasonNONCANON, 0)
  else if root % 2 = 0 then .error (reasonDISABLED, 0)
  else s.walkFrom va (root / 65536 * 65536) walkLevels

/-- The table words that a walk reads, from a table on: their mesh keys. -/
def State.walkKeys (s : State) (va : Nat) : Nat → List (Nat × Nat × Nat) → List Nat
  | _, [] => []
  | table, (lvl, lo, w) :: rest =>
    let a := hbmKey (table + 8 * fld va lo w)
    let e := leNat (s.memLoad a 8)
    if !s.placeUp a 8 || (s.poisoned a 8).isSome || s.injBad a 8 || fld e 0 2 != 1 || pointerInvalid lvl e then [a]
    else a :: s.walkKeys va (e / 256 * 256) rest

/-- The table words that the walk of an address reads. -/
def State.walkReads (s : State) (x va : Nat) : List Nat :=
  let root := (s.ctx x).ptRootEff.toNat
  if va / 2 ^ 52 ≠ 0 ∨ root % 2 = 0 then [] else s.walkKeys va (root / 65536 * 65536) walkLevels

/-- A walk that is made: its verdict, and the errors that its reads of table words meet (R450, R452). -/
def State.walkNow (s : State) (x va : Nat) : State × Except (Nat × Nat) (Nat × Nat) :=
  (if s.noErrors then s else (s.walkReads x va).foldl (fun s a => (s.onRead (some x) a 8 (2 ^ 64 - 1) 0xFFFF 0 0).1) s,
    s.walk x va)

/-- The memory type of the leaf that a walk meets, whatever its state; 0 where it meets none. -/
def State.walkType (s : State) (x va : Nat) : Nat :=
  match (s.walkReads x va).getLast? with
  | some a =>
    let e := leNat (s.memLoad a 8)
    if fld e 0 2 = 3 then fld e 2 2 else 0
  | none => 0

def levelOf (size : Nat) : Nat := if size = 2 ^ 26 then 1 else if size = 2 ^ 21 then 2 else 3

/-! ## TLBs (R321) -/

def TlbEntry.covers (t : TlbEntry) (va : Nat) : Bool := decide (t.va ≤ va) && decide (va < t.va + t.size)

/-- The first of a map's entries that covers an address. -/
def tlbFind (m : List (Nat × TlbEntry)) (va : Nat) : Option (Nat × TlbEntry) := m.find? (fun p => p.2.covers va)

/-- The index a fill takes: the lowest free one, else that of the least recently used unlocked entry. -/
def tlbVictim (m : List (Nat × TlbEntry)) (n : Nat) : Option Nat :=
  match (List.range n).find? (fun i => (mapGet m i).isNone) with
  | some i => some i
  | none =>
    ((m.filter (fun p => !p.2.lock)).foldl
      (fun b p => match b with
        | none => some p
        | some q => if p.2.use < q.2.use then some p else some q) none).map (·.1)

/-- Places a leaf in the core TLB, or in the tensor-pipe buffer. -/
def Core.tlbFill (k : Core) (pipe : Bool) (t : TlbEntry) : Core :=
  let t := { t with use := k.tlbUse }
  let k := { k with tlbUse := k.tlbUse + 1 }
  if pipe then
    match tlbVictim k.pipeTlb 8 with
    | some i => { k with pipeTlb := mapPut k.pipeTlb i t }
    | none => k
  else
    match tlbVictim k.tlb 32 with
    | some i => { k with tlb := mapPut k.tlb i t }
    | none => k

/-- Places a leaf in the last-level TLB of a die: it holds 4,096 entries, and the oldest leaves (log entry 12). -/
def State.llFill (s : State) (die x : Nat) (t : TlbEntry) : State :=
  let l := mapGetD s.lltlb die []
  if l.any (fun p => p.1 == x && p.2.covers t.va) then s
  else { s with lltlb := mapPut s.lltlb die ((l ++ [(x, t)]).drop (l.length + 1 - 4096)) }

/-- What one page access finds: the physical address, memory type, absent-fill, and the clk it adds. -/
structure Reach where
  va   : Nat
  phys : Nat
  mt   : Nat
  af   : Bool
  deriving DecidableEq, Repr

/-- A leaf's verdict on an address and a kind of access. -/
def leafReach (leaf va size : Nat) (rd wr : Bool) : Except (Nat × Nat) Reach :=
  if (rd && fld leaf 5 1 == 0) || (wr && fld leaf 6 1 == 0) then .error (reasonPERM, levelOf size)
  else .ok ⟨va, leaf / 2 ^ 16 * 2 ^ 16 + va % size, fld leaf 2 2, fld leaf 4 1 == 1⟩

/-- Translates one address for the core in hand: through its TLB, the die's, or a walk, which ends later and fills
them (R321). Answers the state, the clk it adds, and the reach or the reason and level. -/
def State.translate (s : State) (pipe : Bool) (va : Nat) (rd wr : Bool) : State × Nat × Except (Nat × Nat) Reach :=
  let k := s.me
  let c := s.hand.core
  match k.ctx with
  | none => (s, 0, .error (reasonDISABLED, 0))
  | some x =>
    match tlbFind (if pipe then k.pipeTlb else k.tlb) va with
    | some (i, t) =>
      let t' := { t with use := k.tlbUse }
      let s := s.modMe (fun k => if pipe then { k with pipeTlb := mapPut k.pipeTlb i t', tlbUse := k.tlbUse + 1 }
                                 else { k with tlb := mapPut k.tlb i t', tlbUse := k.tlbUse + 1 })
      (s, 0, leafReach t.leaf.toNat va t.size rd wr)
    | none =>
      match (mapGetD s.lltlb (dieOf c) []).find? (fun p => p.1 == x && p.2.covers va) with
      | some (_, t) => (s.modMe (fun k => k.tlbFill pipe { t with lock := false }), 8, leafReach t.leaf.toNat va t.size rd wr)
      | none =>
        match s.walkNow x va with
        | (s, .error e) => (s, 0, .error e)
        | (s, .ok (leaf, size)) =>
          match leafReach leaf va size rd wr with
          | .error e => (s, 0, .error e)
          | .ok r =>
            let (l, s) := s.draw
            let op : AsyncOp := ⟨s.me.opId, s.ent.serial, .walk va false pipe, none, some (s.clk + l), 8, 0⟩
            let s := s.modMe (fun k => { k with opId := k.opId + 1, ops := k.ops ++ [op] })
            (s, l, .ok r)

/-- The page starts, 64 KiB apart, of a range of n bytes: its first address and every later page start in it. -/
def pagesOf (va n : Nat) : List Nat :=
  if n = 0 then [] else va :: ((List.range ((va + n - 1) / 65536 - va / 65536)).map (fun i => (va / 65536 + 1 + i) * 65536))

/-- The first address of a part of a page, resolved at `phys`, that lies at a reserved offset (R70, R317): the part goes from p
up to `stop`. -/
def reservedAt (phys p stop : Nat) : Option Nat :=
  let off := offOf phys
  let bad (o : Nat) : Bool := spaceOf phys == 0 && offKind (coreOf phys) o == 4
  if bad off then some p
  else if bad (off + (stop - p) - 1) then some (p / 65536 * 65536 + 0x8000)
  else none

/-- Translates a range page by page, and refuses reserved offsets (R70, R317). Answers the clk added and the reaches of
its pages in order, or reason, level and first failing address. -/
def State.translateRange (s : State) (pipe : Bool) (va n : Nat) (rd wr : Bool) :
    State × Nat × Except (Nat × Nat × Nat) (List Reach) :=
  (pagesOf va n).foldl
    (fun (acc : State × Nat × Except (Nat × Nat × Nat) (List Reach)) p =>
      let (s, lat, r) := acc
      match r with
      | .error _ => acc
      | .ok rs =>
        let (s, l, res) := s.translate pipe p rd wr
        match res with
        | .error (reason, lvl) => (s, lat, .error (reason, lvl, p))
        | .ok x =>
          match reservedAt x.phys p (min (va + n) ((p / 65536 + 1) * 65536)) with
          | some a => (s, lat, .error (reasonINVALID, 3, a))
          | none => (s, lat + l, .ok (rs ++ [x])))
    (s, 0, .ok [])

/-- TRAP_INFO of a page fault (R318). -/
def pageInfo (park : Nat) (engine wr : Bool) (lvl reason : Nat) : Nat :=
  park * 256 + (if engine then 128 else 0) + (if wr then 64 else 0) + lvl * 16 + reason

/-! ## The range-lock table (R280) -/

def hullHits (h : Option (Nat × Nat)) (off n : Nat) : Bool :=
  match h with
  | some (lo, hi) => decide (lo < off + n) && decide (off < hi)
  | none => false

/-- The lowest entry whose hulls an access hits: index, the first byte hit, and whether the write hull was. A read
hits write hulls; a write hits both. -/
def Core.lockHit (k : Core) (off n : Nat) (wr : Bool) : Option (Nat × Nat × Bool) :=
  match k.locks.find? (fun p => hullHits p.2.wr off n || (wr && hullHits p.2.rd off n)) with
  | none => none
  | some (i, l) =>
    let w := hullHits l.wr off n
    let lo (h : Option (Nat × Nat)) : Nat := match h with
      | some (a, _) => max a off
      | none => off + n
    some (i, if w then (if wr && hullHits l.rd off n then min (lo l.wr) (lo l.rd) else lo l.wr) else lo l.rd, w)

/-- TRAP_INFO of RANGE_LOCK (R280). -/
def lockInfo (fetch whull : Bool) (i : Nat) : Nat := (if fetch then 32 else 0) + (if whull then 16 else 0) + i

/-! ## Armed lines (R266) -/

/-- Armed scratchpad lines of this core among n bytes from a local key on. -/
def State.armedLines (s : State) (key n : Nat) : List Nat :=
  if s.lines.isEmpty then []
  else ((unitsOf 128 key n).map (· * 128)).filter (fun a => bankOf (offOf a) < 3 && (s.lineAt a).arm)

/-- The first armed line of a read whose SEQ is not its EXPECT. -/
def State.seqBad (s : State) (key n : Nat) : Option Nat :=
  (s.armedLines key n).find? (fun a => (s.lineAt a).seq != (s.lineAt a).expect)

/-- A read that passes clears ARM of the lines it met; undone if its instruction is discarded. -/
def State.disarm (s : State) (key n : Nat) : State :=
  match s.armedLines key n with
  | [] => s
  | l => s.landWr s.hand.core s.ent.serial (.lines (l.map (fun a => (a, ((s.lineAt a).expect, false)))))

/-! ## Watch registers (R457, R458) -/

/-- The lowest watch register that matches an access of a core: `bit` is 20 for reads, 21 for writes, 22 for its copy
writes, 23 for writes by others. -/
def Core.watchHit (k : Core) (phys n : Nat) (bits : List Nat) (skips : Bool) : Option Nat :=
  (List.range 4).find? (fun i =>
    let ctl := (k.cv (0x021 + 2 * i)).toNat
    let win := (k.cv (0x020 + 2 * i)).toNat / 16 * 16
    fld ctl 63 1 == 1 && (!skips || fld ctl 61 1 == 0) && bits.any (fun b => fld ctl b 1 == 1) &&
      (List.range 16).any (fun j => fld ctl j 1 == 1 && decide (phys ≤ win + j) && decide (win + j < phys + n)))

def Core.setSkip (k : Core) (n : Nat) (b : Bool) : Core := k.setCf n 61 1 (if b then 1 else 0)
/-- An issue of a memory instruction clears SKIP of the watch registers. -/
def Core.clearWatchSkip (k : Core) : Core :=
  (List.range 4).foldl (fun k i => if k.cf (0x021 + 2 * i) 61 1 = 1 then k.setSkip (0x021 + 2 * i) false else k) k

/-- The trap or the stop of a precise watch match (R458). -/
def State.watchTrap (s : State) (i va : Nat) (wr : Bool) : State :=
  let stop := s.me.cf (0x021 + 2 * i) 62 1 == 1
  let s := s.modMe (fun k => k.setSkip (0x021 + 2 * i) true)
  if stop then s.raise ⟨causeWATCH, va, 4, 4, false⟩
  else s.raise ⟨causeWATCH, va, (if wr then 16 else 0) + i, 1, false⟩

/-- An imprecise watch report (R458): one pending for each register, the first kept. -/
def State.watchReport (s : State) (c i phys : Nat) (info : Nat) : State :=
  s.modCore c (fun k =>
    let t : Trap := ⟨causeWATCH, phys, info + i, 1, true⟩
    let l := if (mapGet k.pend.watch i).isSome then k.pend.watch else mapPut k.pend.watch i t
    { k with pend := { k.pend with watch := l } })

/-! ## A range reached through a capability (R57) -/

/-- What a part of an instruction answers: the state after a trap, or the state and a result. -/
abbrev VRes (α : Type) := Except State (State × α)

/-- Is a mesh address in this core's own memory? -/
def State.isOwn (s : State) (c phys : Nat) : Bool := s.isHere phys && spaceOf phys == 0 && coreOf phys == c

/-- A capability trap: the failing address, the field and the g index; PRIV names the field alone (R290). -/
def State.capTrap (s : State) (cause x field : Nat) (g : GReg) : State :=
  if cause = causePRIV then s.trap causePRIV 0 field else s.trap cause x (capInfo field g)

/-- The parts of n bytes at va, one for each page. -/
def cpieces (va n : Nat) (rs : List Reach) : List CPiece :=
  rs.map (fun r => ⟨r.phys, some r.va, min (va + n) ((r.va / 65536 + 1) * 65536) - r.va, r.af, r.mt⟩)

/-- Does a part lie in a control window? -/
def CPiece.window (p : CPiece) : Bool := spaceOf p.phys == 0 && offKind (coreOf p.phys) (offOf p.phys) == 3

/-- The cause of the first part that a check refuses, with its address. -/
def firstBad (ps : List CPiece) (bad : CPiece → Option Nat) : Option (Nat × Nat) :=
  ps.findSome? (fun p => (bad p).map (fun cause => (cause, p.va.getD 0)))

/-- Steps 7 to 9 of R57 over the parts of a range, each step over all of them: REMOTE and SYS; S privilege; what the
instruction accepts. -/
def State.resolvedBad (s : State) (md : Word) (accept : CPiece → Option Nat) (ps : List CPiece) : Option (Nat × Nat) :=
  let away (p : CPiece) : Bool := spaceOf p.phys == 0 && !s.isOwn s.hand.core p.phys
  let perm (p : CPiece) : Option Nat :=
    if (away p && !mdHas md pREMOTE) || (p.window && !mdHas md pSYS) then some causePERM else none
  let priv (p : CPiece) : Option Nat := if p.window && !s.me.priv then some causePRIV else none
  (firstBad ps perm).orElse (fun _ => (firstBad ps priv).orElse (fun _ => firstBad ps accept))

/-- Steps 1 to 9 of R57 over the n bytes at x: the clk of the translation and the parts, or the state after the trap. A failed
translation raises `cause`. -/
def State.rangeSide (s : State) (cap : GVal) (field : Nat) (g : GReg) (x n align : Nat) (rd wr : Bool) (need : List Nat)
    (cause : Nat) (accept : CPiece → Option Nat) : VRes (Nat × List CPiece) :=
  match capCheck cap x n align need false with
  | some t => .error (s.capTrap t x field g)
  | none =>
    match s.relResolve cap x with
    | none => .error (s.capTrap causePERM x field g)
    | some va =>
      match s.translateRange false va n rd wr with
      | (s, _, .error (reason, lvl, a)) => .error (s.trap cause a (pageInfo 0 (cause == causePENGINE) wr lvl reason))
      | (s, w, .ok rs) =>
        match s.resolvedBad cap.md accept (cpieces va n rs) with
        | some (t, a) => .error (s.capTrap t a field g)
        | none => .ok (s, w, cpieces va n rs)

/-- RANGE_LOCK over the parts of an access of this core (R280): the lowest entry that is hit. -/
def State.lockTrap (s : State) (wr : Bool) (ps : List CPiece) : Option Trap :=
  let hits := ps.filterMap (fun p =>
    if s.isOwn s.hand.core p.phys then
      (s.me.lockHit (offOf p.phys) p.len wr).map (fun h => (h.1, (p.va.getD 0 + (h.2.1 - offOf p.phys), h.2.2)))
    else none)
  let low := hits.foldl (fun (b : Option (Nat × (Nat × Bool))) h => match b with
    | none => some h
    | some q => if h.1 < q.1 then some h else b) none
  low.map (fun h => ⟨causeLOCK, h.2.1, lockInfo false h.2.2 h.1, 0, false⟩)

/-- SCHEDULE over the parts of a read (R266): the first armed line whose SEQ is not its EXPECT. -/
def State.armedTrap (s : State) (ps : List CPiece) : Option Trap :=
  (ps.findSome? (fun p =>
    if s.isOwn s.hand.core p.phys then (s.seqBad (keyOf p.phys) p.len).map (fun a => (p, a)) else none)).map (fun (p, a) =>
    let l := s.lineAt a
    ⟨causeSCHEDULE, p.va.getD 0 + a - keyOf p.phys, l.seq * 256 + l.expect, 0, false⟩)

/-- The first watch register that an access matches: the state after its trap (R458). -/
def State.watchRange (s : State) (ps : List CPiece) (rd wr : Bool) : Option State :=
  (ps.findSome? (fun p =>
    (s.me.watchHit p.phys p.len ((if rd then [20] else []) ++ (if wr then [21] else [])) true).map (fun i =>
      (i, p.va.getD 0)))).map (fun (i, va) => s.watchTrap i va wr)

/-- Step 10 of R57, the armed lines and the watch registers, met by an access of this core: the state after the first trap, or
none. -/
def State.meetRange (s : State) (ps : List CPiece) (rd wr : Bool) : Option State :=
  match (s.lockTrap wr ps).orElse (fun _ => if rd then s.armedTrap ps else none) with
  | some t => some (s.raise t)
  | none => s.watchRange ps rd wr

end Sys2Proof.Machine
end

