-- ==== Sys2Proof/Machine/Float.lean ====
section
/-! DEFINITION. The scalar-float instructions, opcodes 0x50 to 0x5C (R176 to R180). They issue in the F column. -/

namespace Sys2Proof.Machine

/-- The element a float format reads from the low bits of a register (R177). -/
def floatOf (f : Fmt) (w : Word) : Num := readElem f (w.toNat % 2 ^ fmtWidth f)

/-- INV where one of these inputs is a signalling NaN that is not absent (R81). -/
def sigFlags (l : List Num) : Nat := l.foldl (fun f x => f ||| x.sigFlag) 0

/-- A strict two-operand operation, rounded once (R99, R177): the pattern written and the flags, of which an absent source
changes none. -/
def floatOp2 (f : Fmt) (rtz : Bool) (op : Num → Num → Num × Nat) (a b : Num) : Nat × Nat :=
  if a.isAbsent || b.isAbsent then (absentCode f, 0)
  else
    let (r, fl) := op a b
    let (x, g) := writeElem f rtz false r
    (x, fl ||| g)

/-- Issues an F instruction of two sources. -/
def execFloat2 (f : Fmt) (rtz : Bool) (lat occ : Nat) (op : Num → Num → Num × Nat) (gd ga gb : GReg) (s : State) : Res :=
  s.guarded colF (fun s =>
    let (x, fl) := floatOp2 f rtz op (floatOf f (s.me.rgv ga)) (floatOf f (s.me.rgv gb))
    s.issue colF lat occ fl [.g gd (GVal.data (BitVec.ofNat 64 x))]) occ

/-- FSGN on present elements (R178): the magnitude of a with a sign; no flag. -/
def fsgnOp (op : SgnOp) (a : Num) (sb : Bool) : Num :=
  let s := match op with
    | .cpy => sb
    | .neg => !sb
    | .xor => a.sign != sb
  match a with
  | .inf _ => .inf s
  | .fin _ n d => .fin s n d
  | x => x

/-- The conditions of FCMP on present elements (R178). -/
def fcmpHolds (c : FCond) (a b : Num) : Bool :=
  let un := a.isNan || b.isNan
  match c with
  | .eq => !un && numEq a b
  | .lt => !un && numLt a b
  | .le => !un && (numLt a b || numEq a b)
  | .un => un
  | .ne => !un && !numEq a b

/-- The bit FCLASS sets for a pattern (R180). -/
def classBit (f : Fmt) (x : Nat) : Nat :=
  if x = absentCode f then 0
  else if f = .l16 then (if x = 0x4000 then 5 else if fld x 15 1 = 1 then 2 else 7)
  else match floatSpec f with
    | some sp =>
      let sub := x % 2 ^ (sp.w - 1) < 2 ^ sp.p
      match sp.read x with
      | .absent => 0
      | .nan true => 9
      | .nan false => 10
      | .inf n => if n then 1 else 8
      | .fin n m _ =>
        if m = 0 then (if n then 4 else 5)
        else if n then (if sub then 3 else 2) else (if sub then 6 else 7)
    | none => if x = 0 then 12 else if fld x (fmtWidth f - 1) 1 = 1 then 11 else 13

/-- FCVT (R179): the value written and the flags. -/
def fcvtResult (dst : Fmt) (rtz : Bool) (src : CvtSrc) (w : Word) : Word × Nat :=
  let a := match src with
    | .f32 => floatOf .f32 w
    | .bf16 => floatOf .bf16 w
    | .f16 => floatOf .f16 w
    | .f8 => floatOf .f8 w
    | .f8w => floatOf .f8w w
    | .i64 => intRead 64 w.toNat
  let (x, fl) := writeElem dst rtz false a
  let fl := fl ||| (match floatSpec dst with
    | some _ => a.sigFlag
    | none => 0)
  (match dst with
    | .i32 => wordOfInt (sext 32 x)
    | _ => BitVec.ofNat 64 x, fl)

/-- FADD (R177). -/
def execFadd (f : Fmt) (rtz : Bool) (gd ga gb : GReg) (s : State) : Res := execFloat2 f rtz 4 1 numAdd gd ga gb s
/-- FSUB (R177). -/
def execFsub (f : Fmt) (rtz : Bool) (gd ga gb : GReg) (s : State) : Res := execFloat2 f rtz 4 1 numSub gd ga gb s
/-- FMUL (R177). -/
def execFmul (f : Fmt) (rtz : Bool) (gd ga gb : GReg) (s : State) : Res := execFloat2 f rtz 4 1 numMul gd ga gb s
/-- FFMA (R177): a·b + the old gd, rounded once. -/
def execFfma (f : Fmt) (rtz : Bool) (gd ga gb : GReg) (s : State) : Res :=
  s.guarded colF (fun s =>
    let d := floatOf f (s.me.rgv gd)
    let (x, fl) :=
      if d.isAbsent then (absentCode f, 0)
      else floatOp2 f rtz (fun a b => numFma a b d) (floatOf f (s.me.rgv ga)) (floatOf f (s.me.rgv gb))
    s.issue colF 4 1 fl [.g gd (GVal.data (BitVec.ofNat 64 x))])
/-- FDIV (R177): latency and occupancy 12. -/
def execFdiv (f : Fmt) (rtz : Bool) (gd ga gb : GReg) (s : State) : Res := execFloat2 f rtz 12 12 numDiv gd ga gb s
/-- FSQRT (R177): latency and occupancy 12. -/
def execFsqrt (f : Fmt) (rtz : Bool) (gd ga : GReg) (s : State) : Res :=
  execFloat2 f rtz 12 12 (fun a _ => numSqrt a) gd ga ga s
/-- FMIN (R178). -/
def execFmin (f : Fmt) (gd ga gb : GReg) (s : State) : Res := execFloat2 f false 4 1 (numMinMax false) gd ga gb s
/-- FMAX (R178). -/
def execFmax (f : Fmt) (gd ga gb : GReg) (s : State) : Res := execFloat2 f false 4 1 (numMinMax true) gd ga gb s
/-- FCMP (R178): false when either source is absent; a signalling NaN sets INV (R89). -/
def execFcmp (f : Fmt) (c : FCond) (qd : QReg) (ga gb : GReg) (s : State) : Res :=
  s.guarded colF (fun s =>
    let a := floatOf f (s.me.rgv ga)
    let b := floatOf f (s.me.rgv gb)
    let r := !a.isAbsent && !b.isAbsent && fcmpHolds c a b
    s.issue colF 4 1 (a.sigFlag ||| b.sigFlag) [.q qd r])
/-- FCVT (R179): latency 2. -/
def execFcvt (f : Fmt) (rtz : Bool) (src : CvtSrc) (gd ga : GReg) (s : State) : Res :=
  s.guarded colF (fun s =>
    let (x, fl) := fcvtResult f rtz src (s.me.rgv ga)
    s.issue colF 2 1 fl [.g gd (GVal.data x)])
/-- FSGN (R178). -/
def execFsgn (f : Fmt) (op : SgnOp) (gd ga gb : GReg) (s : State) : Res :=
  s.guarded colF (fun s =>
    let a := floatOf f (s.me.rgv ga)
    let b := floatOf f (s.me.rgv gb)
    let sb := fld (s.me.rgv gb).toNat (fmtWidth f - 1) 1 == 1
    let x := if a.isAbsent || b.isAbsent then absentCode f else (writeElem f false false (fsgnOp op a sb)).1
    s.issue colF 4 1 0 [.g gd (GVal.data (BitVec.ofNat 64 x))])
/-- FCLASS (R180). -/
def execFclass (f : Fmt) (gd ga : GReg) (s : State) : Res :=
  s.guarded colF (fun s =>
    s.issue colF 4 1 0 [.g gd (GVal.data (BitVec.ofNat 64 (2 ^ classBit f ((s.me.rgv ga).toNat % 2 ^ fmtWidth f))))])
/-- MKABS (R180). -/
def execMkabs (f : Fmt) (gd : GReg) (s : State) : Res :=
  s.guarded colF (fun s => s.issue colF 4 1 0 [.g gd (GVal.data (BitVec.ofNat 64 (absentCode f)))])

end Sys2Proof.Machine
end

