-- ==== Sys2Proof/WellFormed.lean ====
section
/-! DEFINITION. Well-formed instructions: the operands, selectors and hints each entry of the encoding tables accepts
(R111 to R125 and the table of each instruction chapter), and the arguments an event may name. What depends on the
machine's state (a v register that is configured as a stream, the privilege level) is checked by the decoder. -/

namespace Sys2Proof

/-- Every element format (R190). -/
def elemFmts : List Fmt := [.f32, .bf16, .f16, .f8, .f8w, .i32, .i16, .i8, .l16, .i64]
/-- Elem without L16 (R190). -/
def numFmts : List Fmt := [.f32, .bf16, .f16, .f8, .f8w, .i32, .i16, .i8, .i64]
/-- The integer formats (R190). -/
def intFmts : List Fmt := [.i32, .i16, .i8, .i64]
/-- Every code of R79, NONE and MASK among them. -/
def anyFmts : List Fmt := [.noFmt, .f32, .bf16, .f16, .f8, .f8w, .i32, .i16, .i8, .l16, .mask, .i64]
/-- The wide float formats. -/
def floatFmts : List Fmt := [.f32, .bf16, .f16]

/-- Bits of one element (R79); 0 for NONE. -/
def Fmt.width : Fmt → Nat
  | .noFmt => 0 | .f32 => 32 | .bf16 => 16 | .f16 => 16 | .f8 => 8 | .f8w => 8 | .i32 => 32 | .i16 => 16
  | .i8 => 8 | .l16 => 16 | .mask => 1 | .i64 => 64

/-- max(ws, wd) / min(ws, wd), the number of parts of R205. -/
def widthRatio (a b : Fmt) : Nat := max a.width b.width / min a.width b.width

/-- The registers MDRN writes (R241): two for a 32-bit format and one for the others, and one more for RAW's counts. -/
def mdrnGroup (f : Fmt) (mode : Nat) : Nat := (if f.width = 32 then 2 else 1) + (if mode = 0 then 1 else 0)

/-- How an entry treats guard mode 11 (R116, R190): refused, accepted, accepted when FMT is an element format,
required (VSEL); or refused with modes 01 and 10 (R343). -/
inductive MaskUse where
  | no | yes | elemFmt (f : Fmt) | required | alwaysOnly
  deriving DecidableEq, Repr

/-- The guard modes an entry accepts (R116). -/
def MaskUse.accepts : MaskUse → Guard → Bool
  | .no, .elem _ => false
  | .no, _ => true
  | .yes, _ => true
  | .elemFmt f, .elem _ => elemFmts.contains f
  | .elemFmt _, _ => true
  | .required, .elem _ => true
  | .required, _ => false
  | .alwaysOnly, .always => true
  | .alwaysOnly, _ => false

/-- A head with a guard, an L bit and a SET its entry accepts, and a delay that fits (R116, R42, R125, R124). -/
def Head.wf (mask : MaskUse) (short set : Bool) (h : Head) : Bool :=
  mask.accepts h.guard && (short || !h.short) && (set || h.set.isNone) && decide (h.delay < 256)

/-- A function field with an FMT and bits its entry accepts (R112). -/
def VFn.wf (fmts : List Fmt) (policy pass stream sat : Bool) (f : VFn) : Bool :=
  fmts.contains f.fmt && (policy || !f.policy) && (pass || !f.pass) && (stream || !f.stream) && (sat || !f.sat)

/-- An immediate inside its entry's range. -/
def immIn (lo hi v : Int) : Bool := decide (lo ≤ v ∧ v ≤ hi)

/-- A count of seven signed bits (R118). -/
def MemOp.wf (m : MemOp) : Bool := immIn (-64) 63 m.count
/-- The g register a memory operand post-increments. -/
def MemOp.post? (m : MemOp) : Option GReg := if m.post then some m.g else none

def GImm.wf (lo hi : Int) : GImm → Bool
  | .reg _ => true
  | .imm v => immIn lo hi v

def GImmJ.wf (lo hi : Int) : GImmJ → Bool
  | .reg _ => true
  | .imm v => immIn lo hi v
  | .joined v => decide (v < 4294967296)

def GJ.wf (lim : Nat) : GJ → Bool
  | .reg _ => true
  | .joined v => decide (v < lim)

def ImmJ.wf (lo hi : Int) : ImmJ → Bool
  | .imm v => immIn lo hi v
  | .joined v => decide (v < 4294967296)

def VSM.wf : VSM → Bool
  | .m mo => mo.wf
  | _ => true
def VSM.isV : VSM → Bool
  | .v _ => true
  | _ => false
def VSM.isS : VSM → Bool
  | .s _ => true
  | _ => false
def VSM.post? : VSM → Option GReg
  | .m mo => mo.post?
  | _ => none

def VSMI.wf (lo hi : Int) : VSMI → Bool
  | .m mo => mo.wf
  | .imm n => immIn lo hi n
  | _ => true
def VSMI.isS : VSMI → Bool
  | .s _ => true
  | _ => false
def VSMI.post? : VSMI → Option GReg
  | .m mo => mo.post?
  | _ => none

/-- No g register is post-incremented twice, nor post-incremented and written (R121). -/
def postOk : List (Option GReg) → List GReg → Bool
  | [], _ => true
  | none :: ps, ds => postOk ps ds
  | some g :: ps, ds => !ds.contains g && !ps.contains (some g) && postOk ps ds

/-- Two pairs that are the same pair or share no register (R131). -/
def pairsOk (x y : VReg) : Bool := decide (x.val + 1 ≠ y.val ∧ y.val + 1 ≠ x.val)

/-- The immediate of VCVT (R205). -/
def vcvtWf (f : Fmt) (spec : Nat) : Bool :=
  match spec % 16 with
  | 1 => decide (spec / 32 < widthRatio .f32 f)
  | 2 | 3 | 7 => decide (spec / 32 < widthRatio .f16 f)
  | 4 | 5 | 8 => decide (spec / 32 < widthRatio .f8 f)
  | 6 => decide (spec / 32 < widthRatio .i32 f)
  | 11 => decide (spec / 32 < widthRatio .i64 f)
  | _ => false

/-- The opcodes R126 does not assign (R127). -/
def reservedOpcode (op : Nat) : Bool :=
  op == 0x1F || decide (0x3A ≤ op ∧ op ≤ 0x3F) || decide (0x4C ≤ op ∧ op ≤ 0x4F) || decide (0x5D ≤ op ∧ op ≤ 0x5F)
  || op == 0x6F || decide (0xA5 ≤ op ∧ op ≤ 0xA7) || decide (0xBA ≤ op ∧ op ≤ 0xBF)
  || decide (0xCA ≤ op ∧ op ≤ 0xCF) || decide (0xDB ≤ op ∧ op ≤ 0xDF) || decide (0xF1 ≤ op ∧ op ≤ 0xFF)

/-- A head and an instruction form whose fields hold only what the entry of the form in the encoding tables accepts. An
event has no fields: what it acts on stands in the state. -/
def wellFormed (h : Head) : Instr → Bool
  | .nop => h.wf .no false true
  | .b off => h.wf .no false false && immIn (-8192) 8191 off
  | .br _ => h.wf .no false false
  | .call off => h.wf .no false false && immIn (-8192) 8191 off
  | .callr _ => h.wf .no false false
  | .ret _ => h.wf .no false false
  | .loop count endOff => h.wf .no false false && count.wf 0 8191 && immIn 1 8191 endOff
  | .loopx _ count endOff => h.wf .no false false && count.wf 0 8191 && immIn 1 8191 endOff
  | .bengZ _ off => h.wf .no false false && immIn (-8192) 8191 off
  | .bengNz _ off => h.wf .no false false && immIn (-8192) 8191 off
  | .bengF e off => h.wf .no false false && immIn 0 3 e && immIn (-8192) 8191 off
  | .bengFc e off => h.wf .no false false && immIn 0 3 e && immIn (-8192) 8191 off
  | .wait _ => h.wf .no false true
  | .waitAll => h.wf .no false true
  | .rgn desc => h.wf .no false false && immIn 0 2047 desc
  | .tblk blk => h.wf .alwaysOnly false false && blk.wf 0 255
  | .tend => h.wf .alwaysOnly false false
  | .realign => h.wf .alwaysOnly false false
  | .halt => h.wf .no false false
  | .exit status => h.wf .no false false && status.wf 0 8191
  | .trap code => h.wf .no false false && immIn 0 255 code
  | .trapEsc => h.wf .no false false
  | .eret => h.wf .no false false
  | .eretRgn => h.wf .no false false
  | .bkpt code => h.wf .no false false && immIn 0 255 code
  | .sleep n => h.wf .no false false && n.wf 0 8191
  | .qop _ _ _ _ => h.wf .no false false
  | .qmov _ _ => h.wf .no false false
  | .qmovG _ _ => h.wf .no false false
  | .qmovI _ v => h.wf .no false false && immIn 0 1 v
  | .qrd _ qk n => h.wf .no false false && decide (qk.val + n.toNat ≤ 16) && immIn 1 16 n
  | .follow _ leader => h.wf .no false false && leader.wf 4294967296
  | .followRel _ spec => h.wf .no false false && immIn 0 8191 spec
  | .followRequest => true
  | .followReply => true
  | .detach => h.wf .no false false
  | .forwardedWordDispatch => true
  | .leaderEndDetach => true
  | .bararmRep _ par => h.wf .no false false && par != some 0
  | .bararmOnce _ par => h.wf .no false false && par != some 0
  | .bararmFree _ => h.wf .no false false
  | .bararv _ _ => h.wf .no false false
  | .barwt _ _ => h.wf .no false false
  | .baraw _ => h.wf .no false false
  | .snap _ gb => h.wf .no false false && decide (gb.val + 2 ≤ 64)
  | .barrierRelease => true
  | .globalBarrierArrival => true
  | .budg n => h.wf .no false false && n.wf 0 8191
  | .budgOff => h.wf .no false false
  | .add _ _ b => h.wf .no false true && b.wf (-8192) 8191
  | .sub _ _ b => h.wf .no false true && b.wf (-8192) 8191
  | .mul _ _ b => h.wf .no false true && b.wf (-8192) 8191
  | .mulh _ _ _ b => h.wf .no false true && b.wf (-8192) 8191
  | .div _ _ _ b => h.wf .no false true && b.wf (-8192) 8191
  | .rem _ _ _ b => h.wf .no false true && b.wf (-8192) 8191
  | .and _ _ b => h.wf .no false true && b.wf (-8192) 8191
  | .or _ _ b => h.wf .no false true && b.wf (-8192) 8191
  | .xor _ _ b => h.wf .no false true && b.wf (-8192) 8191
  | .andn _ _ b => h.wf .no false true && b.wf (-8192) 8191
  | .shl _ _ b => h.wf .no false true && b.wf 0 63
  | .shr _ _ b => h.wf .no false true && b.wf 0 63
  | .sra _ _ b => h.wf .no false true && b.wf 0 63
  | .rot _ _ b => h.wf .no false true && b.wf 0 63
  | .min _ _ _ b => h.wf .no false true && b.wf (-8192) 8191
  | .max _ _ _ b => h.wf .no false true && b.wf (-8192) 8191
  | .clz _ _ => h.wf .no false true
  | .ctz _ _ => h.wf .no false true
  | .popc _ _ => h.wf .no false true
  | .bfx _ _ spec => h.wf .no false true && decide (spec < 16384) && decide (spec % 64 + spec / 64 % 64 + 1 ≤ 64 ∧ spec / 8192 = 0)
  | .bfi _ _ spec => h.wf .no false true && decide (spec < 16384) && decide (spec % 64 + spec / 64 % 64 + 1 ≤ 64 ∧ spec / 4096 = 0)
  | .movi _ v => h.wf .no false true && v.wf (-8192) 8191
  | .movhi _ v => h.wf .no false true && v.wf (-8192) 8191
  | .mov _ _ => h.wf .no false true
  | .cmp _ _ _ b => h.wf .no false true && b.wf (-8192) 8191
  | .sel _ _ _ _ => h.wf .no false true
  | .csetb _ _ b => h.wf .no false true && b.wf (-8192) 8191
  | .csetbx _ _ b => h.wf .no false true && b.wf (-8192) 8191
  | .candp _ _ b => h.wf .no false true && b.wf 0 4095
  | .cinc _ _ b => h.wf .no false true && b.wf (-8192) 8191
  | .cseta _ _ b => h.wf .no false true && b.wf (-8192) 8191
  | .cget _ _ _ => h.wf .no false true
  | .cseal _ _ t => h.wf .no false true && immIn 2 31 t
  | .cunseal _ _ t => h.wf .no false true && immIn 2 31 t
  | .cclrt _ _ => h.wf .no false true
  | .crel _ _ spec => h.wf .no false true && decide (spec < 16384) && decide (spec < 2 ^ 13)
  | .cabs _ _ => h.wf .no false true
  | .ctest _ _ _ gb => h.wf .no false true && gb != some 0
  | .fadd fmt _ _ _ _ => h.wf .no false true && floatFmts.contains fmt
  | .fsub fmt _ _ _ _ => h.wf .no false true && floatFmts.contains fmt
  | .fmul fmt _ _ _ _ => h.wf .no false true && floatFmts.contains fmt
  | .ffma fmt _ _ _ _ => h.wf .no false true && floatFmts.contains fmt
  | .fdiv fmt _ _ _ _ => h.wf .no false true && floatFmts.contains fmt
  | .fsqrt fmt _ _ _ => h.wf .no false true && floatFmts.contains fmt
  | .fmin fmt _ _ _ => h.wf .no false true && floatFmts.contains fmt
  | .fmax fmt _ _ _ => h.wf .no false true && floatFmts.contains fmt
  | .fcmp fmt _ _ _ _ => h.wf .no false true && floatFmts.contains fmt
  | .fcvt fmt _ src _ _ => h.wf .no false true && [.f32, .bf16, .f16, .f8, .f8w, .i32, .i64].contains fmt && !(src == .i64 && (fmt == .i32 || fmt == .i64))
  | .fsgn fmt _ _ _ _ => h.wf .no false true && floatFmts.contains fmt
  | .fclass fmt _ _ => h.wf .no false true && elemFmts.contains fmt
  | .mkabs fmt _ => h.wf .no false true && elemFmts.contains fmt
  | .ld _ _ gd m => h.wf .no false true && m.wf && postOk [m.post?] [gd]
  | .st _ m a => h.wf .no false true && m.wf && a.wf (-8192) 8191
  | .ldc gd m => h.wf .no false true && m.wf && postOk [m.post?] [gd]
  | .stc m _ => h.wf .no false true && m.wf
  | .ldaq _ _ gd m => h.wf .no false true && m.wf && postOk [m.post?] [gd]
  | .strl _ m a => h.wf .no false true && m.wf && a.wf (-8192) 8191
  | .acq => h.wf .no false true
  | .rel => h.wf .no false true
  | .fenceAll => h.wf .no false true
  | .fenceSt => h.wf .no false true
  | .fenceEng => h.wf .no false true
  | .aadd sz _ gd m _ => h.wf .no false true && (sz == .b4 || sz == .b8) && m.wf && postOk [m.post?] [gd]
  | .amm sz _ _ gd m _ => h.wf .no false true && (sz == .b4 || sz == .b8) && m.wf && postOk [m.post?] [gd]
  | .axchg sz _ gd m _ => h.wf .no false true && (sz == .b4 || sz == .b8) && m.wf && postOk [m.post?] [gd]
  | .acas sz _ gd m _ => h.wf .no false true && (sz == .b4 || sz == .b8) && m.wf && postOk [m.post?] [gd]
  | .alog sz _ _ gd m _ => h.wf .no false true && (sz == .b4 || sz == .b8) && m.wf && postOk [m.post?] [gd]
  | .afadd sz _ bf gd m _ => h.wf .no false true && (sz == .b2 || (sz == .b4 && !bf)) && m.wf && postOk [m.post?] [gd]
  | .vld f vd m pair => h.wf (.elemFmt f.fmt) true true && f.wf anyFmts true false false false && decide (vd.val + (if pair then 2 else 1) ≤ 32) && m.wf
  | .vst f m va pair => h.wf (.elemFmt f.fmt) false true && f.wf anyFmts true false false false && m.wf && decide (va.val + (if pair then 2 else 1) ≤ 32)
  | .vlds f _ m b => h.wf .yes true true && f.wf elemFmts true false false false && m.wf && b.wf (-8192) 8191
  | .vsts f m _ b => h.wf .yes false true && f.wf elemFmts true false false false && m.wf && b.wf (-8192) 8191
  | .vldx f _ m _ => h.wf .yes true true && f.wf elemFmts true false false false && m.wf
  | .vstx f m _ _ => h.wf .yes false true && f.wf elemFmts true false false false && m.wf
  | .vbcast f _ a => h.wf .yes true true && f.wf (elemFmts ++ [.mask]) true false false false && a.wf (-8192) 8191
  | .vmov f _ _ => h.wf .no true true && f.wf [.noFmt] false false false false
  | .vadd f d a b => h.wf .yes d.isV true && f.wf numFmts true true (d.isS || a.isS || b.isS) true && d.wf && a.wf && b.wf && postOk [d.post?, a.post?, b.post?] []
  | .vsub f d a b => h.wf .yes d.isV true && f.wf numFmts true true (d.isS || a.isS || b.isS) true && d.wf && a.wf && b.wf && postOk [d.post?, a.post?, b.post?] []
  | .vmul f d a b => h.wf .yes d.isV true && f.wf numFmts true true (d.isS || a.isS || b.isS) true && d.wf && a.wf && b.wf && postOk [d.post?, a.post?, b.post?] []
  | .vfma f d a b => h.wf .yes d.isV true && f.wf numFmts true true (d.isS || a.isS || b.isS) true && d.wf && a.wf && b.wf && postOk [d.post?, a.post?, b.post?] []
  | .vfms f d a b => h.wf .yes d.isV true && f.wf numFmts true true (d.isS || a.isS || b.isS) true && d.wf && a.wf && b.wf && postOk [d.post?, a.post?, b.post?] []
  | .vmin f d a b => h.wf .yes d.isV true && f.wf numFmts true true (d.isS || a.isS || b.isS) true && d.wf && a.wf && b.wf && postOk [d.post?, a.post?, b.post?] []
  | .vmax f d a b => h.wf .yes d.isV true && f.wf numFmts true true (d.isS || a.isS || b.isS) true && d.wf && a.wf && b.wf && postOk [d.post?, a.post?, b.post?] []
  | .vabs f d a => h.wf .yes d.isV true && f.wf numFmts true false (d.isS || a.isS) false && d.wf && a.wf && postOk [d.post?, a.post?] []
  | .vneg f d a => h.wf .yes d.isV true && f.wf numFmts true false (d.isS || a.isS) false && d.wf && a.wf && postOk [d.post?, a.post?] []
  | .vand f d a b => h.wf .yes d.isV true && f.wf elemFmts true false (d.isS || a.isS || b.isS) false && d.wf && a.wf && b.wf && postOk [d.post?, a.post?, b.post?] []
  | .vor f d a b => h.wf .yes d.isV true && f.wf elemFmts true false (d.isS || a.isS || b.isS) false && d.wf && a.wf && b.wf && postOk [d.post?, a.post?, b.post?] []
  | .vxor f d a b => h.wf .yes d.isV true && f.wf elemFmts true false (d.isS || a.isS || b.isS) false && d.wf && a.wf && b.wf && postOk [d.post?, a.post?, b.post?] []
  | .vnot f d a => h.wf .yes d.isV true && f.wf elemFmts true false (d.isS || a.isS) false && d.wf && a.wf && postOk [d.post?, a.post?] []
  | .vshl f d a b => h.wf .yes d.isV true && f.wf intFmts true false (d.isS || a.isS || b.isS) false && d.wf && a.wf && b.wf 0 63 && postOk [d.post?, a.post?, b.post?] []
  | .vshr f d a b => h.wf .yes d.isV true && f.wf intFmts true false (d.isS || a.isS || b.isS) false && d.wf && a.wf && b.wf 0 63 && postOk [d.post?, a.post?, b.post?] []
  | .vsra f d a b => h.wf .yes d.isV true && f.wf intFmts true false (d.isS || a.isS || b.isS) false && d.wf && a.wf && b.wf 0 63 && postOk [d.post?, a.post?, b.post?] []
  | .vcmp f _ a spec => h.wf .yes true true && f.wf numFmts true false (a.isS) false && a.wf && decide (spec < 16384) && decide (spec % 16 ≤ 6 ∧ spec / 512 = 0) && !(spec % 16 == 3 && intFmts.contains f.fmt)
  | .vsel f d a b => h.wf .required d.isV true && f.wf elemFmts false false (d.isS || a.isS || b.isS) false && d.wf && a.wf && b.wf && postOk [d.post?, a.post?, b.post?] []
  | .vpres f _ a => h.wf .yes true true && f.wf elemFmts true false (a.isS) false && a.wf
  | .vmkabs f d a _ => h.wf .yes d.isV true && f.wf elemFmts true false (d.isS || a.isS) false && d.wf && a.wf && postOk [d.post?, a.post?] []
  | .vcnt f gd a => h.wf .yes false true && f.wf elemFmts false false (a.isS) false && a.wf && postOk [a.post?] [gd]
  | .vcvt f _ _ spec => h.wf .yes true true && f.wf numFmts true false false true && decide (spec < 16384) && vcvtWf f.fmt spec
  | .vquant f _ _ _ => h.wf .yes true true && f.wf [.i8, .i16, .f8, .f8w] true false false true
  | .vzenc f _ _ half => h.wf .no true true && f.wf [.f8] false false false false && immIn 0 1 half
  | .vzdec f _ _ half => h.wf .no true true && f.wf [.f8] false false false false && immIn 0 1 half
  | .vreds f gd a gc => h.wf .yes false true && f.wf numFmts false false (a.isS) false && a.wf && gc != some 0 && postOk [a.post?] (gd :: gc.toList)
  | .vredx f gd a gc => h.wf .yes false true && f.wf numFmts false false (a.isS) false && a.wf && gc != some 0 && postOk [a.post?] (gd :: gc.toList)
  | .vredn f gd a gc => h.wf .yes false true && f.wf numFmts false false (a.isS) false && a.wf && gc != some 0 && postOk [a.post?] (gd :: gc.toList)
  | .vredm f gd a mode => h.wf .yes false true && f.wf numFmts false false (a.isS) false && a.wf && immIn 0 2 mode && postOk [a.post?] [gd]
  | .vredq f _ _ spec => h.wf .no false true && f.wf floatFmts false false false false && decide (spec < 16384) && decide (spec < 2 ^ 8)
  | .vredqVector => true
  | .vperm f _ _ _ => h.wf .yes true true && f.wf elemFmts true false false false
  | .vslide f _ _ b => h.wf .yes true true && f.wf elemFmts true false false false && b.wf (-8192) 8191
  | .vcmpr f _ _ _ => h.wf .no true true && f.wf elemFmts false false false false
  | .vexpd f _ _ _ => h.wf .no true true && f.wf elemFmts false false false false
  | .vmlog f _ _ spec => h.wf .no true true && f.wf [.mask] false false false false && decide (spec < 16384) && decide (spec % 16 ≤ 7 ∧ spec / 512 = 0)
  | .vmpop f _ _ => h.wf .no false true && f.wf elemFmts false false false false
  | .viota f _ => h.wf .yes true true && f.wf intFmts true false false false
  | .vextr f _ _ b => h.wf .no false true && f.wf elemFmts false false false false && b.wf 0 (1024 / f.fmt.width - 1 : Nat)
  | .vins f _ _ b => h.wf .no true true && f.wf elemFmts false false false false && b.wf 0 (1024 / f.fmt.width - 1 : Nat)
  | .vretag f _ _ => h.wf .no true true && f.wf anyFmts false false false false
  | .scfg f _ _ m => h.wf .no false true && f.wf elemFmts false false false false && m.wf
  | .sstat f _ _ => h.wf .no false true && f.wf [.noFmt] false false false false
  | .srst f _ => h.wf .no false true && f.wf [.noFmt] false false false false
  | .vbaddq f vd va vb => h.wf .yes true true && f.wf floatFmts true false false true && decide (vd.val + 2 ≤ 32) && decide (va.val + 2 ≤ 32) && decide (vb.val + 2 ≤ 32) && pairsOk vd va && pairsOk vd vb
  | .vrng f _ _ _ => h.wf .yes true true && f.wf numFmts true false false false
  | .vtolog f _ _ p => h.wf .yes true true && f.wf [.f32, .bf16, .f16, .f8, .f8w] true false false false && decide (p < 16384) && decide (p < widthRatio f.fmt .l16)
  | .vfrlog f _ _ p => h.wf .yes true true && f.wf [.f32, .bf16, .f16, .f8, .f8w] true false false true && decide (p < 16384) && decide (p < widthRatio f.fmt .l16)
  | .vladd f d a b => h.wf .yes d.isV true && f.wf [.l16] true true (d.isS || a.isS || b.isS) false && d.wf && a.wf && b.wf && postOk [d.post?, a.post?, b.post?] []
  | .vexp2 f d a => h.wf .yes d.isV true && f.wf floatFmts true false (d.isS || a.isS) true && d.wf && a.wf && postOk [d.post?, a.post?] []
  | .vlog2 f d a => h.wf .yes d.isV true && f.wf floatFmts true false (d.isS || a.isS) true && d.wf && a.wf && postOk [d.post?, a.post?] []
  | .vrsq f d a => h.wf .yes d.isV true && f.wf floatFmts true false (d.isS || a.isS) true && d.wf && a.wf && postOk [d.post?, a.post?] []
  | .vrcp f d a => h.wf .yes d.isV true && f.wf floatFmts true false (d.isS || a.isS) true && d.wf && a.wf && postOk [d.post?, a.post?] []
  | .vact f d a fn => h.wf .yes d.isV true && f.wf floatFmts true false (d.isS || a.isS) true && d.wf && a.wf && decide (fn < 16384) && decide (fn < 2 ^ 2) && postOk [d.post?, a.post?] []
  | .mcfg f _ _ => h.wf .no false true && f.wf [.noFmt] false false false false
  | .mzero f _ => h.wf .no false true && f.wf [.noFmt, .f32, .i32] false false false false
  | .mldb f m => h.wf .no false true && f.wf [.f8, .f8w, .bf16, .f16, .i8] false false false false && m.wf
  | .mma f _ m => h.wf .no false true && f.wf [.f8, .f8w, .bf16, .f16, .i8] false false false false && m.wf
  | .chunkLand => true
  | .gmma f _ m => h.wf .no false true && f.wf [.f8, .f8w, .bf16, .f16, .i8] false false false false && m.wf
  | .gmmaJoin => true
  | .mdrn f vd _ spec => h.wf .yes true true && f.wf [.f32, .bf16, .f16, .f8, .f8w, .i32, .i16, .i8] true false false true && decide (vd.val + mdrnGroup f.fmt (spec / 32 % 4) ≤ 32) && decide (spec < 16384) && decide (spec / 256 = 0) && !(spec / 32 % 4 == 3 && f.fmt != .i16)
  | .mrdr f vd _ row => h.wf .no true true && f.wf [.noFmt] false false false false && decide (vd.val + 3 ≤ 32) && immIn 0 31 row
  | .mwrr f _ va row => h.wf .no false true && f.wf [.noFmt] false false false false && decide (va.val + 3 ≤ 32) && immIn 0 31 row
  | .mstat f _ => h.wf .no false true && f.wf [.noFmt] false false false false
  | .mrst f mask => h.wf .no false true && f.wf [.noFmt] false false false false && decide (mask < 16384) && decide (mask < 64)
  | .cpyIn _ m _ len => h.wf .no false true && m.wf && len.wf 0 8191
  | .cpyOut _ m _ len => h.wf .no false true && m.wf && len.wf 0 8191
  | .cpyLl _ m _ len => h.wf .no false true && m.wf && len.wf 0 8191
  | .cpysIn _ m _ gb => h.wf .no false true && m.wf && decide (gb.val + 2 ≤ 64)
  | .cpysOut _ m _ gb => h.wf .no false true && m.wf && decide (gb.val + 2 ≤ 64)
  | .cpyf _ fmt m len => h.wf .no false true && elemFmts.contains fmt && m.wf && len.wf 0 8191
  | .cpyfPat _ m _ len => h.wf .no false true && m.wf && len.wf 0 8191
  | .cpyw mask => h.wf .no false true && mask.wf 65536
  | .cpyq _ _ => h.wf .no false true
  | .cpyqC _ _ => h.wf .no false true
  | .cmut _ _ m _ gp => h.wf .no false true && m.wf && decide (gp.val + 4 ≤ 64)
  | .mcast _ _ m len => h.wf .no false true && m.wf && len.wf 0 8191
  | .send _ dst src len => h.wf .no false true && dst.wf && src.wf && len.wf 0 8191 && postOk [dst.post?, src.post?] []
  | .sendQ _ _ dst src len => h.wf .no false true && dst.wf && src.wf && len.wf 0 8191 && postOk [dst.post?, src.post?] []
  | .receiveQueuePush => true
  | .recv fmt _ k => h.wf .no true true && elemFmts.contains fmt && immIn 0 7 k
  | .sqtag m len => h.wf .no false true && m.wf && len.wf 0 8191
  | .sqtagClr m len => h.wf .no false true && m.wf && len.wf 0 8191
  | .copyBeatWrite => true
  | .copyComplete => true
  | .fitset _ => h.wf .no false true
  | .fitsetClr => h.wf .no false true
  | .fitgetRank _ gc => h.wf .no false true && gc != some 0
  | .fitgetSamp _ gc => h.wf .no false true && gc != some 0
  | .fitgetState _ gc => h.wf .no false true && gc != some 0
  | .rank _ p => h.wf .no false true && p.wf 0 15
  | .rankComplete => true
  | .popstep _ p => h.wf .no false true && p.wf 0 15
  | .popstepPairDone => true
  | .pwait _ p => h.wf .no false true && p.wf 0 15
  | .pwaitComplete => true
  | .wswap _ => h.wf .no false true
  | .wswapAny _ => h.wf .no false true
  | .wbase _ _ => h.wf .no false true
  | .wbaseInact _ _ => h.wf .no false true
  | .migr _ _ => h.wf .no false true
  | .migrArrival => true
  | .migrCopyDone => true
  | .migrReply => true
  | .linrdId _ gc => h.wf .no false true && gc != some 0
  | .linrdPend _ => h.wf .no false true
  | .linrdGen _ p => h.wf .no false true && p.wf 0 15
  | .linrdCnt _ p => h.wf .no false true && p.wf 0 15
  | .pseed _ p _ => h.wf .no false true && p.wf 0 15
  | .pcfgInd _ _ => h.wf .no false true
  | .pcfgPop gd m => h.wf .no false true && m.wf && postOk [m.post?] [gd]
  | .pcfgRet _ => h.wf .no false true
  | .tsub gd m _ => h.wf .no false true && m.wf && postOk [m.post?] [gd]
  | .tnext _ => h.wf .no false false
  | .dealRequest => true
  | .tdone => h.wf .no false false
  | .cntadd _ b => h.wf .no false true && b.wf (-8192) 8191
  | .cntwtLe _ b => h.wf .no false false && b.wf (-8192) 8191
  | .cntwtGe _ b => h.wf .no false false && b.wf (-8192) 8191
  | .cntwtLeA _ _ b => h.wf .no false false && b.wf (-8192) 8191
  | .cntwtGeA _ _ b => h.wf .no false false && b.wf (-8192) 8191
  | .cancel _ => h.wf .no false true
  | .qpush _ _ _ => h.wf .no false true
  | .qpop _ _ => h.wf .no false false
  | .qpopNb _ _ _ => h.wf .no false true
  | .crr _ _ => h.wf .no false false
  | .crw _ a => h.wf .no false false && a.wf (-8192) 8191
  | .crset _ a => h.wf .no false false && a.wf (-8192) 8191
  | .crclr _ a => h.wf .no false false && a.wf (-8192) 8191
  | .tlbinvVa _ b => h.wf .no false true && b.wf 0 8191
  | .tlbinvAll => h.wf .no false true
  | .tlbinvDrop _ b => h.wf .no false false && b.wf 0 8191
  | .pghintT _ b => h.wf .no false true && b.wf 0 8191
  | .pghintLock _ b => h.wf .no false true && b.wf 0 8191
  | .pghintUnlock => h.wf .no false false
  | .pghintClrw _ b => h.wf .no false true && b.wf 0 8191
  | .hndlLen _ _ => h.wf .no false false
  | .hndlBase _ _ => h.wf .no false false
  | .hndlSet _ gb => h.wf .no false true && decide (gb.val + 2 ≤ 64)
  | .hndlClr _ => h.wf .no false true
  | .trace _ tag => h.wf .no false false && immIn 0 255 tag
  | .traceSync => h.wf .no false false
  | .smpl _ => h.wf .no false false
  | .smplReq => h.wf .no false false
  | .resultLands => true
  | .operationComplete => true
  | .instructionCommit => true
  | .vrfRefresh => true
  | .shortLivedExpiry => true
  | .remoteLoadAtHome => true
  | .remoteLoadData => true
  | .remoteStoreAtHome => true
  | .revoke => true
  | .storeAcknowledgement => true
  | .atomicAtHome => true
  | .remoteControlWindowAccess => true
  | .pageWalkComplete => true
  | .invalidationComplete => true
  | .trapDelivery => true
  | .coreSaved => true
  | .create => true
  | .commit => true
  | .preempt => true
  | .preemptForce => true
  | .ctxResume => true
  | .dump => true
  | .dumpComplete => true
  | .destroy => true
  | .ctxReset => true
  | .functionLevelReset => true
  | .scrubComplete => true
  | .drainTimeout => true
  | .preemptLimitExpiry => true
  | .invRange => true
  | .invAll => true
  | .invHandles => true
  | .launchBind => true
  | .loadComplete => true
  | .startRelease => true
  | .pauseSpread => true
  | .realignReport => true
  | .realignRelease => true
  | .blockStartPassed => true
  | .deadlineExpiry => true
  | .budgetExpiry => true
  | .rollback => true
  | .queueDoorbell => true
  | .queueEnable => true
  | .queueDisable => true
  | .queueDrained => true
  | .hostConsume => true
  | .packetRead => true
  | .launchPacket => true
  | .graphNodePacket => true
  | .jobCardPacket => true
  | .ctrlNop => true
  | .ctrlWait => true
  | .ctrlCancel => true
  | .ctrlAdd => true
  | .ctrlFence => true
  | .launchComplete => true
  | .shotClockExpiry => true
  | .shotClockWrite => true
  | .counterSelect => true
  | .budgetPeriod => true
  | .fitnessWrite => true
  | .vIslUp => true
  | .vIslRemoved => true
  | .go => true
  | .splitReset => true
  | .splitDrainTimeout => true
  | .powerOff => true
  | .powerOn => true
  | .islandReset => true
  | .freq => true
  | .endpointResetRelease => true
  | .endpointTrainingDone => true
  | .endpointTrainingFail => true
  | .heartbeatTimeout => true
  | .meshLinkFail => true
  | .flitReceived => true
  | .acknowledgeReceived => true
  | .negativeAcknowledge => true
  | .portEnable => true
  | .portDisable => true
  | .portWidthRequest => true
  | .portTrainingDone => true
  | .portTrainingFail => true
  | .laneLossOfLock => true
  | .laneErrorRate => true
  | .retrainDone => true
  | .retrainFail => true
  | .widthChangeDone => true
  | .linjArm => true
  | .collectiveEnable => true
  | .collectiveAbandon => true
  | .contributionWrite => true
  | .shardArrival => true
  | .shardDelivery => true
  | .passThroughShard => true
  | .haltNotice => true
  | .collectiveShotExpiry => true
  | .scrub => true
  | .errinjArm => true
  | .dbgHalt => true
  | .dbgResume => true
  | .dbgStep => true
  | .whistleTick => true
  | .whistleReq => true
  | .attCmd => true
  | .qownWrite => true
  | .cownWrite => true
  | .hostWindowTimeout => true
  | .thermalThrottle => true
  | .overtempPowerOff => true
  | .registerWrite => true
  | .columnIssue => true
  | .sleepEnd => true
  | .freqComplete => true
  | .reservedOpcode => true
  | .fetchOutsideInstructionWords => true

end Sys2Proof
end

