-- ==== Sys2Proof/Decode.lean ====
section
/-! DEFINITION. The decoder, total on any 96 bits, with the checks of R128 in their order, and after it the encoder,
written from the same encoding tables. A word whose checks fail is rejected by name: the field and the reason R129
gives. -/

namespace Sys2Proof

/-- Why a word is not an instruction (R128, R129). -/
inductive DecodeFault where
  /-- ILLEGAL, with the field number of R111 and the reason code of R129. -/
  | illegal (field reason : Nat)
  /-- OVERLAP, with the field of the later operand (R129, R131). -/
  | overlap (field : Nat)
  /-- PRIV, with the field number of the first such operand (R63, R119, R290). -/
  | priv (field : Nat)
  deriving DecidableEq, Repr

/-- What the checks read besides the word: which of s0 to s7 are configured (none leaves the checks of R68 out, for
reading a word on its own), whether the core is at user privilege, and whether it is a gateway core. -/
structure DecodeEnv where
  streams : Option Nat
  user    : Bool
  gateway : Bool
  deriving DecidableEq, Repr

/-- The seven fields of a word (R111). -/
structure Raw where
  op : Nat
  fn : Nat
  gd : Nat
  d  : Nat
  a  : Nat
  b  : Nat
  hints : Nat
  deriving DecidableEq, Repr

/-- The fields of 96 bits (R111). -/
def Raw.ofNat (w : Nat) : Raw :=
  ⟨w / 2 ^ 88 % 256, w / 2 ^ 80 % 256, w / 2 ^ 72 % 256, w / 2 ^ 56 % 65536, w / 2 ^ 40 % 65536, w / 2 ^ 24 % 65536,
   w % 2 ^ 24⟩

/-- The 96 bits of seven fields (R111). -/
def Raw.toNat (r : Raw) : Nat :=
  r.op * 2 ^ 88 + r.fn * 2 ^ 80 + r.gd * 2 ^ 72 + r.d * 2 ^ 56 + r.a * 2 ^ 40 + r.b * 2 ^ 24 + r.hints

/-! ## Codes of the named fields -/

/-- The format code of R79. -/
def Fmt.code : Fmt → Nat
  | .noFmt => 0 | .f32 => 1 | .bf16 => 2 | .f16 => 3 | .f8 => 4 | .f8w => 5 | .i32 => 6 | .i16 => 7 | .i8 => 8
  | .l16 => 9 | .mask => 10 | .i64 => 11

/-- The format of a code of R79; a reserved code reads as NONE here and is refused by the checks. -/
def Fmt.ofCode : Nat → Fmt
  | 1 => .f32 | 2 => .bf16 | 3 => .f16 | 4 => .f8 | 5 => .f8w | 6 => .i32 | 7 => .i16 | 8 => .i8 | 9 => .l16
  | 10 => .mask | 11 => .i64 | _ => .noFmt

/-- SIZE (R113). -/
def Size.code : Size → Nat
  | .b1 => 0 | .b2 => 1 | .b4 => 2 | .b8 => 3
def Size.ofCode : Nat → Size
  | 0 => .b1 | 1 => .b2 | 2 => .b4 | _ => .b8

/-- ORD (R113). -/
def Ordering.code : Ordering → Nat
  | .plain => 0 | .acquire => 1 | .release => 2 | .both => 3
def Ordering.ofCode : Nat → Ordering
  | 1 => .acquire | 2 => .release | 3 => .both | _ => .plain

/-- The selectors of R160. -/
def QFn.code : QFn → Nat
  | .and => 0 | .or => 1 | .xor => 2 | .andn => 3 | .orn => 4 | .xnor => 5 | .nand => 6 | .nor => 7
def QFn.ofCode : Nat → QFn
  | 0 => .and | 1 => .or | 2 => .xor | 3 => .andn | 4 => .orn | 5 => .xnor | 6 => .nand | _ => .nor

/-- The selectors of MULH (R165). -/
def MulhKind.code : MulhKind → Nat
  | .ss => 0 | .uu => 1 | .su => 2
def MulhKind.ofCode : Nat → MulhKind
  | 0 => .ss | 1 => .uu | _ => .su

/-- The selectors of R169. -/
def CmpCond.code : CmpCond → Nat
  | .eq => 0 | .ne => 1 | .lt => 2 | .le => 3 | .gt => 4 | .ge => 5 | .ltu => 6 | .leu => 7 | .gtu => 8 | .geu => 9
  | .tst => 10
def CmpCond.ofCode : Nat → CmpCond
  | 0 => .eq | 1 => .ne | 2 => .lt | 3 => .le | 4 => .gt | 5 => .ge | 6 => .ltu | 7 => .leu | 8 => .gtu | 9 => .geu
  | _ => .tst

/-- The selectors of CGET (R174). -/
def CapField.code : CapField → Nat
  | .base => 0 | .top => 1 | .len => 2 | .perm => 3 | .seal => 4 | .tag => 5 | .metaBits => 6 | .off => 7
def CapField.ofCode : Nat → CapField
  | 0 => .base | 1 => .top | 2 => .len | 3 => .perm | 4 => .seal | 5 => .tag | 6 => .metaBits | _ => .off

/-- The selectors of CTEST (R175). -/
def CapTest.code : CapTest → Nat
  | .tag => 0 | .sub => 1 | .inb => 2 | .isSealed => 3
def CapTest.ofCode : Nat → CapTest
  | 0 => .tag | 1 => .sub | 2 => .inb | _ => .isSealed

/-- VARIANT of FCMP (R178). -/
def FCond.code : FCond → Nat
  | .eq => 0 | .lt => 1 | .le => 2 | .un => 3 | .ne => 4
def FCond.ofCode : Nat → FCond
  | 0 => .eq | 1 => .lt | 2 => .le | 3 => .un | _ => .ne

/-- VARIANT of FCVT (R179). -/
def CvtSrc.code : CvtSrc → Nat
  | .f32 => 0 | .bf16 => 1 | .f16 => 2 | .f8 => 3 | .f8w => 4 | .i64 => 5
def CvtSrc.ofCode : Nat → CvtSrc
  | 0 => .f32 | 1 => .bf16 | 2 => .f16 | 3 => .f8 | 4 => .f8w | _ => .i64

/-- VARIANT of FSGN (R178). -/
def SgnOp.code : SgnOp → Nat
  | .cpy => 0 | .neg => 1 | .xor => 2
def SgnOp.ofCode : Nat → SgnOp
  | 0 => .cpy | 1 => .neg | _ => .xor

/-- OP of AMM (R186, R187). -/
def AmmOp.code : AmmOp → Nat
  | .smin => 0 | .smax => 1 | .umin => 2 | .umax => 3
def AmmOp.ofCode : Nat → AmmOp
  | 0 => .smin | 1 => .smax | 2 => .umin | _ => .umax

/-- OP of ALOG (R186, R187). -/
def AlogOp.code : AlogOp → Nat
  | .and => 0 | .or => 1 | .xor => 2
def AlogOp.ofCode : Nat → AlogOp
  | 0 => .and | 1 => .or | _ => .xor

/-- LAYOUT of CMUT (R244). -/
def Layout.code : Layout → Nat
  | .f8z => 0 | .f32 => 1 | .bf16 => 2 | .f16 => 3 | .f8 => 4 | .f8w => 5
def Layout.ofCode : Nat → Layout
  | 0 => .f8z | 1 => .f32 | 2 => .bf16 | 3 => .f16 | 4 => .f8 | _ => .f8w

/-- The function field of the V, X and T columns (R112). -/
def VFn.code (f : VFn) : Nat :=
  f.fmt.code * 16 + f.policy.toNat * 8 + f.pass.toNat * 4 + f.stream.toNat * 2 + f.sat.toNat
def vfnOf (fn : Nat) : VFn :=
  ⟨Fmt.ofCode (fn / 16), fn / 8 % 2 == 1, fn / 4 % 2 == 1, fn / 2 % 2 == 1, fn % 2 == 1⟩

/-! ## Operand fields (R118, R119, R122) -/

/-- A value of `w` bits read as two's complement. -/
def signed (w v : Nat) : Int := if v < 2 ^ (w - 1) then (v : Int) else (v : Int) - (2 ^ w : Nat)

def gOf (x : Nat) : GReg := Fin.ofNat 64 (x / 32)
def vOf (x : Nat) : VReg := Fin.ofNat 32 (x / 32)
def aOf (x : Nat) : AReg := Fin.ofNat 4 (x / 32)
def qOf (x : Nat) : QReg := Fin.ofNat 16 (x / 32)
def dOf (x : Nat) : DReg := Fin.ofNat 8 (x / 32)
def sOf (x : Nat) : SReg := Fin.ofNat 8 (x / 32)
def crOf (x : Nat) : CReg := Fin.ofNat 64 (x / 32)
def gOptOf (x : Nat) : Option GReg := if x = 0 then none else some (gOf x)
def dOptOf (x : Nat) : Option DReg := if x = 0 then none else some (dOf x)
def immOf (x : Nat) : Int := signed 14 (x % 16384)
def memOf (x : Nat) : MemOp := ⟨Fin.ofNat 64 (x / 256), x / 128 % 2 == 1, signed 7 (x % 128)⟩
def gimmOf (x : Nat) : GImm := if x / 16384 = 2 then .imm (immOf x) else .reg (gOf x)
def vsmOf (x : Nat) : VSM :=
  if x / 16384 = 1 then .m (memOf x) else if x / 2048 % 8 = 5 then .s (sOf x) else .v (vOf x)
def vsmiOf (x : Nat) : VSMI :=
  if x / 16384 = 2 then .imm (immOf x) else if x / 16384 = 1 then .m (memOf x)
  else if x / 2048 % 8 = 5 then .s (sOf x) else .v (vOf x)
/-- The joined immediate of R122. -/
def joinedOf (r : Raw) : Nat := r.hints % 4 * 2 ^ 30 + r.a % 16384 * 2 ^ 16 + r.b
def gimmjOf (r : Raw) : GImmJ :=
  if r.a / 16384 = 3 then .joined (joinedOf r) else if r.a / 16384 = 2 then .imm (immOf r.a) else .reg (gOf r.a)
def gjOf (r : Raw) : GJ := if r.a / 16384 = 3 then .joined (joinedOf r) else .reg (gOf r.a)
def immjOf (r : Raw) : ImmJ := if r.a / 16384 = 3 then .joined (joinedOf r) else .imm (immOf r.a)

/-- The guard of R116. -/
def guardOf (x : Nat) : Guard :=
  match x / 64 with
  | 0 => .always
  | 1 => .ifQ (Fin.ofNat 16 x)
  | 2 => .ifNotQ (Fin.ofNat 16 x)
  | _ => .elem (Fin.ofNat 32 x)

/-- The head: the guard field and the hints of R124. -/
def headOf (r : Raw) : Head :=
  { guard := guardOf r.gd
    wait := BitVec.ofNat 8 (r.hints / 65536)
    set := if r.hints / 4096 % 16 < 8 then some (Fin.ofNat 8 (r.hints / 4096)) else none
    delay := r.hints / 16 % 256
    short := r.hints / 8 % 2 == 1
    phase := r.hints / 4 % 2 == 1 }

/-! ## What an entry accepts -/

/-- An operand kind, or a register file, that an entry lists for a position (R118, R119, R163, R190). -/
inductive Kind where
  | empty | g | v | a | q | d | s | cr | mem | imm (lo hi : Int) | jimm
  deriving DecidableEq, Repr

/-- The layout of a short immediate that has one. -/
inductive ImmCk where
  /-- No layout beyond the range. -/
  | any
  /-- Only the low `n` bits are used. -/
  | low (n : Nat)
  /-- R168, for BFX and for BFI. -/
  | bfx | bfi
  /-- R202, R205, R213. -/
  | vcmp | vcvt | vmlog
  /-- The part of VTOLOG and VFRLOG (R221). -/
  | lp
  /-- R241. -/
  | mdrn
  /-- The element index of VEXTR and VINS (R214). -/
  | elem
  deriving DecidableEq, Repr

/-- What an entry accepts in one operand position: the kinds, the size of the register group (R130), and the layout
of the immediate. -/
structure Pos where
  kinds : List Kind
  n     : Nat
  ck    : ImmCk
  deriving DecidableEq, Repr

def Pos.unused : Pos := ⟨[.empty], 1, .any⟩
def Pos.of (ks : List Kind) : Pos := ⟨ks, 1, .any⟩

/-- How a guard field is accepted, before FMT is looked at. -/
inductive MaskCk where
  | no | yes | elemFmt | required | alwaysOnly
  deriving DecidableEq, Repr

/-- What an entry accepts in its guard, its SET hint and its operands. -/
structure Form where
  mask : MaskCk
  set  : Bool
  d    : Pos
  a    : Pos
  b    : Pos
  deriving DecidableEq, Repr

/-- What an entry accepts in the function field. -/
inductive FnCk where
  /-- FMT and the bits POLICY, P, S, SAT (R112). -/
  | v (fmts : List Fmt) (policy pass stream sat : Bool)
  /-- FMT, RTZ and the greatest VARIANT (R113). -/
  | f (fmts : List Fmt) (rtz : Bool) (vmax : Nat)
  /-- FCVT: an integer source with an integer destination is refused (R179). -/
  | fcvt
  /-- SIZE, SX, ORD and the greatest OP (R113). -/
  | m (sizes : List Nat) (sx ord : Bool) (opMax : Nat)
  /-- AFADD: SIZE 2 with OP 0, SIZE 1 with OP 0 or 1 (R186). -/
  | afadd
  /-- A selector from 0 to a greatest value (R114). -/
  | sel (max : Nat)
  /-- A selector whose low four bits are listed, with positions marked zero (R114, R244). -/
  | low4 (zeros : Nat) (low : List Nat)
  /-- SEND: the queue number is zero when Q is 0 (R244). -/
  | send
  deriving DecidableEq, Repr

/-- The number of registers VLD and VST name (R196). -/
def pairSize (r : Raw) : Nat := if r.b = 32770 then 2 else 1
/-- The number of registers QRD reads, as B gives it where B is an immediate of its range (R144). -/
def qrdSize (r : Raw) : Nat := if 32769 ≤ r.b ∧ r.b ≤ 32784 then r.b - 32768 else 1
/-- The number of registers MDRN writes (R241). -/
def mdrnSize (r : Raw) : Nat := mdrnGroup (Fmt.ofCode (r.fn / 16)) (if r.b / 16384 = 2 then r.b / 32 % 4 else 3)

/-- What the function field of each opcode may hold: the Selector, FMT, Bits, SIZE and OP columns of the encoding
tables (R112 to R115). -/
def fnCk (op : Nat) : FnCk :=
  match op with
  | 0x08 | 0x4B | 0xD8 | 0xE4 | 0xED | 0xEE => .sel 3
  | 0x09 | 0x10 | 0x11 | 0x17 | 0x1E | 0x24 | 0x25 | 0x2E | 0x2F | 0xC9 | 0xD0 | 0xD5 | 0xD6 | 0xE7 | 0xEF | 0xF0 => .sel 1
  | 0x14 | 0x45 => .sel 7
  | 0x15 | 0x19 | 0x23 | 0xD1 | 0xDA | 0xEC => .sel 2
  | 0x38 => .sel 10
  | 0x39 => .low4 0xF0 [0, 1, 2, 3, 4, 5, 6, 7, 8, 9, 10, 11, 12, 13, 14, 15]
  | 0x50 | 0x51 | 0x52 | 0x53 | 0x54 | 0x55 => .f floatFmts true 0
  | 0x56 | 0x57 => .f floatFmts false 0
  | 0x58 => .f floatFmts false 4
  | 0x59 => .fcvt
  | 0x5A => .f floatFmts false 2
  | 0x5B | 0x5C => .f elemFmts false 0
  | 0x60 | 0x64 => .m [0, 1, 2, 3] true false 0
  | 0x61 | 0x65 => .m [0, 1, 2, 3] false false 0
  | 0x62 | 0x63 => .m [4] false false 0
  | 0x66 | 0x67 => .m [3] false false 0
  | 0x68 => .m [3] false false 2
  | 0x69 | 0x6B | 0x6C => .m [2, 3] false true 0
  | 0x6A => .m [2, 3] false true 3
  | 0x6D => .m [2, 3] false true 2
  | 0x6E => .afadd
  | 0x70 | 0x71 => .v anyFmts true false false false
  | 0x72 | 0x73 | 0x74 | 0x75 | 0x96 | 0x97 => .v elemFmts true false false false
  | 0x76 => .v (elemFmts ++ [.mask]) true false false false
  | 0x77 | 0xA1 | 0xA2 | 0xB0 | 0xB6 | 0xB7 | 0xB8 | 0xB9 => .v [.noFmt] false false false false
  | 0x78 | 0x79 | 0x7A | 0x7B | 0x7C | 0x7D | 0x7E => .v numFmts true true true true
  | 0x7F | 0x80 | 0x88 => .v numFmts true false true false
  | 0x81 | 0x82 | 0x83 | 0x84 | 0x8A | 0x8B => .v elemFmts true false true false
  | 0x85 | 0x86 | 0x87 => .v intFmts true false true false
  | 0x89 | 0x8C => .v elemFmts false false true false
  | 0x8D => .v numFmts true false false true
  | 0x8E => .v [.i8, .i16, .f8, .f8w] true false false true
  | 0x8F | 0x90 => .v [.f8] false false false false
  | 0x91 | 0x92 | 0x93 | 0x94 => .v numFmts false false true false
  | 0x95 => .v floatFmts false false false false
  | 0x98 | 0x99 | 0x9B | 0x9D | 0x9E | 0xA0 => .v elemFmts false false false false
  | 0x9A => .v [.mask] false false false false
  | 0x9C => .v intFmts true false false false
  | 0x9F => .v anyFmts false false false false
  | 0xA3 => .v floatFmts true false false true
  | 0xA4 => .v numFmts true false false false
  | 0xA8 => .v [.f32, .bf16, .f16, .f8, .f8w] true false false false
  | 0xA9 => .v [.f32, .bf16, .f16, .f8, .f8w] true false false true
  | 0xAA => .v [.l16] true true true false
  | 0xAB | 0xAC | 0xAD | 0xAE | 0xAF => .v floatFmts true false true true
  | 0xB1 => .v [.noFmt, .f32, .i32] false false false false
  | 0xB2 | 0xB3 | 0xB4 => .v [.f8, .f8w, .bf16, .f16, .i8] false false false false
  | 0xB5 => .v [.f32, .bf16, .f16, .f8, .f8w, .i32, .i16, .i8] true false false true
  | 0xC0 => .low4 0 [0, 1, 2]
  | 0xC1 => .low4 0 [0, 1]
  | 0xC2 => .low4 0 (0 :: [1, 2, 3, 4, 5, 6, 7, 8, 9, 11])
  | 0xC4 => .low4 0x0E (List.range 16)
  | 0xC5 => .low4 0 [0, 1, 2, 3, 4, 5]
  | 0xC6 => .low4 0x0F (List.range 16)
  | 0xC7 => .send
  | 0xC8 => .low4 0xF0 [1, 2, 3, 4, 5, 6, 7, 8, 9, 11]
  | _ => .sel 0

/-- What an entry accepts in its guard, SET and operand fields, S column (opcodes 0x00 to 0x1F). -/
def formSLow (r : Raw) : Form :=
  match r.op with
  | 0x00 => ⟨.no, true, .unused, .unused, .unused⟩
  | 0x01 => ⟨.no, false, .unused, (.of [.imm (-8192) 8191]), .unused⟩
  | 0x02 => ⟨.no, false, .unused, (.of [.g]), .unused⟩
  | 0x03 => ⟨.no, false, .unused, (.of [.imm (-8192) 8191]), .unused⟩
  | 0x04 => ⟨.no, false, .unused, (.of [.g]), .unused⟩
  | 0x05 => ⟨.no, false, .unused, (.of [.g]), .unused⟩
  | 0x06 => ⟨.no, false, .unused, (.of [.g, .imm 0 8191]), (.of [.imm 1 8191])⟩
  | 0x07 => ⟨.no, false, (.of [.q]), (.of [.g, .imm 0 8191]), (.of [.imm 1 8191])⟩
  | 0x08 => if r.fn = 0x00 then ⟨.no, false, .unused, (.of [.d]), (.of [.imm (-8192) 8191])⟩ else if r.fn = 0x01 then ⟨.no, false, .unused, (.of [.d]), (.of [.imm (-8192) 8191])⟩ else if r.fn = 0x02 then ⟨.no, false, .unused, (.of [.imm 0 3]), (.of [.imm (-8192) 8191])⟩ else ⟨.no, false, .unused, (.of [.imm 0 3]), (.of [.imm (-8192) 8191])⟩
  | 0x09 => if r.fn = 0x00 then ⟨.no, true, .unused, (.of [.empty, .d]), .unused⟩ else ⟨.no, true, .unused, .unused, .unused⟩
  | 0x0A => ⟨.no, false, .unused, (.of [.imm 0 2047]), .unused⟩
  | 0x0B => ⟨.alwaysOnly, false, .unused, (.of [.g, .imm 0 255]), .unused⟩
  | 0x0C => ⟨.alwaysOnly, false, .unused, .unused, .unused⟩
  | 0x0D => ⟨.alwaysOnly, false, .unused, .unused, .unused⟩
  | 0x0E => ⟨.no, false, .unused, .unused, .unused⟩
  | 0x0F => ⟨.no, false, .unused, (.of [.g, .imm 0 8191]), .unused⟩
  | 0x10 => if r.fn = 0x00 then ⟨.no, false, .unused, (.of [.imm 0 255]), .unused⟩ else ⟨.no, false, .unused, .unused, .unused⟩
  | 0x11 => if r.fn = 0x00 then ⟨.no, false, .unused, .unused, .unused⟩ else ⟨.no, false, .unused, .unused, .unused⟩
  | 0x12 => ⟨.no, false, .unused, (.of [.imm 0 255]), .unused⟩
  | 0x13 => ⟨.no, false, .unused, (.of [.g, .imm 0 8191]), .unused⟩
  | 0x14 => ⟨.no, false, (.of [.q]), (.of [.q]), (.of [.q])⟩
  | 0x15 => if r.fn = 0x00 then ⟨.no, false, (.of [.q]), (.of [.q]), .unused⟩ else if r.fn = 0x01 then ⟨.no, false, (.of [.q]), (.of [.g]), .unused⟩ else ⟨.no, false, (.of [.q]), (.of [.imm 0 1]), .unused⟩
  | 0x16 => ⟨.no, false, (.of [.g]), ⟨[.q], (qrdSize r), .any⟩, (.of [.imm 1 16])⟩
  | 0x17 => if r.fn = 0x00 then ⟨.no, false, (.of [.g]), (.of [.g, .jimm]), .unused⟩ else ⟨.no, false, (.of [.g]), (.of [.imm 0 8191]), .unused⟩
  | 0x18 => ⟨.no, false, .unused, .unused, .unused⟩
  | 0x19 => if r.fn = 0x00 then ⟨.no, false, .unused, (.of [.g]), (.of [.empty, .g])⟩ else if r.fn = 0x01 then ⟨.no, false, .unused, (.of [.g]), (.of [.empty, .g])⟩ else ⟨.no, false, .unused, (.of [.g]), .unused⟩
  | 0x1A => ⟨.no, false, (.of [.g]), (.of [.g]), .unused⟩
  | 0x1B => ⟨.no, false, .unused, (.of [.g]), (.of [.g])⟩
  | 0x1C => ⟨.no, false, .unused, (.of [.g]), .unused⟩
  | 0x1D => ⟨.no, false, .unused, (.of [.g]), ⟨[.g], 2, .any⟩⟩
  | 0x1E => if r.fn = 0x00 then ⟨.no, false, .unused, (.of [.g, .imm 0 8191, .jimm]), .unused⟩ else ⟨.no, false, .unused, .unused, .unused⟩
  | _ => ⟨.no, false, .unused, .unused, .unused⟩

/-- What an entry accepts in its guard, SET and operand fields, S column (opcodes 0xE0 to 0xF0). -/
def formSHigh (r : Raw) : Form :=
  match r.op with
  | 0xE0 => ⟨.no, true, (.of [.g]), (.of [.mem]), (.of [.g])⟩
  | 0xE1 => ⟨.no, false, (.of [.g]), .unused, .unused⟩
  | 0xE2 => ⟨.no, false, .unused, .unused, .unused⟩
  | 0xE3 => ⟨.no, true, .unused, (.of [.g]), (.of [.g, .imm (-8192) 8191])⟩
  | 0xE4 => if r.fn = 0x00 then ⟨.no, false, .unused, (.of [.g]), (.of [.g, .imm (-8192) 8191])⟩ else if r.fn = 0x01 then ⟨.no, false, .unused, (.of [.g]), (.of [.g, .imm (-8192) 8191])⟩ else if r.fn = 0x02 then ⟨.no, false, (.of [.d]), (.of [.g]), (.of [.g, .imm (-8192) 8191])⟩ else ⟨.no, false, (.of [.d]), (.of [.g]), (.of [.g, .imm (-8192) 8191])⟩
  | 0xE5 => ⟨.no, true, .unused, (.of [.g]), .unused⟩
  | 0xE6 => ⟨.no, true, (.of [.q]), (.of [.g]), (.of [.g])⟩
  | 0xE7 => if r.fn = 0x00 then ⟨.no, false, (.of [.g]), (.of [.g]), .unused⟩ else ⟨.no, true, (.of [.g]), (.of [.g]), (.of [.q])⟩
  | 0xE8 => ⟨.no, false, (.of [.g]), (.of [.cr]), .unused⟩
  | 0xE9 => ⟨.no, false, (.of [.cr]), (.of [.g, .imm (-8192) 8191, .jimm]), .unused⟩
  | 0xEA => ⟨.no, false, (.of [.cr]), (.of [.g, .imm (-8192) 8191, .jimm]), .unused⟩
  | 0xEB => ⟨.no, false, (.of [.cr]), (.of [.g, .imm (-8192) 8191, .jimm]), .unused⟩
  | 0xEC => if r.fn = 0x00 then ⟨.no, true, .unused, (.of [.g]), (.of [.g, .imm 0 8191])⟩ else if r.fn = 0x01 then ⟨.no, true, .unused, .unused, .unused⟩ else ⟨.no, false, .unused, (.of [.g]), (.of [.g, .imm 0 8191])⟩
  | 0xED => if r.fn = 0x00 then ⟨.no, true, .unused, (.of [.g]), (.of [.g, .imm 0 8191])⟩ else if r.fn = 0x01 then ⟨.no, true, .unused, (.of [.g]), (.of [.g, .imm 0 8191])⟩ else if r.fn = 0x02 then ⟨.no, false, .unused, .unused, .unused⟩ else ⟨.no, true, .unused, (.of [.g]), (.of [.g, .imm 0 8191])⟩
  | 0xEE => if r.fn = 0x00 then ⟨.no, false, (.of [.g]), (.of [.g]), .unused⟩ else if r.fn = 0x01 then ⟨.no, false, (.of [.g]), (.of [.g]), .unused⟩ else if r.fn = 0x02 then ⟨.no, true, .unused, (.of [.g]), ⟨[.g], 2, .any⟩⟩ else ⟨.no, true, .unused, (.of [.g]), .unused⟩
  | 0xEF => if r.fn = 0x00 then ⟨.no, false, .unused, (.of [.g]), (.of [.imm 0 255])⟩ else ⟨.no, false, .unused, .unused, .unused⟩
  | 0xF0 => if r.fn = 0x00 then ⟨.no, false, (.of [.g]), .unused, .unused⟩ else ⟨.no, false, .unused, .unused, .unused⟩
  | _ => ⟨.no, false, .unused, .unused, .unused⟩

/-- What an entry accepts in its guard, SET and operand fields, I column. -/
def formI (r : Raw) : Form :=
  match r.op with
  | 0x20 => ⟨.no, true, (.of [.g]), (.of [.g]), (.of [.g, .imm (-8192) 8191])⟩
  | 0x21 => ⟨.no, true, (.of [.g]), (.of [.g]), (.of [.g, .imm (-8192) 8191])⟩
  | 0x22 => ⟨.no, true, (.of [.g]), (.of [.g]), (.of [.g, .imm (-8192) 8191])⟩
  | 0x23 => ⟨.no, true, (.of [.g]), (.of [.g]), (.of [.g, .imm (-8192) 8191])⟩
  | 0x24 => ⟨.no, true, (.of [.g]), (.of [.g]), (.of [.g, .imm (-8192) 8191])⟩
  | 0x25 => ⟨.no, true, (.of [.g]), (.of [.g]), (.of [.g, .imm (-8192) 8191])⟩
  | 0x26 => ⟨.no, true, (.of [.g]), (.of [.g]), (.of [.g, .imm (-8192) 8191])⟩
  | 0x27 => ⟨.no, true, (.of [.g]), (.of [.g]), (.of [.g, .imm (-8192) 8191])⟩
  | 0x28 => ⟨.no, true, (.of [.g]), (.of [.g]), (.of [.g, .imm (-8192) 8191])⟩
  | 0x29 => ⟨.no, true, (.of [.g]), (.of [.g]), (.of [.g, .imm (-8192) 8191])⟩
  | 0x2A => ⟨.no, true, (.of [.g]), (.of [.g]), (.of [.g, .imm 0 63])⟩
  | 0x2B => ⟨.no, true, (.of [.g]), (.of [.g]), (.of [.g, .imm 0 63])⟩
  | 0x2C => ⟨.no, true, (.of [.g]), (.of [.g]), (.of [.g, .imm 0 63])⟩
  | 0x2D => ⟨.no, true, (.of [.g]), (.of [.g]), (.of [.g, .imm 0 63])⟩
  | 0x2E => ⟨.no, true, (.of [.g]), (.of [.g]), (.of [.g, .imm (-8192) 8191])⟩
  | 0x2F => ⟨.no, true, (.of [.g]), (.of [.g]), (.of [.g, .imm (-8192) 8191])⟩
  | 0x30 => ⟨.no, true, (.of [.g]), (.of [.g]), .unused⟩
  | 0x31 => ⟨.no, true, (.of [.g]), (.of [.g]), .unused⟩
  | 0x32 => ⟨.no, true, (.of [.g]), (.of [.g]), .unused⟩
  | 0x33 => ⟨.no, true, (.of [.g]), (.of [.g]), ⟨[.imm (-8192) 8191], 1, .bfx⟩⟩
  | 0x34 => ⟨.no, true, (.of [.g]), (.of [.g]), ⟨[.imm (-8192) 8191], 1, .bfi⟩⟩
  | 0x35 => ⟨.no, true, (.of [.g]), (.of [.imm (-8192) 8191, .jimm]), .unused⟩
  | 0x36 => ⟨.no, true, (.of [.g]), (.of [.imm (-8192) 8191, .jimm]), .unused⟩
  | 0x37 => ⟨.no, true, (.of [.g]), (.of [.g]), .unused⟩
  | 0x38 => ⟨.no, true, (.of [.q]), (.of [.g]), (.of [.g, .imm (-8192) 8191])⟩
  | 0x39 => ⟨.no, true, (.of [.g]), (.of [.g]), (.of [.g])⟩
  | 0x40 => ⟨.no, true, (.of [.g]), (.of [.g]), (.of [.g, .imm (-8192) 8191])⟩
  | 0x41 => ⟨.no, true, (.of [.g]), (.of [.g]), (.of [.g, .imm (-8192) 8191])⟩
  | 0x42 => ⟨.no, true, (.of [.g]), (.of [.g]), (.of [.g, .imm 0 4095])⟩
  | 0x43 => ⟨.no, true, (.of [.g]), (.of [.g]), (.of [.g, .imm (-8192) 8191])⟩
  | 0x44 => ⟨.no, true, (.of [.g]), (.of [.g]), (.of [.g, .imm (-8192) 8191])⟩
  | 0x45 => ⟨.no, true, (.of [.g]), (.of [.g]), .unused⟩
  | 0x46 => ⟨.no, true, (.of [.g]), (.of [.g]), (.of [.imm 2 31])⟩
  | 0x47 => ⟨.no, true, (.of [.g]), (.of [.g]), (.of [.imm 2 31])⟩
  | 0x48 => ⟨.no, true, (.of [.g]), (.of [.g]), .unused⟩
  | 0x49 => ⟨.no, true, (.of [.g]), (.of [.g]), ⟨[.imm (-8192) 8191], 1, (.low 13)⟩⟩
  | 0x4A => ⟨.no, true, (.of [.g]), (.of [.g]), .unused⟩
  | 0x4B => ⟨.no, true, (.of [.q]), (.of [.g]), (.of [.empty, .g])⟩
  | _ => ⟨.no, false, .unused, .unused, .unused⟩

/-- What an entry accepts in its guard, SET and operand fields, F column. -/
def formF (r : Raw) : Form :=
  match r.op with
  | 0x50 => ⟨.no, true, (.of [.g]), (.of [.g]), (.of [.g])⟩
  | 0x51 => ⟨.no, true, (.of [.g]), (.of [.g]), (.of [.g])⟩
  | 0x52 => ⟨.no, true, (.of [.g]), (.of [.g]), (.of [.g])⟩
  | 0x53 => ⟨.no, true, (.of [.g]), (.of [.g]), (.of [.g])⟩
  | 0x54 => ⟨.no, true, (.of [.g]), (.of [.g]), (.of [.g])⟩
  | 0x55 => ⟨.no, true, (.of [.g]), (.of [.g]), .unused⟩
  | 0x56 => ⟨.no, true, (.of [.g]), (.of [.g]), (.of [.g])⟩
  | 0x57 => ⟨.no, true, (.of [.g]), (.of [.g]), (.of [.g])⟩
  | 0x58 => ⟨.no, true, (.of [.q]), (.of [.g]), (.of [.g])⟩
  | 0x59 => ⟨.no, true, (.of [.g]), (.of [.g]), .unused⟩
  | 0x5A => ⟨.no, true, (.of [.g]), (.of [.g]), (.of [.g])⟩
  | 0x5B => ⟨.no, true, (.of [.g]), (.of [.g]), .unused⟩
  | 0x5C => ⟨.no, true, (.of [.g]), .unused, .unused⟩
  | _ => ⟨.no, false, .unused, .unused, .unused⟩

/-- What an entry accepts in its guard, SET and operand fields, M column. -/
def formM (r : Raw) : Form :=
  match r.op with
  | 0x60 => ⟨.no, true, (.of [.g]), (.of [.mem]), .unused⟩
  | 0x61 => ⟨.no, true, (.of [.mem]), (.of [.g, .imm (-8192) 8191]), .unused⟩
  | 0x62 => ⟨.no, true, (.of [.g]), (.of [.mem]), .unused⟩
  | 0x63 => ⟨.no, true, (.of [.mem]), (.of [.g]), .unused⟩
  | 0x64 => ⟨.no, true, (.of [.g]), (.of [.mem]), .unused⟩
  | 0x65 => ⟨.no, true, (.of [.mem]), (.of [.g, .imm (-8192) 8191]), .unused⟩
  | 0x66 => ⟨.no, true, .unused, .unused, .unused⟩
  | 0x67 => ⟨.no, true, .unused, .unused, .unused⟩
  | 0x68 => if r.fn = 0x60 then ⟨.no, true, .unused, .unused, .unused⟩ else if r.fn = 0x61 then ⟨.no, true, .unused, .unused, .unused⟩ else ⟨.no, true, .unused, .unused, .unused⟩
  | 0x69 => ⟨.no, true, (.of [.g]), (.of [.mem]), (.of [.g])⟩
  | 0x6A => ⟨.no, true, (.of [.g]), (.of [.mem]), (.of [.g])⟩
  | 0x6B => ⟨.no, true, (.of [.g]), (.of [.mem]), (.of [.g])⟩
  | 0x6C => ⟨.no, true, (.of [.g]), (.of [.mem]), (.of [.g])⟩
  | 0x6D => ⟨.no, true, (.of [.g]), (.of [.mem]), (.of [.g])⟩
  | 0x6E => ⟨.no, true, (.of [.g]), (.of [.mem]), (.of [.g])⟩
  | _ => ⟨.no, false, .unused, .unused, .unused⟩

/-- What an entry accepts in its guard, SET and operand fields, V column. -/
def formV (r : Raw) : Form :=
  match r.op with
  | 0x70 => ⟨.elemFmt, true, ⟨[.v], (pairSize r), .any⟩, (.of [.mem]), (.of [.empty, .imm 1 2])⟩
  | 0x71 => ⟨.elemFmt, true, (.of [.mem]), ⟨[.v], (pairSize r), .any⟩, (.of [.empty, .imm 1 2])⟩
  | 0x72 => ⟨.yes, true, (.of [.v]), (.of [.mem]), (.of [.g, .imm (-8192) 8191])⟩
  | 0x73 => ⟨.yes, true, (.of [.mem]), (.of [.v]), (.of [.g, .imm (-8192) 8191])⟩
  | 0x74 => ⟨.yes, true, (.of [.v]), (.of [.mem]), (.of [.v])⟩
  | 0x75 => ⟨.yes, true, (.of [.mem]), (.of [.v]), (.of [.v])⟩
  | 0x76 => ⟨.yes, true, (.of [.v]), (.of [.g, .imm (-8192) 8191, .jimm]), .unused⟩
  | 0x77 => ⟨.no, true, (.of [.v]), (.of [.v]), .unused⟩
  | 0x78 => ⟨.yes, true, (.of [.v, .s, .mem]), (.of [.v, .s, .mem]), (.of [.v, .s, .mem])⟩
  | 0x79 => ⟨.yes, true, (.of [.v, .s, .mem]), (.of [.v, .s, .mem]), (.of [.v, .s, .mem])⟩
  | 0x7A => ⟨.yes, true, (.of [.v, .s, .mem]), (.of [.v, .s, .mem]), (.of [.v, .s, .mem])⟩
  | 0x7B => ⟨.yes, true, (.of [.v, .s, .mem]), (.of [.v, .s, .mem]), (.of [.v, .s, .mem])⟩
  | 0x7C => ⟨.yes, true, (.of [.v, .s, .mem]), (.of [.v, .s, .mem]), (.of [.v, .s, .mem])⟩
  | 0x7D => ⟨.yes, true, (.of [.v, .s, .mem]), (.of [.v, .s, .mem]), (.of [.v, .s, .mem])⟩
  | 0x7E => ⟨.yes, true, (.of [.v, .s, .mem]), (.of [.v, .s, .mem]), (.of [.v, .s, .mem])⟩
  | 0x7F => ⟨.yes, true, (.of [.v, .s, .mem]), (.of [.v, .s, .mem]), .unused⟩
  | 0x80 => ⟨.yes, true, (.of [.v, .s, .mem]), (.of [.v, .s, .mem]), .unused⟩
  | 0x81 => ⟨.yes, true, (.of [.v, .s, .mem]), (.of [.v, .s, .mem]), (.of [.v, .s, .mem])⟩
  | 0x82 => ⟨.yes, true, (.of [.v, .s, .mem]), (.of [.v, .s, .mem]), (.of [.v, .s, .mem])⟩
  | 0x83 => ⟨.yes, true, (.of [.v, .s, .mem]), (.of [.v, .s, .mem]), (.of [.v, .s, .mem])⟩
  | 0x84 => ⟨.yes, true, (.of [.v, .s, .mem]), (.of [.v, .s, .mem]), .unused⟩
  | 0x85 => ⟨.yes, true, (.of [.v, .s, .mem]), (.of [.v, .s, .mem]), (.of [.v, .s, .mem, .imm 0 63])⟩
  | 0x86 => ⟨.yes, true, (.of [.v, .s, .mem]), (.of [.v, .s, .mem]), (.of [.v, .s, .mem, .imm 0 63])⟩
  | 0x87 => ⟨.yes, true, (.of [.v, .s, .mem]), (.of [.v, .s, .mem]), (.of [.v, .s, .mem, .imm 0 63])⟩
  | 0x88 => ⟨.yes, true, (.of [.v]), (.of [.v, .s, .mem]), ⟨[.imm (-8192) 8191], 1, .vcmp⟩⟩
  | 0x89 => ⟨.required, true, (.of [.v, .s, .mem]), (.of [.v, .s, .mem]), (.of [.v, .s, .mem])⟩
  | 0x8A => ⟨.yes, true, (.of [.v]), (.of [.v, .s, .mem]), .unused⟩
  | 0x8B => ⟨.yes, true, (.of [.v, .s, .mem]), (.of [.v, .s, .mem]), (.of [.v])⟩
  | 0x8C => ⟨.yes, true, (.of [.g]), (.of [.v, .s, .mem]), .unused⟩
  | 0x8D => ⟨.yes, true, (.of [.v]), (.of [.v]), ⟨[.imm (-8192) 8191], 1, .vcvt⟩⟩
  | 0x8E => ⟨.yes, true, (.of [.v]), (.of [.v]), (.of [.g])⟩
  | 0x8F => ⟨.no, true, (.of [.v]), (.of [.v]), (.of [.imm 0 1])⟩
  | 0x90 => ⟨.no, true, (.of [.v]), (.of [.v]), (.of [.imm 0 1])⟩
  | 0x91 => ⟨.yes, true, (.of [.g]), (.of [.v, .s, .mem]), (.of [.empty, .g])⟩
  | 0x92 => ⟨.yes, true, (.of [.g]), (.of [.v, .s, .mem]), (.of [.empty, .g])⟩
  | 0x93 => ⟨.yes, true, (.of [.g]), (.of [.v, .s, .mem]), (.of [.empty, .g])⟩
  | 0x94 => ⟨.yes, true, (.of [.g]), (.of [.v, .s, .mem]), (.of [.imm 0 2])⟩
  | 0x95 => ⟨.no, true, (.of [.a]), (.of [.g]), ⟨[.imm (-8192) 8191], 1, (.low 8)⟩⟩
  | 0x96 => ⟨.yes, true, (.of [.v]), (.of [.v]), (.of [.v])⟩
  | 0x97 => ⟨.yes, true, (.of [.v]), (.of [.v]), (.of [.g, .imm (-8192) 8191])⟩
  | 0x98 => ⟨.no, true, (.of [.v]), (.of [.v]), (.of [.v])⟩
  | 0x99 => ⟨.no, true, (.of [.v]), (.of [.v]), (.of [.v])⟩
  | 0x9A => ⟨.no, true, (.of [.v]), (.of [.v]), ⟨[.imm (-8192) 8191], 1, .vmlog⟩⟩
  | 0x9B => ⟨.no, true, (.of [.g]), (.of [.v]), .unused⟩
  | 0x9C => ⟨.yes, true, (.of [.v]), .unused, .unused⟩
  | 0x9D => ⟨.no, true, (.of [.g]), (.of [.v]), ⟨[.g, .imm 0 8191], 1, .elem⟩⟩
  | 0x9E => ⟨.no, true, (.of [.v]), (.of [.g]), ⟨[.g, .imm 0 8191], 1, .elem⟩⟩
  | 0x9F => ⟨.no, true, (.of [.v]), (.of [.v]), .unused⟩
  | 0xA0 => ⟨.no, true, (.of [.s]), (.of [.g]), (.of [.mem])⟩
  | 0xA1 => ⟨.no, true, (.of [.g]), (.of [.s]), .unused⟩
  | 0xA2 => ⟨.no, true, (.of [.s]), .unused, .unused⟩
  | 0xA3 => ⟨.yes, true, ⟨[.v], 2, .any⟩, ⟨[.v], 2, .any⟩, ⟨[.v], 2, .any⟩⟩
  | 0xA4 => ⟨.yes, true, (.of [.v]), (.of [.g]), (.of [.g])⟩
  | _ => ⟨.no, false, .unused, .unused, .unused⟩

/-- What an entry accepts in its guard, SET and operand fields, X column. -/
def formX (r : Raw) : Form :=
  match r.op with
  | 0xA8 => ⟨.yes, true, (.of [.v]), (.of [.v]), ⟨[.imm (-8192) 8191], 1, .lp⟩⟩
  | 0xA9 => ⟨.yes, true, (.of [.v]), (.of [.v]), ⟨[.imm (-8192) 8191], 1, .lp⟩⟩
  | 0xAA => ⟨.yes, true, (.of [.v, .s, .mem]), (.of [.v, .s, .mem]), (.of [.v, .s, .mem])⟩
  | 0xAB => ⟨.yes, true, (.of [.v, .s, .mem]), (.of [.v, .s, .mem]), .unused⟩
  | 0xAC => ⟨.yes, true, (.of [.v, .s, .mem]), (.of [.v, .s, .mem]), .unused⟩
  | 0xAD => ⟨.yes, true, (.of [.v, .s, .mem]), (.of [.v, .s, .mem]), .unused⟩
  | 0xAE => ⟨.yes, true, (.of [.v, .s, .mem]), (.of [.v, .s, .mem]), .unused⟩
  | 0xAF => ⟨.yes, true, (.of [.v, .s, .mem]), (.of [.v, .s, .mem]), ⟨[.imm (-8192) 8191], 1, (.low 2)⟩⟩
  | _ => ⟨.no, false, .unused, .unused, .unused⟩

/-- What an entry accepts in its guard, SET and operand fields, T column. -/
def formT (r : Raw) : Form :=
  match r.op with
  | 0xB0 => ⟨.no, true, .unused, (.of [.g]), (.of [.g])⟩
  | 0xB1 => ⟨.no, true, (.of [.a]), .unused, .unused⟩
  | 0xB2 => ⟨.no, true, .unused, (.of [.mem]), .unused⟩
  | 0xB3 => ⟨.no, true, (.of [.a]), (.of [.mem]), .unused⟩
  | 0xB4 => ⟨.no, true, (.of [.a]), (.of [.mem]), .unused⟩
  | 0xB5 => ⟨.yes, true, ⟨[.v], (mdrnSize r), .any⟩, (.of [.a]), ⟨[.imm (-8192) 8191], 1, .mdrn⟩⟩
  | 0xB6 => ⟨.no, true, ⟨[.v], 3, .any⟩, (.of [.a]), (.of [.imm 0 31])⟩
  | 0xB7 => ⟨.no, true, (.of [.a]), ⟨[.v], 3, .any⟩, (.of [.imm 0 31])⟩
  | 0xB8 => ⟨.no, true, (.of [.g]), .unused, .unused⟩
  | 0xB9 => ⟨.no, true, .unused, (.of [.imm 0 63]), .unused⟩
  | _ => ⟨.no, false, .unused, .unused, .unused⟩

/-- What an entry accepts in its guard, SET and operand fields, C column. -/
def formC (r : Raw) : Form :=
  match r.op with
  | 0xC0 => if r.fn % 16 = 0 then ⟨.no, true, (.of [.mem]), (.of [.g]), (.of [.g, .imm 0 8191])⟩ else if r.fn % 16 = 1 then ⟨.no, true, (.of [.mem]), (.of [.g]), (.of [.g, .imm 0 8191])⟩ else ⟨.no, true, (.of [.mem]), (.of [.g]), (.of [.g, .imm 0 8191])⟩
  | 0xC1 => if r.fn % 16 = 0 then ⟨.no, true, (.of [.mem]), (.of [.g]), ⟨[.g], 2, .any⟩⟩ else ⟨.no, true, (.of [.mem]), (.of [.g]), ⟨[.g], 2, .any⟩⟩
  | 0xC2 => if r.fn % 16 = 0 then ⟨.no, true, (.of [.mem]), (.of [.g]), (.of [.g, .imm 0 8191])⟩ else ⟨.no, true, (.of [.mem]), .unused, (.of [.g, .imm 0 8191])⟩
  | 0xC3 => ⟨.no, true, .unused, (.of [.g, .jimm]), .unused⟩
  | 0xC4 => if r.fn % 16 = 0 then ⟨.no, true, (.of [.g]), .unused, .unused⟩ else ⟨.no, true, (.of [.g]), .unused, .unused⟩
  | 0xC5 => ⟨.no, true, (.of [.mem]), (.of [.g]), ⟨[.g], 4, .any⟩⟩
  | 0xC6 => ⟨.no, true, (.of [.g]), (.of [.mem]), (.of [.g, .imm 0 8191])⟩
  | 0xC7 => if r.fn % 16 = 0 then ⟨.no, true, (.of [.mem]), (.of [.mem]), (.of [.g, .imm 0 8191])⟩ else ⟨.no, true, (.of [.mem]), (.of [.mem]), (.of [.g, .imm 0 8191])⟩
  | 0xC8 => ⟨.no, true, (.of [.v]), (.of [.imm 0 7]), .unused⟩
  | 0xC9 => if r.fn = 0x00 then ⟨.no, true, (.of [.mem]), (.of [.g, .imm 0 8191]), .unused⟩ else ⟨.no, true, (.of [.mem]), (.of [.g, .imm 0 8191]), .unused⟩
  | _ => ⟨.no, false, .unused, .unused, .unused⟩

/-- What an entry accepts in its guard, SET and operand fields, P column. -/
def formP (r : Raw) : Form :=
  match r.op with
  | 0xD0 => if r.fn = 0x00 then ⟨.no, true, .unused, (.of [.g]), .unused⟩ else ⟨.no, true, .unused, .unused, .unused⟩
  | 0xD1 => if r.fn = 0x00 then ⟨.no, true, (.of [.g]), (.of [.empty, .g]), .unused⟩ else if r.fn = 0x01 then ⟨.no, true, (.of [.g]), (.of [.empty, .g]), .unused⟩ else ⟨.no, true, (.of [.g]), (.of [.empty, .g]), .unused⟩
  | 0xD2 => ⟨.no, true, (.of [.g]), (.of [.g, .imm 0 15]), .unused⟩
  | 0xD3 => ⟨.no, true, (.of [.g]), (.of [.g, .imm 0 15]), .unused⟩
  | 0xD4 => ⟨.no, true, (.of [.g]), (.of [.g, .imm 0 15]), .unused⟩
  | 0xD5 => if r.fn = 0x00 then ⟨.no, true, (.of [.g]), .unused, .unused⟩ else ⟨.no, true, (.of [.g]), .unused, .unused⟩
  | 0xD6 => if r.fn = 0x00 then ⟨.no, true, (.of [.g]), (.of [.g]), .unused⟩ else ⟨.no, true, (.of [.g]), (.of [.g]), .unused⟩
  | 0xD7 => ⟨.no, true, (.of [.g]), (.of [.g]), .unused⟩
  | 0xD8 => if r.fn = 0x00 then ⟨.no, true, (.of [.g]), (.of [.empty, .g]), .unused⟩ else if r.fn = 0x01 then ⟨.no, true, (.of [.g]), .unused, .unused⟩ else if r.fn = 0x02 then ⟨.no, true, (.of [.g]), (.of [.g, .imm 0 15]), .unused⟩ else ⟨.no, true, (.of [.g]), (.of [.g, .imm 0 15]), .unused⟩
  | 0xD9 => ⟨.no, true, (.of [.g]), (.of [.g, .imm 0 15]), (.of [.g])⟩
  | 0xDA => if r.fn = 0x00 then ⟨.no, true, (.of [.g]), (.of [.g]), .unused⟩ else if r.fn = 0x01 then ⟨.no, true, (.of [.g]), (.of [.mem]), .unused⟩ else ⟨.no, true, (.of [.g]), .unused, .unused⟩
  | _ => ⟨.no, false, .unused, .unused, .unused⟩

/-- What an entry accepts in its guard, SET and operand fields, for every opcode of R126. -/
def form (r : Raw) : Form :=
  if r.op < 0x20 then formSLow r else if r.op < 0x50 then formI r else if r.op < 0x60 then formF r
  else if r.op < 0x70 then formM r else if r.op < 0xA8 then formV r else if r.op < 0xB0 then formX r
  else if r.op < 0xC0 then formT r else if r.op < 0xD0 then formC r else if r.op < 0xE0 then formP r else formSHigh r

/-! ## The checks of R128 -/

/-- The reason the function field is refused for, the lowest that holds (R112 to R115, R128). -/
def fnBad (ck : FnCk) (r : Raw) : Option Nat :=
  let fmt := r.fn / 16
  let known := fmt < 12
  let names5 (x : Nat) : Bool := x / 2048 == 5
  match ck with
  | .v fmts p q s t =>
    if !(known && fmts.contains (Fmt.ofCode fmt)) then some 0
    else if (r.fn / 8 % 2 == 1 && !p) || (r.fn / 4 % 2 == 1 && !q) || (r.fn % 2 == 1 && !t)
        || (r.fn / 2 % 2 == 1 && !(s && (names5 r.d || names5 r.a || names5 r.b))) then some 1
    else none
  | .f fmts rtz vmax =>
    if !(known && fmts.contains (Fmt.ofCode fmt)) || decide (r.fn % 8 > vmax) then some 0
    else if r.fn / 8 % 2 == 1 && !rtz then some 1 else none
  | .fcvt =>
    let dst := Fmt.ofCode fmt
    if !(known && [Fmt.f32, .bf16, .f16, .f8, .f8w, .i32, .i64].contains dst) || decide (r.fn % 8 > 5)
        || (r.fn % 8 == 5 && (dst == .i32 || dst == .i64)) then some 0 else none
  | .m sizes sx ord opMax =>
    if !sizes.contains (r.fn / 32) || decide (r.fn % 4 > opMax) then some 0
    else if (r.fn / 16 % 2 == 1 && !sx) || (r.fn / 4 % 4 != 0 && !ord) then some 1 else none
  | .afadd =>
    if !((r.fn / 32 == 2 && r.fn % 4 == 0) || (r.fn / 32 == 1 && decide (r.fn % 4 ≤ 1))) then some 0
    else if r.fn / 16 % 2 == 1 then some 1 else none
  | .sel max => if r.fn > max then some 0 else none
  | .low4 zeros low =>
    if !(low.contains (r.fn % 16)) then some 0 else if Nat.land r.fn zeros != 0 then some 1 else none
  | .send => if r.fn / 8 % 2 == 0 && r.fn % 8 != 0 then some 1 else none

/-- Is v register `v` configured as a stream (R68)? -/
def DecodeEnv.isStream (e : DecodeEnv) (v : Nat) : Bool :=
  match e.streams with
  | none => false
  | some m => decide (24 ≤ v) && m.testBit (v - 24)
/-- Is stream `k` known not to be configured (R68)? -/
def DecodeEnv.noStream (e : DecodeEnv) (k : Nat) : Bool :=
  match e.streams with
  | none => false
  | some m => !m.testBit k

/-- The reason the guard field is refused for (R116): a mode the entry does not accept is REASON 0, but REASON 2 for VSEL
(R203). -/
def guardBad (e : DecodeEnv) (mask : MaskCk) (r : Raw) : Option Nat :=
  let mode := r.gd / 64
  let accepted : Bool :=
    match mask with
    | .no => mode != 3
    | .yes => true
    | .elemFmt => mode != 3 || elemFmts.contains (Fmt.ofCode (r.fn / 16))
    | .required => mode == 3
    | .alwaysOnly => mode == 0
  if !accepted && mask != .required then some 0
  else if (mode == 0 && r.gd % 64 != 0) || ((mode == 1 || mode == 2) && r.gd / 16 % 4 != 0)
      || (mode == 3 && r.gd / 32 % 2 != 0) then some 1
  else if !accepted then some 2
  else if mode == 3 && e.isStream (r.gd % 32) then some 4 else none

/-- The number of registers of a file (R119). -/
def fileSize : Nat → Nat
  | 0 => 64 | 1 => 32 | 2 => 4 | 3 => 16 | 4 => 8 | 5 => 8 | _ => 64

/-- Does a position accept a register file (R119)? -/
def Pos.file (p : Pos) : Nat → Bool
  | 0 => p.kinds.contains .g
  | 1 => p.kinds.contains .v
  | 2 => p.kinds.contains .a
  | 3 => p.kinds.contains .q
  | 4 => p.kinds.contains .d
  | 5 => p.kinds.contains .s
  | 6 => p.kinds.contains .cr
  | _ => false

/-- The range a position gives a short immediate, if it accepts one. -/
def immRange : List Kind → Option (Int × Int)
  | [] => none
  | .imm lo hi :: _ => some (lo, hi)
  | _ :: ks => immRange ks

/-- The reason a laid-out immediate is refused for. -/
def immBad (e : DecodeEnv) (ck : ImmCk) (r : Raw) (v : Nat) : Option Nat :=
  let fmt := Fmt.ofCode (r.fn / 16)
  match ck with
  | .any => none
  | .low n => if v / 2 ^ n != 0 then some 1 else none
  | .bfx => if decide (v % 64 + v / 64 % 64 + 1 > 64) || v / 8192 != 0 then some 0 else none
  | .bfi => if decide (v % 64 + v / 64 % 64 + 1 > 64) || v / 4096 != 0 then some 0 else none
  | .vcmp =>
    if decide (v % 16 > 6) || (v % 16 == 3 && intFmts.contains fmt) then some 0
    else if v / 512 != 0 then some 1 else if e.isStream (v / 16 % 32) then some 4 else none
  | .vcvt =>
    let src := Fmt.ofCode (v % 16)
    if !(v % 16 < 12 && numFmts.contains src) || decide (v / 32 % 8 ≥ widthRatio src fmt) then some 0
    else if v / 256 != 0 then some 1 else none
  | .vmlog =>
    if v % 16 > 7 then some 0 else if v / 512 != 0 then some 1
    else if e.isStream (v / 16 % 32) then some 4 else none
  | .lp => if v % 8 ≥ widthRatio fmt .l16 then some 0 else if v / 8 != 0 then some 1 else none
  | .elem => if 1024 / fmt.width ≤ v then some 0 else none
  | .mdrn => if v / 32 % 4 == 3 && fmt != .i16 then some 0 else if v / 256 != 0 then some 1 else none

/-- Does a v group from `v` on, or a stream name, clash with the streams (R68, R130)? SCFG and SRST take a stream in
either state (R215). -/
def streamBad (e : DecodeEnv) (r : Raw) (file ix n : Nat) : Bool :=
  match file with
  | 1 => (List.range n).any fun i => e.isStream (ix + i)
  | 5 => e.noStream ix && r.op != 0xA0 && r.op != 0xA2
  | _ => false

/-- The reason an operand field is refused for, the lowest that holds (R118, R119, R123, R130). -/
def posBad (e : DecodeEnv) (r : Raw) (p : Pos) (x : Nat) : Option Nat :=
  if p.kinds.contains .empty && x == 0 then none
  else if p.kinds == [.empty] then some 1
  else
    match x / 16384 with
    | 0 =>
      let file := x / 2048
      let ix := x / 32 % 64
      if file == 7 then some 0
      else if x % 32 != 0 then some 1
      else if !p.file file then some 2
      else if ix + p.n > fileSize file then some 3
      else if streamBad e r file ix p.n then some 4 else none
    | 1 => if p.kinds.contains .mem then none else some 2
    | 2 =>
      match immRange p.kinds with
      | none => some 2
      | some (lo, hi) => if immIn lo hi (immOf x) then immBad e p.ck r (x % 16384) else some 0
    | _ => if p.kinds.contains .jimm then none else some 2

/-- The g register an operand field post-increments. -/
def postOf (x : Nat) : Option Nat := if x / 16384 = 1 ∧ x / 128 % 2 = 1 then some (x / 256 % 64) else none

/-- The g register that operand D writes: every g register of that position but MCAST's rectangle (R257). -/
def destOf (r : Raw) (p : Pos) : Option Nat :=
  if p.kinds.contains .g && r.d / 2048 == 0 && r.op != 0xC6 then some (r.d / 32 % 64) else none

/-- The g register that operand B writes: the count of VREDS, VREDX and VREDN (R208). -/
def countOf (r : Raw) : Option Nat :=
  if (r.op == 0x91 || r.op == 0x92 || r.op == 0x93) && r.b / 2048 == 0 && r.b != 0 then some (r.b / 32 % 64) else none

/-- A post-increment that clashes with an earlier operand's (R121). -/
def postClash (post : Option Nat) (earlier : List (Option Nat)) : Bool :=
  post.isSome && earlier.contains post

/-- The reason the hints are refused for (R124, R125, R42). -/
def hintBad (f : Form) (r : Raw) : Option Nat :=
  let set := r.hints / 4096 % 16
  let joined := r.a / 16384 == 3
  if (decide (8 ≤ set) && set != 15) || (!f.set && set != 15) then some 0
  else if (r.hints / 8 % 2 == 1 && !(f.d.kinds.contains .v && r.d / 2048 == 1)) || (r.hints % 4 != 0 && !joined) then
    some 1
  else none

/-- Two operands whose register groups share a register without being one group (R131). -/
def groupClash (p q : Pos) (x y : Nat) : Bool :=
  let i := x / 32 % 64
  let j := y / 32 % 64
  decide (x / 16384 = 0) && decide (y / 16384 = 0) && x / 2048 == y / 2048 && !(p.kinds == [.empty])
  && !(q.kinds == [.empty]) && (decide (2 ≤ p.n) || decide (2 ≤ q.n)) && !(i == j && p.n == q.n)
  && decide (i < j + q.n) && decide (j < i + p.n)

/-- The control registers a user may not name: those marked "—" in R72. -/
def userHidden (n : Nat) : Bool :=
  decide (5 ≤ n ∧ n ≤ 9) || decide (0x20 ≤ n ∧ n ≤ 0x2B) || n == 0x30 || n == 0x31

/-- An operand that names g63 or a control register hidden from the user (R63, R119). -/
def privileged (p : Pos) (x : Nat) : Bool :=
  if p.kinds == [.empty] then false
  else
    match x / 16384 with
    | 0 =>
      let ix := x / 32 % 64
      (x / 2048 == 0 && decide (63 < ix + p.n)) || (x / 2048 == 6 && userHidden ix)
    | 1 => x / 256 % 64 == 63
    | _ => false

/-- The first check that fails, in the order of R128, for a word whose opcode is assigned. A gateway core belongs to no
gang, and GMMA is no instruction of it (R14). -/
def firstFault (e : DecodeEnv) (r : Raw) : Option DecodeFault :=
  let f := form r
  let joined := r.a / 16384 == 3 && f.a.kinds.contains .jimm
  if e.gateway && r.op == 0xB4 then some (.illegal 0 0)
  else
  match fnBad (fnCk r.op) r with
  | some n => some (.illegal 1 n)
  | none =>
  match guardBad e f.mask r with
  | some n => some (.illegal 2 n)
  | none =>
  match posBad e r f.d r.d with
  | some n => some (.illegal 3 n)
  | none =>
  match posBad e r f.a r.a with
  | some n => some (.illegal 4 n)
  | none =>
  if joined && r.op == 0xC3 && decide (joinedOf r ≥ 65536) then some (.illegal 4 0)
  else if postClash (postOf r.a) [destOf r f.d, postOf r.d] then some (.illegal 4 5)
  else
  match (if joined then none else posBad e r f.b r.b) with
  | some n => some (.illegal 5 n)
  | none =>
  if !joined && postClash (postOf r.b) [destOf r f.d, postOf r.d, postOf r.a] then some (.illegal 5 5)
  else if postClash (postOf r.a) [countOf r] then some (.illegal 5 5)
  else
  match hintBad f r with
  | some n => some (.illegal 6 n)
  | none =>
  if groupClash f.d f.a r.d r.a then some (.overlap 4)
  else if !joined && groupClash f.d f.b r.d r.b then some (.overlap 5)
  else if e.user && privileged f.d r.d then some (.priv 3)
  else if e.user && privileged f.a r.a then some (.priv 4)
  else if e.user && !joined && privileged f.b r.b then some (.priv 5)
  else none

/-- The instruction a word stands for once its fields are accepted, S column (opcodes 0x00 to 0x1F). -/
def buildSLow (r : Raw) : Instr :=
  match r.op with
  | 0x00 => .nop
  | 0x01 => .b (immOf r.a)
  | 0x02 => .br (gOf r.a)
  | 0x03 => .call (immOf r.a)
  | 0x04 => .callr (gOf r.a)
  | 0x05 => .ret (gOf r.a)
  | 0x06 => .loop (gimmOf r.a) (immOf r.b)
  | 0x07 => .loopx (qOf r.d) (gimmOf r.a) (immOf r.b)
  | 0x08 => if r.fn = 0x00 then .bengZ (dOf r.a) (immOf r.b) else if r.fn = 0x01 then .bengNz (dOf r.a) (immOf r.b) else if r.fn = 0x02 then .bengF (immOf r.a) (immOf r.b) else .bengFc (immOf r.a) (immOf r.b)
  | 0x09 => if r.fn = 0x00 then .wait (dOptOf r.a) else .waitAll
  | 0x0A => .rgn (immOf r.a)
  | 0x0B => .tblk (gimmOf r.a)
  | 0x0C => .tend
  | 0x0D => .realign
  | 0x0E => .halt
  | 0x0F => .exit (gimmOf r.a)
  | 0x10 => if r.fn = 0x00 then .trap (immOf r.a) else .trapEsc
  | 0x11 => if r.fn = 0x00 then .eret else .eretRgn
  | 0x12 => .bkpt (immOf r.a)
  | 0x13 => .sleep (gimmOf r.a)
  | 0x14 => .qop (QFn.ofCode r.fn) (qOf r.d) (qOf r.a) (qOf r.b)
  | 0x15 => if r.fn = 0x00 then .qmov (qOf r.d) (qOf r.a) else if r.fn = 0x01 then .qmovG (qOf r.d) (gOf r.a) else .qmovI (qOf r.d) (immOf r.a)
  | 0x16 => .qrd (gOf r.d) (qOf r.a) (immOf r.b)
  | 0x17 => if r.fn = 0x00 then .follow (gOf r.d) (gjOf r) else .followRel (gOf r.d) (immOf r.a)
  | 0x18 => .detach
  | 0x19 => if r.fn = 0x00 then .bararmRep (gOf r.a) (gOptOf r.b) else if r.fn = 0x01 then .bararmOnce (gOf r.a) (gOptOf r.b) else .bararmFree (gOf r.a)
  | 0x1A => .bararv (gOf r.d) (gOf r.a)
  | 0x1B => .barwt (gOf r.a) (gOf r.b)
  | 0x1C => .baraw (gOf r.a)
  | 0x1D => .snap (gOf r.a) (gOf r.b)
  | 0x1E => if r.fn = 0x00 then .budg (gimmjOf r) else .budgOff
  | _ => .reservedOpcode

/-- The instruction a word stands for once its fields are accepted, S column (opcodes 0xE0 to 0xF0). -/
def buildSHigh (r : Raw) : Instr :=
  match r.op with
  | 0xE0 => .tsub (gOf r.d) (memOf r.a) (gOf r.b)
  | 0xE1 => .tnext (gOf r.d)
  | 0xE2 => .tdone
  | 0xE3 => .cntadd (gOf r.a) (gimmOf r.b)
  | 0xE4 => if r.fn = 0x00 then .cntwtLe (gOf r.a) (gimmOf r.b) else if r.fn = 0x01 then .cntwtGe (gOf r.a) (gimmOf r.b) else if r.fn = 0x02 then .cntwtLeA (dOf r.d) (gOf r.a) (gimmOf r.b) else .cntwtGeA (dOf r.d) (gOf r.a) (gimmOf r.b)
  | 0xE5 => .cancel (gOf r.a)
  | 0xE6 => .qpush (qOf r.d) (gOf r.a) (gOf r.b)
  | 0xE7 => if r.fn = 0x00 then .qpop (gOf r.d) (gOf r.a) else .qpopNb (gOf r.d) (gOf r.a) (qOf r.b)
  | 0xE8 => .crr (gOf r.d) (crOf r.a)
  | 0xE9 => .crw (crOf r.d) (gimmjOf r)
  | 0xEA => .crset (crOf r.d) (gimmjOf r)
  | 0xEB => .crclr (crOf r.d) (gimmjOf r)
  | 0xEC => if r.fn = 0x00 then .tlbinvVa (gOf r.a) (gimmOf r.b) else if r.fn = 0x01 then .tlbinvAll else .tlbinvDrop (gOf r.a) (gimmOf r.b)
  | 0xED => if r.fn = 0x00 then .pghintT (gOf r.a) (gimmOf r.b) else if r.fn = 0x01 then .pghintLock (gOf r.a) (gimmOf r.b) else if r.fn = 0x02 then .pghintUnlock else .pghintClrw (gOf r.a) (gimmOf r.b)
  | 0xEE => if r.fn = 0x00 then .hndlLen (gOf r.d) (gOf r.a) else if r.fn = 0x01 then .hndlBase (gOf r.d) (gOf r.a) else if r.fn = 0x02 then .hndlSet (gOf r.a) (gOf r.b) else .hndlClr (gOf r.a)
  | 0xEF => if r.fn = 0x00 then .trace (gOf r.a) (immOf r.b) else .traceSync
  | 0xF0 => if r.fn = 0x00 then .smpl (gOf r.d) else .smplReq
  | _ => .reservedOpcode

/-- The instruction a word stands for once its fields are accepted, I column. -/
def buildI (r : Raw) : Instr :=
  match r.op with
  | 0x20 => .add (gOf r.d) (gOf r.a) (gimmOf r.b)
  | 0x21 => .sub (gOf r.d) (gOf r.a) (gimmOf r.b)
  | 0x22 => .mul (gOf r.d) (gOf r.a) (gimmOf r.b)
  | 0x23 => .mulh (MulhKind.ofCode r.fn) (gOf r.d) (gOf r.a) (gimmOf r.b)
  | 0x24 => .div (r.fn % 4 == 1) (gOf r.d) (gOf r.a) (gimmOf r.b)
  | 0x25 => .rem (r.fn % 4 == 1) (gOf r.d) (gOf r.a) (gimmOf r.b)
  | 0x26 => .and (gOf r.d) (gOf r.a) (gimmOf r.b)
  | 0x27 => .or (gOf r.d) (gOf r.a) (gimmOf r.b)
  | 0x28 => .xor (gOf r.d) (gOf r.a) (gimmOf r.b)
  | 0x29 => .andn (gOf r.d) (gOf r.a) (gimmOf r.b)
  | 0x2A => .shl (gOf r.d) (gOf r.a) (gimmOf r.b)
  | 0x2B => .shr (gOf r.d) (gOf r.a) (gimmOf r.b)
  | 0x2C => .sra (gOf r.d) (gOf r.a) (gimmOf r.b)
  | 0x2D => .rot (gOf r.d) (gOf r.a) (gimmOf r.b)
  | 0x2E => .min (r.fn % 4 == 1) (gOf r.d) (gOf r.a) (gimmOf r.b)
  | 0x2F => .max (r.fn % 4 == 1) (gOf r.d) (gOf r.a) (gimmOf r.b)
  | 0x30 => .clz (gOf r.d) (gOf r.a)
  | 0x31 => .ctz (gOf r.d) (gOf r.a)
  | 0x32 => .popc (gOf r.d) (gOf r.a)
  | 0x33 => .bfx (gOf r.d) (gOf r.a) (r.b % 16384)
  | 0x34 => .bfi (gOf r.d) (gOf r.a) (r.b % 16384)
  | 0x35 => .movi (gOf r.d) (immjOf r)
  | 0x36 => .movhi (gOf r.d) (immjOf r)
  | 0x37 => .mov (gOf r.d) (gOf r.a)
  | 0x38 => .cmp (CmpCond.ofCode r.fn) (qOf r.d) (gOf r.a) (gimmOf r.b)
  | 0x39 => .sel (Fin.ofNat 16 r.fn) (gOf r.d) (gOf r.a) (gOf r.b)
  | 0x40 => .csetb (gOf r.d) (gOf r.a) (gimmOf r.b)
  | 0x41 => .csetbx (gOf r.d) (gOf r.a) (gimmOf r.b)
  | 0x42 => .candp (gOf r.d) (gOf r.a) (gimmOf r.b)
  | 0x43 => .cinc (gOf r.d) (gOf r.a) (gimmOf r.b)
  | 0x44 => .cseta (gOf r.d) (gOf r.a) (gimmOf r.b)
  | 0x45 => .cget (CapField.ofCode r.fn) (gOf r.d) (gOf r.a)
  | 0x46 => .cseal (gOf r.d) (gOf r.a) (immOf r.b)
  | 0x47 => .cunseal (gOf r.d) (gOf r.a) (immOf r.b)
  | 0x48 => .cclrt (gOf r.d) (gOf r.a)
  | 0x49 => .crel (gOf r.d) (gOf r.a) (r.b % 16384)
  | 0x4A => .cabs (gOf r.d) (gOf r.a)
  | 0x4B => .ctest (CapTest.ofCode r.fn) (qOf r.d) (gOf r.a) (gOptOf r.b)
  | _ => .reservedOpcode

/-- The instruction a word stands for once its fields are accepted, F column. -/
def buildF (r : Raw) : Instr :=
  match r.op with
  | 0x50 => .fadd (Fmt.ofCode (r.fn / 16)) (r.fn / 8 % 2 == 1) (gOf r.d) (gOf r.a) (gOf r.b)
  | 0x51 => .fsub (Fmt.ofCode (r.fn / 16)) (r.fn / 8 % 2 == 1) (gOf r.d) (gOf r.a) (gOf r.b)
  | 0x52 => .fmul (Fmt.ofCode (r.fn / 16)) (r.fn / 8 % 2 == 1) (gOf r.d) (gOf r.a) (gOf r.b)
  | 0x53 => .ffma (Fmt.ofCode (r.fn / 16)) (r.fn / 8 % 2 == 1) (gOf r.d) (gOf r.a) (gOf r.b)
  | 0x54 => .fdiv (Fmt.ofCode (r.fn / 16)) (r.fn / 8 % 2 == 1) (gOf r.d) (gOf r.a) (gOf r.b)
  | 0x55 => .fsqrt (Fmt.ofCode (r.fn / 16)) (r.fn / 8 % 2 == 1) (gOf r.d) (gOf r.a)
  | 0x56 => .fmin (Fmt.ofCode (r.fn / 16)) (gOf r.d) (gOf r.a) (gOf r.b)
  | 0x57 => .fmax (Fmt.ofCode (r.fn / 16)) (gOf r.d) (gOf r.a) (gOf r.b)
  | 0x58 => .fcmp (Fmt.ofCode (r.fn / 16)) (FCond.ofCode (r.fn % 8)) (qOf r.d) (gOf r.a) (gOf r.b)
  | 0x59 => .fcvt (Fmt.ofCode (r.fn / 16)) (r.fn / 8 % 2 == 1) (CvtSrc.ofCode (r.fn % 8)) (gOf r.d) (gOf r.a)
  | 0x5A => .fsgn (Fmt.ofCode (r.fn / 16)) (SgnOp.ofCode (r.fn % 8)) (gOf r.d) (gOf r.a) (gOf r.b)
  | 0x5B => .fclass (Fmt.ofCode (r.fn / 16)) (gOf r.d) (gOf r.a)
  | 0x5C => .mkabs (Fmt.ofCode (r.fn / 16)) (gOf r.d)
  | _ => .reservedOpcode

/-- The instruction a word stands for once its fields are accepted, M column. -/
def buildM (r : Raw) : Instr :=
  match r.op with
  | 0x60 => .ld (Size.ofCode (r.fn / 32)) (r.fn / 16 % 2 == 1) (gOf r.d) (memOf r.a)
  | 0x61 => .st (Size.ofCode (r.fn / 32)) (memOf r.d) (gimmOf r.a)
  | 0x62 => .ldc (gOf r.d) (memOf r.a)
  | 0x63 => .stc (memOf r.d) (gOf r.a)
  | 0x64 => .ldaq (Size.ofCode (r.fn / 32)) (r.fn / 16 % 2 == 1) (gOf r.d) (memOf r.a)
  | 0x65 => .strl (Size.ofCode (r.fn / 32)) (memOf r.d) (gimmOf r.a)
  | 0x66 => .acq
  | 0x67 => .rel
  | 0x68 => if r.fn = 0x60 then .fenceAll else if r.fn = 0x61 then .fenceSt else .fenceEng
  | 0x69 => .aadd (Size.ofCode (r.fn / 32)) (Ordering.ofCode (r.fn / 4 % 4)) (gOf r.d) (memOf r.a) (gOf r.b)
  | 0x6A => .amm (Size.ofCode (r.fn / 32)) (Ordering.ofCode (r.fn / 4 % 4)) (AmmOp.ofCode (r.fn % 4)) (gOf r.d) (memOf r.a) (gOf r.b)
  | 0x6B => .axchg (Size.ofCode (r.fn / 32)) (Ordering.ofCode (r.fn / 4 % 4)) (gOf r.d) (memOf r.a) (gOf r.b)
  | 0x6C => .acas (Size.ofCode (r.fn / 32)) (Ordering.ofCode (r.fn / 4 % 4)) (gOf r.d) (memOf r.a) (gOf r.b)
  | 0x6D => .alog (Size.ofCode (r.fn / 32)) (Ordering.ofCode (r.fn / 4 % 4)) (AlogOp.ofCode (r.fn % 4)) (gOf r.d) (memOf r.a) (gOf r.b)
  | 0x6E => .afadd (Size.ofCode (r.fn / 32)) (Ordering.ofCode (r.fn / 4 % 4)) (r.fn % 4 == 1) (gOf r.d) (memOf r.a) (gOf r.b)
  | _ => .reservedOpcode

/-- The instruction a word stands for once its fields are accepted, V column. -/
def buildV (r : Raw) : Instr :=
  match r.op with
  | 0x70 => .vld (vfnOf r.fn) (vOf r.d) (memOf r.a) (r.b == 32770)
  | 0x71 => .vst (vfnOf r.fn) (memOf r.d) (vOf r.a) (r.b == 32770)
  | 0x72 => .vlds (vfnOf r.fn) (vOf r.d) (memOf r.a) (gimmOf r.b)
  | 0x73 => .vsts (vfnOf r.fn) (memOf r.d) (vOf r.a) (gimmOf r.b)
  | 0x74 => .vldx (vfnOf r.fn) (vOf r.d) (memOf r.a) (vOf r.b)
  | 0x75 => .vstx (vfnOf r.fn) (memOf r.d) (vOf r.a) (vOf r.b)
  | 0x76 => .vbcast (vfnOf r.fn) (vOf r.d) (gimmjOf r)
  | 0x77 => .vmov (vfnOf r.fn) (vOf r.d) (vOf r.a)
  | 0x78 => .vadd (vfnOf r.fn) (vsmOf r.d) (vsmOf r.a) (vsmOf r.b)
  | 0x79 => .vsub (vfnOf r.fn) (vsmOf r.d) (vsmOf r.a) (vsmOf r.b)
  | 0x7A => .vmul (vfnOf r.fn) (vsmOf r.d) (vsmOf r.a) (vsmOf r.b)
  | 0x7B => .vfma (vfnOf r.fn) (vsmOf r.d) (vsmOf r.a) (vsmOf r.b)
  | 0x7C => .vfms (vfnOf r.fn) (vsmOf r.d) (vsmOf r.a) (vsmOf r.b)
  | 0x7D => .vmin (vfnOf r.fn) (vsmOf r.d) (vsmOf r.a) (vsmOf r.b)
  | 0x7E => .vmax (vfnOf r.fn) (vsmOf r.d) (vsmOf r.a) (vsmOf r.b)
  | 0x7F => .vabs (vfnOf r.fn) (vsmOf r.d) (vsmOf r.a)
  | 0x80 => .vneg (vfnOf r.fn) (vsmOf r.d) (vsmOf r.a)
  | 0x81 => .vand (vfnOf r.fn) (vsmOf r.d) (vsmOf r.a) (vsmOf r.b)
  | 0x82 => .vor (vfnOf r.fn) (vsmOf r.d) (vsmOf r.a) (vsmOf r.b)
  | 0x83 => .vxor (vfnOf r.fn) (vsmOf r.d) (vsmOf r.a) (vsmOf r.b)
  | 0x84 => .vnot (vfnOf r.fn) (vsmOf r.d) (vsmOf r.a)
  | 0x85 => .vshl (vfnOf r.fn) (vsmOf r.d) (vsmOf r.a) (vsmiOf r.b)
  | 0x86 => .vshr (vfnOf r.fn) (vsmOf r.d) (vsmOf r.a) (vsmiOf r.b)
  | 0x87 => .vsra (vfnOf r.fn) (vsmOf r.d) (vsmOf r.a) (vsmiOf r.b)
  | 0x88 => .vcmp (vfnOf r.fn) (vOf r.d) (vsmOf r.a) (r.b % 16384)
  | 0x89 => .vsel (vfnOf r.fn) (vsmOf r.d) (vsmOf r.a) (vsmOf r.b)
  | 0x8A => .vpres (vfnOf r.fn) (vOf r.d) (vsmOf r.a)
  | 0x8B => .vmkabs (vfnOf r.fn) (vsmOf r.d) (vsmOf r.a) (vOf r.b)
  | 0x8C => .vcnt (vfnOf r.fn) (gOf r.d) (vsmOf r.a)
  | 0x8D => .vcvt (vfnOf r.fn) (vOf r.d) (vOf r.a) (r.b % 16384)
  | 0x8E => .vquant (vfnOf r.fn) (vOf r.d) (vOf r.a) (gOf r.b)
  | 0x8F => .vzenc (vfnOf r.fn) (vOf r.d) (vOf r.a) (immOf r.b)
  | 0x90 => .vzdec (vfnOf r.fn) (vOf r.d) (vOf r.a) (immOf r.b)
  | 0x91 => .vreds (vfnOf r.fn) (gOf r.d) (vsmOf r.a) (gOptOf r.b)
  | 0x92 => .vredx (vfnOf r.fn) (gOf r.d) (vsmOf r.a) (gOptOf r.b)
  | 0x93 => .vredn (vfnOf r.fn) (gOf r.d) (vsmOf r.a) (gOptOf r.b)
  | 0x94 => .vredm (vfnOf r.fn) (gOf r.d) (vsmOf r.a) (immOf r.b)
  | 0x95 => .vredq (vfnOf r.fn) (aOf r.d) (gOf r.a) (r.b % 16384)
  | 0x96 => .vperm (vfnOf r.fn) (vOf r.d) (vOf r.a) (vOf r.b)
  | 0x97 => .vslide (vfnOf r.fn) (vOf r.d) (vOf r.a) (gimmOf r.b)
  | 0x98 => .vcmpr (vfnOf r.fn) (vOf r.d) (vOf r.a) (vOf r.b)
  | 0x99 => .vexpd (vfnOf r.fn) (vOf r.d) (vOf r.a) (vOf r.b)
  | 0x9A => .vmlog (vfnOf r.fn) (vOf r.d) (vOf r.a) (r.b % 16384)
  | 0x9B => .vmpop (vfnOf r.fn) (gOf r.d) (vOf r.a)
  | 0x9C => .viota (vfnOf r.fn) (vOf r.d)
  | 0x9D => .vextr (vfnOf r.fn) (gOf r.d) (vOf r.a) (gimmOf r.b)
  | 0x9E => .vins (vfnOf r.fn) (vOf r.d) (gOf r.a) (gimmOf r.b)
  | 0x9F => .vretag (vfnOf r.fn) (vOf r.d) (vOf r.a)
  | 0xA0 => .scfg (vfnOf r.fn) (sOf r.d) (gOf r.a) (memOf r.b)
  | 0xA1 => .sstat (vfnOf r.fn) (gOf r.d) (sOf r.a)
  | 0xA2 => .srst (vfnOf r.fn) (sOf r.d)
  | 0xA3 => .vbaddq (vfnOf r.fn) (vOf r.d) (vOf r.a) (vOf r.b)
  | 0xA4 => .vrng (vfnOf r.fn) (vOf r.d) (gOf r.a) (gOf r.b)
  | _ => .reservedOpcode

/-- The instruction a word stands for once its fields are accepted, X column. -/
def buildX (r : Raw) : Instr :=
  match r.op with
  | 0xA8 => .vtolog (vfnOf r.fn) (vOf r.d) (vOf r.a) (r.b % 16384)
  | 0xA9 => .vfrlog (vfnOf r.fn) (vOf r.d) (vOf r.a) (r.b % 16384)
  | 0xAA => .vladd (vfnOf r.fn) (vsmOf r.d) (vsmOf r.a) (vsmOf r.b)
  | 0xAB => .vexp2 (vfnOf r.fn) (vsmOf r.d) (vsmOf r.a)
  | 0xAC => .vlog2 (vfnOf r.fn) (vsmOf r.d) (vsmOf r.a)
  | 0xAD => .vrsq (vfnOf r.fn) (vsmOf r.d) (vsmOf r.a)
  | 0xAE => .vrcp (vfnOf r.fn) (vsmOf r.d) (vsmOf r.a)
  | 0xAF => .vact (vfnOf r.fn) (vsmOf r.d) (vsmOf r.a) (r.b % 16384)
  | _ => .reservedOpcode

/-- The instruction a word stands for once its fields are accepted, T column. -/
def buildT (r : Raw) : Instr :=
  match r.op with
  | 0xB0 => .mcfg (vfnOf r.fn) (gOf r.a) (gOf r.b)
  | 0xB1 => .mzero (vfnOf r.fn) (aOf r.d)
  | 0xB2 => .mldb (vfnOf r.fn) (memOf r.a)
  | 0xB3 => .mma (vfnOf r.fn) (aOf r.d) (memOf r.a)
  | 0xB4 => .gmma (vfnOf r.fn) (aOf r.d) (memOf r.a)
  | 0xB5 => .mdrn (vfnOf r.fn) (vOf r.d) (aOf r.a) (r.b % 16384)
  | 0xB6 => .mrdr (vfnOf r.fn) (vOf r.d) (aOf r.a) (immOf r.b)
  | 0xB7 => .mwrr (vfnOf r.fn) (aOf r.d) (vOf r.a) (immOf r.b)
  | 0xB8 => .mstat (vfnOf r.fn) (gOf r.d)
  | 0xB9 => .mrst (vfnOf r.fn) (r.a % 16384)
  | _ => .reservedOpcode

/-- The instruction a word stands for once its fields are accepted, C column. -/
def buildC (r : Raw) : Instr :=
  match r.op with
  | 0xC0 => if r.fn % 16 = 0 then .cpyIn (Fin.ofNat 16 (r.fn / 16)) (memOf r.d) (gOf r.a) (gimmOf r.b) else if r.fn % 16 = 1 then .cpyOut (Fin.ofNat 16 (r.fn / 16)) (memOf r.d) (gOf r.a) (gimmOf r.b) else .cpyLl (Fin.ofNat 16 (r.fn / 16)) (memOf r.d) (gOf r.a) (gimmOf r.b)
  | 0xC1 => if r.fn % 16 = 0 then .cpysIn (Fin.ofNat 16 (r.fn / 16)) (memOf r.d) (gOf r.a) (gOf r.b) else .cpysOut (Fin.ofNat 16 (r.fn / 16)) (memOf r.d) (gOf r.a) (gOf r.b)
  | 0xC2 => if r.fn % 16 = 0 then .cpyfPat (Fin.ofNat 16 (r.fn / 16)) (memOf r.d) (gOf r.a) (gimmOf r.b) else .cpyf (Fin.ofNat 16 (r.fn / 16)) (Fmt.ofCode (r.fn % 16)) (memOf r.d) (gimmOf r.b)
  | 0xC3 => .cpyw (gjOf r)
  | 0xC4 => if r.fn % 16 = 0 then .cpyq (Fin.ofNat 16 (r.fn / 16)) (gOf r.d) else .cpyqC (Fin.ofNat 16 (r.fn / 16)) (gOf r.d)
  | 0xC5 => .cmut (Fin.ofNat 16 (r.fn / 16)) (Layout.ofCode (r.fn % 16)) (memOf r.d) (gOf r.a) (gOf r.b)
  | 0xC6 => .mcast (Fin.ofNat 16 (r.fn / 16)) (gOf r.d) (memOf r.a) (gimmOf r.b)
  | 0xC7 => if r.fn % 16 = 0 then .send (Fin.ofNat 16 (r.fn / 16)) (memOf r.d) (memOf r.a) (gimmOf r.b) else .sendQ (Fin.ofNat 16 (r.fn / 16)) (Fin.ofNat 8 r.fn) (memOf r.d) (memOf r.a) (gimmOf r.b)
  | 0xC8 => .recv (Fmt.ofCode (r.fn % 16)) (vOf r.d) (immOf r.a)
  | 0xC9 => if r.fn = 0x00 then .sqtag (memOf r.d) (gimmOf r.a) else .sqtagClr (memOf r.d) (gimmOf r.a)
  | _ => .reservedOpcode

/-- The instruction a word stands for once its fields are accepted, P column. -/
def buildP (r : Raw) : Instr :=
  match r.op with
  | 0xD0 => if r.fn = 0x00 then .fitset (gOf r.a) else .fitsetClr
  | 0xD1 => if r.fn = 0x00 then .fitgetRank (gOf r.d) (gOptOf r.a) else if r.fn = 0x01 then .fitgetSamp (gOf r.d) (gOptOf r.a) else .fitgetState (gOf r.d) (gOptOf r.a)
  | 0xD2 => .rank (gOf r.d) (gimmOf r.a)
  | 0xD3 => .popstep (gOf r.d) (gimmOf r.a)
  | 0xD4 => .pwait (gOf r.d) (gimmOf r.a)
  | 0xD5 => if r.fn = 0x00 then .wswap (gOf r.d) else .wswapAny (gOf r.d)
  | 0xD6 => if r.fn = 0x00 then .wbase (gOf r.d) (gOf r.a) else .wbaseInact (gOf r.d) (gOf r.a)
  | 0xD7 => .migr (gOf r.d) (gOf r.a)
  | 0xD8 => if r.fn = 0x00 then .linrdId (gOf r.d) (gOptOf r.a) else if r.fn = 0x01 then .linrdPend (gOf r.d) else if r.fn = 0x02 then .linrdGen (gOf r.d) (gimmOf r.a) else .linrdCnt (gOf r.d) (gimmOf r.a)
  | 0xD9 => .pseed (gOf r.d) (gimmOf r.a) (gOf r.b)
  | 0xDA => if r.fn = 0x00 then .pcfgInd (gOf r.d) (gOf r.a) else if r.fn = 0x01 then .pcfgPop (gOf r.d) (memOf r.a) else .pcfgRet (gOf r.d)
  | _ => .reservedOpcode

/-- The instruction a word stands for once its fields are accepted, for every opcode of R126. -/
def build (r : Raw) : Instr :=
  if r.op < 0x20 then buildSLow r else if r.op < 0x50 then buildI r else if r.op < 0x60 then buildF r
  else if r.op < 0x70 then buildM r else if r.op < 0xA8 then buildV r else if r.op < 0xB0 then buildX r
  else if r.op < 0xC0 then buildT r else if r.op < 0xD0 then buildC r else if r.op < 0xE0 then buildP r else buildSHigh r

/-- The head and the instruction that 96 bits stand for, or the decode fault R128 gives them. A reserved opcode is the event
RESERVED_OPCODE, whatever the other bits hold (R127). -/
def decodeWith (e : DecodeEnv) (w : Nat) : Except DecodeFault (Head × Instr) :=
  let r := Raw.ofNat w
  if reservedOpcode r.op then .ok (headOf r, .reservedOpcode)
  else
    match firstFault e r with
    | some f => .error f
    | none => .ok (headOf r, build r)

/-- A word read on its own, without a machine: the checks that need the state (stream names, privilege) left out. -/
def decode (w : Nat) : Except DecodeFault (Head × Instr) := decodeWith ⟨none, false, false⟩ w

/-- Twelve bytes, little-endian, as one word (R109). -/
def wordOfBytes : List Byte → Nat
  | [] => 0
  | b :: bs => b.toNat + 256 * wordOfBytes bs

/-- The `n` bytes of a word, little-endian (R109). -/
def bytesOfWord : Nat → Nat → List Byte
  | 0, _ => []
  | n + 1, w => BitVec.ofNat 8 w :: bytesOfWord n (w / 256)

/-- The decoder on the twelve bytes of a word. -/
def decodeBytes (bs : List Byte) : Except DecodeFault (Head × Instr) := decode (wordOfBytes bs)

/-- The decoder on the bits of an opcode-table row: the bits above `nbits` are 0, and a word has 96. -/
def decodeTableWord (nbits w : Nat) : Option Instr :=
  match decodeBytes (bytesOfWord 12 (w % 2 ^ min nbits 96)) with
  | .ok hi => some hi.2
  | .error _ => none

/-! ## The encoder -/

/-- A register operand (R118). -/
def regField (file ix : Nat) : Nat := file * 2048 + ix * 32
/-- A short immediate (R118). -/
def immField (v : Int) : Nat := 32768 + (v % 16384).toNat
/-- A memory operand (R118). -/
def MemOp.field (m : MemOp) : Nat := 16384 + m.g.val * 256 + m.post.toNat * 128 + (m.count % 128).toNat
def gOptField : Option GReg → Nat
  | none => 0
  | some g => regField 0 g.val
def dOptField : Option DReg → Nat
  | none => 0
  | some d => regField 4 d.val
def pairField (p : Bool) : Nat := if p then 32770 else 0
def gimmField : GImm → Nat
  | .reg g => regField 0 g.val
  | .imm v => immField v
def vsmField : VSM → Nat
  | .v rv => regField 1 rv.val
  | .s rs => regField 5 rs.val
  | .m mo => mo.field
def vsmiField : VSMI → Nat
  | .v rv => regField 1 rv.val
  | .s rs => regField 5 rs.val
  | .m mo => mo.field
  | .imm v => immField v
/-- The parts of a joined immediate (R122): operand A, operand B, hints [1:0]. -/
def joinedA (v : Nat) : Nat := 49152 + v / 65536 % 16384
def GImmJ.fieldA : GImmJ → Nat
  | .reg g => regField 0 g.val
  | .imm v => immField v
  | .joined v => joinedA v
def GImmJ.fieldB : GImmJ → Nat
  | .joined v => v % 65536
  | _ => 0
def GImmJ.low2 : GImmJ → Nat
  | .joined v => v / 2 ^ 30 % 4
  | _ => 0
def GJ.fieldA : GJ → Nat
  | .reg g => regField 0 g.val
  | .joined v => joinedA v
def GJ.fieldB : GJ → Nat
  | .joined v => v % 65536
  | _ => 0
def GJ.low2 : GJ → Nat
  | .joined v => v / 2 ^ 30 % 4
  | _ => 0
def ImmJ.fieldA : ImmJ → Nat
  | .imm v => immField v
  | .joined v => joinedA v
def ImmJ.fieldB : ImmJ → Nat
  | .joined v => v % 65536
  | _ => 0
def ImmJ.low2 : ImmJ → Nat
  | .joined v => v / 2 ^ 30 % 4
  | _ => 0

/-- The guard field (R116). -/
def Guard.field : Guard → Nat
  | .always => 0
  | .ifQ k => 64 + k.val
  | .ifNotQ k => 128 + k.val
  | .elem v => 192 + v.val

/-- The SET hint (R124): 0xF names no slot. -/
def setField : Option DReg → Nat
  | none => 15
  | some k => k.val

/-- The seven fields of an instruction form, its hints laid out as R124 says. -/
def raw (h : Head) (op fn d a b low : Nat) : Raw :=
  ⟨op, fn, h.guard.field, d, a, b,
   h.wait.toNat * 65536 + setField h.set * 4096 + h.delay * 16 + h.short.toNat * 8 + h.phase.toNat * 4 + low⟩

/-- The fields of an instruction form's word, from the encoding tables of the spec; an event has none. -/
def rawOf (h : Head) : Instr → Option Raw
  | .nop => some (raw h 0x00 0 0 0 0 0)
  | .b off => some (raw h 0x01 0 0 (immField off) 0 0)
  | .br gn => some (raw h 0x02 0 0 (regField 0 gn.val) 0 0)
  | .call off => some (raw h 0x03 0 0 (immField off) 0 0)
  | .callr gn => some (raw h 0x04 0 0 (regField 0 gn.val) 0 0)
  | .ret gn => some (raw h 0x05 0 0 (regField 0 gn.val) 0 0)
  | .loop count endOff => some (raw h 0x06 0 0 (gimmField count) (immField endOff) 0)
  | .loopx qk count endOff => some (raw h 0x07 0 (regField 3 qk.val) (gimmField count) (immField endOff) 0)
  | .bengZ dk off => some (raw h 0x08 0 0 (regField 4 dk.val) (immField off) 0)
  | .bengNz dk off => some (raw h 0x08 1 0 (regField 4 dk.val) (immField off) 0)
  | .bengF e off => some (raw h 0x08 2 0 (immField e) (immField off) 0)
  | .bengFc e off => some (raw h 0x08 3 0 (immField e) (immField off) 0)
  | .wait dk => some (raw h 0x09 0 0 (dOptField dk) 0 0)
  | .waitAll => some (raw h 0x09 1 0 0 0 0)
  | .rgn desc => some (raw h 0x0A 0 0 (immField desc) 0 0)
  | .tblk blk => some (raw h 0x0B 0 0 (gimmField blk) 0 0)
  | .tend => some (raw h 0x0C 0 0 0 0 0)
  | .realign => some (raw h 0x0D 0 0 0 0 0)
  | .halt => some (raw h 0x0E 0 0 0 0 0)
  | .exit status => some (raw h 0x0F 0 0 (gimmField status) 0 0)
  | .trap code => some (raw h 0x10 0 0 (immField code) 0 0)
  | .trapEsc => some (raw h 0x10 1 0 0 0 0)
  | .eret => some (raw h 0x11 0 0 0 0 0)
  | .eretRgn => some (raw h 0x11 1 0 0 0 0)
  | .bkpt code => some (raw h 0x12 0 0 (immField code) 0 0)
  | .sleep n => some (raw h 0x13 0 0 (gimmField n) 0 0)
  | .qop f qd qa qb => some (raw h 0x14 (f.code) (regField 3 qd.val) (regField 3 qa.val) (regField 3 qb.val) 0)
  | .qmov qd qa => some (raw h 0x15 0 (regField 3 qd.val) (regField 3 qa.val) 0 0)
  | .qmovG qd gn => some (raw h 0x15 1 (regField 3 qd.val) (regField 0 gn.val) 0 0)
  | .qmovI qd v => some (raw h 0x15 2 (regField 3 qd.val) (immField v) 0 0)
  | .qrd gd qk n => some (raw h 0x16 0 (regField 0 gd.val) (regField 3 qk.val) (immField n) 0)
  | .follow gd leader => some (raw h 0x17 0 (regField 0 gd.val) (leader.fieldA) (leader.fieldB) (leader.low2))
  | .followRel gd spec => some (raw h 0x17 1 (regField 0 gd.val) (immField spec) 0 0)
  | .detach => some (raw h 0x18 0 0 0 0 0)
  | .bararmRep id par => some (raw h 0x19 0 0 (regField 0 id.val) (gOptField par) 0)
  | .bararmOnce id par => some (raw h 0x19 1 0 (regField 0 id.val) (gOptField par) 0)
  | .bararmFree id => some (raw h 0x19 2 0 (regField 0 id.val) 0 0)
  | .bararv gd id => some (raw h 0x1A 0 (regField 0 gd.val) (regField 0 id.val) 0 0)
  | .barwt id tok => some (raw h 0x1B 0 0 (regField 0 id.val) (regField 0 tok.val) 0)
  | .baraw id => some (raw h 0x1C 0 0 (regField 0 id.val) 0 0)
  | .snap id gb => some (raw h 0x1D 0 0 (regField 0 id.val) (regField 0 gb.val) 0)
  | .budg n => some (raw h 0x1E 0 0 (n.fieldA) (n.fieldB) (n.low2))
  | .budgOff => some (raw h 0x1E 1 0 0 0 0)
  | .add gd ga b => some (raw h 0x20 0 (regField 0 gd.val) (regField 0 ga.val) (gimmField b) 0)
  | .sub gd ga b => some (raw h 0x21 0 (regField 0 gd.val) (regField 0 ga.val) (gimmField b) 0)
  | .mul gd ga b => some (raw h 0x22 0 (regField 0 gd.val) (regField 0 ga.val) (gimmField b) 0)
  | .mulh k gd ga b => some (raw h 0x23 (k.code) (regField 0 gd.val) (regField 0 ga.val) (gimmField b) 0)
  | .div u gd ga b => some (raw h 0x24 (u.toNat) (regField 0 gd.val) (regField 0 ga.val) (gimmField b) 0)
  | .rem u gd ga b => some (raw h 0x25 (u.toNat) (regField 0 gd.val) (regField 0 ga.val) (gimmField b) 0)
  | .and gd ga b => some (raw h 0x26 0 (regField 0 gd.val) (regField 0 ga.val) (gimmField b) 0)
  | .or gd ga b => some (raw h 0x27 0 (regField 0 gd.val) (regField 0 ga.val) (gimmField b) 0)
  | .xor gd ga b => some (raw h 0x28 0 (regField 0 gd.val) (regField 0 ga.val) (gimmField b) 0)
  | .andn gd ga b => some (raw h 0x29 0 (regField 0 gd.val) (regField 0 ga.val) (gimmField b) 0)
  | .shl gd ga b => some (raw h 0x2A 0 (regField 0 gd.val) (regField 0 ga.val) (gimmField b) 0)
  | .shr gd ga b => some (raw h 0x2B 0 (regField 0 gd.val) (regField 0 ga.val) (gimmField b) 0)
  | .sra gd ga b => some (raw h 0x2C 0 (regField 0 gd.val) (regField 0 ga.val) (gimmField b) 0)
  | .rot gd ga b => some (raw h 0x2D 0 (regField 0 gd.val) (regField 0 ga.val) (gimmField b) 0)
  | .min u gd ga b => some (raw h 0x2E (u.toNat) (regField 0 gd.val) (regField 0 ga.val) (gimmField b) 0)
  | .max u gd ga b => some (raw h 0x2F (u.toNat) (regField 0 gd.val) (regField 0 ga.val) (gimmField b) 0)
  | .clz gd ga => some (raw h 0x30 0 (regField 0 gd.val) (regField 0 ga.val) 0 0)
  | .ctz gd ga => some (raw h 0x31 0 (regField 0 gd.val) (regField 0 ga.val) 0 0)
  | .popc gd ga => some (raw h 0x32 0 (regField 0 gd.val) (regField 0 ga.val) 0 0)
  | .bfx gd ga spec => some (raw h 0x33 0 (regField 0 gd.val) (regField 0 ga.val) (32768 + spec % 16384) 0)
  | .bfi gd ga spec => some (raw h 0x34 0 (regField 0 gd.val) (regField 0 ga.val) (32768 + spec % 16384) 0)
  | .movi gd v => some (raw h 0x35 0 (regField 0 gd.val) (v.fieldA) (v.fieldB) (v.low2))
  | .movhi gd v => some (raw h 0x36 0 (regField 0 gd.val) (v.fieldA) (v.fieldB) (v.low2))
  | .mov gd ga => some (raw h 0x37 0 (regField 0 gd.val) (regField 0 ga.val) 0 0)
  | .cmp c qd ga b => some (raw h 0x38 (c.code) (regField 3 qd.val) (regField 0 ga.val) (gimmField b) 0)
  | .sel k gd ga gb => some (raw h 0x39 (k.val) (regField 0 gd.val) (regField 0 ga.val) (regField 0 gb.val) 0)
  | .csetb gd ga b => some (raw h 0x40 0 (regField 0 gd.val) (regField 0 ga.val) (gimmField b) 0)
  | .csetbx gd ga b => some (raw h 0x41 0 (regField 0 gd.val) (regField 0 ga.val) (gimmField b) 0)
  | .candp gd ga b => some (raw h 0x42 0 (regField 0 gd.val) (regField 0 ga.val) (gimmField b) 0)
  | .cinc gd ga b => some (raw h 0x43 0 (regField 0 gd.val) (regField 0 ga.val) (gimmField b) 0)
  | .cseta gd ga b => some (raw h 0x44 0 (regField 0 gd.val) (regField 0 ga.val) (gimmField b) 0)
  | .cget f gd ga => some (raw h 0x45 (f.code) (regField 0 gd.val) (regField 0 ga.val) 0 0)
  | .cseal gd ga t => some (raw h 0x46 0 (regField 0 gd.val) (regField 0 ga.val) (immField t) 0)
  | .cunseal gd ga t => some (raw h 0x47 0 (regField 0 gd.val) (regField 0 ga.val) (immField t) 0)
  | .cclrt gd ga => some (raw h 0x48 0 (regField 0 gd.val) (regField 0 ga.val) 0 0)
  | .crel gd ga spec => some (raw h 0x49 0 (regField 0 gd.val) (regField 0 ga.val) (32768 + spec % 16384) 0)
  | .cabs gd ga => some (raw h 0x4A 0 (regField 0 gd.val) (regField 0 ga.val) 0 0)
  | .ctest t qd ga gb => some (raw h 0x4B (t.code) (regField 3 qd.val) (regField 0 ga.val) (gOptField gb) 0)
  | .fadd fmt rtz gd ga gb => some (raw h 0x50 (fmt.code * 16 + rtz.toNat * 8) (regField 0 gd.val) (regField 0 ga.val) (regField 0 gb.val) 0)
  | .fsub fmt rtz gd ga gb => some (raw h 0x51 (fmt.code * 16 + rtz.toNat * 8) (regField 0 gd.val) (regField 0 ga.val) (regField 0 gb.val) 0)
  | .fmul fmt rtz gd ga gb => some (raw h 0x52 (fmt.code * 16 + rtz.toNat * 8) (regField 0 gd.val) (regField 0 ga.val) (regField 0 gb.val) 0)
  | .ffma fmt rtz gd ga gb => some (raw h 0x53 (fmt.code * 16 + rtz.toNat * 8) (regField 0 gd.val) (regField 0 ga.val) (regField 0 gb.val) 0)
  | .fdiv fmt rtz gd ga gb => some (raw h 0x54 (fmt.code * 16 + rtz.toNat * 8) (regField 0 gd.val) (regField 0 ga.val) (regField 0 gb.val) 0)
  | .fsqrt fmt rtz gd ga => some (raw h 0x55 (fmt.code * 16 + rtz.toNat * 8) (regField 0 gd.val) (regField 0 ga.val) 0 0)
  | .fmin fmt gd ga gb => some (raw h 0x56 (fmt.code * 16) (regField 0 gd.val) (regField 0 ga.val) (regField 0 gb.val) 0)
  | .fmax fmt gd ga gb => some (raw h 0x57 (fmt.code * 16) (regField 0 gd.val) (regField 0 ga.val) (regField 0 gb.val) 0)
  | .fcmp fmt c qd ga gb => some (raw h 0x58 (fmt.code * 16 + c.code) (regField 3 qd.val) (regField 0 ga.val) (regField 0 gb.val) 0)
  | .fcvt fmt rtz src gd ga => some (raw h 0x59 (fmt.code * 16 + rtz.toNat * 8 + src.code) (regField 0 gd.val) (regField 0 ga.val) 0 0)
  | .fsgn fmt op gd ga gb => some (raw h 0x5A (fmt.code * 16 + op.code) (regField 0 gd.val) (regField 0 ga.val) (regField 0 gb.val) 0)
  | .fclass fmt gd ga => some (raw h 0x5B (fmt.code * 16) (regField 0 gd.val) (regField 0 ga.val) 0 0)
  | .mkabs fmt gd => some (raw h 0x5C (fmt.code * 16) (regField 0 gd.val) 0 0 0)
  | .ld sz sx gd m => some (raw h 0x60 (sz.code * 32 + sx.toNat * 16) (regField 0 gd.val) (m.field) 0 0)
  | .st sz m a => some (raw h 0x61 (sz.code * 32) (m.field) (gimmField a) 0 0)
  | .ldc gd m => some (raw h 0x62 0x80 (regField 0 gd.val) (m.field) 0 0)
  | .stc m ga => some (raw h 0x63 0x80 (m.field) (regField 0 ga.val) 0 0)
  | .ldaq sz sx gd m => some (raw h 0x64 (sz.code * 32 + sx.toNat * 16) (regField 0 gd.val) (m.field) 0 0)
  | .strl sz m a => some (raw h 0x65 (sz.code * 32) (m.field) (gimmField a) 0 0)
  | .acq => some (raw h 0x66 0x60 0 0 0 0)
  | .rel => some (raw h 0x67 0x60 0 0 0 0)
  | .fenceAll => some (raw h 0x68 0x60 0 0 0 0)
  | .fenceSt => some (raw h 0x68 0x61 0 0 0 0)
  | .fenceEng => some (raw h 0x68 0x62 0 0 0 0)
  | .aadd sz ord gd m gb => some (raw h 0x69 (sz.code * 32 + ord.code * 4) (regField 0 gd.val) (m.field) (regField 0 gb.val) 0)
  | .amm sz ord op gd m gb => some (raw h 0x6A (sz.code * 32 + ord.code * 4 + op.code) (regField 0 gd.val) (m.field) (regField 0 gb.val) 0)
  | .axchg sz ord gd m gb => some (raw h 0x6B (sz.code * 32 + ord.code * 4) (regField 0 gd.val) (m.field) (regField 0 gb.val) 0)
  | .acas sz ord gd m gb => some (raw h 0x6C (sz.code * 32 + ord.code * 4) (regField 0 gd.val) (m.field) (regField 0 gb.val) 0)
  | .alog sz ord op gd m gb => some (raw h 0x6D (sz.code * 32 + ord.code * 4 + op.code) (regField 0 gd.val) (m.field) (regField 0 gb.val) 0)
  | .afadd sz ord bf gd m gb => some (raw h 0x6E (sz.code * 32 + ord.code * 4 + bf.toNat) (regField 0 gd.val) (m.field) (regField 0 gb.val) 0)
  | .vld f vd m pair => some (raw h 0x70 (f.code) (regField 1 vd.val) (m.field) (pairField pair) 0)
  | .vst f m va pair => some (raw h 0x71 (f.code) (m.field) (regField 1 va.val) (pairField pair) 0)
  | .vlds f vd m b => some (raw h 0x72 (f.code) (regField 1 vd.val) (m.field) (gimmField b) 0)
  | .vsts f m va b => some (raw h 0x73 (f.code) (m.field) (regField 1 va.val) (gimmField b) 0)
  | .vldx f vd m vi => some (raw h 0x74 (f.code) (regField 1 vd.val) (m.field) (regField 1 vi.val) 0)
  | .vstx f m va vi => some (raw h 0x75 (f.code) (m.field) (regField 1 va.val) (regField 1 vi.val) 0)
  | .vbcast f vd a => some (raw h 0x76 (f.code) (regField 1 vd.val) (a.fieldA) (a.fieldB) (a.low2))
  | .vmov f vd va => some (raw h 0x77 (f.code) (regField 1 vd.val) (regField 1 va.val) 0 0)
  | .vadd f d a b => some (raw h 0x78 (f.code) (vsmField d) (vsmField a) (vsmField b) 0)
  | .vsub f d a b => some (raw h 0x79 (f.code) (vsmField d) (vsmField a) (vsmField b) 0)
  | .vmul f d a b => some (raw h 0x7A (f.code) (vsmField d) (vsmField a) (vsmField b) 0)
  | .vfma f d a b => some (raw h 0x7B (f.code) (vsmField d) (vsmField a) (vsmField b) 0)
  | .vfms f d a b => some (raw h 0x7C (f.code) (vsmField d) (vsmField a) (vsmField b) 0)
  | .vmin f d a b => some (raw h 0x7D (f.code) (vsmField d) (vsmField a) (vsmField b) 0)
  | .vmax f d a b => some (raw h 0x7E (f.code) (vsmField d) (vsmField a) (vsmField b) 0)
  | .vabs f d a => some (raw h 0x7F (f.code) (vsmField d) (vsmField a) 0 0)
  | .vneg f d a => some (raw h 0x80 (f.code) (vsmField d) (vsmField a) 0 0)
  | .vand f d a b => some (raw h 0x81 (f.code) (vsmField d) (vsmField a) (vsmField b) 0)
  | .vor f d a b => some (raw h 0x82 (f.code) (vsmField d) (vsmField a) (vsmField b) 0)
  | .vxor f d a b => some (raw h 0x83 (f.code) (vsmField d) (vsmField a) (vsmField b) 0)
  | .vnot f d a => some (raw h 0x84 (f.code) (vsmField d) (vsmField a) 0 0)
  | .vshl f d a b => some (raw h 0x85 (f.code) (vsmField d) (vsmField a) (vsmiField b) 0)
  | .vshr f d a b => some (raw h 0x86 (f.code) (vsmField d) (vsmField a) (vsmiField b) 0)
  | .vsra f d a b => some (raw h 0x87 (f.code) (vsmField d) (vsmField a) (vsmiField b) 0)
  | .vcmp f vd a spec => some (raw h 0x88 (f.code) (regField 1 vd.val) (vsmField a) (32768 + spec % 16384) 0)
  | .vsel f d a b => some (raw h 0x89 (f.code) (vsmField d) (vsmField a) (vsmField b) 0)
  | .vpres f vd a => some (raw h 0x8A (f.code) (regField 1 vd.val) (vsmField a) 0 0)
  | .vmkabs f d a vm => some (raw h 0x8B (f.code) (vsmField d) (vsmField a) (regField 1 vm.val) 0)
  | .vcnt f gd a => some (raw h 0x8C (f.code) (regField 0 gd.val) (vsmField a) 0 0)
  | .vcvt f vd va spec => some (raw h 0x8D (f.code) (regField 1 vd.val) (regField 1 va.val) (32768 + spec % 16384) 0)
  | .vquant f vd va gb => some (raw h 0x8E (f.code) (regField 1 vd.val) (regField 1 va.val) (regField 0 gb.val) 0)
  | .vzenc f vd va half => some (raw h 0x8F (f.code) (regField 1 vd.val) (regField 1 va.val) (immField half) 0)
  | .vzdec f vd va half => some (raw h 0x90 (f.code) (regField 1 vd.val) (regField 1 va.val) (immField half) 0)
  | .vreds f gd a gc => some (raw h 0x91 (f.code) (regField 0 gd.val) (vsmField a) (gOptField gc) 0)
  | .vredx f gd a gc => some (raw h 0x92 (f.code) (regField 0 gd.val) (vsmField a) (gOptField gc) 0)
  | .vredn f gd a gc => some (raw h 0x93 (f.code) (regField 0 gd.val) (vsmField a) (gOptField gc) 0)
  | .vredm f gd a mode => some (raw h 0x94 (f.code) (regField 0 gd.val) (vsmField a) (immField mode) 0)
  | .vredq f ak gn spec => some (raw h 0x95 (f.code) (regField 2 ak.val) (regField 0 gn.val) (32768 + spec % 16384) 0)
  | .vperm f vd va vi => some (raw h 0x96 (f.code) (regField 1 vd.val) (regField 1 va.val) (regField 1 vi.val) 0)
  | .vslide f vd va b => some (raw h 0x97 (f.code) (regField 1 vd.val) (regField 1 va.val) (gimmField b) 0)
  | .vcmpr f vd va vm => some (raw h 0x98 (f.code) (regField 1 vd.val) (regField 1 va.val) (regField 1 vm.val) 0)
  | .vexpd f vd va vm => some (raw h 0x99 (f.code) (regField 1 vd.val) (regField 1 va.val) (regField 1 vm.val) 0)
  | .vmlog f vd va spec => some (raw h 0x9A (f.code) (regField 1 vd.val) (regField 1 va.val) (32768 + spec % 16384) 0)
  | .vmpop f gd vm => some (raw h 0x9B (f.code) (regField 0 gd.val) (regField 1 vm.val) 0 0)
  | .viota f vd => some (raw h 0x9C (f.code) (regField 1 vd.val) 0 0 0)
  | .vextr f gd va b => some (raw h 0x9D (f.code) (regField 0 gd.val) (regField 1 va.val) (gimmField b) 0)
  | .vins f vd ga b => some (raw h 0x9E (f.code) (regField 1 vd.val) (regField 0 ga.val) (gimmField b) 0)
  | .vretag f vd va => some (raw h 0x9F (f.code) (regField 1 vd.val) (regField 1 va.val) 0 0)
  | .scfg f sk ga m => some (raw h 0xA0 (f.code) (regField 5 sk.val) (regField 0 ga.val) (m.field) 0)
  | .sstat f gd sk => some (raw h 0xA1 (f.code) (regField 0 gd.val) (regField 5 sk.val) 0 0)
  | .srst f sk => some (raw h 0xA2 (f.code) (regField 5 sk.val) 0 0 0)
  | .vbaddq f vd va vb => some (raw h 0xA3 (f.code) (regField 1 vd.val) (regField 1 va.val) (regField 1 vb.val) 0)
  | .vrng f vd ga gb => some (raw h 0xA4 (f.code) (regField 1 vd.val) (regField 0 ga.val) (regField 0 gb.val) 0)
  | .vtolog f vd va p => some (raw h 0xA8 (f.code) (regField 1 vd.val) (regField 1 va.val) (32768 + p % 16384) 0)
  | .vfrlog f vd va p => some (raw h 0xA9 (f.code) (regField 1 vd.val) (regField 1 va.val) (32768 + p % 16384) 0)
  | .vladd f d a b => some (raw h 0xAA (f.code) (vsmField d) (vsmField a) (vsmField b) 0)
  | .vexp2 f d a => some (raw h 0xAB (f.code) (vsmField d) (vsmField a) 0 0)
  | .vlog2 f d a => some (raw h 0xAC (f.code) (vsmField d) (vsmField a) 0 0)
  | .vrsq f d a => some (raw h 0xAD (f.code) (vsmField d) (vsmField a) 0 0)
  | .vrcp f d a => some (raw h 0xAE (f.code) (vsmField d) (vsmField a) 0 0)
  | .vact f d a fn => some (raw h 0xAF (f.code) (vsmField d) (vsmField a) (32768 + fn % 16384) 0)
  | .mcfg f ga gb => some (raw h 0xB0 (f.code) 0 (regField 0 ga.val) (regField 0 gb.val) 0)
  | .mzero f ak => some (raw h 0xB1 (f.code) (regField 2 ak.val) 0 0 0)
  | .mldb f m => some (raw h 0xB2 (f.code) 0 (m.field) 0 0)
  | .mma f ak m => some (raw h 0xB3 (f.code) (regField 2 ak.val) (m.field) 0 0)
  | .gmma f ak m => some (raw h 0xB4 (f.code) (regField 2 ak.val) (m.field) 0 0)
  | .mdrn f vd ak spec => some (raw h 0xB5 (f.code) (regField 1 vd.val) (regField 2 ak.val) (32768 + spec % 16384) 0)
  | .mrdr f vd ak row => some (raw h 0xB6 (f.code) (regField 1 vd.val) (regField 2 ak.val) (immField row) 0)
  | .mwrr f ak va row => some (raw h 0xB7 (f.code) (regField 2 ak.val) (regField 1 va.val) (immField row) 0)
  | .mstat f gd => some (raw h 0xB8 (f.code) (regField 0 gd.val) 0 0 0)
  | .mrst f mask => some (raw h 0xB9 (f.code) 0 (32768 + mask % 16384) 0 0)
  | .cpyIn grp m gh len => some (raw h 0xC0 (grp.val * 16) (m.field) (regField 0 gh.val) (gimmField len) 0)
  | .cpyOut grp m gh len => some (raw h 0xC0 (grp.val * 16 + 1) (m.field) (regField 0 gh.val) (gimmField len) 0)
  | .cpyLl grp m gc len => some (raw h 0xC0 (grp.val * 16 + 2) (m.field) (regField 0 gc.val) (gimmField len) 0)
  | .cpysIn grp m gh gb => some (raw h 0xC1 (grp.val * 16) (m.field) (regField 0 gh.val) (regField 0 gb.val) 0)
  | .cpysOut grp m gh gb => some (raw h 0xC1 (grp.val * 16 + 1) (m.field) (regField 0 gh.val) (regField 0 gb.val) 0)
  | .cpyf grp fmt m len => some (raw h 0xC2 (grp.val * 16 + fmt.code) (m.field) 0 (gimmField len) 0)
  | .cpyfPat grp m ga len => some (raw h 0xC2 (grp.val * 16) (m.field) (regField 0 ga.val) (gimmField len) 0)
  | .cpyw mask => some (raw h 0xC3 0 0 (mask.fieldA) (mask.fieldB) (mask.low2))
  | .cpyq grp gd => some (raw h 0xC4 (grp.val * 16) (regField 0 gd.val) 0 0 0)
  | .cpyqC grp gd => some (raw h 0xC4 (grp.val * 16 + 1) (regField 0 gd.val) 0 0 0)
  | .cmut grp lay m gh gp => some (raw h 0xC5 (grp.val * 16 + lay.code) (m.field) (regField 0 gh.val) (regField 0 gp.val) 0)
  | .mcast grp gr m len => some (raw h 0xC6 (grp.val * 16) (regField 0 gr.val) (m.field) (gimmField len) 0)
  | .send grp dst src len => some (raw h 0xC7 (grp.val * 16) (dst.field) (src.field) (gimmField len) 0)
  | .sendQ grp k dst src len => some (raw h 0xC7 (grp.val * 16 + 8 + k.val) (dst.field) (src.field) (gimmField len) 0)
  | .recv fmt vd k => some (raw h 0xC8 (fmt.code) (regField 1 vd.val) (immField k) 0 0)
  | .sqtag m len => some (raw h 0xC9 0 (m.field) (gimmField len) 0 0)
  | .sqtagClr m len => some (raw h 0xC9 1 (m.field) (gimmField len) 0 0)
  | .fitset ga => some (raw h 0xD0 0 0 (regField 0 ga.val) 0 0)
  | .fitsetClr => some (raw h 0xD0 1 0 0 0 0)
  | .fitgetRank gd gc => some (raw h 0xD1 0 (regField 0 gd.val) (gOptField gc) 0 0)
  | .fitgetSamp gd gc => some (raw h 0xD1 1 (regField 0 gd.val) (gOptField gc) 0 0)
  | .fitgetState gd gc => some (raw h 0xD1 2 (regField 0 gd.val) (gOptField gc) 0 0)
  | .rank gd p => some (raw h 0xD2 0 (regField 0 gd.val) (gimmField p) 0 0)
  | .popstep gd p => some (raw h 0xD3 0 (regField 0 gd.val) (gimmField p) 0 0)
  | .pwait gd p => some (raw h 0xD4 0 (regField 0 gd.val) (gimmField p) 0 0)
  | .wswap gd => some (raw h 0xD5 0 (regField 0 gd.val) 0 0 0)
  | .wswapAny gd => some (raw h 0xD5 1 (regField 0 gd.val) 0 0 0)
  | .wbase gd ga => some (raw h 0xD6 0 (regField 0 gd.val) (regField 0 ga.val) 0 0)
  | .wbaseInact gd ga => some (raw h 0xD6 1 (regField 0 gd.val) (regField 0 ga.val) 0 0)
  | .migr gd gt => some (raw h 0xD7 0 (regField 0 gd.val) (regField 0 gt.val) 0 0)
  | .linrdId gd gc => some (raw h 0xD8 0 (regField 0 gd.val) (gOptField gc) 0 0)
  | .linrdPend gd => some (raw h 0xD8 1 (regField 0 gd.val) 0 0 0)
  | .linrdGen gd p => some (raw h 0xD8 2 (regField 0 gd.val) (gimmField p) 0 0)
  | .linrdCnt gd p => some (raw h 0xD8 3 (regField 0 gd.val) (gimmField p) 0 0)
  | .pseed gd p gs => some (raw h 0xD9 0 (regField 0 gd.val) (gimmField p) (regField 0 gs.val) 0)
  | .pcfgInd gd ga => some (raw h 0xDA 0 (regField 0 gd.val) (regField 0 ga.val) 0 0)
  | .pcfgPop gd m => some (raw h 0xDA 1 (regField 0 gd.val) (m.field) 0 0)
  | .pcfgRet gd => some (raw h 0xDA 2 (regField 0 gd.val) 0 0 0)
  | .tsub gd m gq => some (raw h 0xE0 0 (regField 0 gd.val) (m.field) (regField 0 gq.val) 0)
  | .tnext gd => some (raw h 0xE1 0 (regField 0 gd.val) 0 0 0)
  | .tdone => some (raw h 0xE2 0 0 0 0 0)
  | .cntadd gc b => some (raw h 0xE3 0 0 (regField 0 gc.val) (gimmField b) 0)
  | .cntwtLe gc b => some (raw h 0xE4 0 0 (regField 0 gc.val) (gimmField b) 0)
  | .cntwtGe gc b => some (raw h 0xE4 1 0 (regField 0 gc.val) (gimmField b) 0)
  | .cntwtLeA dk gc b => some (raw h 0xE4 2 (regField 4 dk.val) (regField 0 gc.val) (gimmField b) 0)
  | .cntwtGeA dk gc b => some (raw h 0xE4 3 (regField 4 dk.val) (regField 0 gc.val) (gimmField b) 0)
  | .cancel gc => some (raw h 0xE5 0 0 (regField 0 gc.val) 0 0)
  | .qpush qd gq gv => some (raw h 0xE6 0 (regField 3 qd.val) (regField 0 gq.val) (regField 0 gv.val) 0)
  | .qpop gd gq => some (raw h 0xE7 0 (regField 0 gd.val) (regField 0 gq.val) 0 0)
  | .qpopNb gd gq qk => some (raw h 0xE7 1 (regField 0 gd.val) (regField 0 gq.val) (regField 3 qk.val) 0)
  | .crr gd n => some (raw h 0xE8 0 (regField 0 gd.val) (regField 6 n.val) 0 0)
  | .crw n a => some (raw h 0xE9 0 (regField 6 n.val) (a.fieldA) (a.fieldB) (a.low2))
  | .crset n a => some (raw h 0xEA 0 (regField 6 n.val) (a.fieldA) (a.fieldB) (a.low2))
  | .crclr n a => some (raw h 0xEB 0 (regField 6 n.val) (a.fieldA) (a.fieldB) (a.low2))
  | .tlbinvVa ga b => some (raw h 0xEC 0 0 (regField 0 ga.val) (gimmField b) 0)
  | .tlbinvAll => some (raw h 0xEC 1 0 0 0 0)
  | .tlbinvDrop ga b => some (raw h 0xEC 2 0 (regField 0 ga.val) (gimmField b) 0)
  | .pghintT ga b => some (raw h 0xED 0 0 (regField 0 ga.val) (gimmField b) 0)
  | .pghintLock ga b => some (raw h 0xED 1 0 (regField 0 ga.val) (gimmField b) 0)
  | .pghintUnlock => some (raw h 0xED 2 0 0 0 0)
  | .pghintClrw ga b => some (raw h 0xED 3 0 (regField 0 ga.val) (gimmField b) 0)
  | .hndlLen gd gh => some (raw h 0xEE 0 (regField 0 gd.val) (regField 0 gh.val) 0 0)
  | .hndlBase gd gh => some (raw h 0xEE 1 (regField 0 gd.val) (regField 0 gh.val) 0 0)
  | .hndlSet gh gb => some (raw h 0xEE 2 0 (regField 0 gh.val) (regField 0 gb.val) 0)
  | .hndlClr gh => some (raw h 0xEE 3 0 (regField 0 gh.val) 0 0)
  | .trace ga tag => some (raw h 0xEF 0 0 (regField 0 ga.val) (immField tag) 0)
  | .traceSync => some (raw h 0xEF 1 0 0 0 0)
  | .smpl gd => some (raw h 0xF0 0 (regField 0 gd.val) 0 0 0)
  | .smplReq => some (raw h 0xF0 1 0 0 0 0)
  | _ => none

/-- The word of an instruction form; an event has none. -/
def encode (h : Head) (i : Instr) : Option Nat := (rawOf h i).map Raw.toNat

/-- The opcode of an instruction form. -/
def opcodeOf (i : Instr) : Option Nat := (rawOf Head.plain i).map Raw.op

end Sys2Proof
end

