-- ==== Sys2Proof/Machine/Units.lean ====
section
/-! DEFINITION. What a unit shares with others: the release wait (R273), barrier instances
(R367 to R370), follower sets (R360 to R366), and the end of a unit (R334). -/

namespace Sys2Proof.Machine

/-- The column of an opcode; none for the sequencer (R27). -/
def colOfOp (op : Nat) : Option Nat :=
  if op < 0x20 then none
  else if op < 0x50 then some colI
  else if op < 0x60 then some colF
  else if op < 0x70 then some colM
  else if op < 0xA8 then some colV
  else if op < 0xB0 then some colX
  else if op < 0xC0 then some colT
  else if op < 0xD0 then some colC
  else if op < 0xE0 then some colP
  else none

/-! ## Release (R273) -/

/-- Is a vector destination in memory, or a stream? -/
def destInMemory : VSM → Bool
  | .v _ => false
  | _ => true

/-- Does an instruction store or perform an atomic: in the M column, or in V or X by a destination in memory? -/
def storesMem (i : Instr) : Bool :=
  match i with
  | .vst .. => true
  | .vsts .. => true
  | .vstx .. => true
  | .vadd _ d _ _ => destInMemory d
  | .vsub _ d _ _ => destInMemory d
  | .vmul _ d _ _ => destInMemory d
  | .vfma _ d _ _ => destInMemory d
  | .vfms _ d _ _ => destInMemory d
  | .vmin _ d _ _ => destInMemory d
  | .vmax _ d _ _ => destInMemory d
  | .vabs _ d _ => destInMemory d
  | .vneg _ d _ => destInMemory d
  | .vand _ d _ _ => destInMemory d
  | .vor _ d _ _ => destInMemory d
  | .vxor _ d _ _ => destInMemory d
  | .vnot _ d _ => destInMemory d
  | .vshl _ d _ _ => destInMemory d
  | .vshr _ d _ _ => destInMemory d
  | .vsra _ d _ _ => destInMemory d
  | .vsel _ d _ _ => destInMemory d
  | .vmkabs _ d _ _ => destInMemory d
  | .vladd _ d _ _ => destInMemory d
  | .vexp2 _ d _ => destInMemory d
  | .vlog2 _ d _ => destInMemory d
  | .vrsq _ d _ => destInMemory d
  | .vrcp _ d _ => destInMemory d
  | .vact _ d _ _ => destInMemory d
  | .st .. => true
  | .stc .. => true
  | .strl .. => true
  | .aadd .. => true
  | .amm .. => true
  | .axchg .. => true
  | .acas .. => true
  | .alog .. => true
  | .afadd .. => true
  | _ => false

/-- Are older stores acknowledged, the write-combining buffer empty and the replay queue empty (R273)? -/
def Core.storesDone (k : Core) (serial : Nat) : Bool :=
  k.stores.isEmpty && k.wcb.isEmpty && k.replay.isEmpty &&
    k.rob.all (fun r => decide (serial ≤ r.serial) || r.done || !storesMem r.instr)

/-- Is an instruction of the C, T or P column? -/
def isEngine (i : Instr) : Bool := [colT, colC, colP].contains ((colOfOp ((opcodeOf i).getD 0)).getD 8)

/-- Has every older C, T and P operation completed (R273, R33)? -/
def Core.enginesDone (k : Core) (serial : Nat) : Bool :=
  k.rob.all (fun r => decide (serial ≤ r.serial) || r.done || !isEngine r.instr) &&
    k.ops.all (fun o => decide (serial ≤ o.serial) || !([colT, colC, colP].contains o.cls)) &&
    k.descs.all (fun p => decide (serial ≤ p.2.serial)) && k.tops.all (fun t => decide (serial ≤ t.serial))

/-- The release conditions of R273. -/
def Core.released (k : Core) (serial : Nat) : Bool := k.storesDone serial && k.enginesDone serial

/-- WAIT.ALL's condition (R154): slots, column queues and fixed-latency results. -/
def Core.allQuiet (k : Core) : Bool :=
  k.slots.all (fun p => p.2 == 0) && k.queues.all (fun p => p.2.isEmpty) && k.landings.all (fun l => match l.wr with
    | .ack _ => true
    | _ => false)

/-- A release starts a drain of the write-combining buffer (R278). -/
def Core.startDrain (k : Core) : Core := if k.wcb.isEmpty then k else { k with draining := true }

/-! ## Owners (R270) -/

/-- What every write at a home does beside its bytes: the owner of each word becomes `owner`, and a previous owner other
than the writer is sent a revoke (R270). Answers the clk after which all of them are accepted. -/
def State.homeWrite (s : State) (writer key n : Nat) (owner : Option Nat) : State × Nat :=
  if s.owners.isEmpty && owner.isNone then (s, 0)
  else
    (unitsOf 8 key n).foldl
      (fun (acc : State × Nat) w =>
        let (s, lat) := acc
        let prev := s.ownerOf (8 * w)
        let s := s.setOwner (8 * w) owner
        match prev with
        | none => (s, lat)
        | some p =>
          if p = writer then (s, lat)
          else if 8192 ≤ p then
            let (l, s) := s.draw
            (s.emitIn 0 .chip (p / 8192 - 1) (s.phys (8 * w)) [], max lat l)
          else
            let s := s.sendAfter (fun x => x.src == s.hand.core && x.dst == p) 0 p (.revoke (s.phys (8 * w)))
            (s, max lat ((s.msgs.getLast?.map Msg.due).getD s.clk - s.clk)))
      (s, 0)

/-! ## Barrier instances (R367 to R369) -/

/-- The last arrival of an episode: the waiters leave after the latency (R369). -/
def State.barComplete (s : State) (key : Nat) : State :=
  let b := s.bar key
  let (lat, s) := s.barLatency b.kind
  let ep := (b.episode + 1) % 65536
  s.setBar key { b with
    episode := ep, count := s.barEnded b, st := if b.once then .released else .armed, releases := b.releases + 1,
    snapEnd := if b.snapped then s.barEnded b else b.snapEnd, snapEp := if b.snapped then some ep else b.snapEp, snapped := false,
    rolls := if b.snapped then 0 else b.rolls,
    last := (b.last ++ [(b.episode, s.clk + lat)]).drop (b.last.length + 1 - 4) }

/-- One arrival counts (R369). -/
def State.barCount (s : State) (key : Nat) : State :=
  let b := s.bar key
  match b.st with
  | .armed | .collecting =>
    if b.count + 1 < b.n then s.setBar key { b with count := b.count + 1, st := .collecting } else s.barComplete key
  | _ => s

/-- A gang's members. -/
def gangCores (gang : Nat) : List Nat := (List.range 16).map (fun i => gang * 16 + i)

/-- The wire of a gang (R368): members' joins are matched in order, an ended member standing for an arrival. An
arrival is 0 in the list of a member's joins, a ready GMMA 1. -/
def State.gangWire (s : State) (x gang : Nat) : State :=
  let key := barKey x 0 gang 0
  let cores := (gangCores gang).filter (fun c => (s.core c).unit != .done)
  let lists := cores.map (fun c => (s.core c).joins)
  let len := lists.foldl (fun m l => max m l.length) 0
  let mixed := (List.range len).any (fun i => lists.any (fun l => l[i]? == some 0) && lists.any (fun l => l[i]? == some 1))
  if mixed then s.barBreak key 5
  else if !lists.isEmpty && lists.all (fun l => l.head? == some 0) then
    let s := cores.foldl (fun s c => s.modCore c (fun k => { k with joins := k.joins.drop 1 })) s
    s.barComplete key
  else s

/-- An arrival of a core at an instance. -/
def State.barArrive (s : State) (key c : Nat) : State :=
  let b := s.bar key
  if b.kind = 0 then (s.modCore c (fun k => { k with joins := k.joins ++ [0] })).gangWire b.ctx b.place
  else s.barCount key

/-- A member ends DONE: it counts as arrived (R369). -/
def State.barMemberDone (s : State) (c : Nat) : State :=
  (s.barsOf c).foldl (fun s key =>
    if (s.bar key).kind = 0 then s.gangWire (s.bar key).ctx (s.bar key).place else s.barCount key) s

/-! ## Follower sets (R360 to R366) -/

/-- One follower fewer, two clk later for the leader (R364 to R366). -/
def State.leaveLeader (s : State) (c : Nat) : State :=
  let k := s.core c
  if k.mode = 2 ∨ k.mode = 3 then
    { s with msgs := s.msgs ++ [⟨s.clk + 2, c, k.peer, .followGone c⟩] }
  else s

/-- FOLLOW_DETACH (R46, R365): the follower goes on alone, and a record is posted when NOTIFY is set. -/
def State.followDetach (s : State) (c reason : Nat) : State :=
  let k := s.core c
  let next := if k.mode = 2 then (match k.fwd.head? with
    | some w => w.pc
    | none => k.pc) else k.pc
  let s := s.leaveLeader c
  let s := s.modCore c (fun k => { k with mode := 0, detached := true, fwd := [], pc := next })
  match k.ctx with
  | some x =>
    if k.cf crFOLLOW 40 1 = 1 then
      s.postEvent x 0x19 c (leBytes 2 k.peer ++ leBytes 2 next ++ leBytes 1 reason ++ leBytes 3 0 ++ leBytes 8 s.now ++ leBytes 8 0)
    else s
  | none => s

/-- The leader forwards a word it dispatches to each follower (R44); a full buffer detaches the follower (R46). -/
def State.forward (s : State) (c pc w : Nat) : State :=
  (s.core c).followers.foldl (fun s f =>
    let k := s.core f
    if k.mode ≠ 2 ∧ k.mode ≠ 3 ∧ !k.pendFol then s
    else if k.fwd.length ≥ 64 then s.followDetach f 1
    else s.modCore f (fun k => { k with fwd := k.fwd ++ [⟨pc, w, k.vcc + 4⟩] })) s

/-! ## The end of a unit (R334) -/

/-- The unit of a core ends. `st` is done, cancelled or faulted; `exited` when a forwarded EXIT went before. -/
def State.endUnit (s : State) (c : Nat) (st : UnitState) (status : Nat) (exited : Bool) : State :=
  let s := if exited then s else s.flushAll c
  let k := s.core c
  let s := s.leaveLeader c
  let s := if k.mode = 1 ∧ !exited then
      k.followers.foldl (fun s f => if (s.core f).mode = 3 then { s with msgs := s.msgs ++ [⟨s.clk, c, f, .leaderEnd c⟩] } else s) s
    else s
  let s := if k.dbg.stopped then (s.pauseGroup c false false).modCore c (fun k => { k with dbg := { k.dbg with stopped := false } }) else s
  let s := s.modCore c (fun k =>
    { k with unit := st, status := status, waiting := false, held := none, mode := 0, followers := [], fwd := [],
             pendFol := false, pend := Pending.empty })
  let s := s.modLaunch k.launch (fun l => { l with ended := mapPut l.ended k.unitNo (st, status) })
  let s := match k.unit, k.ctx with
    | .preempted, some x => s.modCtx x (fun y => { y with saved := mapDel y.saved c })
    | _, _ => s
  match st with
  | .done => s.barMemberDone c
  | _ => s.barMemberLost c 3

/-- A unit that has not ended takes CANCEL (R384, R334): a running one at its next delivery point, any other now. -/
def State.cancelUnit (s : State) (c : Nat) : State :=
  let k := s.core c
  match k.unit with
  | .running =>
    s.modCore c (fun k => { k with pend := { k.pend with cancel := true } })
  | .pending | .loading | .ready | .preempted | .faulted => s.endUnit c .cancelled 0xFFFE false
  | _ => s

end Sys2Proof.Machine
end

