-- ==== Sys2Proof/Machine/Pipeline.lean ====
section
/-! DEFINITION. The core's own steps: a column's issue, a result's landing, an operation's completion, an instruction's
commit, refresh and expiry (R27 to R50), and what the sequencer raises at a fetch or a reserved opcode (R109, R127). -/

namespace Sys2Proof.Machine

/-- The q register an instruction writes, which the scoreboard of R37 holds. -/
def qDest (i : Instr) : Option QReg :=
  match i with
  | .qop _ qd _ _ => some qd
  | .qmov qd _ => some qd
  | .qmovG qd _ => some qd
  | .qmovI qd _ => some qd
  | .cmp _ qd _ _ => some qd
  | .ctest _ qd _ _ => some qd
  | .fcmp _ _ qd _ _ => some qd
  | .qpush qd _ _ => some qd
  | .qpopNb _ _ qk => some qk
  | _ => none

/-- The q registers the sequencer reads for an S instruction, and the one it writes, which waits as a reader does
(R37, R145). -/
def qReads (h : Head) (i : Instr) : List QReg :=
  (match h.guard with
    | .ifQ q => [q]
    | .ifNotQ q => [q]
    | _ => []) ++
  (match i with
    | .qop _ qd qa qb => [qd, qa, qb]
    | .qmov qd qa => [qd, qa]
    | .qmovG qd _ => [qd]
    | .qmovI qd _ => [qd]
    | .qrd _ qk n => (List.range n.toNat).map (fun j => Fin.ofNat 16 (qk.val + j))
    | .qpush qd _ _ => [qd]
    | .qpopNb _ _ qk => [qk]
    | _ => [])

/-- Does a dispatched writer of q still hold its readers in the sequencer (R37)? -/
def Core.qBusy (k : Core) (q : QReg) : Bool :=
  k.qWriters.any (fun w => w.2.1 == q.val && (w.2.2 == 0 || decide (k.vcc < w.2.2)))

/-- Is every slot of a wait mask zero, also of older instructions dispatched and not yet issued (R29, log entry 13)? -/
def Core.waitMet (k : Core) (serial : Nat) (mask : BitVec 8) : Bool :=
  (List.finRange 8).all (fun d =>
    !mask.getLsbD d.val ||
      (k.slot d == 0 &&
        k.queues.all (fun p => p.2.all (fun e => decide (serial ≤ e.serial) || e.head.set != some d))))

/-- Can the head of a column's queue issue in this clk (R29)? -/
def Core.issuable (k : Core) (col : Nat) : Option QEntry :=
  match k.queueOf col with
  | [] => none
  | e :: _ =>
    let held := (mapGet k.colHold col).isSome
    let trapped := match k.trapAt with
      | some n => decide (n < e.serial)
      | none => false
    if e.planned ≤ k.vcc && k.free col ≤ k.vcc && !held && !trapped && k.waitMet e.serial e.head.wait then some e else none

/-- An elastic pause of this core that waited for a column, or for the sequencer (8), ends (R30). -/
def State.endLate (s : State) (c col : Nat) : State :=
  if (s.core c).late.contains col then
    (s.pauseGroup c false true).modCore c (fun k => { k with late := k.late.filter (· != col) })
  else s

/-- COLUMN_ISSUE (R29): the head of the column's queue leaves it and becomes the instruction in hand, whose issue is
the step that follows at once. -/
def execColumnIssue (s : State) : Res :=
  let c := s.hand.core
  let col := s.hand.arg.ix
  match s.me.issuable col with
  | none => .next s
  | some e =>
    let s := s.endLate c col
    let s := s.modMe (fun k =>
      { k.setQueueOf col ((k.queueOf col).drop 1) with slack := mapPut k.slack col (min (mapGetD k.slack col 0) (k.vcc - e.planned)) })
    .next { s with hand := { s.hand with entry := e, stage := 0, mark := 0 } }

/-- A local store's words lose their owners; its acknowledgement waits until the revokes are accepted (R270). -/
def State.disown (s : State) (c : Nat) (l : Landing) : State :=
  match l.wr with
  | .mem key bytes _ | .st key bytes .. | .xput key bytes _ =>
    match s.homeWrite c key bytes.length none with
    | (s, 0) => s
    | (s, lat) =>
      s.modCore c (fun k =>
        let isAck (x : Landing) : Bool := x.serial == l.serial && (match x.wr with
          | .ack _ => true
          | _ => false)
        let stay := k.landings.filter (fun x => !isAck x)
        let go := (k.landings.filter isAck).map (fun x => { x with due := x.due + lat })
        { k with landings := go.foldl landInsert stay })
  | _ => s

/-- A landing whose time has come (R33, R34). -/
def State.landNow (s : State) (c : Nat) (l : Landing) : State :=
  let s := (s.landWr c l.serial l.wr).disown c l
  s.modCore c (fun k =>
    let k := k.slotDec s.clk l.slot
    let k := match l.wr with
      | .cr n _ => if n = crSEQ then k.stampSeq else k
      | _ => k
    if l.last then k.finish l.serial else k)

/-- Is a result a store of the M column, which is written after the vector columns' accesses of its clk (R40, R193)? -/
def Landing.isStore (l : Landing) : Bool :=
  match l.wr with
  | .st .. => true
  | _ => false

/-- Is a result a write of the X column to memory, which comes after V's accesses of its clk (R222)? -/
def Landing.isPut (l : Landing) : Bool :=
  match l.wr with
  | .xput .. => true
  | _ => false

/-- The next result that is due: what X and M write to memory, and the ends of their instructions, wait for the columns before
them. -/
def Core.nextLanding (k : Core) : Option Landing :=
  k.landings.find? (fun l => decide (l.due ≤ k.vcc) && !l.isStore && !l.isPut &&
    !(l.last && k.landings.any (fun x => (x.isStore || x.isPut) && x.serial == l.serial)))

/-- The M store that is due. -/
def Core.nextStore (k : Core) : Option Landing := k.landings.find? (fun l => decide (l.due ≤ k.vcc) && l.isStore)

/-- The write of the X column to memory that is due. -/
def Core.nextPut (k : Core) : Option Landing := k.landings.find? (fun l => decide (l.due ≤ k.vcc) && l.isPut)

/-- A write of M or X to memory whose time has come: where a column before it uses its bank in this clk it is served one clk
later (R40, R222), the end of its instruction and its acknowledgement with it. -/
def State.storeNow (s : State) (c : Nat) (l : Landing) : State :=
  let k := s.core c
  let (b, wait) := match l.wr with
    | .st key _ _ w => (8 + bankOf (offOf key), w && k.vecUses k.vcc (bankOf (offOf key)))
    | .xput key _ w => (4 + bankOf (offOf key), w && k.bankUse.contains (k.vcc, bankOf (offOf key)))
    | _ => (0, false)
  if wait then
    s.modCore c (fun k =>
      let with_ (x : Landing) : Bool := x.serial == l.serial && (l.isStore || x.due == l.due)
      let go := (k.landings.filter with_).map (fun x =>
        { x with due := x.due + 1, wr := match x.wr with
            | .st a b t _ => .st a b t false
            | .xput a b _ => .xput a b false
            | w => w })
      { k with landings := go.foldl landInsert (k.landings.filter (fun x => !with_ x)),
               bankUse := if l.isPut then k.bankUse ++ [(k.vcc + 1, b)] else k.bankUse })
  else
    let s := s.modCore c (fun k => { k with landings := k.landings.erase l, bankUse := k.bankUse ++ [(k.vcc, b)] })
    s.landNow c l

/-- RESULT_LANDS (R33, R34): the first result of the core that is due takes its place; with 1, the first M store; with 2, the
first write of X to memory. -/
def execResultLands (s : State) : Res :=
  let c := s.hand.core
  if s.hand.arg.ix = 1 then
    match s.me.nextStore with
    | none => .next s
    | some l => .next (s.storeNow c l)
  else if s.hand.arg.ix = 2 then
    match s.me.nextPut with
    | none => .next s
    | some l => .next (s.storeNow c l)
  else
    match s.me.nextLanding with
    | none => .next s
    | some l => .next ((s.modMe (fun k => { k with landings := k.landings.erase l })).landNow c l)

/-- An operation has completed: its slot decrements and its flags are written (R33, R75). -/
def State.completeOp (s : State) (c id : Nat) : State :=
  match (s.core c).ops.find? (fun o => o.id == id) with
  | none => s
  | some o =>
    s.modCore c (fun k =>
      let k := { k with ops := k.ops.filter (fun x => x.id != id) }.setFlags s.clk o.flags
      let k := { k with colHold := k.colHold.filter (fun p => p.2 != id) }
      k.slotDec s.clk o.slot)

/-- An operation ends in a fault of engine e: the flag is set with the decrement, and ENGINE_FAULT is pending (R50,
R152). -/
def State.failOp (s : State) (c id e addr info : Nat) : State := (s.completeOp c id).engineFault c e addr info

/-- The stream indices at an RGN's commit: every older access is made, and what a younger one has moved is not counted
(R218, R298). -/
def Core.indicesAt (k : Core) (serial : Nat) : List (Nat × (Nat × Nat × Nat)) :=
  (List.range 8).filterMap (fun j =>
    let moved := k.wlog.find? (fun e => decide (serial < e.serial) && (match e.wr with
      | .stream r _ => r.val == j
      | _ => false))
    let x := match moved.map LogEntry.old with
      | some (.stream _ t) => t
      | _ => mapGet k.streams j
    x.map (fun t => (j, (t.i0, t.i1, t.i2))))

/-- The mark of each receive queue moves to its head, and what a younger RECV has popped stays marked (R261). -/
def Core.markQueues (k : Core) (serial : Nat) : Core :=
  { k with rqs := k.rqs.map (fun (p : Nat × RecvQ) =>
      let young := k.wlog.foldl (fun n e => match e.wr with
        | .pop j m => if j = p.1 ∧ serial < e.serial then n + m.toNat else n
        | _ => n) 0
      let n := p.2.popped - young
      (p.1, ⟨p.2.vecs.drop n, p.2.popped - n, (p.2.mark + n) % 16⟩)) }

/-- An end-of-phase marker's commit (R264): SEQ_EXPECT advances, below what younger instructions have written over it. -/
def Core.markSeq (k : Core) : Core :=
  let young := k.wlog.dropWhile (fun e => !e.isSeq)
  match young with
  | e :: l =>
    let old := match e.old with
      | .cr n v => .cr n (seqMarked v)
      | w => w
    { k with wlog := k.wlog.takeWhile (fun e => !e.isSeq) ++ { e with old := old } :: l }
  | [] => k.setCv crSEQ (seqMarked (k.cv crSEQ))

/-- What the commit of an instruction does to the core (R48, R75, R261, R264, R298, R461). -/
def Core.commit (k : Core) (clk now : Nat) (r : Rob) : Core :=
  let k := ({ k with rob := k.rob.drop 1 }.clearFlags clk r.clear).setFlags clk r.flags
  let moved (e : EvalSt) (x : LogEntry) : EvalSt := match x.wr with
    | .fit v => if x.serial = r.serial then e.fit v else e
    | _ => e
  let k := { k with eval := k.wlog.foldl moved k.eval }
  let k := { k with wlog := k.wlog.dropWhile (fun e => decide (e.serial ≤ r.serial)) }
  let k := { k with locks := k.locks.filter (fun p => p.2.owner != LockOwner.tensor r.serial) }
  let k := if r.phase then k.markSeq else k
  let k := match r.region with
    | some g =>
      let k := { k with region := { g with indices := k.indicesAt r.serial } }.markQueues r.serial
      k.setCv crREGION (BitVec.ofNat 64 (g.desc * 4096 + g.pc % 4096))
    | none => k
  let k := match r.trace with
    | some t => k.traceAdd now t
    | none => k
  match k.dbg.steps with
  | some (n + 1) =>
    if n = 0 then { k with dbg := { k.dbg with steps := none }, pend := { k.pend with stop := some 5 } }
    else { k with dbg := { k.dbg with steps := some n } }
  | _ => k

/-- The column of R451 of an instruction word. -/
def umpireColumn (op : Nat) : Nat :=
  match colOfOp op with
  | none => 0
  | some 0 => 1
  | some 1 => 2
  | some 2 => 3
  | some 3 => 4
  | some 4 => 5
  | some 5 => 6
  | _ => 0

/-- Can the oldest instruction commit: it is done and raised no trap, and the umpire does not block it (R48, R49)? -/
def Core.committable (k : Core) (clk : Nat) : Bool :=
  (match k.rob with
    | r :: _ => r.done && r.trap.isNone
    | [] => false) && decide (k.checkTo ≤ clk) && (k.pend.rollback.map Trap.cause) != some causeCHECKER

/-- The mesh address of an instruction word. -/
def State.instrPhys (s : State) (c pc : Nat) : Nat := s.phys (coreKey c (0x60000 + 12 * pc))

/-- INSTRUCTION_COMMIT (R48): the oldest instruction, done and untrapped, commits. An event from outside that carries 1
is a mismatch that passes on replay, 2 one that fails twice (R49, R451): both block commits for the 4 clk of the replay,
freeze the timing group and are reported, and the second makes CHECKER pending. -/
def execInstructionCommit (s : State) : Res :=
  let c := s.hand.core
  match s.me.rob with
  | [] => .next s
  | r :: _ =>
    let a := s.instrPhys c r.pc
    if s.hand.arg.a = 1 then
      let (id, s) := s.newErrId
      .next (((s.errReport 5 0 s.me.ctx id a 12 (2 ^ 64 - 1) c 0 0).freezeGroup c 4).modMe (fun k => { k with checkTo := s.clk + 4 }))
    else if s.hand.arg.a = 2 then
      let (id, s) := s.newErrId
      let s := (s.errReport 6 0 s.me.ctx id a 12 (2 ^ 64 - 1) c 0 0).freezeGroup c 4
      let op := leNat (s.memLoad (coreKey c (0x60000 + 12 * r.pc)) 12) / 2 ^ 88
      .next (s.modMe (fun k =>
        let t := k.pend.rollback.getD ⟨causeCHECKER, a, umpireColumn op, 0, true⟩
        { k with checkTo := s.clk + 4, pend := { k.pend with rollback := some t } }))
    else if s.me.committable s.clk then .next (s.modMe (fun k => k.commit s.clk s.now r))
    else .next s

/-- VRF_REFRESH (R41): in a refresh vc of a bank, a result due to land in it lands one vc later. -/
def execVrfRefresh (s : State) : Res :=
  .next (s.modMe (fun k =>
    let hit (l : Landing) : Bool := l.due == k.vcc && (match l.wr with
      | .v r .. => k.refreshing r
      | _ => false)
    let late := (k.landings.filter hit).map Landing.serial
    let move (l : Landing) : Bool := hit l || (l.due == k.vcc && l.last && late.contains l.serial)
    let stay := k.landings.filter (fun l => !move l)
    let go := (k.landings.filter move).map (fun l => { l with due := l.due + 1 })
    { k with landings := go.foldl landInsert stay, refreshed := k.vcc + 1 }))

/-- SHORT_LIVED_EXPIRY (R42): the registers whose time is over hold the expired reading from now on. -/
def execShortLivedExpiry (s : State) : Res :=
  .next (s.modMe (fun k =>
    { k with v := k.v.map (fun p => match p.2.expiry with
        | some e => if e ≤ k.vcc then (p.1, { p.2 with bits := absentBits p.2.fmt }) else p
        | none => p) }))

/-- SLEEP_END (R157): dispatch goes on at PC + 1. -/
def execSleepEnd (s : State) : Res :=
  match s.me.held with
  | some h => .next ({ s with hand := { s.hand with entry := h.entry } }.sDone [])
  | none => .next s

/-- RESERVED_OPCODE (R127): ILLEGAL with FIELD 0 and REASON 0. -/
def execReservedOpcode (s : State) : Res := .next (s.trap causeILLEGAL 0 0)

/-- FETCH_OUTSIDE_INSTRUCTION_WORDS (R109, R129): ILLEGAL with FIELD 7 and REASON 6. -/
def execFetchOutsideInstructionWords (s : State) : Res := .next (s.trap causeILLEGAL 0 (6 * 16 + 7))

end Sys2Proof.Machine
end

