-- ==== Sys2Proof/Machine/ControlRegs.lean ====
section
/-! DEFINITION. The control registers (R71 to R76): what a read gives, what a write changes, CRR, CRW, CRSET and CRCLR
(R304, R305), and the events that are writes to one of them. -/

namespace Sys2Proof.Machine

/-- Is a pre-emption request deferred on this core (R292, R299, R306): in a timed block until its TEND has committed (R345), in a
NOPREEMPT region, in the handler? -/
def Core.deferred (k : Core) : Bool :=
  k.block.isSome || k.rob.any (fun r => r.instr == .tend && r.trap.isNone && r.block.isSome) || fld k.region.flags 0 1 == 1 || k.active

/-- STATUS (R74). -/
def Core.status_ (k : Core) : Nat :=
  let b (x : Bool) (i : Nat) : Nat := if x then 2 ^ i else 0
  let strict := match k.block with
    | some (_, x) => x
    | none => false
  b k.priv 0 + b k.block.isSome 1 + b strict 2 + b (k.pend.preempt && !k.pend.forced && k.deferred) 3 +
    b (k.mode == 1) 4 + b (k.mode == 2 || k.mode == 3) 5 + b k.detached 6 + b (k.v.any (fun p => p.2.expiry.isSome)) 7 +
    k.loops.length % 8 * 256

/-- FOLLOW_CTL (R361). -/
def Core.followCtl (k : Core) : Nat :=
  k.cf crFOLLOW 40 1 * 2 ^ 40 + k.followers.length % 32 * 2 ^ 32 + k.mode % 4 * 2 ^ 24 + k.fwd.length % 128 * 2 ^ 16 +
    (if k.mode = 2 ∨ k.mode = 3 then k.peer % 2 ^ 13 else 0)

/-- Nanoseconds since the island left BOOT: a clk is 0.8 ns (R4). -/
def State.ns (s : State) : Nat := s.now * 4 / 5

/-- SHOT_CLOCK (R390): ARMED and the ns that remain of the launch's shot clock. -/
def State.shotClock (s : State) (c : Nat) : Nat :=
  match s.launch (s.core c).launch with
  | some l =>
    match l.shotAt with
    | some t => 2 ^ 63 + (t - s.ns) % 2 ^ 48
    | none => 0
  | none => 0

/-- What a read of a control register gives (R5, R71 to R76); a number without a register reads zero. -/
def State.crRead (s : State) (c n : Nat) : Word :=
  let k := s.core c
  let w (x : Nat) : Word := BitVec.ofNat 64 x
  if n = 0x000 then w (c + (if isGateway c then 2 ^ 16 else 0))
  else if n = 0x001 then w s.isl.coord
  else if n = 0x002 then w k.vcc
  else if n = 0x003 then w s.now
  else if n = 0x004 then w k.status_
  else if n = 0x00D then w k.flags
  else if n = 0x00E then w k.followCtl
  else if n = 0x012 then w (setFld (k.cv 0x012).toNat 61 1 (if k.copySt = .swapPending then 1 else 0))
  else if n = 0x015 then w (s.shotClock c)
  else if n ≤ 0x014 ∨ (0x020 ≤ n ∧ n ≤ 0x02B) ∨ n = 0x030 ∨ n = 0x031 then k.cv n
  else 0

/-- The RW bits of a control register (R72): 0 where it has none. -/
def crRw (n : Nat) : Nat :=
  if n = 0x005 then 0xECFF
  else if n = 0x006 then 0xFFF
  else if n = 0x009 then 0x3FFF
  else if n = 0x00C then 0xFFFF00FF
  else if n = 0x00E then 2 ^ 40
  else if n = 0x00F then 0xFFFFFF
  else if n = 0x010 then 0xFFFFFFFF
  else if n = 0x013 then 0x1FFFF
  else if n = 0x014 then 0xF1FF07FFFFFF
  else if n = 0x015 then 2 ^ 63 + (2 ^ 48 - 1)
  else if n = 0x007 ∨ n = 0x008 ∨ n = 0x00A ∨ n = 0x00B then 2 ^ 64 - 1
  else if 0x020 ≤ n ∧ n ≤ 0x027 then (if n % 2 = 0 then 2 ^ 64 - 16 else 0xE000000000F0FFFF)
  else if 0x028 ≤ n ∧ n ≤ 0x02B then 0xE000000000000FFF
  else if n = 0x030 then 2 ^ 64 - 8
  else if n = 0x031 then 0x1FD
  else 0

/-- The W1C bits of a control register. -/
def crW1c (n : Nat) : Nat := if n = 0x00D then 0x7F else if n = 0x031 then 0x200 else 0

/-- The registers a user may write: FLAGS, FITNESS and SEQ_EXPECT (R72). -/
def crUser (n : Nat) : Bool := n == 0x00D || n == 0x010 || n == 0x013

/-- Is a rectangle within the limits of its form (R76)? -/
def rectOk (r : Nat) : Bool :=
  let row := fld r 0 8
  let col := fld r 8 4
  let h := fld r 12 9
  let w := fld r 21 5
  if fld r 26 1 = 1 then decide (row + h ≤ 6) && decide (col + w ≤ 8) else decide (row + h ≤ 256) && decide (col + w ≤ 16)

/-- May ERRINJ be armed: does ADDR name this core's SRAM or this package's HBM (R452)? -/
def State.injectable (s : State) (c : Nat) : Bool :=
  let a := ((s.core c).cv 0x030).toNat
  s.isHere a &&
    ((spaceOf a == 0 && coreOf a == c && decide (fld a 20 9 = 0) && decide (offKind c (offOf a) < 3)) ||
      (spaceOf a == 1 && decide (a % 2 ^ 42 < 0x6000000000)))

/-- The write that gives a control register new RW bits and clears W1C bits (R5, R76, R404, R452). -/
def State.crWr (s : State) (c n rw clr : Nat) : Wr :=
  let old := ((s.core c).cv n).toNat
  let m := crRw n
  let v := (old ^^^ (old &&& m)) ||| (rw &&& m)
  if n = 0x00D then .flagsClr (clr &&& 0x7F)
  else if n = 0x010 then .fit (BitVec.ofNat 64 v)
  else if n = 0x014 then (if rectOk v then .cr n (BitVec.ofNat 64 v) else .none)
  else if n = 0x031 then
    let v := v ^^^ (v &&& (clr &&& 0x200))
    let v := if fld v 0 1 = 1 ∧ fld old 0 1 = 0 ∧ !s.injectable c then setFld v 0 1 0 else v
    .cr n (BitVec.ofNat 64 v)
  else if m = 0 then .none
  else .cr n (BitVec.ofNat 64 v)

/-- The sequencer executes a control-register instruction in this clk (R71). -/
def State.crUsed (s : State) : State := s.modMe (fun k => { k with crAt := s.clk + 1 })

/-- FLAGS bits that the commit of the instruction in hand clears (R75). -/
def State.clearAtCommit (s : State) (m : Nat) : State :=
  s.modMe (fun k => k.modRob s.ent.serial (fun r => { r with clear := r.clear ||| (m &&& 0x7F) }))

/-- A CRW, CRSET or CRCLR: with user rights, a register that a user may only read stays as it is. The FLAGS bits it clears
fall at its commit (R75). -/
def State.crUpdate (s : State) (n : CReg) (rw clr : Nat) : State :=
  let s := s.crUsed
  if n.val = crFLAGS then (s.clearAtCommit clr).sDone []
  else if s.me.priv || crUser n.val then s.sDone [s.crWr s.hand.core n.val rw clr] else s.sDone []

/-- CRR (R305). -/
def execCrr (gd : GReg) (n : CReg) (s : State) : Res :=
  s.sGuarded (fun s => s.crUsed.sDone [.g gd (GVal.data (s.crRead s.hand.core n.val))])
/-- CRW (R305): a W1C field is cleared by ones. -/
def execCrw (n : CReg) (a : GImmJ) (s : State) : Res :=
  s.sGuarded (fun s => s.crUpdate n (s.me.gimmj a).toNat (s.me.gimmj a).toNat)
/-- CRSET (R305): W1C fields are unchanged. -/
def execCrset (n : CReg) (a : GImmJ) (s : State) : Res :=
  s.sGuarded (fun s => s.crUpdate n ((s.crRead s.hand.core n.val).toNat ||| (s.me.gimmj a).toNat) 0)
/-- CRCLR (R305): RW fields lose the bits of m, and W1C fields are cleared by them. -/
def execCrclr (n : CReg) (a : GImmJ) (s : State) : Res :=
  s.sGuarded (fun s =>
    let o := (s.crRead s.hand.core n.val).toNat
    let m := (s.me.gimmj a).toNat
    s.crUpdate n (o ^^^ (o &&& m)) m)

/-- A write through the control window, with S rights (R71). -/
def State.crWindowWrite (s : State) (c n : Nat) (v : Nat) : State :=
  match s.crWr c n v v with
  | .fit x => s.modCore c (fun k => k.fitNow x)
  | w => (s.applyWr c w).modCore c (fun k => if n = crSEQ then k.stampSeq else k)

/-- FITNESS_WRITE (R404): acts exactly as FITSET of the written value. -/
def execFitnessWrite (s : State) : Res := .next (s.modMe (fun k => k.fitNow (BitVec.ofNat 64 s.hand.arg.a)))

/-- ERRINJ_ARM (R452): a write of ERRINJ_CTL that sets ARM; it has no effect where ADDR names neither this core's SRAM
nor this package's HBM. -/
def execErrinjArm (s : State) : Res := .next (s.crWindowWrite s.hand.core 0x031 s.hand.arg.a)

/-- SHOT_CLOCK_WRITE (R390): the value a supervisor wrote disarms the launch's shot clock or rearms it with NS. -/
def execShotClockWrite (s : State) : Res :=
  let v := (s.me.cv crSHOT).toNat
  let s' := s.modLaunch s.me.launch (fun l =>
    { l with shotAt := if fld v 63 1 = 1 then some (s.ns + 1 + fld v 0 48) else none })
  .next (s'.modMe (fun k => { k with cr := mapDel k.cr crSHOT }))

end Sys2Proof.Machine
end

