-- ==== Sys2Proof/Machine/Memory.lean ====
section
/-! DEFINITION. The M column's loads, stores and ordering instructions (R181 to R185), with the remote-read cache (R43),
the write-combining buffer (R278), the replay queue (R282, R319, R320) and what happens at a home (R267 to R273). -/

namespace Sys2Proof.Machine

/-- Bytes of a scalar access (R182). -/
def sizeBytes : Size → Nat
  | .b1 => 1
  | .b2 => 2
  | .b4 => 4
  | .b8 => 8

/-! ## Requests -/

/-- The clk of 50 ms, after which a request to the host has failed (R473). -/
def hostLimit : Nat := 62500000
def hostBase : Nat := 0x20000000000

/-- The bytes a request or its answer shows outside the package; a capability's are followed by its granule tag (R182). An
answer that is an error shows none, and an acknowledgement one: the OWN bit it brings (R269). -/
def MsgBody.bytes : MsgBody → List Byte
  | .store _ b tag => b ++ (match tag with
      | some x => [if x then 1 else 0]
      | none => [])
  | .wcLine _ l _ => l.map (·.2)
  | .window _ true v => leBytes 8 v.toNat
  | .atomic m _ opnd _ => leBytes m.size opnd.toNat
  | .data m b tag _ _ => b ++ (if m.cap && !b.isEmpty then [if tag then 1 else 0] else [])
  | .atomicOld m old _ err => if err = 0 then leBytes m.size old.toNat else []
  | .ack _ own err => if err then [] else [if own then 1 else 0]
  | _ => []

/-- The 32-byte beats of a message on the mesh (R426). -/
def MsgBody.beats : MsgBody → Nat
  | .vector .. => 4
  | .migr _ _ _ _ (some b) => max 1 ((b.length + 31) / 32)
  | b => max 1 ((b.bytes.length + 31) / 32)

/-- Answers a requester: a core of this package, in the order this home sends, or one of another package. -/
def State.answer (s : State) (m : MemReq) (extra : Nat) (b : MsgBody) : State :=
  if 8192 ≤ m.src then s.emitIn extra .chip (m.src / 8192 - 1) m.phys b.bytes
  else s.sendAfter (fun x => x.src == s.hand.core && x.dst == m.src && x.dst < 4144) extra m.src b

/-- The error response to a request. -/
def State.refuse (s : State) (m : MemReq) (b : MsgBody) (err : Nat) : State :=
  match b with
  | .load _ => s.answer m 0 (.data m [] false [] err)
  | .window _ false _ => s.answer m 0 (.data m [] false [] err)
  | .atomic .. => s.answer m 0 (.atomicOld m 0 0 err)
  | _ => s.answer m 0 (.ack m false true)

/-- Is a store still to commit: may an older instruction's trap discard it (R7, R48)? -/
def State.unsettled (s : State) (b : MsgBody) : Bool :=
  match b.storeOf with
  | some r => decide (r.src < 8192) && (s.core r.src).rob.any (fun x => x.serial == r.serial)
  | none => false

/-- Does a host port answer: is its I/O die up (R15)? -/
def State.hostUp (s : State) (port : Nat) : Bool := (s.ep (16 + port)).st == .active

/-- Does a write of n bytes that the device makes have a response error: of a place here that is not up, of a host port, or of a
package that no operating port leads to? -/
def State.placeLost (s : State) (phys n : Nat) : Bool :=
  if !s.isHere phys then !s.reaches (phys / 2 ^ 44)
  else if spaceOf phys = 2 then decide (hostBase ≤ phys % 2 ^ 42) && !s.hostUp ((phys % 2 ^ 42 - hostBase) / 2 ^ 40)
  else !s.placeUp (keyOf phys) n

/-- A request leaves the package: to the host, or to another package. -/
def State.leave (s : State) (m : MemReq) (b : MsgBody) : State :=
  let c := s.hand.core
  if !s.isHere m.phys then
    if !s.reaches (m.phys / 2 ^ 44) then s.refuse m b 1
    else
      let s := s.emit .chip (m.phys / 2 ^ 44) m.phys b.bytes
      { s with msgs := s.msgs ++ [⟨retryNever, c, toChip, b⟩] }
  else
    let o := m.phys % 2 ^ 42 - hostBase
    if !s.hostUp (o / 2 ^ 40) then s.refuse m b 1
    else
      let s := s.emit .host (o / 2 ^ 40) (o % 2 ^ 40) b.bytes
      { s with msgs := s.msgs ++ [⟨s.clk + hostLimit, c, toHost, b⟩] }

/-- Must a request stay behind another of its core: they touch one word (R183), or both are of Device or Strongly ordered type
(R277)? -/
def MemReq.behind (m r : MemReq) : Bool :=
  (unitsOf 8 r.phys (max r.size 1)).any (fun w => (unitsOf 8 m.phys (max m.size 1)).contains w) ||
    (decide (2 ≤ r.mt) && decide (2 ≤ m.mt))

/-- Sends a memory request: to a core, to the device's registers, to the host or to another package. Requests of one core
to one word keep their order (R183), and so do those through Device and Strongly ordered pages (R277). -/
def State.request (s : State) (m : MemReq) (b : MsgBody) (extra : Nat) : State :=
  let c := s.hand.core
  if !s.isHere m.phys ∨ (spaceOf m.phys = 2 ∧ hostBase ≤ m.phys % 2 ^ 42) then
    if s.unsettled b then { s with msgs := s.msgs ++ [⟨s.clk + extra, c, leaving, b⟩] } else s.leave m b
  else
    let dst := if spaceOf m.phys = 2 then toDevice else coreOf m.phys
    let after (x : Msg) : Bool :=
      x.src == c && (match x.body.req with
        | some r => m.behind r
        | none => false) && x.dst != toChip && x.dst != toHost && x.dst != leaving
    s.sendAfter after extra dst b

/-- The router port that a requester's traffic comes through: its gang's, or beside the gangs that of its Birdar port, which for
another package is the one towards it (R432). -/
def State.routerPort (s : State) (c : Nat) : Nat :=
  if c < 4096 then gangOf c else if c < 8192 then 256 + (c - 4096) / 8 else 256 + (s.routePort (c / 8192 - 1)).getD 6

/-- The beats an endpoint holds (R426), of those a condition takes. -/
def Endpoint.heldBeats (e : Endpoint) (of_ : Msg → Bool) : Nat :=
  (e.held.filter of_).foldl (fun n m => n + m.body.beats) 0

/-- May a request reach a core (R426, R312, R432)? 0 it may, 1 it is held, 2 it gets DIE_DOWN. -/
def State.gate (s : State) (home src : Nat) : Nat :=
  let e := s.ep (socketOf home)
  let drain : Bool := match (s.core home).ctx with
    | some x => (s.ctx x).st == .draining && (decide (4144 ≤ src) || (s.core src).ctx != some x)
    | none => false
  let route := !s.isl.links.isEmpty && Config.noRoute s.isl.links (s.routerPort src) (s.routerPort home)
  if route then 2
  else if (1 ≤ e.step ∧ e.step ≤ 3) ∨ (e.st = .orphaned ∧ e.cause = 1) then 
    (if e.heldBeats (fun h => s.routerPort h.src == s.routerPort src) < 256 then 1 else 2)
  else if e.st = .active then (if drain then 2 else 0)
  else 2

/-- DIE_DOWN: the log record of R426, of a socket. -/
def State.dieDownAt (s : State) (socket src phys : Nat) : State :=
  s.islLog 1 socket (if src < 8192 then src else src % 8192)
    (if src < 8192 then s.isl.coord else chipCoord (src / 8192 - 1)) phys 0

/-- DIE_DOWN of the die of a core. -/
def State.dieDown (s : State) (home src phys : Nat) : State := s.dieDownAt (socketOf home) src phys

/-- DIE_DOWN of the first HBM stack of n bytes that does not answer (R18, R426). -/
def State.stackDown (s : State) (key n src phys : Nat) : State :=
  match (unitsOf 4096 (key % 2 ^ 42) n).find? (fun g => (s.ep (8 + g % 8)).st != .active) with
  | some g => s.dieDownAt (8 + g % 8) src phys
  | none => s

/-- A request that has reached the die of its home: performed, held, or refused; one that names a missing core, or reserved
bytes of one, gets an error response of the island (R316). -/
def State.atHome (s : State) (m : MemReq) (b : MsgBody) (go : State → State) : Res :=
  let home := s.hand.core
  if !coreExists home then .next (s.refuse m b 1)
  else match s.gate home m.src with
  | 0 => .next (go s)
  | 1 => .next (s.modEp (socketOf home) (fun e => { e with held := e.held ++ [⟨s.clk, m.src, home, b⟩] }))
  | _ => .next ((s.dieDown home m.src m.phys).refuse m b 1)

/-- A request from another package, whose arguments stand in the event: requester, mesh address, bytes, and in `b` the
memory type, the size times 4, a number times 64, a flag times 2^32, and the absent-fill bit of its page times 2^34 (log
entry 4). -/
def Arg.req (a : Arg) : MemReq :=
  { src := a.ix, id := fld a.b 6 26, phys := a.a, va := 2 ^ 64 - 1, size := fld a.b 2 4 + 1, mt := fld a.b 0 2, reg := 0,
    sx := false, cap := fld a.b 32 1 == 1, ldcap := false, acq := false, fill := false, serial := 0, af := fld a.b 34 1 == 1,
    wcHeld := [] }

/-! ## The home's side (R269, R270) -/

/-- The coordinate and core number that stand for a requester in reports. -/
def State.whois (s : State) (src : Nat) : Nat × Nat :=
  if src < 8192 then (s.isl.coord, src) else (chipCoord (src / 8192 - 1), src % 8192)

/-- A write by another core into a core's memory is watched there (R458). -/
def State.watchRemote (s : State) (home src phys n : Nat) : State :=
  let (coord, core) := s.whois src
  match (s.core home).watchHit phys n [23] false with
  | some i => if src = home then s else s.watchReport home i phys (coord * 2 ^ 44 + core * 2 ^ 16 + 16 + 8)
  | none => s

/-- Bytes written at a home for a core or an engine: memory, owners, the watch. -/
def State.writeHome (s : State) (writer key : Nat) (bytes : List Byte) (tag : Option Bool) (owner : Option Nat) :
    State × Nat :=
  let s := s.memStore key bytes tag
  let (s, l) := s.homeWrite writer key bytes.length owner
  (s.watchRemote (coreOf key) writer (s.phys key) bytes.length, l)

/-! ## Checks of a scalar access (R57, R182, R500) -/

/-- The kinds of scalar access. -/
inductive Access where
  | load | store | cap | atomic
  deriving DecidableEq, Repr

/-- Steps 1 to 5 of R57 and the resolution of REL (R61): the virtual address, or the state after the trap. -/
def State.reachCap (s : State) (g : GReg) (field x n align : Nat) (need : List Nat) : Except State Nat :=
  let c := s.me.rg g
  match capCheck c x n align need false with
  | some cause => .error (s.capTrap cause x field g)
  | none =>
    match s.relResolve c x with
    | none => .error (s.capTrap causePERM x field g)
    | some va => .ok va

/-- Steps 7 to 9 of R57 for a scalar access: the first cause that fails. -/
def afterPage (own priv bound : Bool) (perms phys : Nat) (kind : Access) (n : Nat) : Option Nat :=
  let has (p : Nat) : Bool := fld perms p 1 == 1
  let sp := spaceOf phys
  let ok := offKind (coreOf phys) (offOf phys)
  let window := sp == 0 && ok == 3
  if sp = 0 ∧ !own ∧ !has pREMOTE then some causePERM
  else if window ∧ !has pSYS then some causePERM
  else if bound ∧ !(has pSPILL && own && decide (ok ≤ 1)) then some causePERM
  else if window ∧ !priv then some causePRIV
  else if sp = 1 then some causePERM
  else if sp = 2 ∧ (kind == .cap || kind == .atomic || decide (n ≠ 8)) then some causeALIGN
  else if window ∧ (kind == .cap || kind == .atomic || decide (n ≠ 8)) then some causeALIGN
  else if kind = .atomic ∧ sp = 0 ∧ ok = 2 then some causeALIGN
  else none

/-- A translation of n bytes that lie in one page. -/
def State.translateOne (s : State) (va n : Nat) (rd wr : Bool) : State × Nat × Except (Nat × Nat × Nat) Reach :=
  match s.translateRange false va n rd wr with
  | (s, w, .ok (r :: _)) => (s, w, .ok r)
  | (s, w, .ok []) => (s, w, .error (reasonINVALID, 3, va))
  | (s, w, .error e) => (s, w, .error e)

/-- The range-lock table, the armed lines and the watch registers, met by an access of this core: the state after the
first trap, or none. -/
def State.meets (s : State) (r : Reach) (n : Nat) (rd wr : Bool) : Option State :=
  s.meetRange [⟨r.phys, some r.va, n, r.af, r.mt⟩] rd wr

/-! ## The remote-read cache (R43, R271) -/

/-- The words of an access, by number. -/
def wordsOf (phys n : Nat) : List Nat := unitsOf 8 phys n

/-- The use of a line, by the serial of the access (R43). -/
def Core.useLine (k : Core) (line serial : Nat) : Core :=
  { k with cache := k.cache.map (fun p => if p.2.phys = line then (p.1, { p.2 with use := max p.2.use serial }) else p) }

/-- A fill with one word, OWN 0: in its line, in a free one, or in the least recently used. -/
def Core.fillWord (k : Core) (serial w : Nat) (v : Word) : Core :=
  let line := w / 16
  if k.cache.any (fun p => p.2.phys == line) then
    { k with cache := k.cache.map (fun p =>
        if p.2.phys = line then (p.1, { p.2 with words := mapPut p.2.words w (v, false), use := max p.2.use serial }) else p) }
  else
    let at_ := match (List.range 128).find? (fun i => (mapGet k.cache i).isNone) with
      | some i => i
      | none => (k.cache.foldl (fun (b : Nat × Nat) p => if p.2.use < b.2 then (p.1, p.2.use) else b)
          (0, (k.cache.headD (0, ⟨0, [], 0⟩)).2.use)).1
    { k with cache := mapPut k.cache at_ ⟨line, [(w, (v, false))], serial⟩ }

/-- The cache without a word. -/
def Core.dropWord (k : Core) (w : Nat) : Core :=
  let del (p : Nat × CacheLine) : Nat × CacheLine :=
    if p.2.phys = w / 16 then (p.1, { p.2 with words := mapDel p.2.words w }) else p
  { k with cache := (k.cache.map del).filter (fun p => !p.2.words.isEmpty) }

/-- A word with the bytes of a store at `phys` that lie in it. -/
def wordWith (w : Nat) (v : Word) (phys : Nat) (bytes : List Byte) : Word :=
  (bytes.zipIdx).foldl
    (fun v p => if (phys + p.2) / 8 = w then BitVec.ofNat 64 (setFld v.toNat (8 * ((phys + p.2) % 8)) 8 p.1.toNat) else v) v

/-- A store's bytes in the cached words that are valid (R269); undone if its instruction is discarded. -/
def State.throughCache (s : State) (phys : Nat) (bytes : List Byte) : State :=
  (wordsOf phys bytes.length).foldl
    (fun s w =>
      match s.me.cacheWord w with
      | some x => s.landWr s.hand.core s.ent.serial (.cached w (wordWith w x.1 phys bytes))
      | none => s) s

/-! ## The write-combining buffer (R278) -/

/-- The bytes of an access that the buffer holds, by their place in it. -/
def Core.wcBytes (k : Core) (phys n : Nat) : List (Nat × Byte) :=
  let from_ (l : WcLine) (m : List (Nat × Byte)) : List (Nat × Byte) :=
    (l.bytes.filter (fun b => decide (phys % 128 ≤ b.1) && decide (b.1 < phys % 128 + n))).foldl
      (fun m b => mapPut m (b.1 - phys % 128) b.2) m
  let lines := (k.wcb.map (·.2)).filter (fun l => l.phys == phys / 128)
  (lines.filter (fun l => !l.sent)).foldl (fun m l => from_ l m) ((lines.filter WcLine.sent).foldl (fun m l => from_ l m) [])

/-- The granule tag an LDC of a mesh address reads: the buffer's where it holds bytes of the granule, else the home's (R268). -/
def Core.wcTag (k : Core) (phys : Nat) (home : Bool) : Bool :=
  match (k.wcb.map (·.2)).filter (fun l => l.phys == phys / 128 && l.bytes.any (fun b => b.1 / 16 == phys % 128 / 16)) with
  | [] => home
  | l => ((l.find? (fun x => !x.sent)).getD (l.headD ⟨0, 0, [], [], false⟩)).tags.contains (phys % 128 / 16)

/-- Bytes with some of them replaced. -/
def overlay (bytes : List Byte) (o : List (Nat × Byte)) : List Byte :=
  if o.isEmpty then bytes else (bytes.zipIdx).map (fun (b, i) => (mapGet o i).getD b)

/-- A WC store into the buffer (R278): into its line, or a free one; none where it has to wait, since all eight are in use or
a drain is on its way. -/
def State.wcMerge (s : State) (phys va : Nat) (bytes : List Byte) (tag : Option Bool) : Option State :=
  let k := s.me
  let put (l : WcLine) : WcLine :=
    let bs : List (Nat × Byte) := (bytes.zipIdx).foldl (fun m p => mapPut m (phys % 128 + p.2) p.1) l.bytes
    let gs := unitsOf 16 (phys % 128) bytes.length
    let ts := l.tags.filter (fun g => !gs.contains g)
    { l with bytes := bs, tags := if tag = some true then ts ++ gs else ts }
  let land (i : Nat) (l : WcLine) : State := s.landWr s.hand.core s.ent.serial (.wc i (some (put l)))
  match k.wcb.find? (fun p => p.2.phys == phys / 128 && !p.2.sent) with
  | some (i, l) => some (land i l)
  | none =>
    if k.draining then none
    else match (List.range 8).find? (fun i => (mapGet k.wcb i).isNone) with
      | some i => some (land i ⟨phys / 128, va / 128 * 128, [], [], false⟩)
      | none => none

/-- Does a line of the buffer hold bytes of a store that has not committed (R7)? -/
def Core.wcOpen (k : Core) (i : Nat) : Bool :=
  k.wlog.any (fun e => match e.wr with
    | .wc j _ => j == i
    | _ => false)

/-- The drain sends the lowest line, when none is on its way (R278). -/
def State.drainWc (s : State) : State :=
  match s.me.wcb with
  | [] => s.modMe (fun k => { k with draining := false })
  | (i, l) :: _ =>
    if l.sent then s
    else
      let s := s.modMe (fun k => { k with wcb := mapPut k.wcb i { l with sent := true } })
      let m : MemReq := ⟨s.hand.core, s.me.opId, l.phys * 128, l.va, 128, 1, i, false, false, false, false, false, 0, false, []⟩
      s.request m (.wcLine m l.bytes l.tags) 0

/-! ## Loads -/

/-- The value a load writes: zero- or sign-extended, or a capability (R182). -/
def loadValue (n : Nat) (sx cap ldcap tag : Bool) (bytes : List Byte) : GVal :=
  if cap then
    let v := BitVec.ofNat 64 (leNat (bytes.take 8))
    let m := BitVec.ofNat 64 (leNat (bytes.drop 8))
    ⟨v, m, tag && ldcap && capValid v m⟩
  else if sx then GVal.data (wordOfInt (sext (8 * n) (leNat bytes)))
  else GVal.data (BitVec.ofNat 64 (leNat bytes))

/-- Does a parked store stand on the page of an address (R282)? -/
def Core.pageParked (k : Core) (va : Nat) : Bool := k.replay.any (fun p => p.va / 65536 == va / 65536)

/-- One clk more when V or X uses the bank in this clk. -/
def Core.bankWait (k : Core) (vc off : Nat) : Nat := if k.vecUses vc (bankOf off) then 1 else 0
/-- The M column's use of a bank. -/
def Core.useM (k : Core) (vc off : Nat) : Core := { k with bankUse := k.bankUse ++ [(vc, 8 + bankOf off)] }

/-- Bytes read at a key through a page: zero on an absent-fill page where nothing is written (R322). -/
def State.fillLoad (s : State) (key n : Nat) (af : Bool) : List Byte :=
  if af && !s.writtenAt key then List.replicate n 0 else s.memLoad key n

/-- The state as this core's M column sees its own memory: with its stores that are still to be written (R183). -/
def State.withStores (s : State) (c : Nat) : State :=
  (s.core c).landings.foldl
    (fun s l => match l.wr with
      | .st key b t _ => s.memStore key b t
      | _ => s) s

/-- This core's stores that are still to be written are written now, before an atomic of the M column after them (R183). -/
def State.storesLand (s : State) (c : Nat) : State :=
  ((s.core c).landings.filter Landing.isStore).foldl
    (fun s l => (s.modCore c (fun k => { k with landings := k.landings.erase l })).landNow c l) s

/-- The issue of a load of n bytes into gd (R182, R183, R271). -/
def State.loadM (s : State) (gd : GReg) (m : MemOp) (n : Nat) (sx cap acq : Bool) : State :=
  let k := s.me
  let c := s.hand.core
  let x := k.memAddr m n
  let src := k.rg m.g
  match s.reachCap m.g 4 x n n [pR] with
  | .error s => s
  | .ok va =>
  if k.pageParked va then s.requeue colM
  else
  match s.translateOne va n true false with
  | (s, _, .error (reason, lvl, a)) => s.trap causePLOAD a (pageInfo 0 false false lvl reason)
  | (s, w, .ok r) =>
  match afterPage (s.isOwn c r.phys) k.priv false (mdPerms src.md) r.phys (if cap then .cap else .load) n with
  | some cause => s.capTrap cause va 4 m.g
  | none =>
  match s.meets r n true false with
  | some s => s
  | none =>
  match s.waitClk w with
  | (s, _, true) => s
  | (s, w, false) =>
  let s := s.modMe Core.clearWatchSkip
  let post := k.postInc m n
  let key := keyOf r.phys
  let off := offOf r.phys
  let value (bytes : List Byte) (tag : Bool) : GVal := loadValue n sx cap (mdHas src.md pLDCAP) tag bytes
  let quick (s : State) (lat : Nat) (v : GVal) : State :=
    let s := s.issue colM lat (if acq then lat else 1 + w) 0 ([.g gd v] ++ (if acq then [.acquire] else []))
    s.modMe (fun k => post.foldl (fun k p => k.landAt s.ent.serial 1 p) k)
  if s.isOwn c r.phys then
    if offKind c off = 3 then
      let i := (off - 0x70000) / 8
      quick s (3 + w) (GVal.data (if off < 0x70200 then s.crRead c i else 0))
    else
      let bytes := (s.withStores c).fillLoad key n r.af
      let v := value bytes ((s.withStores c).tagAt key)
      let s := (s.coreRead c key n va 1).disarm key n
      let wb := k.bankWait k.vcc off
      quick (s.modMe (fun k => k.useM (k.vcc + wb) off)) (3 + w + wb) v
  else
    let held := if spaceOf r.phys = 0 then k.wcBytes r.phys n else []
    let word := r.phys / 8
    match (if r.mt ≤ 1 ∧ spaceOf r.phys = 0 ∧ !cap then k.cacheWord word else none) with
    | some (cw, _) =>
      let bytes := overlay ((leBytes 8 cw.toNat).drop (r.phys % 8) |>.take n) held
      quick (s.modMe (fun k => k.useLine (word / 16) s.ent.serial)) (3 + w) (value bytes false)
    | none =>
      if held.length = n then
        let bytes := overlay (List.replicate n 0) held
        quick s (3 + w) (value bytes (cap && k.wcTag r.phys false))
      else
        let (id, s) := s.issueAsync colM (1 + w) colM .remote none
        let hold := s.head.set.isNone || r.mt == 3 || acq
        let s := if hold then s.modMe (fun k => { k with colHold := mapPut k.colHold colM id }) else s
        let s := s.modMe (fun k => post.foldl (fun k p => k.landAt s.ent.serial 1 p) k)
        let q : MemReq := ⟨c, id, r.phys, va, n, r.mt, gd.val, sx, cap, mdHas src.md pLDCAP, acq,
          decide (r.mt ≤ 1) && spaceOf r.phys == 0, s.ent.serial, r.af, held⟩
        if spaceOf r.phys = 0 ∧ offKind (coreOf r.phys) off = 3 then s.request q (.window q false 0) w
        else s.request q (.load q) w

/-- LD (R182). -/
def execLd (sz : Size) (sx : Bool) (gd : GReg) (m : MemOp) (s : State) : Res :=
  s.guarded colM (fun s => s.loadM gd m (sizeBytes sz) sx false false)
/-- LDC (R182). -/
def execLdc (gd : GReg) (m : MemOp) (s : State) : Res := s.guarded colM (fun s => s.loadM gd m 16 false true false)
/-- LDAQ (R185): the acquire action when the data lands. -/
def execLdaq (sz : Size) (sx : Bool) (gd : GReg) (m : MemOp) (s : State) : Res :=
  s.guarded colM (fun s => s.loadM gd m (sizeBytes sz) sx false true)

/-! ## Stores and the replay queue (R182, R184, R282) -/

/-- The memory type that a store parks with: that of the leaf its walk meets, valid or not (R282), 0 where it meets none. -/
def State.pageType (s : State) (va : Nat) : Nat :=
  match s.me.ctx with
  | some x => s.walkType x va
  | none => 0

/-- The walk of a parked store (R319, R320). -/
def State.parkWalk (s : State) (c : Nat) (p : Parked) : ParkState :=
  match (s.core c).ctx with
  | none => .failed reasonDISABLED 0
  | some x =>
    match s.walk x p.va with
    | .error (reason, lvl) => if reason = reasonMIGRATING ∨ reason = reasonEVICTED then .transient else .failed reason lvl
    | .ok (leaf, size) =>
      match leafReach (BitVec.ofNat 64 leaf).toNat p.va size false true with
      | .error (reason, lvl) => .failed reason lvl
      | .ok r =>
        let n := p.bytes.length
        let own := s.isOwn c r.phys
        if spaceOf r.phys = 0 ∧ offKind (coreOf r.phys) (offOf r.phys) = 4 then .failed reasonINVALID 3
        else if (afterPage own p.priv p.bound p.perms r.phys (if p.tag.isSome then .cap else .store) n).isSome then
          .failed reasonPERM (levelOf size)
        else if own && ((s.core c).lockHit (offOf r.phys) n true).isSome then .failed reasonPERM (levelOf size)
        else .resolved r.phys p.mt

/-- Walks a core's parked stores whose page overlaps a range, and posts a page-request record for each page that has
become transient (R319). -/
def State.parkAgain (s : State) (c lo hi : Nat) : State :=
  (s.core c).replay.foldl
    (fun s p =>
      if p.va / 65536 * 65536 + 65536 ≤ lo ∨ hi ≤ p.va / 65536 * 65536 then s
      else
        let st := s.parkWalk c p
        let known := (s.core c).replay.any (fun q => q.va / 65536 == p.va / 65536 && q.st == .transient)
        let s := s.modCore c (fun k =>
          { k with replay := k.replay.map (fun q => if q.slot = p.slot then { q with st := st } else q) })
        match st, (s.core c).ctx with
        | .transient, some x =>
          if known then s
          else
            let reason := match s.walk x p.va with
              | .error (r, _) => r
              | .ok _ => 0
            s.postEvent x 0x43 c (leBytes 8 (p.va / 65536 * 65536) ++ leBytes 1 reason ++ leBytes 1 1 ++ leBytes 1 p.slot ++
              leBytes 5 0 ++ leBytes 8 s.now)
        | _, _ => s) s

/-- A store of this core leaves for its place: the own memory at a latency, the write-combining buffer, a home, or the
device. None when the write-combining buffer is full. Answers the state and whether the M column is held by it. -/
def State.storeOut (s : State) (r : Reach) (bytes : List Byte) (tag : Option Bool) (lat : Nat) : Option State :=
  let c := s.hand.core
  let k := s.me
  let n := bytes.length
  let id := k.opId
  let serial := s.ent.serial
  let add (s : State) : State :=
    s.modMe (fun k => { k with opId := id + 1, stores := k.stores ++ [⟨id, r.phys, n, r.mt⟩] })
  if s.isOwn c r.phys then
    if offKind c (offOf r.phys) = 3 then
      let i := (offOf r.phys - 0x70000) / 8
      let v := leNat bytes
      if 0x70200 ≤ offOf r.phys then some s
      else if i = crFLAGS then some (s.clearAtCommit v)
      else some (s.modMe (fun k => k.landAt serial lat (s.crWr c i v v)))
    else
      some ((add s).modMe (fun k => (k.landAt serial lat (.st (keyOf r.phys) bytes tag true)).landAt serial (lat + 1) (.ack id)))
  else if r.mt = 1 ∧ spaceOf r.phys = 0 then
    match s.wcMerge r.phys r.va bytes tag with
    | some s => some (s.throughCache r.phys bytes)
    | none => none
  else
    let s := if spaceOf r.phys = 0 then (add s).throughCache r.phys bytes else add s
    let s := if r.mt = 3 then s.modMe (fun k => { k with colHold := mapPut k.colHold colM id }) else s
    let q : MemReq := ⟨c, id, r.phys, r.va, n, r.mt, 0, false, tag.isSome, false, false, false, serial, false, []⟩
    if (spaceOf r.phys = 0 ∧ offKind (coreOf r.phys) (offOf r.phys) = 3) ∨ spaceOf r.phys = 2 then
      some (s.request q (.window q true (BitVec.ofNat 64 (leNat bytes))) (lat - 1))
    else some (s.request q (.store q bytes tag) (lat - 1))

/-- The issue of a store of bytes (R182, R183, R184, R269). -/
def State.storeM (s : State) (m : MemOp) (bytes : List Byte) (tag : Option Bool) (bound : Bool) (need : List Nat) : State :=
  let k := s.me
  let c := s.hand.core
  let n := bytes.length
  let x := k.memAddr m n
  let src := k.rg m.g
  let post (s : State) : State := s.modMe (fun k => (k.postInc m n).foldl (fun k p => k.landAt s.ent.serial 1 p) k)
  match s.reachCap m.g 3 x n n need with
  | .error s => s
  | .ok va =>
  let park (s : State) : State :=
    match (List.range 8).find? (fun i => s.me.replay.all (fun p => p.slot != i)) with
    | none => s.requeue colM
    | some i =>
      let p : Parked := ⟨s.ent.serial, i, va, bytes, tag, s.pageType va, mdPerms src.md, k.priv, bound, .reported⟩
      let s := post ((s.modMe (fun k => { k.clearWatchSkip with replay := k.replay ++ [p] })).issue colM 1 1 0 [])
      let s' := s.parkAgain c (va / 65536 * 65536) (va / 65536 * 65536 + 65536)
      -- the entries already parked on this page keep the state of their own walk
      s'.modMe (fun k' => { k' with replay := k'.replay.map (fun q =>
        if q.slot = i then q else (s.me.replay.find? (fun o => o.slot == q.slot)).getD q) })
  if k.pageParked va then park s
  else
  match s.translateOne va n false true with
  | (s, _, .error _) => park s
  | (s, w, .ok r) =>
  match afterPage (s.isOwn c r.phys) k.priv bound (mdPerms src.md) r.phys (if tag.isSome then .cap else .store) n with
  | some cause => s.capTrap cause va 3 m.g
  | none =>
  match s.meets r n false true with
  | some s => s
  | none =>
  match s.waitClk w with
  | (s, _, true) => s
  | (s, w, false) =>
  match s.storeOut r bytes tag (1 + w) with
  | none => (s.modMe Core.startDrain).requeue colM
  | some s => post ((s.modMe Core.clearWatchSkip).issue colM (1 + w) (1 + w) 0 [])

/-- ST (R182). -/
def execSt (sz : Size) (m : MemOp) (a : GImm) (s : State) : Res :=
  s.guarded colM (fun s => s.storeM m (leBytes (sizeBytes sz) (s.me.gimm a).toNat) none false [pW])
/-- STC (R54, R182). -/
def execStc (m : MemOp) (ga : GReg) (s : State) : Res :=
  s.guarded colM (fun s =>
    let v := s.me.rg ga
    s.storeM m (leBytes 8 v.val.toNat ++ leBytes 8 v.md.toNat) (some v.tag) (v.tag && !mdHas v.md pGLOBAL) [pW, pSTCAP])

/-- An M instruction that first waits for a condition at the head of its queue, with the drain it starts. -/
def State.mWait (s : State) (ready drains : Bool) (go : State → State) : State :=
  if ready then go s else (if drains then s.modMe Core.startDrain else s).requeue colM

/-- STRL (R185, R273). -/
def execStrl (sz : Size) (m : MemOp) (a : GImm) (s : State) : Res :=
  s.guarded colM (fun s => s.mWait (s.me.released s.ent.serial) true
    (fun s => s.storeM m (leBytes (sizeBytes sz) (s.me.gimm a).toNat) none false [pW]))
/-- ACQ (R185, R272). -/
def execAcq (s : State) : Res := s.guarded colM (fun s => (s.modMe Core.acquire).issue colM 1 1 0 [])
/-- REL (R185). -/
def execRel (s : State) : Res :=
  s.guarded colM (fun s => s.mWait (s.me.released s.ent.serial) true (fun s => s.issue colM 1 1 0 []))
/-- FENCE.ALL (R185). -/
def execFenceAll (s : State) : Res :=
  s.guarded colM (fun s => s.mWait (s.me.released s.ent.serial) true (fun s => s.issue colM 1 1 0 []))
/-- FENCE.ST (R185). -/
def execFenceSt (s : State) : Res :=
  s.guarded colM (fun s => s.mWait (s.me.storesDone s.ent.serial) true (fun s => s.issue colM 1 1 0 []))
/-- FENCE.ENG (R185). -/
def execFenceEng (s : State) : Res :=
  s.guarded colM (fun s => s.mWait (s.me.enginesDone s.ent.serial) false (fun s => s.issue colM 1 1 0 []))

/-- The head of the replay queue, once resolved, is written (R319): it counts as issued now. -/
def State.drainParked (s : State) : State :=
  match s.me.replay with
  | [] => s
  | p :: rest =>
    match p.st with
    | .resolved phys mt =>
      let s' := s.modMe (fun k => { k with replay := rest })
      match s'.storeOut ⟨p.va, phys, mt, false⟩ p.bytes p.tag 1 with
      | some s' => s'
      | none => s.modMe Core.startDrain
    | _ => s

/-- May the head of the replay queue be written: resolved, and its store committed (R7)? -/
def Core.parkedReady (k : Core) : Bool :=
  match k.replay with
  | p :: _ => (match p.st with
    | .resolved .. => k.rob.all (fun r => r.serial != p.serial)
    | _ => false)
  | [] => false

/-! ## Events at a home and at a requester -/

/-- REMOTE_LOAD_AT_HOME (R271): the home reads its word. -/
def execRemoteLoadAtHome (s : State) : Res :=
  let m := match s.hand.msg with
    | some (.load m) => m
    | _ => s.hand.arg.req
  s.atHome m (.load m) (fun s =>
    let key := keyOf m.phys
    let x := if m.src < 8192 then (s.core m.src).ctx else none
    match s.onRead x key m.size m.va (s.whois m.src).2 6 0 with
    | (s, some id) => s.answer m 0 (.data m [] false [] (2 + id))
    | (s, none) =>
      let bytes := s.fillLoad key m.size m.af
      let words := if m.fill then (wordsOf m.phys m.size).map (fun w =>
        (w, BitVec.ofNat 64 (leNat (s.fillLoad (keyOf (8 * w)) 8 m.af)))) else []
      s.answer m 0 (.data m bytes (s.tagAt key) words 0))

/-- The request of a core that has left the package, by its number. -/
def State.outstanding (s : State) (c id : Nat) : Option (Msg × MemReq) :=
  match s.msgs.find? (fun x => x.src == c && (x.dst == toChip || x.dst == toHost) && (x.body.req.map MemReq.id) == some id) with
  | some x => x.body.req.map (fun m => (x, m))
  | none => none

/-- A message leaves the list. -/
def State.dropMsg (s : State) (x : Msg) : State := { s with msgs := s.msgs.erase x }

/-- A load's data reaches its core (R271): the register, the cache, the slot, the acquire action. -/
def State.dataLands (s : State) (m : MemReq) (bytes : List Byte) (tag : Bool) (words : List (Nat × Word)) (err : Nat) : State :=
  let c := s.hand.core
  if s.me.ops.all (fun o => o.id != m.id) then s
  else if err = 1 then s.failOp c m.id 3 m.va 3
  else if 2 ≤ err then (s.completeOp c m.id).eccPend c m.va (err - 2)
  else
    let v := loadValue m.size m.sx m.cap m.ldcap (tag && m.wcHeld.isEmpty) (overlay bytes m.wcHeld)
    let s := (s.modMe (fun k => k.landOp m.serial (.g (Fin.ofNat 64 m.reg) v))).completeOp c m.id
    s.modMe (fun k =>
      let free (w : Nat) : Bool :=
        k.stores.all (fun x => !(wordsOf x.phys x.size).contains w || decide (x.id < m.id)) &&
          k.wcb.all (fun p => p.2.bytes.all (fun b => (p.2.phys * 128 + b.1) / 8 != w))
      let k := words.foldl (fun k p => if free p.1 then k.fillWord m.serial p.1 p.2 else k) k
      if m.acq then k.landOp m.serial .acquire else k)

/-- An atomic's old value reaches its core (R187, R188): the register, FLAGS, the slot, the acquire action. -/
def State.oldLands (s : State) (m : MemReq) (old : Word) (flags err : Nat) : State :=
  let c := s.hand.core
  if s.me.ops.all (fun o => o.id != m.id) then s
  else
    let s := s.modMe (fun k => { k with stores := k.stores.filter (fun x => x.id != m.id) })
    if err = 1 then s.failOp c m.id 3 m.va 3
    else if 2 ≤ err then (s.completeOp c m.id).eccPend c m.va (err - 2)
    else
      (s.modMe (fun k =>
        let k := (k.landOp m.serial (.g (Fin.ofNat 64 m.reg) (GVal.data old))).setFlags s.clk flags
        if m.acq then k.landOp m.serial .acquire else k)).completeOp c m.id

/-- What a read of the device's engines outside the package has brought, or its error. -/
def State.extLands (s : State) (phys : Nat) (r : Option (List Byte)) : State :=
  if s.asks.any (fun q => q.phys == phys) then
    { s with asks := s.asks.filter (fun q => q.phys != phys), ext := mapPut s.ext phys r }
  else s

/-- REMOTE_LOAD_DATA (R271). From another package or the host its bytes stand in the event: `a` is the request's number,
`b` 0 for data, 1 for an error response, 2 for data with tag 1; for an atomic, `b` divided by 16 holds its flags. For a
read of the device's engines the event names no core but 8,189, and `a` is the mesh address. -/
def execRemoteLoadData (s : State) : Res :=
  match s.hand.msg with
  | some (.data m bytes tag words err) => .next (s.dataLands m bytes tag words err)
  | _ =>
    if s.hand.core = toDevice then
      .next (s.extLands s.hand.arg.a (if s.hand.arg.b = 1 then none else some s.hand.arg.bytes))
    else match s.outstanding s.hand.core s.hand.arg.a with
    | none => .next s
    | some (x, m) =>
      let bytes := s.hand.arg.bytes
      let b := s.hand.arg.b
      match x.body with
      | .atomic .. =>
        .next ((s.dropMsg x).oldLands m (BitVec.ofNat 64 (leNat bytes)) (b / 16) (if b % 16 = 1 then 1 else 0))
      | _ =>
      let words := if m.fill ∧ m.phys % 8 = 0 ∧ m.size % 8 = 0 then
        (wordsOf m.phys m.size).map (fun w => (w, BitVec.ofNat 64 (leNat ((bytes.drop (8 * w - m.phys)).take 8)))) else []
      .next ((s.dropMsg x).dataLands m bytes (s.hand.arg.b == 2) words (if s.hand.arg.b = 1 then 1 else 0))

/-- REMOTE_STORE_AT_HOME (R269, R270): the bytes are written, a Normal store makes the writer the owner, and the
acknowledgement goes once every revoke is accepted. -/
def execRemoteStoreAtHome (s : State) : Res :=
  match s.hand.msg with
  | some (.wcLine m l tags) =>
    s.atHome m (.wcLine m l tags) (fun s =>
      let (s, lat) := l.foldl
        (fun (acc : State × Nat) b =>
          let (s, n) := acc.1.writeHome m.src (keyOf m.phys + b.1) [b.2] none none
          (s, max acc.2 n)) (s, 0)
      let s := { s with tags := tags.foldl (fun t g => if offKind s.hand.core (offOf m.phys) ≤ 1 then setAdd t (keyOf m.phys / 16 + g) else t) s.tags }
      s.answer m lat (.ack m false false))
  | _ =>
    let (m, bytes, tag) := match s.hand.msg with
      | some (.store m bytes tag) => (m, bytes, tag)
      | _ => (s.hand.arg.req, s.hand.arg.bytes, if s.hand.arg.req.cap then some (fld s.hand.arg.b 33 1 == 1) else none)
    s.atHome m (.store m bytes tag) (fun s =>
      let own := m.mt = 0
      let (s, lat) := s.writeHome m.src (keyOf m.phys) bytes tag (if own then some m.src else none)
      s.answer m lat (.ack m own false))

/-- REVOKE (R270): the word loses its OWN bit. -/
def execRevoke (s : State) : Res :=
  let phys := match s.hand.msg with
    | some (.revoke p) => p
    | _ => s.hand.arg.a
  .next (s.modMe (fun k => k.modWord (phys / 8) (fun x => (x.1, false))))

/-- An acknowledgement reaches its core (R269, R270, R278). -/
def State.ackLands (s : State) (m : MemReq) (own err : Bool) : State :=
  let c := s.hand.core
  let s := if err then s.engineFault c 3 m.va 3 else s
  if m.mt = 1 ∧ m.size = 128 then s.modMe (fun k => { k with wcb := k.wcb.filter (fun p => p.1 != m.reg || p.2.phys != m.phys / 128 || !p.2.sent) })
  else
    s.modMe (fun k =>
      let k := { k with stores := k.stores.filter (fun x => x.id != m.id), colHold := k.colHold.filter (fun p => p.2 != m.id) }
      if own ∧ !err then (wordsOf m.phys m.size).foldl (fun k w => k.modWord w (fun x => (x.1, true))) k else k)

/-- STORE_ACKNOWLEDGEMENT (R269, R270). From another package or the host: `a` is the store's number, `b` 1 for an error
response, 2 when the store made this core the owner. -/
def execStoreAcknowledgement (s : State) : Res :=
  match s.hand.msg with
  | some (.ack m own err) => .next (s.ackLands m own err)
  | _ =>
    match s.outstanding s.hand.core s.hand.arg.a with
    | none => .next s
    | some (x, m) => .next ((s.dropMsg x).ackLands m (s.hand.arg.b == 2) (s.hand.arg.b == 1))

/-- REMOTE_CONTROL_WINDOW_ACCESS (R71): applied with S rights. -/
def execRemoteControlWindowAccess (s : State) : Res :=
  let (m, wr, v) := match s.hand.msg with
    | some (.window m wr v) => (m, wr, v)
    | _ => (s.hand.arg.req, !s.hand.arg.bytes.isEmpty, BitVec.ofNat 64 (leNat s.hand.arg.bytes))
  s.atHome m (.window m wr v) (fun s =>
    let c := s.hand.core
    let off := offOf m.phys
    let i := (off - 0x70000) / 8
    if wr then
      let s := if off < 0x70200 then s.crWindowWrite c i v.toNat else s
      s.answer m 0 (.ack m false false)
    else
      let r := if off < 0x70200 then s.crRead c i else 0
      s.answer m 0 (.data m (leBytes 8 r.toNat) false [] 0))

end Sys2Proof.Machine
end

