-- ==== Sys2Proof/Machine/Atomic.lean ====
section
/-! DEFINITION. The atomics, opcodes 0x69 to 0x6E (R186 to R189), performed at the home of their word. -/

namespace Sys2Proof.Machine

/-- The new word of an atomic on w bits, and the flags it raises (R187, R188). -/
def atomNew (k : AtomKind) (w old opnd cmp : Nat) : Nat × Nat :=
  match k with
  | .add => ((old + opnd) % 2 ^ w, 0)
  | .minMax .smin => (if sext w old ≤ sext w opnd then old else opnd, 0)
  | .minMax .smax => (if sext w old ≤ sext w opnd then opnd else old, 0)
  | .minMax .umin => (min old opnd, 0)
  | .minMax .umax => (max old opnd, 0)
  | .xchg => (opnd, 0)
  | .cas => (if old = cmp then opnd else old, 0)
  | .logic .and => (old &&& opnd, 0)
  | .logic .or => (old ||| opnd, 0)
  | .logic .xor => (old ^^^ opnd, 0)
  | .fadd f =>
    if elemAbsent f old then (opnd, if elemAbsent f opnd then 0 else (readElem f opnd).sigFlag)
    else if elemAbsent f opnd then (old, (readElem f old).sigFlag)
    else
      let (r, fl) := numAdd (readElem f old) (readElem f opnd)
      let (x, g) := writeElem f false false r
      (x, fl ||| g)

/-- An atomic of n bytes performed at its home: the old value, zero on an absent-fill page where nothing is written (R322), the
flags, and the clk until its revokes are accepted. The granule's tag falls and the word has no owner (R60, R270). -/
def State.atomPerform (s : State) (writer key n : Nat) (af : Bool) (k : AtomKind) (opnd cmp : Nat) :
    State × Nat × Nat × Nat :=
  let old := leNat (s.fillLoad key n af)
  let (new, fl) := atomNew k (8 * n) old opnd cmp
  let (s, lat) := s.writeHome writer key (leBytes n new) none none
  (s, old, fl, lat)

/-- The issue of an atomic (R187): the release wait, the checks, then the home. -/
def State.atomicM (s : State) (sz : Size) (ord : Ordering) (kind : AtomKind) (gd : GReg) (m : MemOp) (gb : GReg) : State :=
  let rel := ord == .release || ord == .both
  let acq := ord == .acquire || ord == .both
  s.mWait (!rel || s.me.released s.ent.serial) rel fun s =>
  let n := sizeBytes sz
  let k := s.me
  let c := s.hand.core
  let x := k.memAddr m n
  let src := k.rg m.g
  match s.reachCap m.g 4 x n n [pATOM, pR, pW] with
  | .error s => s
  | .ok va =>
  if k.pageParked va then s.requeue colM
  else
  match s.translateOne va n true true with
  | (s, _, .error (reason, lvl, a)) => s.trap causePLOAD a (pageInfo 0 false true lvl reason)
  | (s, w, .ok r) =>
  match afterPage (s.isOwn c r.phys) k.priv false (mdPerms src.md) r.phys .atomic n with
  | some cause => s.capTrap cause va 4 m.g
  | none =>
  match s.meets r n true true with
  | some s => s
  | none =>
  match s.waitClk w with
  | (s, _, true) => s
  | (s, w, false) =>
  let s := s.modMe Core.clearWatchSkip
  let opnd := (s.me.rgv gb).toNat % 2 ^ (8 * n)
  let cmp := (s.me.rgv gd).toNat % 2 ^ (8 * n)
  let key := keyOf r.phys
  let post := k.postInc m n
  let s := s.modMe (fun k => post.foldl (fun k p => k.landAt s.ent.serial 1 p) k)
  if s.isOwn c r.phys then
    let wb := k.bankWait k.vcc (offOf r.phys)
    let s := ((s.storesLand c).coreRead c key n va 1).disarm key n
    let (s, old, fl, acks) := s.atomPerform c key n r.af kind opnd cmp
    let s := s.modMe (fun k => k.useM (k.vcc + wb) (offOf r.phys))
    let lat := 4 + w + max wb acks
    let (id, s) := s.issueAsync colM (1 + w) colM (.atomic gd (GVal.data (BitVec.ofNat 64 old)) acq) (some (s.clk + lat))
    s.modMe (fun k =>
      { k with ops := k.ops.map (fun o => if o.id = id then { o with flags := fl } else o),
               stores := k.stores ++ [⟨id, r.phys, n, 9⟩],
               colHold := if acq then mapPut k.colHold colM id else k.colHold })
  else
    let (id, s) := s.issueAsync colM (1 + w) colM .remote none
    let hold := s.head.set.isNone || r.mt == 3 || acq
    let s := s.modMe (fun k =>
      { k.dropWord (r.phys / 8) with
          stores := k.stores ++ [⟨id, r.phys, n, 9⟩],
          colHold := if hold then mapPut k.colHold colM id else k.colHold })
    let q : MemReq := ⟨c, id, r.phys, va, n, r.mt, gd.val, false, false, false, acq, false, s.ent.serial, r.af, []⟩
    s.request q (.atomic q kind (BitVec.ofNat 64 opnd) (BitVec.ofNat 64 cmp)) w

/-- AADD (R187). -/
def execAadd (sz : Size) (ord : Ordering) (gd : GReg) (m : MemOp) (gb : GReg) (s : State) : Res :=
  s.guarded colM (fun s => s.atomicM sz ord .add gd m gb)
/-- AMM (R187). -/
def execAmm (sz : Size) (ord : Ordering) (op : AmmOp) (gd : GReg) (m : MemOp) (gb : GReg) (s : State) : Res :=
  s.guarded colM (fun s => s.atomicM sz ord (.minMax op) gd m gb)
/-- AXCHG (R187). -/
def execAxchg (sz : Size) (ord : Ordering) (gd : GReg) (m : MemOp) (gb : GReg) (s : State) : Res :=
  s.guarded colM (fun s => s.atomicM sz ord .xchg gd m gb)
/-- ACAS (R187). -/
def execAcas (sz : Size) (ord : Ordering) (gd : GReg) (m : MemOp) (gb : GReg) (s : State) : Res :=
  s.guarded colM (fun s => s.atomicM sz ord .cas gd m gb)
/-- ALOG (R187). -/
def execAlog (sz : Size) (ord : Ordering) (op : AlogOp) (gd : GReg) (m : MemOp) (gb : GReg) (s : State) : Res :=
  s.guarded colM (fun s => s.atomicM sz ord (.logic op) gd m gb)
/-- AFADD (R188): F32 at size 4, F16 or BF16 at size 2. -/
def execAfadd (sz : Size) (ord : Ordering) (bf : Bool) (gd : GReg) (m : MemOp) (gb : GReg) (s : State) : Res :=
  s.guarded colM (fun s => s.atomicM sz ord (.fadd (if sz = .b4 then .f32 else if bf then .bf16 else .f16)) gd m gb)

/-- The operation a number stands for, in a request from another package. -/
def atomOfCode (n : Nat) : AtomKind :=
  match n with
  | 0 => .add
  | 1 => .minMax .smin
  | 2 => .minMax .smax
  | 3 => .minMax .umin
  | 4 => .minMax .umax
  | 5 => .xchg
  | 6 => .cas
  | 7 => .logic .and
  | 8 => .logic .or
  | 9 => .logic .xor
  | 10 => .fadd .f32
  | 11 => .fadd .f16
  | _ => .fadd .bf16

/-- ATOMIC_AT_HOME (R187, R189). A request from another package holds its operation in bits 43 to 40 of `b`, and its
operand and comparand in 16 bytes (log entry 4). -/
def execAtomicAtHome (s : State) : Res :=
  let a := s.hand.arg
  let (m, k, opnd, cmp) := match s.hand.msg with
    | some (.atomic m k opnd cmp) => (m, k, opnd, cmp)
    | _ => (a.req, atomOfCode (fld a.b 40 4), BitVec.ofNat 64 (leNat (a.bytes.take 8)), BitVec.ofNat 64 (leNat (a.bytes.drop 8)))
  s.atHome m (.atomic m k opnd cmp) (fun s =>
    let key := keyOf m.phys
    let x := if m.src < 8192 then (s.core m.src).ctx else none
    match s.onRead x key m.size m.va (s.whois m.src).2 6 0 with
    | (s, some id) => s.answer m 0 (.atomicOld m 0 0 (2 + id))
    | (s, none) =>
      let (s, old, fl, lat) := s.atomPerform m.src key m.size m.af k opnd.toNat cmp.toNat
      s.answer m lat (.atomicOld m (BitVec.ofNat 64 old) fl 0))

end Sys2Proof.Machine
end

