-- ==== Sys2Proof/Machine/CapInstr.lean ====
section
/-! DEFINITION. The capability instructions, opcodes 0x40 to 0x4B (R171 to R175). They issue in the I column with
latency 1. -/

namespace Sys2Proof.Machine

/-- Issues a capability instruction that writes gd. A sealed source raises CAP_SEAL (R172). A result that R55 calls
invalid is written with tag 0. -/
def execCap (gd ga : GReg) (f : State → GVal → GVal) (s : State) : Res :=
  s.guarded colI (fun s =>
    let c := s.me.rg ga
    if c.tag && mdSeal c.md != 0 then s.trap causeSEAL c.val.toNat (capInfo 4 ga)
    else
      let r := f s c
      s.issue colI 1 1 0 [.g gd { r with tag := r.tag && c.tag && capValid r.val r.md }])

/-- The smallest granule exponent from G on that fits [x, x + n), or 45 (R173). -/
def csetbSearch (x n : Nat) : Nat → Nat → Nat
  | 0, g => g
  | fuel + 1, g =>
    let lo := x / 2 ^ g * 2 ^ g
    let hi := (x + n + 2 ^ g - 1) / 2 ^ g * 2 ^ g
    if hi - lo ≤ (2 ^ 20 - 1) * 2 ^ g then g else csetbSearch x n fuel (g + 1)

/-- CSETB and CSETBX on a capability and a length (R173). -/
def csetbResult (exact : Bool) (c : GVal) (n : Nat) : GVal :=
  let x := c.val.toNat
  let g := csetbSearch x n 45 0
  let g' := min g 44
  let lo := x / 2 ^ g' * 2 ^ g'
  let hi := (x + n + 2 ^ g' - 1) / 2 ^ g' * 2 ^ g'
  let ok := decide (x + n ≤ 2 ^ 64) && decide (g < 45) && !(exact && (lo != x || hi != x + n)) &&
    decide (capBase c.val c.md ≤ (lo : Int)) && decide ((hi : Int) ≤ capTop c.val c.md)
  ⟨c.val, mdMake (mdPerms c.md) g 0 ((hi - lo) / 2 ^ g) (mdSeal c.md), c.tag && ok⟩

/-- The bounds of a capability as CGET reads them: base mod 2^64 (R174). -/
def cgetField (f : CapField) (c : GVal) : Word :=
  let base := capBase c.val c.md
  let top := capTop c.val c.md
  match f with
  | .base => wordOfInt base
  | .top => if top ≥ 2 ^ 64 then BitVec.allOnes 64 else wordOfInt top
  | .len => if top - base ≥ 2 ^ 64 then BitVec.allOnes 64 else wordOfInt (top - base)
  | .perm => BitVec.ofNat 64 (mdPerms c.md)
  | .seal => BitVec.ofNat 64 (mdSeal c.md)
  | .tag => if c.tag then 1 else 0
  | .metaBits => c.md
  | .off => wordOfInt ((c.val.toNat : Int) - base)

/-- CABS: the capability resolved to a core, moved with its bounds (R174); none raises CAP_PERM (R61). -/
def cabsResult (s : State) (c : GVal) : Option GVal :=
  match s.relResolve c c.val.toNat with
  | none => none
  | some va =>
    let d : Int := (va : Int) - c.val.toNat
    let g := mdG c.md
    let perms := mdPerms c.md - 2 ^ pREL
    let md := mdMake perms g (mdOfs c.md) (mdLen c.md) (mdSeal c.md)
    let ok := if capWhole c.md then d = 0 else d % (2 ^ g : Nat) = 0 ∧ 0 ≤ capBase c.val c.md + d ∧ capTop c.val c.md + d ≤ 2 ^ 64
    some ⟨BitVec.ofNat 64 va, md, c.tag && decide ok⟩

/-- The tests of CTEST (R175). -/
def ctestHolds (t : CapTest) (a b : GVal) : Bool :=
  match t with
  | .tag => a.tag
  | .sub =>
    a.tag && b.tag && (mdPerms b.md &&& mdPerms a.md) == mdPerms b.md &&
      decide (capBase a.val a.md ≤ capBase b.val b.md) && decide (capTop b.val b.md ≤ capTop a.val a.md)
  | .inb =>
    a.tag && decide (capBase a.val a.md ≤ (a.val.toNat : Int)) && decide ((a.val.toNat : Int) < capTop a.val a.md)
  | .isSealed => a.tag && mdSeal a.md != 0

/-- CSETB (R173). -/
def execCsetb (gd ga : GReg) (b : GImm) (s : State) : Res :=
  execCap gd ga (fun s c => csetbResult false c (s.me.gimm b).toNat) s
/-- CSETBX (R173). -/
def execCsetbx (gd ga : GReg) (b : GImm) (s : State) : Res :=
  execCap gd ga (fun s c => csetbResult true c (s.me.gimm b).toNat) s
/-- CANDP (R174). -/
def execCandp (gd ga : GReg) (b : GImm) (s : State) : Res :=
  execCap gd ga (fun s c =>
    { c with md := BitVec.ofNat 64 (setFld c.md.toNat 52 12 (mdPerms c.md &&& (s.me.gimm b).toNat % 4096)) }) s
/-- CINC (R174). -/
def execCinc (gd ga : GReg) (b : GImm) (s : State) : Res :=
  execCap gd ga (fun s c => c.moveTo (c.val + s.me.gimm b).toNat) s
/-- CSETA (R174). -/
def execCseta (gd ga : GReg) (b : GImm) (s : State) : Res := execCap gd ga (fun s c => c.moveTo (s.me.gimm b).toNat) s
/-- CGET (R174): any source, sealed or not, tagged or not. -/
def execCget (f : CapField) (gd ga : GReg) (s : State) : Res :=
  s.guarded colI (fun s => s.issue colI 1 1 0 [.g gd (GVal.data (cgetField f (s.me.rg ga)))])
/-- CSEAL (R172, R174): PRIV, then CAP_TAG, then CAP_SEAL. -/
def execCseal (gd ga : GReg) (t : Int) (s : State) : Res :=
  s.guarded colI (fun s =>
    let c := s.me.rg ga
    if t ≤ 15 ∧ !s.me.priv then s.trap causePRIV 0 5
    else if !c.tag then s.trap causeTAG c.val.toNat (capInfo 4 ga)
    else if mdSeal c.md ≠ 0 then s.trap causeSEAL c.val.toNat (capInfo 4 ga)
    else s.issue colI 1 1 0 [.g gd { c with md := BitVec.ofNat 64 (setFld c.md.toNat 0 5 t.toNat) }])
/-- CUNSEAL (R172, R174). -/
def execCunseal (gd ga : GReg) (t : Int) (s : State) : Res :=
  s.guarded colI (fun s =>
    let c := s.me.rg ga
    if t ≤ 15 ∧ !s.me.priv then s.trap causePRIV 0 5
    else if !c.tag then s.trap causeTAG c.val.toNat (capInfo 4 ga)
    else if (mdSeal c.md : Int) ≠ t then s.trap causeSEAL c.val.toNat (capInfo 4 ga)
    else s.issue colI 1 1 0 [.g gd { c with md := BitVec.ofNat 64 (setFld c.md.toNat 0 5 0) }])
/-- CCLRT (R174). -/
def execCclrt (gd ga : GReg) (s : State) : Res := execCap gd ga (fun _ c => { c with tag := false }) s
/-- CREL (R174). -/
def execCrel (gd ga : GReg) (spec : Nat) (s : State) : Res :=
  execCap gd ga (fun _ c =>
    let a := setFld (setFld c.val.toNat 34 8 (fld spec 5 8)) 29 5 (fld spec 0 5)
    let r := c.moveTo a
    { r with tag := r.tag && mdHas c.md pREL }) s
/-- CABS (R174): the traps of R61. -/
def execCabs (gd ga : GReg) (s : State) : Res :=
  s.guarded colI (fun s =>
    let c := s.me.rg ga
    if c.tag && mdSeal c.md != 0 then s.trap causeSEAL c.val.toNat (capInfo 4 ga)
    else if !mdHas c.md pREL then s.issue colI 1 1 0 [.g gd { c with tag := c.tag && capValid c.val c.md }]
    else match cabsResult s c with
      | none => s.trap causePERM c.val.toNat (capInfo 4 ga)
      | some r => s.issue colI 1 1 0 [.g gd { r with tag := r.tag && capValid r.val r.md }])
/-- CTEST (R175). -/
def execCtest (t : CapTest) (qd : QReg) (ga : GReg) (gb : Option GReg) (s : State) : Res :=
  s.guarded colI (fun s =>
    let b := match gb with
      | some g => s.me.rg g
      | none => GVal.data 0
    s.issue colI 1 1 0 [.q qd (ctestHolds t (s.me.rg ga) b)])

end Sys2Proof.Machine
end

