-- ==== Sys2Proof/Machine/Control.lean ====
section
/-! DEFINITION. The control-flow instructions (R144 to R162), TRAP and ERET (R294 to R296), and RGN (R298). They run in
the sequencer. -/

namespace Sys2Proof.Machine

/-! ## Branches and calls (R146 to R148) -/

/-- The VCC at which the instruction in hand was dispatched. -/
def State.dispatchVc (s : State) : Nat := s.ent.planned - s.head.delay

/-- A redirect with its trace record (R461): type 1 branch, 2 call, 3 return. -/
def State.traceGo (s : State) (ty t : Nat) : State :=
  s.traceAtCommit (traceRec ty 0 (s.ent.pc % 65536) (t % 65536) s.dispatchVc)

/-- B and a taken BENG: entries whose body does not hold the target are popped (R146). -/
def State.branch (s : State) (t : Nat) : State :=
  let s := s.traceGo 1 t
  (s.modMe (fun k => { k with loops := popLoops t k.loops })).sRedirect [] t

/-- The PC of a code capability, or the cause of the trap (R147). -/
def codeTarget (c : GVal) : Except Nat Nat :=
  match capCheck c c.val.toNat 12 0 [pX] true with
  | some e => .error e
  | none =>
    let o := c.val.toNat % 2 ^ 20
    if o < 0x60000 ∨ 0x68000 ≤ o ∨ (o - 0x60000) % 12 ≠ 0 then .error causeALIGN else .ok ((o - 0x60000) / 12)

/-- The link entry capability for a PC (R148). -/
def linkEntry (pc : Nat) : GVal :=
  ⟨BitVec.ofNat 64 (0x60000 + 12 * pc), BitVec.ofNat 64 (0x2000000000100001 + 12 * pc * 2 ^ 25), true⟩

/-- BR, CALLR and RET: through a code capability in a register. -/
def State.throughCode (s : State) (g : GReg) (go : State → Nat → State) : State :=
  let c := s.me.rg g
  match codeTarget c with
  | .error e => s.trap e c.val.toNat (capInfo 4 g)
  | .ok t => go s t

/-- B (R146). -/
def execB (off : Int) (s : State) : Res := s.sGuarded (fun s => s.branch (pcWrap (s.ent.pc + off)))
/-- BR (R147, R148). -/
def execBr (gn : GReg) (s : State) : Res := s.sGuarded (fun s => s.throughCode gn State.branch)
/-- CALL (R148). -/
def execCall (off : Int) (s : State) : Res :=
  s.sGuarded (fun s =>
    let t := pcWrap (s.ent.pc + off)
    (s.traceGo 2 t).sRedirect [.g 1 (linkEntry (s.ent.pc + 1))] t)
/-- CALLR (R148): the old g1 is the target of CALLR g1. -/
def execCallr (gn : GReg) (s : State) : Res :=
  s.sGuarded (fun s => s.throughCode gn (fun s t => (s.traceGo 2 t).sRedirect [.g 1 (linkEntry (s.ent.pc + 1))] t))
/-- RET (R148): pops no loop entry. -/
def execRet (gn : GReg) (s : State) : Res :=
  s.sGuarded (fun s => s.throughCode gn (fun s t => (s.traceGo 3 t).sRedirect [] t))

/-! ## Loops (R149) -/

/-- LOOP and LOOPX. -/
def State.loopPush (s : State) (count : GImm) (endOff : Int) (xq : Option QReg) : State :=
  let k := s.me
  let pc := s.ent.pc
  let n := match count with
    | .reg g => (k.rgv g).toNat % 2 ^ 32
    | .imm v => v.toNat
  let e := pcWrap (pc + endOff)
  if 4 ≤ k.loops.length then s.trap causeILLEGAL 0 (3 * 16)
  else
    let inside := match k.loops.head? with
      | some top => decide (e ≤ top.stop)
      | none => true
    if !inside then s.trap causeILLEGAL 0 5
    else if n = 0 then s.sRedirect [] (e + 1)
    else (s.modMe (fun k => { k with loops := ⟨pc + 1, e, n, xq⟩ :: k.loops })).sDone []

/-- LOOP (R149). -/
def execLoop (count : GImm) (endOff : Int) (s : State) : Res := s.sGuarded (fun s => s.loopPush count endOff none)
/-- LOOPX (R149). -/
def execLoopx (qk : QReg) (count : GImm) (endOff : Int) (s : State) : Res :=
  s.sGuarded (fun s => s.loopPush count endOff (some qk))

/-! ## BENG (R152, R153) -/

/-- A slot as sampled in this clk: events of the last two clk are not seen. -/
def Core.sampled (k : Core) (clk : Nat) (d : DReg) : Nat :=
  let late := k.slotLog.filter (fun e => decide (clk ≤ e.1 + 1) && e.2.1 == d.val)
  k.slot d + late.countP (fun e => !e.2.2) - late.countP (fun e => e.2.2)

/-- The settings of an engine fault flag that a sample in this clk sees: one of the last two clk survives a clear. -/
def Core.seen (k : Core) (clk e : Nat) : List Nat := (mapGetD k.engFlags e []).filter (fun t => decide (t + 2 ≤ clk))
/-- An engine fault flag as sampled in this clk. -/
def Core.sampledFlag (k : Core) (clk e : Nat) : Bool := !(k.seen clk e).isEmpty

/-- A BENG: a branch when its sample holds. -/
def execBengOn (taken : State → Bool) (then_ : State → State) (off : Int) (s : State) : Res :=
  s.sGuarded (fun s => if taken s then (then_ s).branch (pcWrap (s.ent.pc + off)) else s.sDone [])

/-- BENG.Z (R153). -/
def execBengZ (dk : DReg) (off : Int) (s : State) : Res := execBengOn (fun s => s.me.sampled s.clk dk == 0) id off s
/-- BENG.NZ (R153). -/
def execBengNz (dk : DReg) (off : Int) (s : State) : Res := execBengOn (fun s => s.me.sampled s.clk dk != 0) id off s
/-- BENG.F (R153). -/
def execBengF (e off : Int) (s : State) : Res := execBengOn (fun s => s.me.sampledFlag s.clk e.toNat) id off s
/-- BENG.FC (R153). -/
def execBengFc (e off : Int) (s : State) : Res :=
  execBengOn (fun s => s.me.sampledFlag s.clk e.toNat) (fun s => s.landWr s.hand.core s.ent.serial (.engDel e.toNat (s.me.seen s.clk e.toNat))) off s

/-! ## Waiting, ending, stopping (R154 to R158) -/

/-- A slot that the instruction sets and frees in this clk (R144): two events, and the count unchanged. -/
def State.touchSlot (s : State) : State :=
  let d := s.head.set
  s.modMe (fun k => (k.slotInc s.clk d).slotDec s.clk d)

/-- NOP (R158). -/
def execNop (s : State) : Res := s.sGuarded (fun s => s.touchSlot.sDone [])
/-- WAIT (R154). -/
def execWait (dk : Option DReg) (s : State) : Res :=
  s.sGuarded (fun s =>
    let ok := match dk with
      | none => true
      | some d => s.me.waitMet s.ent.serial (1#8 <<< d.val)
    if ok then s.touchSlot.sDone [] else s.sHold false 1 0)
/-- WAIT.ALL (R154). -/
def execWaitAll (s : State) : Res :=
  s.sGuarded (fun s => if s.me.allQuiet then s.touchSlot.sDone [] else s.sHold false 1 0)

/-- The condition of EXIT (R155): older work committed, operations complete, stores acknowledged. -/
def Core.exitReady (k : Core) (serial : Nat) : Bool :=
  k.rob.all (fun r => decide (serial ≤ r.serial)) &&
    k.ops.all (fun o => match o.kind with
      | .walk .. => true
      | _ => false) &&
    k.descs.isEmpty && k.tops.isEmpty && k.vredq.isNone && k.released serial

/-- EXIT (R155): in a timed block it raises TIMING (R345). -/
def execExit (status : GImm) (s : State) : Res :=
  s.sGuarded (fun s =>
    if s.me.block.isSome then s.timing 0 4
    else if s.me.exitReady s.ent.serial then
      let v := (s.me.gimm status).toNat % 65536
      (s.sFinish []).endUnit s.hand.core .done v true
    else (s.modMe Core.startDrain).sHold false 1 0)

/-- A debug-stop record (R156, R392), when no debugger is attached. -/
def State.stopRecord (s : State) (c reason : Nat) : State :=
  let k := s.core c
  match k.ctx with
  | some x =>
    if fld k.dbg.ctl.toNat 3 1 = 1 then s
    else s.postEvent x 0x44 c (leBytes 2 k.dbg.pc ++ leBytes 1 reason ++ leBytes 5 0 ++ leBytes 8 s.now ++ leBytes 8 0)
  | none => s

/-- HALT (R156): a stop with reason HALT, to go on after it. -/
def execHalt (s : State) : Res :=
  s.sGuarded (fun s =>
    if s.me.block.isSome then s.timing 0 4
    else if s.me.allQuiet then
      let c := s.hand.core
      let s := s.sDone []
      (s.stopCore c 2 s.me.pc).stopRecord c 2
    else s.sHold false 1 0)

/-- The requests that end a SLEEP, as bits: a pre-emption, one that is forced, a cancel (R157). -/
def Pending.requests (p : Pending) : Nat :=
  (if p.preempt then 1 else 0) + (if p.forced then 2 else 0) + (if p.cancel then 4 else 0)
/-- Has a request come that did not stand among earlier ones? -/
def Pending.newSince (p : Pending) (old : Nat) : Bool := (List.range 3).any (fun i => p.requests.testBit i && !old.testBit i)

/-- SLEEP (R157): SLEEP_END ends it; the requests that stand when it begins are kept beside it. -/
def execSleep (n : GImm) (s : State) : Res :=
  s.sGuarded (fun s =>
    let v := match n with
      | .reg g => (s.me.rgv g).toNat % 2 ^ 32
      | .imm v => v.toNat
    if v = 0 then s.sDone [] else s.sWait false 9 (s.me.vcc + v) s.me.pend.requests none)

/-! ## Predicates (R159 to R162) -/

/-- The two-input functions of QOP and VMLOG (R160). -/
def qfn (f : QFn) (a b : Bool) : Bool :=
  match f with
  | .and => a && b
  | .or => a || b
  | .xor => a != b
  | .andn => a && !b
  | .orn => a || !b
  | .xnor => a == b
  | .nand => !(a && b)
  | .nor => !(a || b)

/-- QOP (R160). -/
def execQop (f : QFn) (qd qa qb : QReg) (s : State) : Res :=
  s.sGuarded (fun s => s.sDone [.q qd (qfn f (s.me.rq qa) (s.me.rq qb))])
/-- QMOV (R161). -/
def execQmov (qd qa : QReg) (s : State) : Res := s.sGuarded (fun s => s.sDone [.q qd (s.me.rq qa)])
/-- QMOV.G (R161). -/
def execQmovG (qd : QReg) (gn : GReg) (s : State) : Res := s.sGuarded (fun s => s.sDone [.q qd (s.me.rgv gn != 0)])
/-- QMOV.I (R161). -/
def execQmovI (qd : QReg) (v : Int) (s : State) : Res := s.sGuarded (fun s => s.sDone [.q qd (decide (v ≠ 0))])
/-- QRD (R162): n registers from qk, the first in bit 0. -/
def execQrd (gd : GReg) (qk : QReg) (n : Int) (s : State) : Res :=
  s.sGuarded (fun s =>
    let v := (List.range n.toNat).foldl
      (fun v i => if s.me.rq (Fin.ofNat 16 (qk.val + i)) then v + 2 ^ i else v) 0
    s.sDone [.g gd (GVal.data (BitVec.ofNat 64 v))])

/-! ## TRAP and ERET (R294 to R296) -/

/-- TRAP (R295): WAIT.ALL's wait, the release wait, then TRAP_SW with RESUME NEXT. -/
def execTrap (code : Int) (s : State) : Res :=
  s.sGuarded (fun s =>
    if s.me.allQuiet && s.me.released s.ent.serial then s.raise ⟨causeSW, 0, code.toNat, 2, false⟩
    else (s.modMe Core.startDrain).sHold false 1 0)

/-- The trap that stands in the trap registers. -/
def Core.standingTrap (k : Core) : Trap :=
  ⟨k.cf crTRAP_CAUSE 0 8, (k.cv crTRAP_ADDR).toNat, (k.cv crTRAP_INFO).toNat, k.cf crTRAP_CAUSE 10 2,
    k.cf crTRAP_CAUSE 13 1 == 1⟩

/-- TRAP.ESC (R295): escalates the trap record as it stands. -/
def execTrapEsc (s : State) : Res :=
  s.sGuarded (fun s =>
    if !s.me.priv then s.trap causePRIV 0 0
    else
      let c := s.hand.core
      let t := s.me.standingTrap
      let pc := s.me.cf crTRAP_PC 0 12
      let s := s.sFinish []
      let s := s.modMe (fun k => { k.diverge with block := none })
      s.escalate c t pc false)

/-- A unit that leaves its handler with RESUME NONE ends (R296). -/
def State.endByTrap (s : State) (c : Nat) : State :=
  if (s.core c).cf crTRAP_CAUSE 0 8 = causeCANCEL then s.endUnit c .cancelled 0xFFFE true
  else s.endUnit c .faulted 0xFFFF true

/-- A core of a FAULTED context whose RESUME waits as ERET does (R293, R296) goes on with a RESUME kind. -/
def State.resumeAsEret (s : State) (c kind : Nat) : State :=
  let s := s.modCore c (fun k => { k with held := none })
  if kind = 3 then s.endByTrap c else s.modCore c (fun k => k.returnTrap kind)

/-- ERET and ERET.RGN (R296): PRIV at user level, ILLEGAL outside a handler, WAIT.ALL's wait, then the return. -/
def State.eret (s : State) (rgn : Bool) : State :=
  let k := s.me
  if !k.priv then s.trap causePRIV 0 0
  else if !k.active then s.trap causeILLEGAL 0 0
  else if !k.allQuiet then s.sHold false 1 0
  else
    let resume := k.cf crTRAP_CAUSE 10 2
    let kind := if rgn ∧ resume ≠ 3 then 0 else resume
    let s := s.sFinish []
    if kind = 3 then s.endByTrap s.hand.core
    else
      let s := s.modMe (fun k =>
        let k := if rgn ∧ k.cf crTRAP_CAUSE 0 8 = causePENGINE ∧ k.cf crRPR 31 1 = 1 then k.setCv crRPR 0 else k
        k.returnTrap kind)
      s.traceAtCommit (traceRec 5 kind (s.ent.pc % 65536) (s.me.pc % 65536) s.dispatchVc)

/-- ERET (R296). -/
def execEret (s : State) : Res := s.sGuarded (fun s => s.eret false)
/-- ERET.RGN (R296). -/
def execEretRgn (s : State) : Res := s.sGuarded (fun s => s.eret true)

/-! ## RGN (R298, R299) -/

/-- RGN (R298): the record it makes takes force at its commit. -/
def execRgn (desc : Int) (s : State) : Res :=
  s.sGuarded (fun s =>
    let k := s.me
    let c := s.hand.core
    let i := desc.toNat
    let s := s.coreRead c (descKey c i) 16 (0x60000 + 16 * i) 3
    let bs := s.memLoad (descKey c i) 16
    let at_ (n m : Nat) : Nat := leNat ((bs.drop n).take m)
    if k.block.isSome then s.trap causeILLEGAL 0 0
    else if at_ 14 2 ≠ 0 ∨ 16 ≤ at_ 12 1 ∨ 4 ≤ at_ 13 1 then s.trap causeILLEGAL 0 (1 * 16 + 4)
    else if k.streams.any (fun p => fld (at_ 8 4) (24 + p.1) 1 == 1) then s.trap causeILLEGAL 0 (4 * 16 + 4)
    else
      let r : RegionRec := ⟨i, s.ent.pc, at_ 13 1, k.loops, []⟩
      (s.modMe (fun k => k.modRob s.ent.serial (fun x => { x with region := some r }))).sDone [])

end Sys2Proof.Machine
end

