-- ==== Sys2Proof/Machine/VectorOps.lean ====
section
/-! DEFINITION. What the V and X columns share (R190 to R194, R215 to R218): vector operands in registers, streams and
memory, masks, the steps of a stream-run instruction, and the placing of results. A step that raises a trap is the
`error` of its result, with the state after the trap. -/

namespace Sys2Proof.Machine

/-- FORMAT at an operand (R290): its field, the tag found and the format expected. -/
def State.formatTrap (s : State) (field : Nat) (found want : Fmt) : State :=
  s.trap causeFORMAT 0 (field + 16 * fmtCode found + 256 * fmtCode want)

/-! ## Memory reached by a vector operand (R192) -/

/-- A piece of an access that lies in one page: its place in the access, mesh key, length, absent-fill. -/
structure Piece where
  at_ : Nat
  key : Nat
  len : Nat
  af  : Bool
  deriving DecidableEq, Repr

/-- The pieces of an access at va, from its parts. -/
def piecesOf (va : Nat) (ps : List CPiece) : List Piece := ps.map (fun p => ⟨p.va.getD va - va, keyOf p.phys, p.len, p.af⟩)

/-- Reads through absent-fill pages give the absent code of a format, or zero bytes for NONE and MASK (R322). -/
def State.fillByte (s : State) (f : Fmt) (p : Piece) (i : Nat) : Byte :=
  if p.af && !s.writtenAt (p.key + i) then
    let wb := fmtWidth f / 8
    if wb = 0 then 0 else BitVec.ofNat 8 (absentCode f / 256 ^ ((p.at_ + i) % wb))
  else memGet s.mem (p.key + i)

/-- The bytes of an access. -/
def State.readPieces (s : State) (f : Fmt) (l : List Piece) : List Byte :=
  l.flatMap (fun p => (List.range p.len).map (s.fillByte f p))

/-- The writes of an access. -/
def writePieces (l : List Piece) (bytes : List Byte) : List Wr :=
  l.map (fun p => .mem p.key ((bytes.drop p.at_).take p.len) none)

/-- The bank of a key for R39: 0 to 2 in the scratchpad, 3 in weight SRAM. -/
def bankOfKey (key : Nat) : Nat := bankOf (offOf key)

/-- Where a vector access may not go (R192). -/
def State.vRefuses (s : State) (p : CPiece) : Option Nat :=
  if !s.isOwn s.hand.core p.phys then some causePERM
  else if 2 ≤ offKind s.hand.core (offOf p.phys) then some causeALIGN
  else none

/-- A vector access of n bytes at x through a capability: its pieces and the clk its translation adds. -/
def State.vAccess (s : State) (cap : GVal) (field : Nat) (g : GReg) (x n align : Nat) (rd wr : Bool) :
    VRes (Nat × List Piece) :=
  match s.rangeSide cap field g x n align rd wr ((if rd then [pR] else []) ++ (if wr then [pW] else [])) causePLOAD s.vRefuses with
  | .error t => .error t
  | .ok (s, w, ps) =>
    match s.meetRange ps rd wr with
    | some t => .error t
    | none => .ok (s, w, piecesOf ((ps.head?.bind CPiece.va).getD x) ps)

/-- A vector read's side effects and bytes: errors met, armed lines cleared. -/
def State.vReadPieces (s : State) (f : Fmt) (va : Nat) (ps : List Piece) : State × List Byte :=
  let bytes := s.readPieces f ps
  (ps.foldl (fun s p => (s.coreRead s.hand.core p.key p.len (va + p.at_) 1).disarm p.key p.len) s, bytes)

/-! ## What a step leaves behind -/

/-- What one step makes, besides what the state already holds: the writes that land with its result, those that land in
the next vc, its flags, the clk of its translations, the banks it reads, the banks its result goes to, the banks its memory
operands count in (R39), and how many accesses span two banks. -/
structure StepOut where
  wrs   : List Wr
  next  : List Wr
  flags : Nat
  wait  : Nat
  reads : List Nat
  puts  : List Nat
  named : List Nat
  spans : Nat
  deriving DecidableEq, Repr

def StepOut.empty : StepOut := ⟨[], [], 0, 0, [], [], [], 0⟩
/-- Two parts of a step together. -/
def StepOut.join (a b : StepOut) : StepOut :=
  ⟨a.wrs ++ b.wrs, a.next ++ b.next, a.flags ||| b.flags, a.wait + b.wait, a.reads ++ b.reads, a.puts ++ b.puts,
    a.named ++ b.named, a.spans + b.spans⟩

/-- The penalty of R39: one clk for two operands in one bank, two for three, one for an access over two banks. -/
def StepOut.penalty (o : StepOut) : Nat :=
  let m := (List.range 4).foldl (fun m b => max m (o.named.countP (· == b))) 0
  (m - 1) + o.spans

/-- The bank of byte i of an access. -/
def bankAtByte (ps : List Piece) (i : Nat) : Option Nat :=
  (ps.find? (fun p => decide (p.at_ ≤ i) && decide (i < p.at_ + p.len))).map (fun p => bankOfKey (p.key + (i - p.at_)))

/-- How many of the 128-byte accesses of n bytes span two banks (R192)? -/
def spans (ps : List Piece) (n : Nat) : Nat :=
  (List.range (n / 128)).countP (fun j => bankAtByte ps (128 * j) != bankAtByte ps (128 * j + 127))

/-- The banks of the bytes of accesses. -/
def banksOf (ps : List Piece) : List Nat := (ps.flatMap (fun p => [bankOfKey p.key, bankOfKey (p.key + p.len - 1)])).eraseDups

/-- The bank of the first byte of an access. -/
def firstBank (ps : List Piece) : List Nat :=
  match ps with
  | p :: _ => [bankOfKey p.key]
  | [] => []

/-- The bank in which an address counts (R197): that of the place it resolves to, when that is in a bank of this core. -/
def State.bankOfVa (s : State) (cap : GVal) (x : Nat) : List Nat :=
  match s.relResolve cap x, s.me.ctx with
  | some va, some ctx =>
    let leaf := match tlbFind s.me.tlb va with
      | some (_, t) => Except.ok (t.leaf.toNat, t.size)
      | none => s.walk ctx va
    match leaf with
    | .ok (l, size) =>
      (match leafReach l va size false false with
        | .ok r => if s.isOwn s.hand.core r.phys && decide (offKind s.hand.core (offOf r.phys) ≤ 1) then [bankOf (offOf r.phys)] else []
        | .error _ => [])
    | .error _ => []
  | _, _ => []

/-! ## Masks -/

/-- The element mask of the instruction in hand: the bits, none where every element is written, and the flags of its read
(R67, R116). -/
def State.maskOf (s : State) : VRes (Option VBits × Nat) :=
  match s.head.guard with
  | .elem v =>
    let x := s.me.rv v
    if x.fmt ≠ .mask then .error (s.formatTrap 2 x.fmt .mask)
    else .ok (s, some x.bits, flagIf (s.me.vExpired v) flagEXP)
  | _ => .ok (s, none, 0)

/-- Is element i written? -/
def maskOn (m : Option VBits) (i : Nat) : Bool :=
  match m with
  | some b => b.getLsbD i
  | none => true

/-! ## Streams (R216) -/

def Stream.exhausted (t : Stream) : Bool := t.i2 == t.n2 || t.n0 == 0 || t.n1 == 0
/-- Elements that are left. -/
def Stream.left (t : Stream) : Nat := if t.exhausted then 0 else t.n0 * t.n1 * t.n2 - (t.i0 + t.n0 * (t.i1 + t.n1 * t.i2))
/-- The next position. -/
def Stream.step (t : Stream) : Stream :=
  if t.exhausted then t
  else if t.i0 + 1 < t.n0 then { t with i0 := t.i0 + 1 }
  else if t.i1 + 1 < t.n1 then { t with i0 := 0, i1 := t.i1 + 1 }
  else { t with i0 := 0, i1 := 0, i2 := t.i2 + 1 }
/-- The address of the element it stands at. -/
def Stream.addr (t : Stream) : Nat := wrap 64 ((t.cap.val.toNat : Int) + t.i0 * t.s0 + t.i1 * t.s1 + t.i2 * t.s2)
/-- The addresses of the next n elements, and the stream after them. -/
def Stream.take (t : Stream) : Nat → List Nat × Stream
  | 0 => ([], t)
  | n + 1 => if t.exhausted then ([], t) else let (l, u) := t.step.take n; (t.addr :: l, u)

/-- The configured stream of an operand, with its format checked (R191). -/
def State.streamOf (s : State) (k : SReg) (f : Fmt) (field : Nat) : VRes Stream :=
  match mapGet s.me.streams k.val with
  | none => .error (s.formatTrap field .noFmt f)
  | some t => if t.fmt = f then .ok (s, t) else .error (s.formatTrap field t.fmt f)

/-- Checks the elements of a stream at addresses, in order: the pieces of each, and the clk they add. -/
def State.streamAccess (s : State) (t : Stream) (field w : Nat) (rd wr : Bool) (l : List Nat) :
    VRes (Nat × List (List Piece)) :=
  l.foldl
    (fun (acc : VRes (Nat × List (List Piece))) a =>
      match acc with
      | .error e => .error e
      | .ok (s, n, ps) =>
        match s.vAccess t.cap field 0 a (w / 8) (w / 8) rd wr with
        | .error e => .error e
        | .ok (s, m, p) => .ok (s, n + m, ps ++ [p])) (.ok (s, 0, []))

/-! ## Operands of one step (R191) -/

/-- The number a list of bytes holds for each element. -/
def elemsOfBytes (w : Nat) (l : List Byte) : List Nat := elems (vOfBytes l) w

/-- Reads a vector operand in format f: its elements and what the read leaves. -/
def State.vOperand (s : State) (f : Fmt) (field : Nat) (op : VSM) : VRes (List Nat × StepOut) :=
  let w := fmtWidth f
  match op with
  | .v r =>
    let x := s.me.rv r
    if x.fmt ≠ f then .error (s.formatTrap field x.fmt f)
    else .ok (s, elems x.bits w, { StepOut.empty with flags := flagIf (s.me.vExpired r) flagEXP })
  | .s k =>
    match s.streamOf k f field with
    | .error e => .error e
    | .ok (s, t) =>
      let n := fmtCount f
      if t.wr then .ok (s, List.replicate n (absentCode f), StepOut.empty)
      else
        let (l, t') := t.take n
        match s.streamAccess t field w true false l with
        | .error e => .error e
        | .ok (s, m, ps) =>
          let (s, es) := ps.foldl
            (fun (acc : State × List Nat) p =>
              let (s, b) := acc.1.vReadPieces f 0 p
              (s, acc.2 ++ [leNat b])) (s, [])
          let nx := if l.isEmpty then [] else [Wr.stream k (some t')]
          .ok (s, es ++ List.replicate (n - es.length) (absentCode f),
            { StepOut.empty with next := nx, wait := m, reads := banksOf ps.flatten, named := firstBank (ps.headD []) })
  | .m m =>
    let x := s.me.memAddr m 128
    match s.vAccess (s.me.rg m.g) field m.g x 128 (w / 8) true false with
    | .error e => .error e
    | .ok (s, n, ps) =>
      let (s, b) := s.vReadPieces f x ps
      .ok (s, elemsOfBytes w b,
        { StepOut.empty with next := s.me.postInc m 128, wait := n, reads := banksOf ps, named := firstBank ps, spans := spans ps 128 })

/-- Reads several operands, each with its field. -/
def State.vOperands (s : State) (f : Fmt) : List (Nat × VSM) → VRes (List (List Nat) × StepOut)
  | [] => .ok (s, [], StepOut.empty)
  | (field, op) :: rest =>
    match s.vOperand f field op with
    | .error e => .error e
    | .ok (s, x, o) =>
      match s.vOperands f rest with
      | .error e => .error e
      | .ok (s, xs, p) => .ok (s, x :: xs, o.join p)

/-! ## Results (R102, R191, R193, R194) -/

/-- The expiry that the L bit gives a v destination (R42). -/
def State.lExpiry (s : State) : Expiry := if s.head.short then .fresh else .never

/-- The bits of the elements that keep what a register holds: masked off under undisturbed policy. -/
def keepBits (w n : Nat) (mask : Option VBits) (policy : Bool) : VBits :=
  match mask with
  | none => 0
  | some b => if policy then 0 else packElems w ((List.range n).map (fun i => if b.getLsbD i then 0 else 2 ^ w - 1))

/-- Elements with those masked off absent. -/
def maskElems (f : Fmt) (mask : Option VBits) (l : List Nat) : List Nat :=
  match mask with
  | none => l
  | some b => (l.zipIdx).map (fun p => if b.getLsbD p.2 then p.1 else absentCode f)

/-- The write of a v destination. -/
def State.vWrite (s : State) (r : VReg) (f : Fmt) (mask : Option VBits) (policy : Bool) (l : List Nat) : Wr :=
  .v r f (packElems (fmtWidth f) (maskElems f mask l)) (keepBits (fmtWidth f) l.length mask policy) 0 s.lExpiry

/-- The write of a MASK destination: bits at and above n are 0 (R202). -/
def State.vWriteMask (s : State) (r : VReg) (mask : Option VBits) (policy : Bool) (l : List Bool) : Wr :=
  let bit (p : Bool × Nat) : Nat := if p.1 && maskOn mask p.2 then 1 else 0
  .v r .mask (packElems 1 ((l.zipIdx).map bit)) (keepBits 1 l.length mask policy) 0 s.lExpiry

/-- Places result elements in a destination operand of format f (R102, R194). -/
def State.vPlace (s : State) (f : Fmt) (d : VSM) (mask : Option VBits) (policy : Bool) (l : List Nat) : VRes StepOut :=
  let w := fmtWidth f
  match d with
  | .v r => .ok (s, { StepOut.empty with wrs := [s.vWrite r f mask policy l] })
  | .s k =>
    match s.streamOf k f 3 with
    | .error e => .error e
    | .ok (s, t) =>
      if !t.wr then .ok (s, StepOut.empty)
      else
        let (as, t') := t.take l.length
        match s.streamAccess t 3 w false true as with
        | .error e => .error e
        | .ok (s, m, ps) =>
          let vals := maskElems f mask l
          let wrs := (ps.zip vals).flatMap (fun p => writePieces p.1 (leBytes (w / 8) p.2))
          let nx := if as.isEmpty then [] else [Wr.stream k (some t')]
          .ok (s, { StepOut.empty with wrs := wrs, next := nx, wait := m, puts := banksOf ps.flatten, named := firstBank (ps.headD []) })
  | .m m =>
    let x := s.me.memAddr m 128
    match s.vAccess (s.me.rg m.g) 3 m.g x 128 (w / 8) false true with
    | .error e => .error e
    | .ok (s, n, ps) =>
      let bytes := bytesOfV (packElems w (maskElems f mask l))
      let wrs :=
        if mask.isNone ∨ policy then writePieces ps bytes
        else
          -- undisturbed: only the elements that the mask selects are written
          (List.range l.length).flatMap (fun i =>
            if maskOn mask i then
              ps.flatMap (fun p =>
                let a := i * (w / 8)
                if p.at_ ≤ a ∧ a < p.at_ + p.len then
                  [Wr.mem (p.key + (a - p.at_)) ((bytes.drop a).take (w / 8)) none]
                else [])
            else [])
      .ok (s, { StepOut.empty with wrs := wrs, next := s.me.postInc m 128, wait := n, puts := banksOf ps, named := firstBank ps,
                                   spans := spans ps 128 })

/-- The union of the flags of elements that the mask selects. -/
def maskFlags (mask : Option VBits) (l : List Nat) : Nat :=
  (l.zipIdx).foldl (fun f p => if maskOn mask p.2 then f ||| p.1 else f) 0

/-! ## Issue and steps (R41, R217) -/

/-- An access of X is deferred by one clk when V uses its bank in this clk (R222). -/
def Core.deferOf (k : Core) (col : Nat) (o : StepOut) : Nat :=
  if col = colV then 0 else if o.reads.any (fun b => k.bankUse.contains (k.vcc, b)) then 1 else 0

/-- The uses of banks by a step of V or X: of what it reads until its penalties are over, of its result after `lat`. -/
def Core.useBanks (k : Core) (col lat pen : Nat) (o : StepOut) : Core :=
  let n := if col = colX then 4 else 0
  { k with bankUse := k.bankUse ++ o.reads.flatMap (fun b => (List.range (pen + 1)).map (fun i => (k.vcc + i, n + b))) ++
      o.puts.map (fun b => (k.vcc + lat, n + b)) }

/-- Memory as an access that is served n vc later finds it (R193): with what this core's columns write to it by then, those
before the column in that vc too. -/
def State.ahead (s : State) (col n : Nat) : State :=
  let u := s.me.vcc + n
  s.me.landings.foldl
    (fun s l => match l.wr with
      | .mem key b t => if l.due ≤ u then s.memStore key b t else s
      | .xput key b _ => if l.due < u ∨ (l.due = u ∧ col = colX) then s.memStore key b none else s
      | .st key b t _ => if l.due < u then s.memStore key b t else s
      | _ => s) s

/-- What a step makes when its reads are served `pen` vc late. -/
def State.served (s : State) (col pen : Nat) (step : State → VRes StepOut) (o : StepOut) : StepOut :=
  if pen = 0 then o
  else match step (s.ahead col pen) with
    | .ok (_, p) => p
    | .error _ => o

/-- What a step leaves lands: `last` frees the slot and marks the instruction done. -/
def State.stepLands (s : State) (col lat pen : Nat) (slot : Option DReg) (last : Bool) (o : StepOut) : State :=
  let e := s.ent
  let put (w : Wr) : Wr := match w with
    | .mem key b _ => if col = colX then .xput key b true else w
    | _ => w
  let wrs := o.wrs.map put
  s.modMe (fun k =>
    let k := (k.clearWatchSkip.useBanks col lat pen o).addFlags e.serial o.flags
    let k := o.next.foldl (fun k w => k.landAt e.serial 1 w) k
    if last then (k.qVisible e.serial (k.vcc + lat + 1)).land e.serial lat slot wrs
    else wrs.foldl (fun k w => k.landAt e.serial lat w) k)

/-- Issues a vector instruction of one step: its result lands after `lat`, its column is occupied for `occ`, and both grow
with penalties (R39), deferrals and translation. -/
def State.vOne (s0 : State) (col lat occ : Nat) (step : State → VRes StepOut) : State :=
  match step s0 with
  | .error t => t
  | .ok (s, o) =>
    match s.waitClk o.wait with
    | (s, _, true) => s
    | (s, w, false) =>
      let pen := o.penalty + s.me.deferOf col o
      let o := s0.served col pen step o
      let s := s.modMe (fun k => ((k.slotInc s.clk s.head.set).occupy col (occ + w + o.penalty)).allow col o.penalty)
      s.stepLands col (lat + w + pen) pen s.head.set true o

/-- Does a v register that is read now lie in a bank that is refreshed (R41)? -/
def State.refreshBusy (s : State) (regs : List VReg) : Bool :=
  let regs := match s.head.guard with
    | .elem v => v :: regs
    | _ => regs
  regs.any s.me.refreshing

/-- Issues a V or X instruction: under its q guard, and one clk later when a register it reads is being refreshed. -/
def State.vGuarded (s : State) (col : Nat) (regs : List VReg) (body : State → State) (occ : Nat := 1) : Res :=
  .next (if !s.me.guardOk s.head.guard then s.skip col occ
    else if s.refreshBusy regs then (s.modMe (fun k => k.allow col 1)).requeue col
    else body s)

/-- The v registers among operands. -/
def vregsOf (l : List VSM) : List VReg :=
  l.filterMap (fun o => match o with
    | .v r => some r
    | _ => none)

/-- The vectors left in a stream operand, for elements of format f. -/
def Core.vecsLeft (k : Core) (f : Fmt) (o : VSM) : Option Nat :=
  match o with
  | .s r =>
    match mapGet k.streams r.val with
    | some t => some ((t.left + fmtCount f - 1) / fmtCount f)
    | none => some 0
  | _ => none

/-- The number of steps of a stream-run instruction. -/
def Core.runSteps (k : Core) (f : Fmt) (ops : List VSM) : Nat :=
  match ops.filterMap (k.vecsLeft f) with
  | [] => 0
  | x :: l => l.foldl min x

/-- The record of the run of the instruction in hand, if it is between two steps. -/
def State.runOf (s : State) (col : Nat) : Option StreamRun :=
  match mapGet s.me.runs col with
  | some r => if r.serial = s.ent.serial then some r else none
  | none => none

/-- What a trap in a later step leaves: memory written by the steps before it stays (R217). -/
def Core.keepSteps (k : Core) (serial : Nat) : Core :=
  k.keepWrites (fun e => e.serial == serial && (match e.wr with
    | .mem .. => true
    | .xput .. => true
    | _ => false))

/-- One step of a stream-run instruction. `step` is given the running result and count, and answers them with what it
leaves; `fin` gives the writes of the last step's running result. With no vector left it does nothing (R217). -/
def State.vRun (s : State) (col lat total : Nat) (init : Int × Nat)
    (step : State → Int × Nat → VRes (StepOut × (Int × Nat))) (fin : Int × Nat → List Wr × Nat) : State :=
  let r : StreamRun := match s.runOf col with
    | some r => r
    | none => ⟨s.ent.serial, 0, total, s.head.set, init.1, init.2⟩
  if r.total = 0 then s.issue col lat 1 0 []
  else
    let s0 := s
    match step s (r.val, r.cnt) with
    | .error t =>
      if r.step = 0 then t
      else match step (s.modMe (fun k => k.keepSteps s.ent.serial)) (r.val, r.cnt) with
        | .error t => t
        | .ok (t, _) => t
    | .ok (s, o, acc) =>
      match s.waitClk o.wait with
      | (s, _, true) => s
      | (s, w, false) =>
        let pen := o.penalty + s.me.deferOf col o
        let (o, acc) :=
          if pen = 0 then (o, acc)
          else match step (s0.ahead col pen) (r.val, r.cnt) with
            | .ok (_, p, a) => (p, a)
            | .error _ => (o, acc)
        let first := r.step = 0
        let last := r.step + 1 = r.total
        let s := s.modMe (fun k =>
          ((if first then k.slotInc s.clk s.head.set else k).occupy col (1 + w + o.penalty)).allow col o.penalty)
        let o' := if last then { o with wrs := o.wrs ++ (fin acc).1, flags := o.flags ||| (fin acc).2 } else o
        let s := s.stepLands col (lat + w + pen) pen r.slot last o'
        if last then s
        else
          let e := s.ent
          let h := { e.head with wait := 0, set := none, guard := match e.head.guard with
            | .elem v => .elem v
            | _ => .always }
          s.modMe (fun k =>
            let e' := { e with head := h, planned := k.vcc + 1 + w + o.penalty }
            { k.setQueueOf col (e' :: k.queueOf col) with
                runs := mapPut k.runs col ⟨r.serial, r.step + 1, r.total, r.slot, acc.1, acc.2⟩ })

/-- Issues an element-wise instruction of one step or of a stream run: `step` makes one step. It reads `srcs`, and its
destination in `ops` may be a stream too. -/
def State.vSteps (s : State) (col lat : Nat) (f : VFn) (srcs ops : List VSM) (step : State → VRes StepOut) : Res :=
  s.vGuarded col (vregsOf srcs) (fun s =>
    if f.stream then
      s.vRun col lat (s.me.runSteps f.fmt ops) (0, 0)
        (fun s acc => match step s with
          | .error t => .error t
          | .ok (s, o) => .ok (s, o, acc)) (fun _ => ([], 0))
    else s.vOne col lat 1 step)
    (if f.stream then max 1 (s.me.runSteps f.fmt ops) else 1)

/-- One step of an element-wise instruction: sources in format f, result elements in the same format placed in d. `fn` is
given an element of each source and answers the pattern and its flags. A destination that is a source too counts once for R39. -/
def State.vMap (s : State) (f : VFn) (d : VSM) (srcs : List (Nat × VSM)) (fn : List Nat → Nat × Nat) :
    Except State (State × StepOut) := do
  let (s, mask, mf) ← s.maskOf
  let (s, xs, o) ← s.vOperands f.fmt srcs
  let rs := (List.range (fmtCount f.fmt)).map (fun i => fn (xs.map (fun l => l.getD i 0)))
  let (s, p) ← s.vPlace f.fmt d mask f.policy (rs.map (·.1))
  let p := if srcs.any (fun x => x.1 == 3) then { p with named := [], spans := 0 } else p
  return (s, { (o.join p) with flags := o.flags ||| mf ||| maskFlags mask (rs.map (·.2)) })

/-- An element-wise instruction. -/
def execMap (col lat : Nat) (f : VFn) (d : VSM) (srcs : List (Nat × VSM)) (fn : List Nat → Nat × Nat) (s : State) : Res :=
  s.vSteps col lat f (srcs.map (·.2)) (d :: srcs.map (·.2)) (fun s => s.vMap f d srcs fn)

/-- One step of an instruction that writes a MASK register. -/
def State.vMapMask (s : State) (f : VFn) (d : VReg) (srcs : List (Nat × VSM)) (fn : List Nat → Bool × Nat) :
    Except State (State × StepOut) := do
  let (s, mask, mf) ← s.maskOf
  let (s, xs, o) ← s.vOperands f.fmt srcs
  let rs := (List.range (fmtCount f.fmt)).map (fun i => fn (xs.map (fun l => l.getD i 0)))
  return (s, { o with wrs := [s.vWriteMask d mask f.policy (rs.map (·.1))],
                      flags := o.flags ||| mf ||| maskFlags mask (rs.map (·.2)) })

end Sys2Proof.Machine
end

