-- ==== Sys2Proof/Machine/Vector.lean ====
section
/-! DEFINITION. The element-wise vector instructions (R199 to R206, R211 to R214, R219, R220): arithmetic, bits, compare,
presence, conversion, permutation, masks, the block add and hash values. -/

namespace Sys2Proof.Machine

/-! ## Arithmetic (R99, R199, R200) -/

/-- Rounds an exact result into a format, with the SAT modifier. -/
def vRound (f : VFn) (r : Num × Nat) : Nat × Nat :=
  let (x, g) := writeElem f.fmt false f.sat r.1
  (x, r.2 ||| g)

/-- A two-source operation under R99; a signalling NaN beside an absent element sets INV (R81). What P = 1 passes is unchanged,
a NaN too (log entry 31). -/
def vArith2 (f : VFn) (op : Num → Num → Num × Nat) : List Nat → Nat × Nat
  | [a, b] =>
    let sig := sigFlags [readElem f.fmt a, readElem f.fmt b]
    match elemAbsent f.fmt a, elemAbsent f.fmt b with
    | true, true => (absentCode f.fmt, 0)
    | true, false => (if f.pass then b else absentCode f.fmt, sig)
    | false, true => (if f.pass then a else absentCode f.fmt, sig)
    | false, false => vRound f (op (readElem f.fmt a) (readElem f.fmt b))
  | _ => (0, 0)

/-- VABS and VNEG on one element (R200). -/
def vSign (f : Fmt) (neg : Bool) (a : Nat) : Nat × Nat :=
  if elemAbsent f a then (absentCode f, 0)
  else
    let x := readElem f a
    let y : Num := if neg then x.negate else match x with
      | .inf _ => .inf false
      | .fin _ n d => .fin false n d
      | y => y
    ((writeElem f false false y).1, x.sigFlag)

/-- a·b + c under R99; `sub` negates c first. -/
def vFused (f : VFn) (sub : Bool) : List Nat → Nat × Nat
  | [a, b, c] =>
    let (c, cf) := if sub then vSign f.fmt true c else (c, 0)
    let prod := !elemAbsent f.fmt a && !elemAbsent f.fmt b
    let have_c := !elemAbsent f.fmt c
    let sig := cf ||| sigFlags [readElem f.fmt a, readElem f.fmt b, readElem f.fmt c]
    let (x, g) :=
      if prod && have_c then vRound f (numFma (readElem f.fmt a) (readElem f.fmt b) (readElem f.fmt c))
      else if f.pass && prod then vRound f (numMul (readElem f.fmt a) (readElem f.fmt b))
      else (if f.pass && have_c then c else absentCode f.fmt, 0)
    (x, g ||| sig)
  | _ => (0, 0)

/-- A one-source element function. -/
def on1 (fn : Nat → Nat × Nat) : List Nat → Nat × Nat
  | [a] => fn a
  | _ => (0, 0)

/-- A two-source element function without flags. -/
def on2 (fn : Nat → Nat → Nat) : List Nat → Nat × Nat
  | [a, b] => (fn a b, 0)
  | _ => (0, 0)

/-- VADD (R199). -/
def execVadd (f : VFn) (d a b : VSM) (s : State) : Res := execMap colV 4 f d [(4, a), (5, b)] (vArith2 f numAdd) s
/-- VSUB (R199). -/
def execVsub (f : VFn) (d a b : VSM) (s : State) : Res := execMap colV 4 f d [(4, a), (5, b)] (vArith2 f numSub) s
/-- VMUL (R199). -/
def execVmul (f : VFn) (d a b : VSM) (s : State) : Res := execMap colV 4 f d [(4, a), (5, b)] (vArith2 f numMul) s
/-- VMIN (R199). -/
def execVmin (f : VFn) (d a b : VSM) (s : State) : Res :=
  execMap colV 4 f d [(4, a), (5, b)] (vArith2 f (numMinMax false)) s
/-- VMAX (R199). -/
def execVmax (f : VFn) (d a b : VSM) (s : State) : Res :=
  execMap colV 4 f d [(4, a), (5, b)] (vArith2 f (numMinMax true)) s
/-- VFMA (R199): the old destination is the addend. -/
def execVfma (f : VFn) (d a b : VSM) (s : State) : Res :=
  execMap colV 4 f d [(4, a), (5, b), (3, d)] (vFused f false) s
/-- VFMS (R199). -/
def execVfms (f : VFn) (d a b : VSM) (s : State) : Res :=
  execMap colV 4 f d [(4, a), (5, b), (3, d)] (vFused f true) s
/-- VABS (R200). -/
def execVabs (f : VFn) (d a : VSM) (s : State) : Res := execMap colV 4 f d [(4, a)] (on1 (vSign f.fmt false)) s
/-- VNEG (R200). -/
def execVneg (f : VFn) (d a : VSM) (s : State) : Res := execMap colV 4 f d [(4, a)] (on1 (vSign f.fmt true)) s

/-! ## Bits (R100, R201) -/

/-- VAND (R201). -/
def execVand (f : VFn) (d a b : VSM) (s : State) : Res := execMap colV 1 f d [(4, a), (5, b)] (on2 (· &&& ·)) s
/-- VOR (R201). -/
def execVor (f : VFn) (d a b : VSM) (s : State) : Res := execMap colV 1 f d [(4, a), (5, b)] (on2 (· ||| ·)) s
/-- VXOR (R201). -/
def execVxor (f : VFn) (d a b : VSM) (s : State) : Res := execMap colV 1 f d [(4, a), (5, b)] (on2 (· ^^^ ·)) s
/-- VNOT (R201). -/
def execVnot (f : VFn) (d a : VSM) (s : State) : Res :=
  execMap colV 1 f d [(4, a)] (on1 (fun x => (2 ^ fmtWidth f.fmt - 1 - x, 0))) s

/-- A shift of one element of width w (R201). -/
def shiftElem (w : Nat) (left arith : Bool) (a n : Nat) : Nat :=
  if left then a * 2 ^ n % 2 ^ w else if arith then wrap w (sext w a / 2 ^ n) else a / 2 ^ n

/-- VSHL, VSHR and VSRA: the amount is an element modulo w, or the immediate. -/
def execShift (left arith : Bool) (f : VFn) (d a : VSM) (b : VSMI) (s : State) : Res :=
  let w := fmtWidth f.fmt
  let by_ (o : VSM) : Res := execMap colV 1 f d [(4, a), (5, o)] (on2 (fun x n => shiftElem w left arith x (n % w))) s
  match b with
  | .v r => by_ (.v r)
  | .s r => by_ (.s r)
  | .m m => by_ (.m m)
  | .imm n => execMap colV 1 f d [(4, a)] (on1 (fun x => (shiftElem w left arith x n.toNat, 0))) s

/-- VSHL (R201). -/
def execVshl (f : VFn) (d a : VSM) (b : VSMI) (s : State) : Res := execShift true false f d a b s
/-- VSHR (R201). -/
def execVshr (f : VFn) (d a : VSM) (b : VSMI) (s : State) : Res := execShift false false f d a b s
/-- VSRA (R201). -/
def execVsra (f : VFn) (d a : VSM) (b : VSMI) (s : State) : Res := execShift false true f d a b s

/-! ## Compare, select, presence (R202 to R204) -/

/-- The conditions of VCMP on two elements, and the flags (R101, R202). -/
def vCompare (f : Fmt) (c : Nat) : List Nat → Bool × Nat
  | [a, b] =>
    let x := readElem f a
    let y := readElem f b
    let un := x.isNan || y.isNan
    let r := match c with
      | 0 => !un && numEq x y
      | 1 => !un && numLt x y
      | 2 => !un && (numLt x y || numEq x y)
      | 3 => un
      | 4 => !un && !numEq x y
      | 5 => !un && numLt y x
      | _ => !un && (numLt y x || numEq x y)
    (r && !x.isAbsent && !y.isAbsent, x.sigFlag ||| y.sigFlag)
  | _ => (false, 0)

/-- VCMP (R202). -/
def execVcmp (f : VFn) (vd : VReg) (a : VSM) (spec : Nat) (s : State) : Res :=
  let vb : VSM := .v (Fin.ofNat 32 (fld spec 4 5))
  s.vSteps colV 4 f [a, vb] [a, vb] (fun s => s.vMapMask f vd [(4, a), (5, vb)] (vCompare f.fmt (fld spec 0 4)))

/-- VSEL (R203): every element is written, from A where the mask is 1 and from B where it is 0. -/
def execVsel (f : VFn) (d a b : VSM) (s : State) : Res :=
  s.vSteps colV 1 f [a, b] [d, a, b] (fun s =>
    (do
      let (s, mask, mf) ← s.maskOf
      let (s, xs, o) ← s.vOperands f.fmt [(4, a), (5, b)]
      let pick (i : Nat) : Nat := (xs.getD (if maskOn mask i then 0 else 1) []).getD i 0
      let (s, p) ← s.vPlace f.fmt d none false ((List.range (fmtCount f.fmt)).map pick)
      return (s, { (o.join p) with flags := o.flags ||| mf }) : Except State (State × StepOut)))

/-- VPRES (R101, R204). -/
def execVpres (f : VFn) (vd : VReg) (a : VSM) (s : State) : Res :=
  s.vSteps colV 1 f [a] [a] (fun s => s.vMapMask f vd [(4, a)] (fun l => (!elemAbsent f.fmt (l.getD 0 0), 0)))

/-- VCNT (R204): in a stream run each step writes the count of its own vector. -/
def execVcnt (f : VFn) (gd : GReg) (a : VSM) (s : State) : Res :=
  s.vSteps colV 4 f [a] [a] (fun s =>
    (do
      let (s, mask, mf) ← s.maskOf
      let (s, xs, o) ← s.vOperand f.fmt 4 a
      let n := (xs.zipIdx).countP (fun p => maskOn mask p.2 && !elemAbsent f.fmt p.1)
      return (s, { o with wrs := [.g gd (GVal.data (BitVec.ofNat 64 n))], flags := o.flags ||| mf }) :
      Except State (State × StepOut)))

/-- A MASK register read as an operand: its bits and the flags of the read (R67). -/
def State.maskReg (s : State) (field : Nat) (v : VReg) : VRes (VBits × Nat) :=
  let x := s.me.rv v
  if x.fmt ≠ .mask then .error (s.formatTrap field x.fmt .mask) else .ok (s, x.bits, flagIf (s.me.vExpired v) flagEXP)

/-- VMKABS (R204). -/
def execVmkabs (f : VFn) (d a : VSM) (vm : VReg) (s : State) : Res :=
  s.vSteps colV 1 f [a, .v vm] [d, a, .v vm] (fun s =>
    (do
      let (s, mask, mf) ← s.maskOf
      let (s, xs, o) ← s.vOperands f.fmt [(4, a)]
      let (s, m, ef) ← s.maskReg 5 vm
      let el (i : Nat) : Nat := if m.getLsbD i then absentCode f.fmt else (xs.getD 0 []).getD i 0
      let (s, p) ← s.vPlace f.fmt d mask f.policy ((List.range (fmtCount f.fmt)).map el)
      return (s, { (o.join p) with flags := o.flags ||| mf ||| ef }) : Except State (State × StepOut)))

/-! ## Conversion and quantisation (R205, R206) -/

/-- Converts by parts: source elements of va in format src, n of them, each through `fn`, into format dst (R205). -/
def State.vParts (s : State) (vd va : VReg) (src dst : Fmt) (p : Nat) (policy : Bool) (fn : Nat → Nat × Nat) : VRes StepOut :=
  (do
    let (s, mask, mf) ← s.maskOf
    let (s, xs, o) ← s.vOperand src 4 (.v va)
    let ws := fmtWidth src
    let wd := fmtWidth dst
    let n := 1024 / max ws wd
    let from_ := if ws < wd then p * n else 0
    let lo := if wd < ws then p * n else 0
    let rs := (List.range n).map (fun i => fn (xs.getD (from_ + i) 0))
    let on (i : Nat) : Bool := decide (lo ≤ i) && decide (i < lo + n)
    let els := (List.range (fmtCount dst)).map (fun i =>
      if on i ∧ maskOn mask i then (rs.getD (i - lo) (0, 0)).1 else absentCode dst)
    let keep := packElems wd ((List.range (fmtCount dst)).map (fun i =>
      if on i ∧ !maskOn mask i ∧ !policy then 2 ^ wd - 1 else 0))
    let part := packElems wd ((List.range (fmtCount dst)).map (fun i => if on i then 0 else 2 ^ wd - 1))
    let fl := (rs.zipIdx).foldl (fun g r => if maskOn mask (lo + r.2) then g ||| r.1.2 else g) 0
    return (s, { o with wrs := [.v vd dst (packElems wd els) keep part s.lExpiry], flags := o.flags ||| mf ||| fl }) :
    Except State (State × StepOut))

/-- VCVT (R205). -/
def execVcvt (f : VFn) (vd va : VReg) (spec : Nat) (s : State) : Res :=
  let src := Fmt.ofCode (fld spec 0 4)
  let fn (x : Nat) : Nat × Nat :=
    if elemAbsent src x then (absentCode f.fmt, 0)
    else
      let a := readElem src x
      let (y, g) := writeElem f.fmt (fld spec 4 1 == 1) f.sat a
      (y, g ||| (if isFloatFmt f.fmt then a.sigFlag else 0))
  s.vGuarded colV [va] (fun s => s.vOne colV 3 1 (fun s => s.vParts vd va src f.fmt (fld spec 5 3) f.policy fn))

/-- VQUANT (R206). -/
def execVquant (f : VFn) (vd va : VReg) (gb : GReg) (s : State) : Res :=
  s.vGuarded colV [va] (fun s =>
    let src := (s.me.rv va).fmt
    if src ≠ .f32 ∧ src ≠ .bf16 ∧ src ≠ .f16 then s.formatTrap 4 src .f32
    else
      let b := (s.me.rgv gb).toNat
      let sc := readElem .f32 (b % 2 ^ 32)
      let ratio := fmtWidth src / fmtWidth f.fmt
      let fn (x : Nat) : Nat × Nat :=
        if elemAbsent src x ∨ sc.isAbsent then (absentCode f.fmt, 0) else vRound f (numMul (readElem src x) sc)
      s.vOne colV 4 1 (fun s => s.vParts vd va src f.fmt (fld b 32 3 % ratio) f.policy fn))

/-! ## Permutation and elements (R211 to R214) -/

/-- The index elements of a register tagged with the integer format of width w: none where absent. -/
def State.vIndices (s : State) (f : Fmt) (vi : VReg) : VRes (List (Option Int) × Nat) :=
  let w := fmtWidth f
  let fi : Fmt := if w = 8 then .i8 else if w = 16 then .i16 else if w = 32 then .i32 else .i64
  let x := s.me.rv vi
  if x.fmt ≠ fi then .error (s.formatTrap 5 x.fmt fi)
  else .ok (s, (elems x.bits w).map (fun e => if e = absentCode fi then none else some (sext w e)),
    flagIf (s.me.vExpired vi) flagEXP)

/-- Element i of a list, or absent outside it. -/
def pickElem (f : Fmt) (l : List Nat) (i : Option Int) : Nat :=
  match i with
  | some k => if 0 ≤ k ∧ k < l.length then l.getD k.toNat 0 else absentCode f
  | none => absentCode f

/-- VPERM (R211). -/
def execVperm (f : VFn) (vd va vi : VReg) (s : State) : Res :=
  s.vGuarded colV [va, vi] (fun s => s.vOne colV 4 1
    (fun s => do
      let (s, mask, mf) ← s.maskOf
      let (s, xs, o) ← s.vOperand f.fmt 4 (.v va)
      let (s, ix, ef) ← s.vIndices f.fmt vi
      return (s, { o with wrs := [s.vWrite vd f.fmt mask f.policy (ix.map (pickElem f.fmt xs))],
                          flags := o.flags ||| mf ||| ef }) : State → Except State (State × StepOut)))

/-- VSLIDE (R211). -/
def execVslide (f : VFn) (vd va : VReg) (b : GImm) (s : State) : Res :=
  s.vGuarded colV [va] (fun s => s.vOne colV 4 1
    (fun s => do
      let (s, mask, mf) ← s.maskOf
      let (s, xs, o) ← s.vOperand f.fmt 4 (.v va)
      let k := (s.me.gimm b).toInt
      let el (i : Nat) : Nat := pickElem f.fmt xs (some (i + k))
      return (s, { o with wrs := [s.vWrite vd f.fmt mask f.policy ((List.range xs.length).map el)],
                          flags := o.flags ||| mf }) : State → Except State (State × StepOut)))

/-- The elements whose mask bit is 1, in order. -/
def compress (m : VBits) (l : List Nat) : List Nat := ((l.zipIdx).filter (fun p => m.getLsbD p.2)).map (·.1)

/-- Elements spread to the places whose mask bit is 1. -/
def expand (ab : Nat) (m : VBits) : List Nat → List Nat → List Nat
  | [], _ => []
  | i :: is, src =>
    if m.getLsbD i then
      match src with
      | x :: t => x :: expand ab m is t
      | [] => ab :: expand ab m is []
    else ab :: expand ab m is src

/-- VCMPR and VEXPD. -/
def execByMask (f : VFn) (vd va vm : VReg) (fn : VBits → List Nat → List Nat) (s : State) : Res :=
  s.vGuarded colV [va, vm] (fun s => s.vOne colV 4 1
    (fun s => do
      let (s, xs, o) ← s.vOperand f.fmt 4 (.v va)
      let (s, m, ef) ← s.maskReg 5 vm
      return (s, { o with wrs := [s.vWrite vd f.fmt none false (fn m xs)], flags := o.flags ||| ef }) :
      State → Except State (State × StepOut)))

/-- VCMPR (R212). -/
def execVcmpr (f : VFn) (vd va vm : VReg) (s : State) : Res :=
  execByMask f vd va vm (fun m l => let c := compress m l; c ++ List.replicate (l.length - c.length) (absentCode f.fmt)) s
/-- VEXPD (R212). -/
def execVexpd (f : VFn) (vd va vm : VReg) (s : State) : Res :=
  execByMask f vd va vm (fun m l => expand (absentCode f.fmt) m (List.range l.length) l) s

/-- The functions of QOP by their number (R160). -/
def qfnOf (n : Nat) : QFn :=
  match n with
  | 0 => .and
  | 1 => .or
  | 2 => .xor
  | 3 => .andn
  | 4 => .orn
  | 5 => .xnor
  | 6 => .nand
  | _ => .nor

/-- VMLOG (R213). -/
def execVmlog (_f : VFn) (vd va : VReg) (spec : Nat) (s : State) : Res :=
  let vb : VReg := Fin.ofNat 32 (fld spec 4 5)
  s.vGuarded colV [va, vb] (fun s => s.vOne colV 1 1
    (fun s => do
      let (s, a, ef) ← s.maskReg 4 va
      let (s, b, eg) ← s.maskReg 5 vb
      let l := (List.range 128).map (fun i => qfn (qfnOf (fld spec 0 4)) (a.getLsbD i) (b.getLsbD i))
      return (s, { StepOut.empty with wrs := [s.vWriteMask vd none false l], flags := ef ||| eg }) :
      State → Except State (State × StepOut)))

/-- VMPOP (R213). -/
def execVmpop (f : VFn) (gd : GReg) (vm : VReg) (s : State) : Res :=
  s.vGuarded colV [vm] (fun s => s.vOne colV 4 1
    (fun s => do
      let (s, m, ef) ← s.maskReg 4 vm
      let n := (List.range (fmtCount f.fmt)).countP (fun i => m.getLsbD i)
      return (s, { StepOut.empty with wrs := [.g gd (GVal.data (BitVec.ofNat 64 n))], flags := ef }) :
      State → Except State (State × StepOut)))

/-- VIOTA (R213). -/
def execViota (f : VFn) (vd : VReg) (s : State) : Res :=
  s.vGuarded colV [] (fun s => s.vOne colV 1 1
    (fun s => do
      let (s, mask, mf) ← s.maskOf
      return (s, { StepOut.empty with wrs := [s.vWrite vd f.fmt mask f.policy (List.range (fmtCount f.fmt))], flags := mf }) :
      State → Except State (State × StepOut)))

/-- The element index of VEXTR and VINS: ILLEGAL for an immediate outside, none for a register outside (R214). -/
def State.vIndex (s : State) (f : Fmt) (b : GImm) : VRes (Option Nat) :=
  let n := fmtCount f
  match b with
  | .imm v => if 0 ≤ v ∧ v < n then .ok (s, some v.toNat) else .error (s.trap causeILLEGAL 0 5)
  | .reg g =>
    let k := (s.me.rgv g).toInt
    .ok (s, if 0 ≤ k ∧ k < n then some k.toNat else none)

/-- VEXTR (R214). -/
def execVextr (f : VFn) (gd : GReg) (va : VReg) (b : GImm) (s : State) : Res :=
  s.vGuarded colV [va] (fun s => s.vOne colV 3 1
    (fun s => do
      let (s, xs, o) ← s.vOperand f.fmt 4 (.v va)
      let (s, k) ← s.vIndex f.fmt b
      let x := match k with
        | some i => xs.getD i 0
        | none => absentCode f.fmt
      return (s, { o with wrs := [.g gd (GVal.data (BitVec.ofNat 64 x))] }) : State → Except State (State × StepOut)))

/-- VINS (R214). -/
def execVins (f : VFn) (vd : VReg) (ga : GReg) (b : GImm) (s : State) : Res :=
  s.vGuarded colV [vd] (fun s => s.vOne colV 1 1
    (fun s => do
      let (s, xs, o) ← s.vOperand f.fmt 3 (.v vd)
      let (s, k) ← s.vIndex f.fmt b
      let w := fmtWidth f.fmt
      match k with
      | none => return (s, o)
      | some i =>
        let el := (List.range xs.length).map (fun j => if j = i then (s.me.rgv ga).toNat % 2 ^ w else 0)
        let keep := packElems w ((List.range xs.length).map (fun j => if j = i then 0 else 2 ^ w - 1))
        return (s, { o with wrs := [.v vd f.fmt (packElems w el) keep 0 s.lExpiry] }) : State → Except State (State × StepOut)))

/-! ## The block add (R219) -/

/-- One element of VBADDQ: value and count patterns, and flags. -/
def blockAdd (f : VFn) (a ca b cb : Nat) : Nat × Nat × Nat :=
  let cnt (c : Nat) : Nat := if c = 0x8000 ∨ 0x8000 ≤ c then 0 else c
  let pa := cnt ca ≠ 0 ∧ !elemAbsent f.fmt a
  let pb := cnt cb ≠ 0 ∧ !elemAbsent f.fmt b
  let c := (if pa then cnt ca else 0) + (if pb then cnt cb else 0)
  let (s, sf) : Num × Nat :=
    if pa ∧ pb then
      let (r, g) := numAdd (readElem f.fmt a) (readElem f.fmt b)
      let (r, h) := roundF32 r
      (r, g ||| h)
    else if pa then (readElem f.fmt a, (readElem f.fmt a).sigFlag)
    else if pb then (readElem f.fmt b, (readElem f.fmt b).sigFlag)
    else (.absent, 0)
  let (v, vf) := writeElem f.fmt false f.sat s
  if c = 0 then (absentCode f.fmt, 0, 0)
  else if 32767 < c then (v, 32767, sf ||| vf ||| flagSAT)
  else (v, c, sf ||| vf)

/-- VBADDQ (R219): latency 5, occupancy 2. -/
def execVbaddq (f : VFn) (vd va vb : VReg) (s : State) : Res :=
  let next (r : VReg) : VReg := Fin.ofNat 32 (r.val + 1)
  s.vGuarded colV [va, next va, vb, next vb] (fun s => s.vOne colV 5 2
    (fun s => do
      let (s, mask, mf) ← s.maskOf
      let (s, a, o1) ← s.vOperand f.fmt 4 (.v va)
      let (s, ca, o2) ← s.vOperand .i16 4 (.v (next va))
      let (s, b, o3) ← s.vOperand f.fmt 5 (.v vb)
      let (s, cb, o4) ← s.vOperand .i16 5 (.v (next vb))
      let n := fmtCount f.fmt
      let rs := (List.range n).map (fun i => blockAdd f (a.getD i 0) (ca.getD i 0) (b.getD i 0) (cb.getD i 0))
      let cnts := (List.range 64).map (fun i => if i < n then (rs.getD i (0, 0, 0)).2.1 else 0)
      let w1 := s.vWrite vd f.fmt mask f.policy (rs.map (·.1))
      -- count elements at and above n are written 0 whatever the mask
      let w2 := Wr.v (next vd) .i16
        (packElems 16 ((cnts.zipIdx).map (fun p => if p.2 < n ∧ !maskOn mask p.2 then 0x8000 else p.1)))
        (keepBits 16 n mask f.policy) 0 s.lExpiry
      return (s, { StepOut.empty with
        wrs := [w1, w2]
        flags := mf ||| o1.flags ||| o2.flags ||| o3.flags ||| o4.flags ||| maskFlags mask (rs.map (·.2.2)) }) :
      State → Except State (State × StepOut))) 2

/-! ## Hash values (R220) -/

/-- Mix64. -/
def mix64 (x : Nat) : Nat :=
  let x := x ^^^ (x / 2 ^ 31)
  let x := x * 0x9E6C63D0676A9A99 % 2 ^ 64
  let x := x ^^^ (x / 2 ^ 29)
  let x := x * 0xB4F12A37C3D51E0B % 2 ^ 64
  x ^^^ (x / 2 ^ 32)

/-- The hash of element i of VRNG. -/
def hashAt (seed ctr i : Nat) : Nat := mix64 (seed ^^^ mix64 ((ctr * 128 + i) % 2 ^ 64))

/-- The element a hash gives in a format. -/
def hashElem (f : Fmt) (h : Nat) : Nat :=
  let unit (bits : Nat) : Nat := (writeElem f false false (.fin false (h / 2 ^ (64 - bits)) (2 ^ bits))).1
  match f with
  | .f32 => unit 24
  | .bf16 => unit 8
  | .f16 => unit 11
  | .f8 => unit 4
  | .f8w => unit 3
  | _ =>
    let x := h % 2 ^ fmtWidth f
    if x = absentCode f then 0 else x

/-- VRNG (R220). -/
def execVrng (f : VFn) (vd : VReg) (ga gb : GReg) (s : State) : Res :=
  s.vGuarded colV [] (fun s => s.vOne colV 4 1
    (fun s => do
      let (s, mask, mf) ← s.maskOf
      let seed := (s.me.rgv ga).toNat
      let ctr := (s.me.rgv gb).toNat
      let l := (List.range (fmtCount f.fmt)).map (fun i => hashElem f.fmt (hashAt seed ctr i))
      return (s, { StepOut.empty with wrs := [s.vWrite vd f.fmt mask f.policy l], flags := mf }) :
      State → Except State (State × StepOut)))

end Sys2Proof.Machine
end

