-- ==== Sys2Proof/Machine/VectorMem.lean ====
section
/-! DEFINITION. Vector loads, stores and moves (R196 to R198), the F8Z instructions (R207) and the stream instructions
(R215, R218). -/

namespace Sys2Proof.Machine

/-- The alignment of a vector access in a format (R192). -/
def vAlign (f : Fmt) : Nat := if f = .noFmt then 8 else if f = .mask then 16 else fmtWidth f / 8

/-- The width of the elements a mask selects in a load or store; 1,024 where the format has none. -/
def vUnit (f : Fmt) : Nat := if f = .noFmt ∨ f = .mask then 1024 else fmtWidth f

/-- The next register. -/
def vNext (r : VReg) : VReg := Fin.ofNat 32 (r.val + 1)

/-- VLD (R196): one register or a pair; a count of the memory operand counts vectors of 128 bytes (R120). -/
def execVld (f : VFn) (vd : VReg) (m : MemOp) (pair : Bool) (s : State) : Res :=
  s.vGuarded colV [] (fun s =>
    let n := if pair then 256 else 128
    let x := s.me.memAddr m 128
    s.vOne colV (if pair then 4 else 3) (if pair then 2 else 1)
      (fun s => do
        let (s, mask, mf) ← s.maskOf
        let (s, w, ps) ← s.vAccess (s.me.rg m.g) 4 m.g x n (vAlign f.fmt) true false
        let (s, b) := s.vReadPieces f.fmt x ps
        let wr (r : VReg) (l : List Byte) : Wr :=
          if f.fmt = .noFmt ∨ f.fmt = .mask then .v r f.fmt (vOfBytes l) 0 0 s.lExpiry
          else s.vWrite r f.fmt mask f.policy (elemsOfBytes (fmtWidth f.fmt) l)
        let wrs := wr vd (b.take 128) :: (if pair then [wr (vNext vd) (b.drop 128)] else [])
        return (s, { StepOut.empty with wrs := wrs, next := s.me.postInc m 128, flags := mf, wait := w, reads := banksOf ps,
                                        named := firstBank ps, spans := spans ps n }) : State → Except State (State × StepOut))) (if pair then 2 else 1)

/-- The bytes a masked store writes among n bytes: the elements the mask selects, and absent for the others under
agnostic policy (R102). -/
def maskedWrites (f : Fmt) (mask : Option VBits) (policy : Bool) (ps : List Piece) (bytes : List Byte) : List Wr :=
  match mask with
  | none => writePieces ps bytes
  | some m =>
    let wb := vUnit f / 8
    (List.range (bytes.length / wb)).flatMap (fun i =>
      let on := m.getLsbD (i % (128 / wb))
      if on ∨ policy then
        let e := if on then (bytes.drop (i * wb)).take wb else leBytes wb (absentCode f)
        ps.flatMap (fun p =>
          if p.at_ ≤ i * wb ∧ i * wb < p.at_ + p.len then [Wr.mem (p.key + (i * wb - p.at_)) e none] else [])
      else [])

/-- VST (R196). -/
def execVst (f : VFn) (m : MemOp) (va : VReg) (pair : Bool) (s : State) : Res :=
  s.vGuarded colV (va :: (if pair then [vNext va] else [])) (fun s =>
    let n := if pair then 256 else 128
    let x := s.me.memAddr m 128
    s.vOne colV 1 (if pair then 2 else 1)
      (fun s => do
        let (s, mask, mf) ← s.maskOf
        let regs := va :: (if pair then [vNext va] else [])
        let bad := regs.find? (fun r => f.fmt != .noFmt && (s.me.rv r).fmt != f.fmt)
        match bad with
        | some r => Except.error (s.formatTrap 4 (s.me.rv r).fmt f.fmt)
        | none =>
          let bytes := regs.flatMap (fun r => bytesOfV (s.me.rv r).bits)
          let ef := flagIf (regs.any s.me.vExpired) flagEXP
          let (s, w, ps) ← s.vAccess (s.me.rg m.g) 3 m.g x n (vAlign f.fmt) false true
          return (s, { StepOut.empty with wrs := maskedWrites f.fmt mask f.policy ps bytes, next := s.me.postInc m 128,
                                          flags := mf ||| ef, wait := w, puts := banksOf ps, named := firstBank ps,
                                          spans := spans ps n }) :
        State → Except State (State × StepOut))) (if pair then 2 else 1)

/-! ## Element by element (R197) -/

/-- The addresses of the elements of a strided or indexed access; none where an index is absent. -/
def strideAddrs (x n : Nat) (stride : Int) : List (Option Nat) :=
  (List.range n).map (fun (i : Nat) => some (wrap 64 ((x : Int) + (i : Int) * stride)))
def indexAddrs (x wb : Nat) (ix : List (Option Int)) : List (Option Nat) :=
  ix.map (fun o => o.map (fun i => wrap 64 ((x : Int) + i * wb)))

/-- Checks element accesses in ascending order: the pieces of each, and the clk they add. -/
def State.elemAccess (s : State) (m : MemOp) (field wb : Nat) (wr : Bool) (l : List (Option Nat)) :
    VRes (Nat × List (Option (List Piece))) :=
  l.foldl
    (fun (acc : VRes (Nat × List (Option (List Piece)))) a =>
      match acc with
      | .error e => .error e
      | .ok (s, n, ps) =>
        match a with
        | none => .ok (s, n, ps ++ [none])
        | some a =>
          match s.vAccess (s.me.rg m.g) field m.g a wb wb (!wr) wr with
          | .error e => .error e
          | .ok (s, k, p) => .ok (s, n + k, ps ++ [some p])) (.ok (s, 0, []))

/-- The clk an element-wise access occupies its column for: max(1, n/16). -/
def elemClk (f : Fmt) : Nat := max 1 (fmtCount f / 16)

/-- VLDS and VLDX. -/
def State.vGather (s : State) (f : VFn) (vd : VReg) (m : MemOp) (addrs : State → Nat → VRes (List (Option Nat) × Nat)) : State :=
  let wb := fmtWidth f.fmt / 8
  let x := s.me.memAddr m 128
  s.vOne colV (2 + elemClk f.fmt) (elemClk f.fmt)
    (fun s => do
      let (s, mask, mf) ← s.maskOf
      let (s, as, ef) ← addrs s x
      let (s, w, ps) ← s.elemAccess m 4 wb false as
      let (s, es) := ps.foldl
        (fun (acc : State × List Nat) p =>
          match p with
          | none => (acc.1, acc.2 ++ [absentCode f.fmt])
          | some p =>
            let (s, b) := acc.1.vReadPieces f.fmt 0 p
            (s, acc.2 ++ [leNat b])) (s, [])
      return (s, { StepOut.empty with wrs := [s.vWrite vd f.fmt mask f.policy es], next := s.me.postInc m 128,
                                      flags := mf ||| ef, wait := w,
                                      reads := banksOf (ps.filterMap id).flatten, named := s.bankOfVa (s.me.rg m.g) x }) :
      State → Except State (State × StepOut))

/-- VSTS and VSTX: of two elements at one address the higher one remains. -/
def State.vScatter (s : State) (f : VFn) (m : MemOp) (va : VReg) (addrs : State → Nat → VRes (List (Option Nat) × Nat)) : State :=
  let wb := fmtWidth f.fmt / 8
  let x := s.me.memAddr m 128
  s.vOne colV 1 (elemClk f.fmt)
    (fun s => do
      let (s, mask, mf) ← s.maskOf
      let (s, es, o) ← s.vOperand f.fmt 4 (.v va)
      let (s, as, ef) ← addrs s x
      let (s, w, ps) ← s.elemAccess m 3 wb true as
      let wrs := ((ps.zip es).zipIdx).flatMap (fun q =>
        match q.1.1 with
        | none => []
        | some p =>
          if maskOn mask q.2 then writePieces p (leBytes wb q.1.2)
          else if f.policy then writePieces p (leBytes wb (absentCode f.fmt)) else [])
      return (s, { StepOut.empty with wrs := wrs, next := s.me.postInc m 128, flags := mf ||| ef ||| o.flags, wait := w,
                                      puts := banksOf (ps.filterMap id).flatten, named := s.bankOfVa (s.me.rg m.g) x }) : State → Except State (State × StepOut))

/-- The addresses of VLDS and VSTS. -/
def strided (f : Fmt) (b : GImm) (s : State) (x : Nat) : VRes (List (Option Nat) × Nat) :=
  .ok (s, strideAddrs x (fmtCount f) (s.me.gimm b).toInt, 0)
/-- The addresses of VLDX and VSTX. -/
def indexed (f : Fmt) (vi : VReg) (s : State) (x : Nat) : VRes (List (Option Nat) × Nat) :=
  match s.vIndices f vi with
  | .error e => .error e
  | .ok (s, ix, fl) => .ok (s, indexAddrs x (fmtWidth f / 8) ix, fl)

/-- VLDS (R197). -/
def execVlds (f : VFn) (vd : VReg) (m : MemOp) (b : GImm) (s : State) : Res :=
  s.vGuarded colV [] (fun s => s.vGather f vd m (strided f.fmt b)) (elemClk f.fmt)
/-- VSTS (R197). -/
def execVsts (f : VFn) (m : MemOp) (va : VReg) (b : GImm) (s : State) : Res :=
  s.vGuarded colV [va] (fun s => s.vScatter f m va (strided f.fmt b)) (elemClk f.fmt)
/-- VLDX (R197). -/
def execVldx (f : VFn) (vd : VReg) (m : MemOp) (vi : VReg) (s : State) : Res :=
  s.vGuarded colV [vi] (fun s => s.vGather f vd m (indexed f.fmt vi)) (elemClk f.fmt)
/-- VSTX (R197). -/
def execVstx (f : VFn) (m : MemOp) (va vi : VReg) (s : State) : Res :=
  s.vGuarded colV [va, vi] (fun s => s.vScatter f m va (indexed f.fmt vi)) (elemClk f.fmt)

/-! ## Moves (R198) -/

/-- VBCAST (R198). -/
def execVbcast (f : VFn) (vd : VReg) (a : GImmJ) (s : State) : Res :=
  s.vGuarded colV [] (fun s => s.vOne colV 1 1
    (fun s => do
      let (s, mask, mf) ← s.maskOf
      let v := (s.me.gimmj a).toNat
      let wr := if f.fmt = .mask then s.vWriteMask vd mask f.policy (List.replicate 128 (v % 2 == 1))
        else s.vWrite vd f.fmt mask f.policy (List.replicate (fmtCount f.fmt) (v % 2 ^ fmtWidth f.fmt))
      return (s, { StepOut.empty with wrs := [wr], flags := mf }) : State → Except State (State × StepOut)))

/-- VMOV (R198): the expiry of a short-lived source that has not expired goes with it. -/
def execVmov (_f : VFn) (vd va : VReg) (s : State) : Res :=
  s.vGuarded colV [va] (fun s =>
    let x := s.me.rv va
    let gone := s.me.vExpired va
    let e := match x.expiry with
      | some t => if gone then s.lExpiry else .at t
      | none => s.lExpiry
    s.vOne colV 1 1 (fun s => .ok (s, { StepOut.empty with wrs := [.v vd x.fmt x.bits 0 0 e], flags := flagIf gone flagEXP })))

/-- VRETAG (R198). -/
def execVretag (f : VFn) (vd va : VReg) (s : State) : Res :=
  s.vGuarded colV [va] (fun s =>
    let x := s.me.rv va
    s.vOne colV 1 1 (fun s =>
      .ok (s, { StepOut.empty with wrs := [.v vd f.fmt x.bits 0 0 s.lExpiry], flags := flagIf (s.me.vExpired va) flagEXP })))

/-! ## F8Z (R207) -/

/-- VZENC (R207): one block from half a register, tagged NONE. -/
def execVzenc (_f : VFn) (vd va : VReg) (half : Int) (s : State) : Res :=
  s.vGuarded colV [va] (fun s => s.vOne colV 6 1
    (fun s => do
      let (s, xs, o) ← s.vOperand .f8 4 (.v va)
      let b := f8zEncode ((xs.drop (64 * half.toNat)).take 64)
      return (s, { o with wrs := [.v vd .noFmt (vOfBytes b) 0 0 s.lExpiry] }) : State → Except State (State × StepOut)))

/-- VZDEC (R207): one block into half a register; the other half is kept when it is F8. -/
def execVzdec (_f : VFn) (vd va : VReg) (half : Int) (s : State) : Res :=
  s.vGuarded colV [va] (fun s =>
    let x := s.me.rv va
    let (es, fl) := f8zDecode (bytesOfV x.bits)
    let h := half.toNat % 2
    let place (l : List Nat) (other : Nat) : VBits :=
      packElems 8 (if h = 0 then l ++ List.replicate 64 other else List.replicate 64 other ++ l)
    let wr : Wr := .v vd .f8 (place es 0) 0 (place (List.replicate 64 0) 255) s.lExpiry
    s.vOne colV 6 1 (fun s => .ok (s, { StepOut.empty with wrs := [wr], flags := fl ||| flagIf (s.me.vExpired va) flagEXP })))

/-! ## Streams (R215, R218) -/

/-- The store a local offset lies in for a stream: the banks of the scratchpad, 3 weight SRAM, 4 elsewhere. -/
def State.streamStore (s : State) (c phys : Nat) : Nat :=
  if !s.isHere phys ∨ spaceOf phys ≠ 0 ∨ coreOf phys ≠ c then 4
  else match offKind c (offOf phys) with
    | 0 => 3
    | 1 => bankOf (offOf phys)
    | _ => 4

/-- Translates the first and last address of a stream's capability (R215). -/
def State.streamEnd (s : State) (x : Nat) (wr : Bool) : VRes (Nat × Nat) :=
  match s.translate false x (!wr) wr with
  | (s, _, .error (reason, lvl)) => .error (s.trap causePLOAD x (pageInfo 0 false wr lvl reason))
  | (s, w, .ok r) => .ok (s, w, s.streamStore s.hand.core r.phys)

/-- SCFG (R215). -/
def execScfg (f : VFn) (sk : SReg) (ga : GReg) (m : MemOp) (s : State) : Res :=
  s.vGuarded colV [] (fun s =>
    let x := s.me.memAddr m 128
    s.vOne colV 1 1
      (fun s => do
        let (s, w, ps) ← s.vAccess (s.me.rg m.g) 5 m.g x 32 8 true false
        let (s, b) := s.vReadPieces .noFmt x ps
        let at_ (i n : Nat) : Nat := leNat ((b.drop i).take n)
        let cap := s.me.rg ga
        let wr := at_ 6 1 % 2 == 1
        let need := [pENGINE, if wr then pW else pR]
        let bad : Option Nat :=
          if !cap.tag then some causeTAG
          else if mdSeal cap.md ≠ 0 then some causeSEAL
          else if !need.all (mdHas cap.md) then some causePERM
          else none
        match bad with
        | some cause => Except.error (s.trap cause cap.val.toNat (capInfo 4 ga))
        | none =>
          let lo := (capBase cap.val cap.md).toNat
          let hi := (capTop cap.val cap.md - 1).toNat
          match s.relResolve cap lo, s.relResolve cap hi with
          | some lo, some hi =>
            let (s, w1, b1) ← s.streamEnd lo wr
            let (s, w2, b2) ← s.streamEnd hi wr
            if b1 ≠ b2 ∨ b1 = 4 then Except.error (s.trap causeBOUNDS lo (capInfo 4 ga))
            else
              let t : Stream := ⟨cap, wr, f.fmt, at_ 0 2, at_ 2 2, at_ 4 2, sext 32 (at_ 8 4), sext 32 (at_ 12 4),
                sext 32 (at_ 16 4), 0, 0, 0⟩
              return (s, { StepOut.empty with wrs := [.stream sk (some t)], next := s.me.postInc m 128,
                                              wait := w + w1 + w2, reads := banksOf ps,
                                              named := firstBank ps })
          | _, _ => Except.error (s.trap causePERM lo (capInfo 4 ga)) : State → Except State (State × StepOut)))

/-- SSTAT (R218). -/
def execSstat (_f : VFn) (gd : GReg) (sk : SReg) (s : State) : Res :=
  s.vGuarded colV [] (fun s =>
    let v := match mapGet s.me.streams sk.val with
      | some t => t.i0 + t.i1 * 2 ^ 16 + t.i2 * 2 ^ 32 + (if t.exhausted then 2 ^ 48 else 0) + (if t.wr then 2 ^ 49 else 0)
      | none => 0
    s.vOne colV 1 1 (fun s => .ok (s, { StepOut.empty with wrs := [.g gd (GVal.data (BitVec.ofNat 64 v))] })))

/-- SRST (R68, R218): the stream is released, and its register is tagged NONE. -/
def execSrst (_f : VFn) (sk : SReg) (s : State) : Res :=
  s.vGuarded colV [] (fun s =>
    let r : VReg := Fin.ofNat 32 (24 + sk.val)
    let wrs := if (mapGet s.me.streams sk.val).isSome then [Wr.stream sk none, .vPut r { s.me.vraw r with fmt := .noFmt }] else []
    s.vOne colV 1 1 (fun s => .ok (s, { StepOut.empty with wrs := wrs })))

end Sys2Proof.Machine
end

