-- ==== Sys2Proof/Machine/VectorRed.lean ====
section
/-! DEFINITION. Reductions (R103, R107, R208) and VREDQ (R209, R210). -/

namespace Sys2Proof.Machine

/-- The kinds of reduction. -/
inductive RedOp where
  | sum | max | min
  deriving DecidableEq, Repr

/-- Combines two numbers of a reduction, without rounding. -/
def RedOp.num : RedOp → Num → Num → Num × Nat
  | .sum => numAdd
  | .max => numMinMax true
  | .min => numMinMax false

/-- A node of the tree (R107): absent is the identity, counts add, and a float sum rounds to F32. Its flags. -/
def redNode (op : RedOp) (float : Bool) (a b : Num × Nat) : (Num × Nat) × Nat :=
  if a.2 = 0 then (b, 0)
  else if b.2 = 0 then (a, 0)
  else
    let (r, g) := op.num a.1 b.1
    let (r, h) := if float then roundF32 r else (r, 0)
    ((r, a.2 + b.2), g ||| h)

/-- One level of the tree. -/
def redLevel (op : RedOp) (float : Bool) : List (Num × Nat) → List (Num × Nat) × Nat
  | a :: b :: t =>
    let (x, f) := redNode op float a b
    let (l, g) := redLevel op float t
    (x :: l, f ||| g)
  | l => (l, 0)

/-- The levels of the tree, at most k. -/
def redTree (op : RedOp) (float : Bool) : Nat → List (Num × Nat) → (Num × Nat) × Nat
  | 0, l => (l.headD (.absent, 0), 0)
  | k + 1, l =>
    let (m, f) := redLevel op float l
    let (r, g) := redTree op float k m
    (r, f ||| g)

/-- Reduces the elements that a mask selects: the result, its count, its flags. -/
def reduce (op : RedOp) (f : Fmt) (mask : Option VBits) (l : List Nat) : (Num × Nat) × Nat :=
  let leaves := (l.zipIdx).map (fun p => if maskOn mask p.2 ∧ !elemAbsent f p.1 then (readElem f p.1, 1) else (Num.absent, 0))
  let (r, g) := redTree op (isFloatFmt f) 7 leaves
  (r, g ||| leaves.foldl (fun g x => g ||| x.1.sigFlag) 0)

/-- The value a running result is kept as: an F32 pattern, or an exact integer. -/
def redKeep (f : Fmt) (x : Num) : Int :=
  if isFloatFmt f then ((specF32.write false false x).1 : Nat) else x.frac.floor
def redBack (f : Fmt) (v : Int) : Num := if isFloatFmt f then specF32.read v.toNat else .ofFrac false (.ofInt v)

/-- gd of VREDS, VREDX and VREDN (R208), and SAT. -/
def redResult (f : Fmt) (v : Int) (n : Nat) : Word × Nat :=
  if isFloatFmt f then (BitVec.ofNat 64 (if n = 0 then 0xFF800001 else v.toNat), 0)
  else if n = 0 then (0x8000000000000000#64, 0)
  else let (x, g) := intClamp 64 v; (BitVec.ofNat 64 x, g)

/-- The latency of a reduction over n elements. -/
def redLat (f : Fmt) : Nat := 6 + (fmtCount f).log2

/-- The reductions: `place` gives the writes of a running result and count, with flags. -/
def execReduce (op : RedOp) (f : VFn) (a : VSM) (place : Int × Nat → List Wr × Nat) (s : State) : Res :=
  s.vGuarded colV (vregsOf [a]) (fun s =>
    let step (s : State) (acc : Int × Nat) : VRes (StepOut × (Int × Nat)) :=
      (do
        let (s, mask, mf) ← s.maskOf
        let (s, xs, o) ← s.vOperand f.fmt 4 a
        let (r, fl) := reduce op f.fmt mask xs
        let (r, g) :=
          if f.stream then redNode op (isFloatFmt f.fmt) (redBack f.fmt acc.1, acc.2) r else (r, 0)
        return (s, { o with flags := o.flags ||| mf ||| fl ||| g }, (redKeep f.fmt r.1, r.2)) :
        Except State (State × (StepOut × (Int × Nat))))
    if f.stream then s.vRun colV (redLat f.fmt) (s.me.runSteps f.fmt [a]) (0, 0) step place
    else
      s.vOne colV (redLat f.fmt) 1
        (fun s => match step s (0, 0) with
          | .error t => .error t
          | .ok (s, o, acc) => .ok (s, { o with wrs := o.wrs ++ (place acc).1, flags := o.flags ||| (place acc).2 })))
    (if f.stream then max 1 (s.me.runSteps f.fmt [a]) else 1)

/-- The writes of VREDS, VREDX and VREDN: the result, and the count where B names a register. -/
def redPlace (f : Fmt) (gd : GReg) (gc : Option GReg) (r : Int × Nat) : List Wr × Nat :=
  let (w, g) := redResult f r.1 r.2
  (.g gd (GVal.data w) :: (match gc with
    | some c => [.g c (GVal.data (BitVec.ofNat 64 r.2))]
    | none => []), g)

/-- VREDS (R208). -/
def execVreds (f : VFn) (gd : GReg) (a : VSM) (gc : Option GReg) (s : State) : Res :=
  execReduce .sum f a (redPlace f.fmt gd gc) s
/-- VREDX (R208). -/
def execVredx (f : VFn) (gd : GReg) (a : VSM) (gc : Option GReg) (s : State) : Res :=
  execReduce .max f a (redPlace f.fmt gd gc) s
/-- VREDN (R208). -/
def execVredn (f : VFn) (gd : GReg) (a : VSM) (gc : Option GReg) (s : State) : Res :=
  execReduce .min f a (redPlace f.fmt gd gc) s

/-- The value of VREDM's modes (R208): MEAN, SUM0, CNT. -/
def redMode (f : Fmt) (mode : Int) (v : Int) (n : Nat) : Word × Nat :=
  if mode = 2 then (BitVec.ofNat 64 n, 0)
  else if mode = 1 then (if n = 0 then (0, 0) else redResult f v n)
  else if n = 0 then redResult f v 0
  else
    let (q, g) := numDiv (redBack f v) (.fin false n 1)
    let (x, h) := if isFloatFmt f then specF32.write false false q else intWrite 64 false q
    (BitVec.ofNat 64 x, g ||| h)

/-- VREDM (R208). -/
def execVredm (f : VFn) (gd : GReg) (a : VSM) (mode : Int) (s : State) : Res :=
  execReduce .sum f a (fun r => let (w, g) := redMode f.fmt mode r.1 r.2; ([.g gd (GVal.data w)], g)) s

/-! ## VREDQ (R209, R210) -/

/-- An accumulator's cells all absent with count 0. -/
def absentCells : List (Nat × (BitVec 32 × Nat)) := (List.range 2048).map (fun i => (i, (0xFF800001#32, 0)))

/-- VREDQ (R209): the accumulator is checked and set, and the instruction holds the V column until its last addition
lands; with nothing left to add it changes nothing and completes 4 vc after its issue. -/
def execVredq (f : VFn) (ak : AReg) (gn : GReg) (spec : Nat) (s : State) : Res :=
  s.guarded colV (fun s =>
    let c := s.hand.core
    let e := s.ent
    let tag := (s.me.ra ak).tag
    if tag ≠ .noFmt ∧ tag ≠ .f32 then s.formatTrap 3 tag .f32
    else
      let n := (s.me.rgv gn).toNat
      let total := fld n 16 16
      let prog := fld n 0 16
      let s := if tag = .noFmt ∧ prog < total then s.landWr c e.serial (.acc ak .f32 absentCells) else s
      s.modMe (fun k =>
        let k := (k.slotInc s.clk e.head.set).occupy colV 1
        { k with
          vredq := some ⟨e.serial, e.pc, ak, gn, fld spec 0 3, fld spec 3 5, f.fmt, total, prog, e.head.set, [],
            if prog < total then 0 else k.vcc + 4⟩
          colHold := mapPut k.colHold colV vredqHold }))

/-- Can a running VREDQ take a vector in this vc? -/
def Core.vredqTakes (k : Core) : Bool :=
  match k.vredq with
  | none => false
  | some v => decide (v.prog < v.total) && decide (v.lastVc ≤ k.vcc) &&
      (match mapGet k.rqs v.q with
        | some q => decide (q.popped < q.vecs.length)
        | none => false)

/-- VREDQ_VECTOR (R209): a running VREDQ takes the oldest vector of its queue; its additions land 4 vc later. -/
def execVredqVector (s : State) : Res :=
  let c := s.hand.core
  match s.me.vredq with
  | none => .next s
  | some v =>
    match mapGet s.me.rqs v.q with
    | none => .next s
    | some q =>
      if !s.me.vredqTakes then .next s
      else
        let x := q.vecs.getD q.popped 0
        let s := s.landWr c v.serial (.qDel v.q q.popped)
        .next (s.modMe (fun k =>
          let taken := v.taken ++ [(k.vcc + 4, x)]
          { k with vredq := some { v with prog := v.prog + 1, taken := taken, lastVc := k.vcc + 1 } }))

/-- What a running VREDQ does next in a core: additions land, it completes, or it takes a vector. -/
def State.vredqStep (s : State) (c : Nat) : Option (State × List Instr) :=
  let k := s.core c
  match k.vredq with
  | none => none
  | some v =>
    match v.taken with
    | (due, _) :: rest =>
      if due ≤ k.vcc then
        let s := s.vredqAdd c
        if rest.isEmpty ∧ v.prog = v.total then
          some (s.modCore c (fun k => (k.freeVredq s.clk).finish v.serial), [])
        else some (s, [])
      else if k.vredqTakes then some ({ s with hand := { Hand.empty with core := c } }, [.vredqVector]) else none
    | [] =>
      if v.total ≤ v.prog then
        if v.lastVc ≤ k.vcc then some (s.modCore c (fun k => (k.freeVredq s.clk).finish v.serial), []) else none
      else if k.vredqTakes then some ({ s with hand := { Hand.empty with core := c } }, [.vredqVector]) else none

end Sys2Proof.Machine
end

