-- ==== Sys2Proof/Machine/Tensor.lean ====
section
/-! DEFINITION. The T column (R229 to R243): the slice's configuration and B buffer, MMA and GMMA with their chunks, the
load pipes, the gang's join, and the accumulator instructions. -/

namespace Sys2Proof.Machine

/-! ## Numbers of the T column (R86, R106) -/

/-- Is a float pattern subnormal? -/
def isSubnormal (f : Fmt) (x : Nat) : Bool :=
  match floatSpec f with
  | some s => x != s.absent && fld x s.p (s.w - 1 - s.p) == 0 && fld x 0 s.p != 0
  | none => false

/-- Reads an operand: a subnormal one as zero, with no flag (R86). -/
def tRead (f : Fmt) (x : Nat) : Num := if isSubnormal f x then .zero (fld x (fmtWidth f - 1) 1 == 1) else readElem f x

/-- Writes a result: one that would be subnormal as +0, with INX (R86); it would be when its rounded pattern is (log entry 35). -/
def tWrite (f : Fmt) (sat : Bool) (x : Num) : Nat × Nat :=
  let (b, fl) := writeElem f false sat x
  if isSubnormal f b then (0, fl ||| flagINX) else (b, fl)

/-- One element after one chunk (R106, R233): `l` lists the eight pairs of operands. -/
def chunkElem (f : Fmt) (old : BitVec 32 × Nat) (l : List (Num × Num)) : Option ((BitVec 32 × Nat) × Nat) :=
  let ps := (l.filter (fun p => !p.1.isAbsent && !p.2.isAbsent)).map (fun p => numMul p.1 p.2)
  if ps.isEmpty then none
  else
    let af := if f = .i8 then Fmt.i32 else .f32
    let (sum, g) := numSum (ps.map (·.1))
    let v : Num := if old.2 = 0 then .zero false else tRead af old.1.toNat
    let (r, h) := numAdd v sum
    let (b, i) := tWrite af false r
    let m := old.2 + ps.length
    some ((BitVec.ofNat 32 b, min 65535 m),
      ps.foldl (fun x p => x ||| p.2) 0 ||| g ||| h ||| i ||| flagIf (decide (65535 < m)) flagCNT)

/-- The clk of a chunk, which is the bits of an element and the bytes of a row segment as well: 8 or 16 (R230). -/
def chunkClk (f : Fmt) : Nat := fmtWidth f

/-- The cells that chunk c changes and its flags: `seg` holds the 32 row segments, `rows` the rows of B. Every signalling NaN
among the operands sets INV (R81). -/
def chunkCells (f : Fmt) (a : Acc) (c : Nat) (seg : List Byte) (rows : List (Nat × Nat)) :
    List (Nat × (BitVec 32 × Nat)) × Nat :=
  let w := fmtWidth f
  let wb := w / 8
  let bs : List (List Num) := (List.range 8).map (fun kk =>
    let r := mapGetD rows (8 * c + kk) 0
    (List.range 64).map (fun j => tRead f (r / 2 ^ (w * j) % 2 ^ w)))
  (List.range 32).foldl
    (fun acc i =>
      let row := (seg.drop (i * chunkClk f)).take (chunkClk f)
      let xs := (List.range 8).map (fun kk => tRead f (leNat ((row.drop (kk * wb)).take wb)))
      let acc := (acc.1, acc.2 ||| sigFlags xs)
      if xs.all Num.isAbsent then acc
      else
        (List.range 64).foldl
          (fun (acc : List (Nat × (BitVec 32 × Nat)) × Nat) j =>
            match chunkElem f (a.at i j) (xs.zip (bs.map (fun b => b.getD j .absent))) with
            | some (x, g) => (acc.1 ++ [(64 * i + j, x)], acc.2 ||| g)
            | none => acc) acc) ([], sigFlags bs.flatten)

/-! ## Footprints, checks and locks (R57, R235, R266, R280) -/

/-- The parts of ranges of virtual addresses that lie in this core's weight SRAM and scratchpad now. No TLB is used, and nothing
changes. -/
def State.footprint (s : State) (l : List (Nat × Nat)) : List CPiece :=
  match s.me.ctx with
  | none => []
  | some x =>
    l.flatMap (fun r => (pagesOf r.1 r.2).filterMap (fun p =>
      match s.walk x p with
      | .error _ => none
      | .ok (leaf, size) =>
        let phys := leaf / 2 ^ 16 * 2 ^ 16 + p % size
        if s.isOwn s.hand.core phys && decide (offKind s.hand.core (offOf phys) ≤ 1) then
          some ⟨phys, some p, min (r.1 + r.2) ((p / 65536 + 1) * 65536) - p, fld leaf 4 1 == 1, fld leaf 2 2⟩
        else none))

/-- Steps 1 to 5 of R57 over ranges of a tensor operand, each step over all of them, and the resolution of REL: the
virtual addresses, or the trap. -/
def State.tensorReach (s : State) (cap : GVal) (g : GReg) (x align : Nat) (l : List (Nat × Nat)) : Except Trap (List Nat) :=
  let t (cause a : Nat) : Trap := ⟨cause, a, capInfo 4 g, 0, false⟩
  match l.findSome? (fun r => (capCheck cap r.1 r.2 0 [pR, pENGINE] false).map (fun c => (c, r.1))) with
  | some (cause, a) => .error (t cause (if cause = causeBOUNDS then a else x))
  | none =>
    if x % 8 ≠ 0 ∨ align % 8 ≠ 0 then .error (t causeALIGN x)
    else
      l.foldl (fun acc r =>
        match acc with
        | .error e => .error e
        | .ok vs =>
          match s.relResolve cap r.1 with
          | some va => .ok (vs ++ [va])
          | none => .error (t causePERM r.1)) (.ok [])

/-- A footprint met by the range-lock table and by armed lines (R248, R266, R280). -/
def State.footTrap (s : State) (fp : List CPiece) : Option Trap := (s.lockTrap false fp).orElse (fun _ => s.armedTrap fp)

/-- The lowest free entry of the range-lock table. -/
def Core.freeLock (k : Core) : Option Nat := (List.range 16).find? (fun i => (mapGet k.locks i).isNone)

/-- A hull grown over local parts. -/
def hullOver (h : Option (Nat × Nat)) (ps : List CPiece) : Option (Nat × Nat) :=
  ps.foldl (fun h p =>
    let lo := offOf p.phys
    match h with
    | none => some (lo, lo + p.len)
    | some (a, b) => some (min a lo, max b (lo + p.len))) h

/-- The range-lock entry of a tensor instruction: the one it has, else the lowest free one. -/
def Core.tensorLock (k : Core) (serial : Nat) : Option Nat :=
  ((k.locks.find? (fun p => p.2.owner == LockOwner.tensor serial)).map (·.1)).orElse (fun _ => k.freeLock)

/-- The entry of the instruction in hand holds a footprint, which an empty one keeps free for it. -/
def State.lockFoot (s : State) (fp : List CPiece) : State :=
  s.modMe (fun k =>
    match k.tensorLock s.ent.serial with
    | some i => { k with locks := mapPut k.locks i ⟨.tensor s.ent.serial, hullOver none fp, none⟩ }
    | none => k)

/-- A footprint takes an entry, and the armed lines it has passed are cleared. -/
def State.holdFoot (s : State) (fp : List CPiece) : State :=
  if fp.isEmpty then s else (fp.foldl (fun s p => s.disarm (keyOf p.phys) p.len) s).lockFoot fp

/-! ## Configuration (R231) -/

/-- Issues a T instruction of fixed latency. -/
def State.tIssue (s : State) (lat : Nat) (wrs : List Wr) : State := (s.issue colT lat 1 0 wrs).modMe (fun k => k.occupy 8 lat)

/-- MCFG (R231). -/
def execMcfg (_f : VFn) (ga gb : GReg) (s : State) : Res :=
  s.guarded colT (fun s =>
    let a := (s.me.rgv ga).toNat
    let b := (s.me.rgv gb).toNat
    let kk := fld a 0 11
    let astr := sext 32 (fld b 0 32)
    let bstr := sext 32 (fld b 32 32)
    if kk = 0 ∨ kk > 1024 ∨ kk % 8 ≠ 0 then s.trap causeFORMAT 0 4
    else if astr % 8 ≠ 0 ∨ bstr % 8 ≠ 0 then s.trap causeFORMAT 0 5
    else s.tIssue 1 [.slice kk (fld a 11 1 == 1) astr bstr])

/-- MZERO (R242). -/
def execMzero (f : VFn) (ak : AReg) (s : State) : Res := s.guarded colT (fun s => s.tIssue 1 [.accPut ak ⟨f.fmt, []⟩])

/-! ## MLDB (R232) -/

/-- The rows of B in memory. -/
def bRows (x kk : Nat) (bstr : Int) (f : Fmt) : List (Nat × Nat) :=
  (List.range kk).map (fun (i : Nat) => (wrap 64 ((x : Int) + (i : Int) * bstr), 8 * fmtWidth f))

/-- The bytes of an F8Z tensor's offset table (R95). -/
def tableBytes (kk : Nat) : Nat := (4 * kk + 7) / 8 * 8

/-- MLDB (R232): the checks; its load pipe then reads 128 bytes in each clk. -/
def execMldb (f : VFn) (m : MemOp) (s : State) : Res :=
  let sl := s.me.slice
  let beats := (sl.kcfg * 8 * fmtWidth f.fmt + 127) / 128
  s.guarded colT (fun s =>
    let e := s.ent
    let cap := s.me.rg m.g
    let x := s.me.memAddr m 128
    if sl.kcfg = 0 then s.trap causeFORMAT 0 (1 + fmtCode f.fmt * 256)
    else if sl.kcfg > 512 ∧ fmtWidth f.fmt = 16 then s.trap causeFORMAT 0 (1 + fmtCode f.fmt * 256)
    else if sl.bz ∧ f.fmt ≠ .f8 then s.trap causeFORMAT 0 (1 + fmtCode f.fmt * 256)
    else
      let l := if sl.bz then [(x, tableBytes sl.kcfg)] else bRows x sl.kcfg sl.bstr f.fmt
      match s.tensorReach cap m.g x (if sl.bz then 0 else wrap 64 sl.bstr) l with
      | .error t => s.raise t
      | .ok vs =>
        let fp := s.footprint (vs.zip (l.map (·.2)))
        match s.footTrap fp with
        | some t => s.raise t
        | none =>
          if !fp.isEmpty && s.me.freeLock.isNone then s.requeue colT
          else
            let post := s.me.postInc m 128
            let n := if sl.bz then 1 else beats
            let o : TensorOp := ⟨e.serial, e.pc, false, true, f.fmt, 0, s.me.vcc, 0, n, 0, 0, 0,
              if sl.bz then [x] else vs, sl.kcfg, sl.bz, [], [], 0,
              e.head.set, m.g, cap, e.block, none, none⟩
            let s := s.holdFoot fp
            s.modMe (fun k =>
              let k := (k.slotInc s.clk e.head.set).occupy colT (4 + n)
              let k := post.foldl (fun k w => k.landAt e.serial 1 w) k
              { k with tops := k.tops ++ [o] })) (4 + beats)

/-! ## MMA (R233, R235, R237) -/

/-- The rows of A in memory. -/
def aRows (x kb : Nat) (astr : Int) (f : Fmt) : List (Nat × Nat) :=
  (List.range 32).map (fun (i : Nat) => (wrap 64 ((x : Int) + (i : Int) * astr), kb * (fmtWidth f / 8)))

/-- FORMAT of MMA and GMMA (R233): B is not of FMT, or the accumulator's tag does not go with it. -/
def Core.mmaFormat (k : Core) (f : Fmt) (ak : AReg) : Option Trap :=
  let want := if f = .i8 then Fmt.i32 else .f32
  let tag := (k.ra ak).tag
  let t (field : Nat) (found want : Fmt) : Trap := ⟨causeFORMAT, 0, field + 16 * fmtCode found + 256 * fmtCode want, 0, false⟩
  if k.slice.bfmt ≠ f then some (t 4 k.slice.bfmt f)
  else if tag ≠ .noFmt ∧ tag ≠ want then some (t 3 tag want)
  else none

/-- The first chunk to run (R237). -/
def Core.firstChunk (k : Core) (gang : Bool) (pc : Nat) (ak : AReg) : Nat :=
  if k.cf crRPR 31 1 = 1 ∧ k.cf crRPR 16 12 = pc ∧ (k.cf crRPR 30 1 == 1) = gang ∧ k.cf crRPR 28 2 = ak.val then
    min (k.cf crRPR 0 8) (k.slice.kb / 8)
  else 0

/-- MMA or GMMA starts: its slot counts, the T column is occupied, an accumulator without a tag takes one, and its load
pipe reads one chunk after another. -/
def State.mmaStart (s : State) (gang : Bool) (f : Fmt) (ak : AReg) (m : MemOp) (vas : List Nat)
    (fp : List CPiece) : State :=
  let e := s.ent
  let k := s.me
  let n := k.slice.kb / 8
  let c0 := k.firstChunk gang (e.pc % 4096) ak
  let post := k.postInc m 128
  let tagWr := if (k.ra ak).tag = .noFmt then [Wr.accPut ak ⟨if f = .i8 then .i32 else .f32, []⟩] else []
  let o : TensorOp := ⟨e.serial, e.pc, gang, false, f, ak, k.vcc, c0, n, c0, c0, 0, vas, k.slice.kb, false, k.slice.rows, [], 0,
    e.head.set, m.g, k.rg m.g, e.block, none, none⟩
  let s := s.holdFoot fp
  s.modMe (fun k =>
    let k := (k.slotInc s.clk e.head.set).occupy colT (max 1 (chunkClk f * (n - c0)))
    let k := (post ++ tagWr).foldl (fun k w => k.landAt e.serial 1 w) k
    let k := { k with tops := k.tops ++ [o] }
    if c0 = n then k.finish e.serial else k)

/-- MMA (R233). -/
def execMma (f : VFn) (ak : AReg) (m : MemOp) (s : State) : Res :=
  let sl := s.me.slice
  s.guarded colT (fun s =>
    match s.me.mmaFormat f.fmt ak with
    | some t => s.raise t
    | none =>
      let x := s.me.memAddr m 128
      let l := aRows x sl.kb sl.astr f.fmt
      match s.tensorReach (s.me.rg m.g) m.g x (wrap 64 sl.astr) l with
      | .error t => s.raise t
      | .ok vs =>
        let fp := s.footprint (vs.zip (l.map (·.2)))
        match s.footTrap fp with
        | some t => s.raise t
        | none =>
          if !fp.isEmpty && s.me.freeLock.isNone then s.requeue colT
          else s.mmaStart false f.fmt ak m vs fp) (max 1 (chunkClk f.fmt * (sl.kb / 8)))

/-! ## GMMA (R238, R359, R368) -/

/-- Does a core's gang lie wholly in its launch group (R359)? -/
def State.gangWhole (s : State) (c : Nat) : Bool :=
  match s.launch (s.core c).launch with
  | some l => (gangCores (gangOf c)).all l.cores.contains
  | none => false

/-- BARRIER_BROKEN (R370). -/
def brokenTrap (id reason : Nat) : Trap := ⟨causeBROKEN, 0, id % 256 * 256 + reason, 0, false⟩

/-- The key of a core's gang barrier. -/
def State.gangKey (s : State) (c : Nat) : Nat := barKey ((s.core c).ctx.getD 0) 0 (gangOf c) 0

/-- The rows of A of a member's GMMA. -/
def State.gmmaRows (s : State) (f : VFn) (m : MemOp) : List (Nat × Nat) :=
  aRows (s.me.memAddr m 128) s.me.slice.kb s.me.slice.astr f.fmt

/-- A member's part of A in its own memory, which it has to hold (R239). -/
def State.gmmaFoot (s : State) (f : VFn) (m : MemOp) : List CPiece :=
  match s.tensorReach (s.me.rg m.g) m.g (s.me.memAddr m 128) (wrap 64 s.me.slice.astr) (s.gmmaRows f m) with
  | .ok vs => s.footprint (vs.zip ((s.gmmaRows f m).map (·.2)))
  | .error _ => []

/-- The issue checks of a member (R235, R238, R266), made at the join: the rows' addresses and the footprint, or the trap. -/
def State.gmmaCheck (s : State) (f : VFn) (ak : AReg) (m : MemOp) : Except Trap (List Nat × List CPiece) :=
  match s.me.mmaFormat f.fmt ak with
  | some t => .error t
  | none =>
    match s.tensorReach (s.me.rg m.g) m.g (s.me.memAddr m 128) (wrap 64 s.me.slice.astr) (s.gmmaRows f m) with
    | .error t => .error t
    | .ok vs =>
      let fp := s.footprint (vs.zip ((s.gmmaRows f m).map (·.2)))
      let away := match s.me.ctx, vs.head? with
        | some y, some va => (match s.walk y va with
          | .ok (leaf, size) => !s.isOwn s.hand.core (leaf / 2 ^ 16 * 2 ^ 16 + va % size)
          | .error _ => false)
        | _, _ => false
      if away && !mdHas (s.me.rg m.g).md pREMOTE then .error ⟨causePERM, s.me.memAddr m 128, capInfo 4 m.g, 0, false⟩
      else match s.footTrap fp with
        | some t => .error t
        | none => .ok (vs, fp)

/-- What the members compare at the join (R238): FMT, k, x, KB, ASTRIDE, c0. -/
def State.gmmaKey (s : State) (f : VFn) (ak : AReg) (m : MemOp) : List Int :=
  let sl := s.me.slice
  [fmtCode f.fmt, ak.val, ((s.relResolve (s.me.rg m.g) (s.me.memAddr m 128)).getD (s.me.memAddr m 128) : Nat), sl.kb, sl.astr,
    s.me.firstChunk true (s.ent.pc % 4096) ak]

/-- GMMA (R238): ready, with an entry of the range-lock table kept for it where it holds A (R235, R239), it joins the gang's wire
and waits at the head of the T queue. -/
def execGmma (f : VFn) (_ak : AReg) (m : MemOp) (s : State) : Res :=
  s.guarded colT (fun s =>
    let c := s.hand.core
    let b := s.bar (s.gangKey c)
    let foot := s.gmmaFoot f m
    if !s.gangWhole c then s.raise (brokenTrap 0 4)
    else if b.st = .broken then s.raise (brokenTrap 0 b.reason)
    else if !foot.isEmpty && s.me.freeLock.isNone then s.requeue colT
    else
      let s := if foot.isEmpty then s else s.lockFoot []
      let s := s.modMe (fun k =>
        { k.setQueueOf colT (s.ent :: k.queueOf colT) with
            gmma := some ⟨s.ent.serial, s.clk⟩
            joins := k.joins ++ [1]
            colHold := mapPut k.colHold colT gmmaHold })
      s.gangWire b.ctx b.place) (max 1 (chunkClk f.fmt * (s.me.slice.kb / 8)))

/-- What the wire finds for a gang with a member that waits at a GMMA: nothing yet, a break with its reason for every
waiting member, or the join. -/
inductive GangVerdict where
  | wait
  | broken (reason : Nat)
  | join
  deriving DecidableEq, Repr

/-- Is a member lost to the gang's join (R238): of another launch, ended otherwise than in a join, or taken by a forced
pre-emption? -/
def Core.gangLost (k : Core) (launch : Nat) : Bool :=
  k.launch != launch || k.forced || !(k.unit == .running || k.unit == .preempted)

/-- The gang's verdict in this clk, seen from a waiting member (R238, R368). -/
def State.gangVerdict (s : State) (c : Nat) : GangVerdict :=
  let b := s.bar (s.gangKey c)
  let ms := (gangCores (gangOf c)).map s.core
  if b.st = .broken then (if b.brokenAt ≤ s.clk then .broken b.reason else .wait)
  else if ms.any (fun k => k.gangLost (s.core c).launch) then .broken 3
  else if ms.all (fun k => k.gmma.isSome && k.joins.head? == some 1) then
    let ready := ms.foldl (fun t k => max t (match k.gmma with
      | some w => w.ready
      | none => 0)) 0
    if ready + 3 ≤ s.clk then .join else .wait
  else .wait

/-- A member at its GMMA: the instruction in hand is the head of its T queue. -/
def State.atGmma (s : State) (c : Nat) : State :=
  { s with hand := { s.hand with core := c, entry := ((s.core c).queueOf colT).headD QEntry.empty } }

/-- A waiting member's GMMA leaves its queue and becomes the instruction in hand. -/
def State.takeGmma (s : State) (c : Nat) : State :=
  (s.atGmma c).modCore c (fun k =>
    { k.setQueueOf colT ((k.queueOf colT).drop 1) with
        gmma := none, joins := k.joins.drop 1, colHold := k.colHold.filter (fun p => p.2 != gmmaHold) })

/-- Starts the GMMA in hand. -/
def State.startGmma (s : State) : State :=
  match s.ent.instr with
  | .gmma f ak m =>
    (match s.gmmaCheck f ak m with
      | .ok (vs, fp) => s.mmaStart true f.fmt ak m vs fp
      | .error t => s.raise t)
  | _ => s

/-- Is a member's GMMA late in a strict block (R238)? Its planned clk is that of its join, 3 clk after it is ready. -/
def Core.gmmaLate (k : Core) : Option Trap :=
  match k.queueOf colT with
  | e :: _ =>
    if lateOf e k.vcc then
      some ⟨causeTIMING, 0, timingInfo (k.vcc - (e.planned + 3)) ((e.block.map (·.1)).getD 0) 1, 0, false⟩
    else none
  | [] => none
where
  lateOf (e : QEntry) (vcc : Nat) : Bool := (e.block.map (·.2)) == some true && decide (e.planned + 3 < vcc)

/-- The trap that a member's GMMA raises at the join by itself: a check of its own that fails, or TIMING. -/
def State.gmmaTrap (s : State) (c : Nat) : Option Trap :=
  match (s.atGmma c).ent.instr with
  | .gmma f ak m =>
    (match (s.atGmma c).gmmaCheck f ak m with
      | .error t => some t
      | .ok _ => (s.core c).gmmaLate)
  | _ => none

/-- What a member brings to the join's comparison. -/
def State.gmmaKeyOf (s : State) (c : Nat) : List Int :=
  match (s.atGmma c).ent.instr with
  | .gmma f ak m => (s.atGmma c).gmmaKey f ak m
  | _ => []

/-- GMMA_JOIN (R238): the gang's GMMAs issue together, or the join breaks. -/
def execGmmaJoin (s : State) : Res :=
  let c := s.hand.core
  let held := (gangCores (gangOf c)).filter (fun m => (s.core m).gmma.isSome)
  match s.gangVerdict c with
  | .wait => .next s
  | .broken r => .next (held.foldl (fun s m => (s.takeGmma m).raise (brokenTrap 0 r)) s)
  | .join =>
    let bad := held.any (fun m => (s.gmmaTrap m).isSome)
    let differ := held.any (fun m => s.gmmaKeyOf m != s.gmmaKeyOf c)
    .next (held.foldl (fun s' m =>
      let t := s'.takeGmma m
      if bad then t.raise ((s.gmmaTrap m).getD (brokenTrap 0 3))
      else if differ then t.raise (brokenTrap 0 2)
      else t.startGmma) s)

/-- A gang's next step. -/
def gmmaStep (s : State) (c : Nat) : Option (State × List Instr) :=
  if (s.core c).gmma.isNone then none
  else match s.gangVerdict c with
    | .wait => none
    | _ => some ({ s with hand := { Hand.empty with core := c } }, [.gmmaJoin])

/-! ## The load pipes (R40, R232, R235, R239) -/

/-- A change to a running operation. -/
def Core.modTop (k : Core) (serial : Nat) (f : TensorOp → TensorOp) : Core :=
  { k with tops := k.tops.map (fun o => if o.serial = serial then f o else o) }

/-- The ranges that the next read of an operation covers. -/
def TensorOp.ranges (o : TensorOp) : List (Nat × Nat) :=
  if o.load then
    if fmtWidth o.fmt = 8 then (o.vas.drop (2 * o.next) |>.take 2).map (fun a => (a, 64))
    else (o.vas.drop o.next |>.take 1).map (fun a => (a, 128))
  else o.vas.map (fun (a : Nat) => (wrap 64 ((a : Int) + (o.next : Int) * (chunkClk o.fmt : Int)), chunkClk o.fmt))

/-- The vc in which an operation's next read is due. -/
def TensorOp.readAt (o : TensorOp) : Nat := o.start + (if o.load then 1 else chunkClk o.fmt) * (o.next - o.first) + o.delay

/-- A load pipe waits one clk for a bank (R31, R40): its operation lands one clk later, and MLDB occupies its column for it. -/
def State.pipeBank (s : State) (c : Nat) (o : TensorOp) : State :=
  s.modCore c (fun k =>
    let k := k.modTop o.serial (fun o => { o with delay := o.delay + 1 })
    if o.load then { k with colFree := mapPut k.colFree colT (k.free colT + 1) } else k)

/-- A wait of n clk in a load pipe for a translation (R30, R233): TIMING in a strict block, a pause in an elastic one, and a later
landing otherwise. -/
def State.pipeWait (s : State) (c : Nat) (o : TensorOp) (n : Nat) : State :=
  if n = 0 then s
  else match o.block with
    | some (b, true) =>
      s.modCore c (fun k => k.modTop o.serial (fun o => { o with fault := some ⟨causeTIMING, 0, timingInfo n b 1, 0, false⟩ }))
    | some (_, false) => s.freezeGroup c n
    | none =>
      s.modCore c (fun k =>
        let k := k.modTop o.serial (fun o => { o with delay := o.delay + n })
        if o.load then { k with colFree := mapPut k.colFree colT (k.free colT + n) } else k)

/-- One range read by a load pipe: the state, the clk of its translation, and its bytes or the trap. -/
def State.pipeRead (s : State) (o : TensorOp) (f : Fmt) (va n : Nat) : State × Nat × Except Trap (List Byte) :=
  let c := s.hand.core
  match s.translateRange true va n true false with
  | (s, _, .error (reason, lvl, a)) =>
    (s, 0, .error ⟨causePENGINE, a, pageInfo 0 true false lvl reason, if o.load then 0 else 1, false⟩)
  | (s, w, .ok rs) =>
    match rs.find? (fun r => !s.isOwn c r.phys || decide (2 ≤ offKind c (offOf r.phys))) with
    | some r => (s, 0, .error ⟨causePERM, r.va, capInfo 4 o.reg, 0, false⟩)
    | none =>
      let ps := piecesOf va (cpieces va n rs)
      let bytes := s.readPieces f ps
      (ps.foldl (fun s p => s.coreRead c p.key p.len (va + p.at_) 4) s, w, .ok bytes)

/-- Ranges read one after another, until one traps. -/
def State.pipeReads (s : State) (o : TensorOp) (f : Fmt) (l : List (Nat × Nat)) : State × Nat × Except Trap (List Byte) :=
  l.foldl
    (fun (acc : State × Nat × Except Trap (List Byte)) r =>
      match acc with
      | (s, w, .ok bs) =>
        match s.pipeRead o f r.1 r.2 with
        | (s, x, .ok b) => (s, w + x, .ok (bs ++ b))
        | (s, _, .error t) => (s, w, .error t)
      | e => e) (s, 0, .ok [])

/-- The place of block i of an F8Z tensor, from its offset table; none where it is malformed (R95). -/
def bzBlock (base : Nat) (got : List Byte) (i : Nat) : Option Nat :=
  let off := leNat ((got.drop (4 * i)).take 4)
  if off % 8 ≠ 0 then none else some (wrap 64 ((base : Int) + off))

/-- The bytes of a block whose header is read (R91, R94): a malformed LEN leaves the header alone. -/
def bzLength (header : List Byte) : Nat :=
  let len := fld (leNat header) 16 10
  if len > 448 then 4 else 36 + (len + 7) / 8

/-- The rows of an F8Z tensor of which `got` has been read, table first and its blocks after it (R232): the rows with their flags,
and what is to be read next, if anything. A malformed block is a row of absent elements. -/
def bzWalk (base : Nat) (got : List Byte) : Nat → Nat → Nat → List (Nat × Nat) → Nat → (List (Nat × Nat) × Nat) × Option (Nat × Nat)
  | 0, _, _, rows, fl => ((rows, fl), none)
  | n + 1, i, pos, rows, fl =>
    match bzBlock base got i with
    | none => bzWalk base got n (i + 1) pos (rows ++ [(i, leNat (List.replicate 64 0x80#8))]) (fl ||| flagINV)
    | some x =>
      let have_ := got.length - pos
      if have_ < 4 then ((rows, fl), some (x + have_, 4 - have_))
      else
        let m := bzLength ((got.drop pos).take 4)
        if have_ < m then ((rows, fl), some (x + have_, m - have_))
        else
          let (es, g) := f8zDecode ((got.drop pos).take m)
          bzWalk base got n (i + 1) (pos + m) (rows ++ [(i, leNat (es.map (BitVec.ofNat 8)))]) (fl ||| g)

/-- The next range to read of an F8Z tensor of kb blocks; none when all of it is read. -/
def bzNext (kb base : Nat) (got : List Byte) : Option (Nat × Nat) :=
  let n := tableBytes kb
  if got.length < n then some (wrap 64 ((base : Int) + got.length), n - got.length) else (bzWalk base got kb 0 n [] 0).2

/-- The check of a part of an F8Z tensor as it is read (R232): steps 1 to 4 of R57 and the resolution of REL. The alignment
of step 5 is the operand's, tested at issue. -/
def State.bzReach (s : State) (o : TensorOp) (x n : Nat) : Except Trap Nat :=
  match capCheck o.cap x n 0 [pR, pENGINE] false with
  | some cause => .error ⟨cause, x, capInfo 4 o.reg, 0, false⟩
  | none =>
    match s.relResolve o.cap x with
    | some va => .ok va
    | none => .error ⟨causePERM, x, capInfo 4 o.reg, 0, false⟩

/-- What the pipe reads of an F8Z tensor in one clk, at most `room` bytes (R232): the state, the clk of translations, all that has
been read, and the ranges; or the trap. -/
def bzBeat (o : TensorOp) : Nat → Nat → State × Nat × List Byte × List (Nat × Nat) →
    State × Nat × Except Trap (List Byte × List (Nat × Nat))
  | 0, _, (s, w, got, rs) => (s, w, .ok (got, rs))
  | fuel + 1, room, (s, w, got, rs) =>
    match bzNext o.kb (o.vas.headD 0) got with
    | none => (s, w, .ok (got, rs))
    | some (x, n) =>
      let n := min n room
      if n = 0 then (s, w, .ok (got, rs))
      else
        match s.bzReach o x n with
        | .error t => (s, w, .error t)
        | .ok va =>
          match s.pipeRead o .noFmt va n with
          | (s, _, .error t) => (s, w, .error t)
          | (s, y, .ok b) => bzBeat o fuel (room - n) (s, w + y, got ++ b, rs ++ [(va, n)])

/-- Do this core's columns use a bank of these ranges in this clk (R40)? In a clk in which the core is frozen none does. -/
def State.pipeBlocked (s : State) (l : List (Nat × Nat)) : Bool :=
  let k := s.me
  !s.frozen s.hand.core && !k.bankUse.isEmpty &&
    (s.footprint l).any (fun p => k.usesBank k.vcc (bankOf (offOf p.phys)))

/-- Has a fault ended an operation's reading? -/
def State.topStopped (s : State) (c serial : Nat) : Bool :=
  (s.core c).tops.any (fun p => p.serial == serial && p.fault.isSome)

/-- MLDB's pipe has read its last byte: the buffer is written 4 clk after the beats (R232). -/
def State.loadDone (s : State) (o : TensorOp) (rows : List (Nat × Nat)) (beats flags : Nat) : State :=
  s.modMe (fun k =>
    let d := ((k.tops.find? (fun x => x.serial == o.serial)).map TensorOp.delay).getD 0
    let due := o.start + 4 + beats + d
    let k := (k.addFlags o.serial flags).land o.serial (due - k.vcc) o.slot [.bbuf o.fmt o.kb rows]
    { k with tops := k.tops.filter (fun x => x.serial != o.serial), colFree := mapPut k.colFree colT (max due (k.free colT)) })

/-- A load pipe meets a fault. -/
def State.pipeFail (s : State) (c serial : Nat) (t : Trap) : State :=
  s.modCore c (fun k => k.modTop serial (fun o => { o with fault := some t }))

/-- The bytes of an F8Z tensor read so far. -/
def TensorOp.gathered (o : TensorOp) : List Byte :=
  match o.rows with
  | (n, x) :: _ => leBytes n x
  | [] => []

/-- MLDB's next read of an F8Z tensor (R232): 128 bytes of its table and its blocks, one after another. -/
def State.bzRead (s : State) (o : TensorOp) : State :=
  let c := s.hand.core
  let got := o.gathered
  match bzBeat o 128 128 (s, 0, got, []) with
  | (s', _, .error t) => s'.pipeFail c o.serial t
  | (s', w, .ok (got, rs)) =>
    if s.pipeBlocked rs then s.pipeBank c o
    else
      let s := s'.pipeWait c o w
      if s.topStopped c o.serial then s
      else if (bzNext o.kb (o.vas.headD 0) got).isSome then
        s.modCore c (fun k =>
          { k.modTop o.serial (fun o => { o with next := o.next + 1, count := o.count + 1, rows := [(got.length, leNat got)] }) with
              colFree := mapPut k.colFree colT (k.free colT + 1) })
      else
        let (rows, fl) := (bzWalk (o.vas.headD 0) got o.kb 0 (tableBytes o.kb) [] 0).1
        s.loadDone o rows (o.next + 1) fl

/-- MLDB's next read (R232). -/
def State.loadRead (s : State) (o : TensorOp) : State :=
  let c := s.hand.core
  if o.bz then s.bzRead o
  else if s.pipeBlocked o.ranges then s.pipeBank c o
  else
    match s.pipeReads o o.fmt o.ranges with
    | (s, _, .error t) => s.pipeFail c o.serial t
    | (s, w, .ok bytes) =>
      let rb := 8 * fmtWidth o.fmt
      let first := o.next * (128 / rb)
      let rows := o.rows ++ (List.range (bytes.length / rb)).map (fun i => (first + i, leNat ((bytes.drop (i * rb)).take rb)))
      let s := s.modCore c (fun k => k.modTop o.serial (fun o => { o with next := o.next + 1, rows := rows }))
      let s := s.pipeWait c o w
      if o.next + 1 = o.count ∧ !s.topStopped c o.serial then s.loadDone o rows o.count 0 else s

/-- A chunk has been read: it lands later, and the instruction commits when it was the last (R233, R235). -/
def Core.chunkRead (k : Core) (serial : Nat) (lat : Nat) (bytes : List Byte) : Core :=
  match k.tops.find? (fun o => o.serial == serial) with
  | none => k
  | some o =>
    let due := o.start + (if o.gang then 20 else 12) + chunkClk o.fmt * (o.next - o.first + 1) + o.delay + lat
    let k := k.modTop serial (fun o => { o with data := o.data ++ [(o.next, (due, bytes))], next := o.next + 1, asked := none })
    if o.next + 1 = o.count then k.finish serial else k

/-- MMA's next chunk (R235). -/
def State.mmaRead (s : State) (o : TensorOp) : State :=
  let c := s.hand.core
  if s.pipeBlocked o.ranges then s.pipeBank c o
  else
    match s.pipeReads o o.fmt o.ranges with
    | (s, _, .error t) => s.pipeFail c o.serial t
    | (s, w, .ok bytes) =>
      let s := s.pipeWait c o w
      if s.topStopped c o.serial then s else s.modCore c (fun k => k.chunkRead o.serial 0 bytes)

/-! ## The tile-walk engine (R239) -/

/-- The operations of a gang's members that run with one member's. -/
def State.gangTops (s : State) (c : Nat) (o : TensorOp) : List (Nat × Nat) :=
  (gangCores (gangOf c)).filterMap (fun m =>
    ((s.core m).tops.find? (fun p => p.gang && p.start == o.start && p.next == o.next && p.fault.isNone)).map
      (fun p => (m, p.serial)))

/-- A translation through the die's last-level TLB, which a walk fills (R239, R321). -/
def State.tileTranslate (s : State) (c va : Nat) : State × Nat × Except (Nat × Nat) Reach :=
  match (s.core c).ctx with
  | none => (s, 0, .error (reasonDISABLED, 0))
  | some x =>
    match (mapGetD s.lltlb (dieOf c) []).find? (fun p => p.1 == x && p.2.covers va) with
    | some (_, t) => (s, 8, leafReach t.leaf.toNat va t.size true false)
    | none =>
      match s.walkNow x va with
      | (s, .error e) => (s, 0, .error e)
      | (s, .ok (leaf, size)) =>
        let (l, s) := s.draw
        let t : TlbEntry := ⟨va / size * size, size, BitVec.ofNat 64 leaf, false, 0⟩
        (s.llFill (dieOf c) x t, l, leafReach leaf va size true false)

/-- What the tile-walk engine meets at one range. -/
inductive TileRead where
  | bytes (b : List Byte)
  | page (t : Trap)
  | error (addr : Nat)
  | away (phys : Nat)
  | hold
  deriving DecidableEq, Repr

/-- One range read by the tile-walk engine: weight SRAM, scratchpad or HBM; an endpoint that is down answers DIE_DOWN, and one
that is being reset holds the request (R426). -/
def State.tileRead (s : State) (c : Nat) (o : TensorOp) (va n : Nat) : State × Nat × TileRead :=
  (pagesOf va n).foldl
    (fun (acc : State × Nat × TileRead) p =>
      match acc with
      | (s, w, .bytes bs) =>
        match s.tileTranslate c p with
        | (s, x, .error (reason, lvl)) => (s, w + x, .page ⟨causePENGINE, p, pageInfo 0 true false lvl reason, 1, false⟩)
        | (s, x, .ok r) =>
          let m := min (va + n) ((p / 65536 + 1) * 65536) - p
          let home := coreOf r.phys
          match reservedAt r.phys p (p + m) with
          | some a => (s, w + x, .page ⟨causePENGINE, a, pageInfo 0 true false 3 reasonINVALID, 1, false⟩)
          | none =>
          if !s.isHere r.phys then (s, w + x, if s.reaches (r.phys / 2 ^ 44) then .away r.phys else .error p)
          else if spaceOf r.phys = 2 ∨ (spaceOf r.phys = 0 ∧ offKind home (offOf r.phys) > 1) then
            (s, w + x, .page ⟨causePERM, p, capInfo 4 o.reg, 0, false⟩)
          else if spaceOf r.phys = 0 ∧ home ≠ c ∧ s.gate home c = 1 then (s, w + x, .hold)
          else if spaceOf r.phys = 0 ∧ home ≠ c ∧ s.gate home c = 2 then (s.dieDown home c r.phys, w + x, .error p)
          else if spaceOf r.phys = 1 ∧ !s.placeUp (keyOf r.phys) m then (s.stackDown (keyOf r.phys) m c r.phys, w + x, .error p)
          else
            let key := keyOf r.phys
            match s.onRead (s.core c).ctx key m p 0xFFFF 7 0 with
            | (s, some _) => (s, w + x, .error p)
            | (s, none) => (s, w + x, .bytes (bs ++ s.readPieces o.fmt [⟨p - va, key, m, r.af⟩]))
      | e => e) (s, 0, .bytes [])

/-- Is the memory of an address outside the gang, so that its delivery takes longer (R239)? -/
def State.tileFar (s : State) (c va : Nat) : Bool :=
  match (s.core c).ctx with
  | none => false
  | some x =>
    match s.walk x va with
    | .ok (leaf, _) =>
      let phys := leaf / 2 ^ 16 * 2 ^ 16
      !(s.isHere phys && spaceOf phys == 0 && coreOf phys < 4096 && gangOf (coreOf phys) == gangOf c)
    | .error _ => false

/-- The gang's next chunk, fetched for its lowest member and given to all sixteen. -/
def State.gangRead (s : State) (c : Nat) (o : TensorOp) : State :=
  let all := s.gangTops c o
  let each (s : State) (f : Nat → Nat → State → State) : State := all.foldl (fun s p => f p.1 p.2 s) s
  let fault (t : Trap) (s : State) : State :=
    each s (fun m n s => s.modCore m (fun k => k.modTop n (fun o => { o with fault := some t })))
  let (s, w, r) := o.ranges.foldl
    (fun (acc : State × Nat × TileRead) p =>
      match acc with
      | (s, w, .bytes bs) =>
        match s.tileRead c o p.1 p.2 with
        | (s, x, .bytes b) => (s, w + x, .bytes (bs ++ b))
        | (s, x, e) => (s, w + x, e)
      | e => e) (s, 0, TileRead.bytes [])
  match r with
  | .page t => fault t s
  | .error a => fault ⟨causeENGINE, a, 1, 0, true⟩ s
  | .away phys =>
    let s := s.emit .chip (phys / 2 ^ 44) phys []
    each s (fun m n s => s.modCore m (fun k => k.modTop n (fun o => { o with asked := some phys })))
  | .hold => each s (fun m n s => s.modCore m (fun k => k.modTop n (fun o => { o with delay := o.delay + 1 })))
  | .bytes bs =>
    let far := o.ranges.any (fun p => (pagesOf p.1 p.2).any (s.tileFar c))
    let (l, s) := if far then s.draw else (0, s)
    each s (fun m n s => s.modCore m (fun k => k.chunkRead n (w + l) bs))

/-- Does an operation not wait for another package, or can that no longer answer? -/
def State.tileDue (s : State) (o : TensorOp) : Bool :=
  match o.asked with
  | none => true
  | some a => !s.reaches (a / 2 ^ 44)

/-- The next read of a core's tensor operations, as the clk ends (R40). -/
def tensorReadStep (s : State) (c : Nat) : Option (State × List Instr) :=
  let k := s.core c
  if k.tops.isEmpty ∨ k.unit ≠ .running then none
  else
    match k.tops.find? (fun o => decide (o.next < o.count) && o.fault.isNone && s.tileDue o && decide (o.readAt ≤ k.vcc)) with
    | none => none
    | some o =>
      if o.gang then
        if (gangCores (gangOf c)).find? (fun m => (s.core m).tops.any (fun p => p.gang && p.start == o.start)) = some c then
          some (s.gangRead c o, [])
        else none
      else
        let s := { s with hand := { Hand.empty with core := c } }
        some (if o.load then s.loadRead o else s.mmaRead o, [])

/-! ## Chunks land (R233, R235, R236, R239) -/

/-- An operation is over: its slot decrements, RPR is written 0 (R237), and its flags are written, or with its commit when that is
still to come (R75). -/
def Core.topDone (k : Core) (clk : Nat) (o : TensorOp) : Core :=
  let k := if k.rob.any (fun r => r.serial == o.serial) then k.addFlags o.serial o.flags else k.setFlags clk o.flags
  let k := { k with tops := k.tops.filter (fun p => p.serial != o.serial) }
  let k := if o.load then k else k.setCv crRPR 0
  k.slotDec clk o.slot

/-- The vc in which an operation is over, or its load pipe's fault is taken: not before the chunks it has read have landed. -/
def TensorOp.endAt (o : TensorOp) : Nat :=
  if o.load then 0 else o.start + (if o.gang then 20 else 12) + chunkClk o.fmt * (o.next - o.first) + o.delay

/-- The chunk of an operation that lands in this vc. -/
def TensorOp.chunkDue (o : TensorOp) (vcc : Nat) : Bool :=
  match o.data with
  | (_, (due, _)) :: _ => decide (due ≤ vcc)
  | [] => false

/-- Is a landed write one of an accumulator? -/
def LogEntry.inAcc (e : LogEntry) : Bool :=
  match e.wr with
  | .acc .. => true
  | .accPut .. => true
  | _ => false

/-- What ended an operation's reading is taken now: TIMING leaves nothing of it; a page fault or CAP_PERM leaves the chunks
that have landed, with their flags, and RPR, and takes back a post-increment (R120); a response error ends it with an engine fault. -/
def State.topFault (s : State) (c : Nat) (o : TensorOp) (t : Trap) : State :=
  let rpr := 2 ^ 31 + (if o.gang then 2 ^ 30 else 0) + o.acc.val * 2 ^ 28 + o.pc % 4096 * 2 ^ 16 + o.next % 256
  if t.cause = causeENGINE then
    (s.modCore c (fun k => (k.topDone s.clk o).finish o.serial)).engineFault c 1 t.addr t.info
  else
    let e : QEntry := { QEntry.empty with serial := o.serial, pc := o.pc, block := o.block }
    let s := s.modCore c (fun k =>
      let k := { k.slotDec s.clk o.slot with tops := k.tops.filter (fun p => p.serial != o.serial) }
      if t.cause = causeTIMING then k
      else if o.load then { k with slice := { k.slice with bfmt := .noFmt } }
      else ((k.setFlags s.clk o.flags).keepWrites (fun e => e.serial == o.serial && e.inAcc)).setCv crRPR (BitVec.ofNat 64 rpr))
    ({ s with hand := { Hand.empty with core := c, entry := e } }).raise t

/-- The report of a mismatch that the umpire finds in a chunk (R49, R450, R451). -/
def State.chunkReport (s : State) (c : Nat) (o : TensorOp) (code : Nat) : State :=
  let (id, s) := s.newErrId
  s.errReport code 0 (s.core c).ctx id (s.instrPhys c o.pc) 12 (2 ^ 64 - 1) c 0 0

/-- CHUNK_LAND (R233): a chunk's updates land together; with the last, the operation is over; and what ended the reading is
taken when the instruction is the oldest. Bytes that come from outside are a chunk of A from another package, for the
gang of the core they name; a 1 or 2 from outside is a mismatch that the umpire finds in the chunk (R234). -/
def execChunkLand (s : State) : Res :=
  let c := s.hand.core
  if !s.hand.arg.bytes.isEmpty then
    match s.me.tops.find? (fun o => o.gang && o.asked.isSome) with
    | none => .next s
    | some o =>
      let late := s.me.vcc - o.readAt
      .next ((s.gangTops c o).foldl (fun s p => s.modCore p.1 (fun k => k.chunkRead p.2 late s.hand.arg.bytes)) s)
  else
    match s.hand.arg.a, s.me.tops.find? (fun o => !o.load) with
    | 1, some o => .next ((s.chunkReport c o 5).freezeGroup c (chunkClk o.fmt))
    | 2, some o =>
      .next (((s.chunkReport c o 6).freezeGroup c (chunkClk o.fmt)).modMe (fun k =>
        let t := k.pend.rollback.getD ⟨causeCHECKER, s.instrPhys c o.pc, 6 + 256 * o.lands, 0, true⟩
        { k with pend := { k.pend with rollback := some t } }))
    | _, _ =>
    match s.me.tops.find? (fun o => o.serial == s.hand.arg.ix) with
    | none => .next s
    | some o =>
      match o.data with
      | (n, (due, bytes)) :: rest =>
        if due ≤ s.me.vcc then
          let (cells, fl) := chunkCells o.fmt (s.me.ra o.acc) n bytes o.rows
          let tag := if o.fmt = .i8 then Fmt.i32 else .f32
          let s := s.landWr c o.serial (.acc o.acc tag cells)
          .next (s.modMe (fun k =>
            let o' := { o with data := rest, lands := n + 1, flags := o.flags ||| fl }
            let k := k.modTop o.serial (fun _ => o')
            if o'.lands = o'.count then k.topDone s.clk o' else k))
        else .next s
      | [] =>
        match o.fault with
        | some t => .next (s.topFault c o t)
        | none => .next (s.modMe (fun k => if o.first = o.count then k.topDone s.clk o else k))

/-- The landing that comes next among a core's tensor operations, the older instruction first (R240). -/
def tensorLandStep (s : State) (c : Nat) : Option (State × List Instr) :=
  let k := s.core c
  let ready (o : TensorOp) : Bool :=
    o.chunkDue k.vcc ||
      (o.data.isEmpty && decide (o.endAt ≤ k.vcc) &&
        (match o.fault with
          | some t => k.robHead == some o.serial || t.cause == causeENGINE
          | none => o.first == o.count))
  match k.tops.find? ready with
  | none => none
  | some o => some ({ s with hand := { Hand.empty with core := c, arg := { Arg.empty with ix := o.serial } } }, [.chunkLand])

/-! ## Accumulator access (R241 to R243) -/

/-- One element drained (R104): value pattern and count, with flags. -/
def drainElem (f : Fmt) (sat : Bool) (mode : Nat) (tag : Fmt) (x : BitVec 32 × Nat) : (Nat × Nat) × Nat :=
  let cnt := min x.2 32767
  let cf := flagIf (decide (32767 < x.2) && (mode == 0 || mode == 3)) flagSAT
  if mode = 3 then ((cnt, cnt), cf)
  else if x.2 = 0 then ((if mode = 2 then 0 else absentCode f, 0), 0)
  else
    let v := tRead tag x.1.toNat
    let (v, g) := if mode = 1 then numDiv v (.fin false x.2 1) else (v, v.sigFlag)
    let (b, h) := tWrite f sat v
    ((b, cnt), cf ||| g ||| h)

/-- MDRN (R241). -/
def execMdrn (f : VFn) (vd : VReg) (ak : AReg) (spec : Nat) (s : State) : Res :=
  let row := fld spec 0 5
  let mode := fld spec 5 2
  let clr := fld spec 7 1 == 1
  s.vGuarded colT [] (fun s =>
    let a := s.me.ra ak
    let want := if isFloatFmt f.fmt then Fmt.f32 else .i32
    if mode ≠ 3 ∧ a.tag ≠ want then s.formatTrap 4 a.tag f.fmt
    else
      let s := s.vOne colT 4 1
        (fun s => do
          let (s, mask, mf) ← s.maskOf
          let rs := (List.range 64).map (fun j => drainElem f.fmt f.sat mode a.tag (if a.tag = .noFmt then (0, 0) else a.at row j))
          let vals := rs.map (fun r => r.1.1)
          let next (i : Nat) : VReg := Fin.ofNat 32 (vd.val + i)
          let upper : Option VBits := mask.map (fun (b : VBits) => b >>> (32 : Nat))
          let wv : List Wr :=
            if mode = 3 then [s.vWrite vd .i16 mask f.policy vals]
            else if fmtWidth f.fmt = 32 then
              [s.vWrite vd f.fmt mask f.policy (vals.take 32), s.vWrite (next 1) f.fmt upper f.policy (vals.drop 32)]
            else if fmtWidth f.fmt = 16 then [s.vWrite vd f.fmt mask f.policy vals]
            else
              let top : VBits := BitVec.ofNat 1024 (2 ^ 1024 - 2 ^ 512)
              [.v vd f.fmt (packElems 8 (maskElems f.fmt mask vals)) (keepBits 8 64 mask f.policy) top s.lExpiry]
          let wc : List Wr :=
            if mode = 0 then [s.vWrite (next (if fmtWidth f.fmt = 32 then 2 else 1)) .i16 mask f.policy (rs.map (fun r => r.1.2))]
            else []
          let nx : List Wr := if clr then [.accClearRow ak row] else []
          return (s, { StepOut.empty with wrs := wv ++ wc, next := nx, flags := mf ||| maskFlags mask (rs.map (·.2)) }) :
          State → Except State (State × StepOut))
      s.modMe (fun k => k.occupy 8 4))

/-- MRDR (R242). -/
def execMrdr (_f : VFn) (vd : VReg) (ak : AReg) (row : Int) (s : State) : Res :=
  s.vGuarded colT [] (fun s =>
    let a := s.me.ra ak
    let xs := (List.range 64).map (fun j => if a.tag = .noFmt then (0, 0) else a.at row.toNat j)
    let vals := xs.map (fun x => x.1.toNat)
    let wr (i : Nat) (f : Fmt) (w : Nat) (l : List Nat) : Wr := .v (Fin.ofNat 32 (vd.val + i)) f (packElems w l) 0 0 s.lExpiry
    let s := s.vOne colT 3 1 (fun s => .ok (s, { StepOut.empty with
      wrs := [wr 0 a.tag 32 (vals.take 32), wr 1 a.tag 32 (vals.drop 32), wr 2 .i16 16 (xs.map (·.2))] }))
    s.modMe (fun k => k.occupy 8 3))

/-- MWRR (R242). -/
def execMwrr (_f : VFn) (ak : AReg) (va : VReg) (row : Int) (s : State) : Res :=
  let r (i : Nat) : VReg := Fin.ofNat 32 (va.val + i)
  s.vGuarded colT [va, r 1, r 2] (fun s =>
    let k := s.me
    let x0 := k.rv va
    let x1 := k.rv (r 1)
    let x2 := k.rv (r 2)
    let a := k.ra ak
    let okTag := x0.fmt = .noFmt ∨ x0.fmt = .f32 ∨ x0.fmt = .i32
    if ¬okTag then s.formatTrap 4 x0.fmt .f32
    else if x1.fmt ≠ x0.fmt then s.formatTrap 4 x1.fmt x0.fmt
    else if x2.fmt ≠ .i16 then s.formatTrap 4 x2.fmt .i16
    else if a.tag ≠ .noFmt ∧ x0.fmt ≠ a.tag then s.formatTrap 4 x0.fmt a.tag
    else
      let ef := flagIf ([va, r 1, r 2].any k.vExpired) flagEXP
      let vals := elems x0.bits 32 ++ elems x1.bits 32
      let cnts := (elems x2.bits 16).map (fun c => if c ≥ 0x8000 then 0 else c)
      let cells := (List.range 64).map (fun j => (64 * row.toNat + j, (BitVec.ofNat 32 (vals.getD j 0), cnts.getD j 0)))
      let wrs : List Wr :=
        if x0.fmt = .noFmt then []
        else if a.tag = .noFmt then [.accPut ak (cells.foldl (fun a p => a.put p.1 p.2) ⟨x0.fmt, []⟩)]
        else [.acc ak a.tag cells]
      (s.issue colT 1 1 ef wrs).modMe (fun k => k.occupy 8 1))

/-- The tag code of an accumulator in MSTAT. -/
def accCode (f : Fmt) : Nat := if f = .f32 then 1 else if f = .i32 then 2 else 0

/-- MSTAT (R243). -/
def execMstat (_f : VFn) (gd : GReg) (s : State) : Res :=
  s.guarded colT (fun s =>
    let k := s.me
    let busy (i : Nat) : Bool :=
      k.tops.any (fun o => !o.load && o.acc.val == i) || (match k.vredq with
        | some v => v.acc.val == i
        | none => false)
    let v := (List.range 4).foldl
      (fun v i => v + (if busy i then 2 ^ (40 + i) else 0) + accCode (k.ra (Fin.ofNat 4 i)).tag * 2 ^ (32 + 2 * i)) 0
    let v := v + fmtCode k.slice.bfmt * 2 ^ 28 + (if k.slice.bz then 2 ^ 27 else 0) + k.slice.kb * 2 ^ 16 + k.slice.kcfg * 2 ^ 5
    s.tIssue 1 [.g gd (GVal.data (BitVec.ofNat 64 v))])

/-- MRST (R240, R243): it waits until no T operation or VREDQ of the core is incomplete. -/
def execMrst (_f : VFn) (mask : Nat) (s : State) : Res :=
  s.guarded colT (fun s =>
    let k := s.me
    if !k.tops.isEmpty || k.vredq.isSome || decide (k.vcc < k.free 8) ||
        k.landings.any (fun l => match l.wr with
          | .bbuf .. => true
          | _ => false) then s.requeue colT
    else
      let accs := (List.range 4).filterMap (fun i =>
        if fld mask i 1 = 1 then some (Wr.accPut (Fin.ofNat 4 i) Acc.empty) else none)
      let cfg := if fld mask 4 1 = 1 then [Wr.slice 0 false 0 0, Wr.bbuf .noFmt 0 []] else []
      let rpr := if fld mask 5 1 = 1 then [Wr.cr crRPR 0] else []
      s.tIssue 1 (accs ++ cfg ++ rpr))

end Sys2Proof.Machine
end

