-- ==== Sys2Proof/Machine/Copy.lean ====
section
/-! DEFINITION. The C column (R244 to R265): what copy operations, SEND, MCAST, CMUT, CPYW, CPYQ, RECV and SQTAG check and do
when they issue. The beats that follow stand in Machine/CopyEngine.lean. -/

namespace Sys2Proof.Machine

/-! ## Sides (R246, R247, R258) -/

/-- The length operand (R245). -/
def Core.copyLen (k : Core) (l : GImm) : Nat := (k.gimm l).toNat % 2 ^ 32

/-- A handle side over n bytes (R246). -/
def State.copyHandle (s : State) (field : Nat) (g : GReg) (h : Word) (n : Nat) (wr : Bool) : VRes (List CPiece) :=
  match s.handleSide (s.me.ctx.getD 0) h n wr with
  | .error cause => .error (s.trap cause h.toNat (capInfo field g))
  | .ok (phys, mt) => .ok (s, if n = 0 then [] else [⟨phys, none, n, false, mt⟩])

/-- What a part of a local side may be (R247): the trap's cause, or none. -/
def State.localRefuses (s : State) (allowI : Bool) (p : CPiece) : Option Nat :=
  if !s.isOwn s.hand.core p.phys then some causePERM
  else match offKind s.hand.core (offOf p.phys) with
    | 0 => none
    | 1 => none
    | 2 => if allowI then none else some causeALIGN
    | _ => some causeALIGN

/-- A local side of n bytes at x (R247): its parts and the clk of its translation. -/
def State.copyLocal (s : State) (cap : GVal) (field : Nat) (g : GReg) (x n align : Nat) (wr : Bool) (more : List Nat)
    (allowI : Bool) : VRes (Nat × List CPiece) :=
  s.rangeSide cap field g x n align (!wr) wr ([if wr then pW else pR, pENGINE] ++ more) causePLOAD (s.localRefuses allowI)

/-- Armed lines of a side that is read are cleared. -/
def State.copyDisarm (s : State) (ps : List CPiece) : State :=
  ps.foldl (fun s p => s.disarm (keyOf p.phys) p.len) s

/-! ## Beats (R250) -/

/-- The contribution areas of R441, as an offset in device control space. -/
def inContribution (phys : Nat) : Bool :=
  spaceOf phys == 2 && decide (0x1000000 ≤ phys % 2 ^ 42) && decide (phys % 2 ^ 42 < 0x11000000)

/-- The parts of a side that bytes [lo, lo + n) of it lie in. -/
def cutPieces : List CPiece → Nat → Nat → List CPiece
  | [], _, _ => []
  | p :: t, lo, n =>
    if n = 0 then []
    else if p.len ≤ lo then cutPieces t (lo - p.len) n
    else
      let m := min n (p.len - lo)
      ⟨p.phys + lo, p.va.map (· + lo), m, p.af, p.mt⟩ :: cutPieces t 0 (n - m)

/-- The beats of a destination part: aligned units of 128 bytes, or 256 in a contribution area. -/
def beatsOfPiece (srcs : List CPiece) (p : CPiece) (off : Nat) : List Beat :=
  let u := if inContribution p.phys then 256 else 128
  let first := p.phys / u
  (List.range ((p.phys + p.len + u - 1) / u - first)).map (fun i =>
    let lo := max p.phys ((first + i) * u)
    let hi := min (p.phys + p.len) ((first + i + 1) * u)
    let o := off + (lo - p.phys)
    ⟨o, hi - lo, lo, p.va.map (· + (lo - p.phys)), p.mt, cutPieces srcs o (hi - lo)⟩)

/-- The beats of a destination, in ascending order. -/
def beatsOf (srcs : List CPiece) : List CPiece → Nat → List Beat
  | [], _ => []
  | p :: t, off => beatsOfPiece srcs p off ++ beatsOf srcs t (off + p.len)

/-! ## Issuing a copy operation (R245, R248, R249) -/

/-- The ranges of physical addresses of a side. -/
def cranges (ps : List CPiece) : List (Nat × Nat) := ps.map (fun p => (p.phys, p.len))
def rangesMeet (a b : List (Nat × Nat)) : Bool :=
  a.any (fun x => b.any (fun y => decide (x.1 < y.1 + y.2) && decide (y.1 < x.1 + x.2)))

/-- Must an operation wait for an earlier one (R249, R259)? -/
def CopyOp.waitsFor (o p : CopyOp) : Bool :=
  rangesMeet o.writes (p.writes ++ p.reads) || rangesMeet o.reads p.writes ||
    (match o.kind, p.kind with
      | .sendq t k, .sendq u j => t == u && k == j
      | _, _ => false)

/-- The lock entry of a group. -/
def Core.groupLock (k : Core) (g : Nat) : Option Nat := (k.locks.find? (fun p => p.2.owner == LockOwner.group g)).map (·.1)

/-- A copy operation issues: descriptor, group, range-lock entry, slot. `lr` and `lw` are its local sides read and
written; it waits at the head of the C queue where R245 and R248 say so, and checks the armed lines of what it reads as it
issues (R266). -/
def State.copyIssue (s : State) (w : Nat) (post : List Wr) (lr lw : List CPiece) (o : CopyOp) : State :=
  let k := s.me
  let e := s.ent
  let local_ := lr ++ lw
  let tensorHit := local_.any (fun p => k.locks.any (fun q =>
    (match q.2.owner with
      | .tensor _ => true
      | .group _ => false) && hullHits q.2.rd (offOf p.phys) p.len))
  let entry := (k.groupLock o.group).orElse (fun _ => k.freeLock)
  if k.descs.length ≥ 1024 ∨ tensorHit ∨ (entry.isNone ∧ !local_.isEmpty) then s.requeue colC
  else
    match s.waitClk w with
    | (s, _, true) => s
    | (s, w, false) =>
    match s.armedTrap lr with
    | some t => s.raise t
    | none =>
      let (l, s) := s.draw
      let s := s.copyDisarm lr
      let id := k.opId
      let empty := o.streams.all List.isEmpty && o.dsts.isEmpty
      let o := { o with
        slot := e.head.set, serial := e.serial, tag := fld e.stamp 0 8
        after := (k.descs.filter (fun p => o.waitsFor p.2)).map (·.1)
        since := s.clk, due := s.clk + 1 + (if empty then 0 else w + l) }
      s.modMe (fun k =>
        let k := ((k.slotInc s.clk e.head.set).occupy colC (1 + w)).finish e.serial
        let k := post.foldl (fun k p => k.landAt e.serial 1 p) k
        let g := mapGetD k.groups o.group ⟨0, none⟩
        let k := { k with opId := id + 1, descs := mapPut k.descs id o, groups := mapPut k.groups o.group { g with count := g.count + 1 } }
        match entry with
        | some i =>
          if local_.isEmpty then k
          else
            let old : Lock := mapGetD k.locks i ⟨.group o.group, none, none⟩
            { k with locks := mapPut k.locks i ⟨.group o.group, hullOver old.rd lr, hullOver old.wr lw⟩ }
        | none => k)

/-- An operation with nothing set. -/
def CopyOp.base (kind : CopyKind) (cls group : Nat) : CopyOp :=
  { kind := kind, cls := cls, group := group, slot := none, serial := 0, tag := 0, streams := [], reads := [], writes := [],
    after := [], srcs := [], dsts := [], whole := false, held := none, asked := false, due := 0, since := 0,
    stall := none, flags := 0, acked := 0, away := none, err := none }

/-- A plain move from one side to another. -/
def CopyOp.moveOp (cls group : Nat) (src dst : List CPiece) : CopyOp :=
  { CopyOp.base .move cls group with streams := [beatsOf src dst 0], reads := cranges src, writes := cranges dst }

/-- What an issue answers. -/
def issued (r : Except State State) : State :=
  match r with
  | .ok s => s
  | .error s => s

/-! ## CPY and CPYS (R251, R252) -/

/-- CPY.IN (R251). -/
def execCpyIn (grp : Fin 16) (m : MemOp) (gh : GReg) (len : GImm) (s : State) : Res :=
  s.guarded colC (fun s =>
    let n := s.me.copyLen len
    let x := s.me.memAddr m 128
    let post := s.me.postInc m 128
    issued (do
      let (s, w, dst) ← s.copyLocal (s.me.rg m.g) 3 m.g x n 0 true [] true
      let (s, src) ← s.copyHandle 4 gh (s.me.rgv gh) n false
      return s.copyIssue w post [] dst (CopyOp.moveOp 0 grp.val src dst)))

/-- CPY.OUT (R251). -/
def execCpyOut (grp : Fin 16) (m : MemOp) (gh : GReg) (len : GImm) (s : State) : Res :=
  s.guarded colC (fun s =>
    let n := s.me.copyLen len
    let x := s.me.memAddr m 128
    let post := s.me.postInc m 128
    issued (do
      let (s, w, src) ← s.copyLocal (s.me.rg m.g) 3 m.g x n 0 false [] true
      let (s, dst) ← s.copyHandle 4 gh (s.me.rgv gh) n true
      return s.copyIssue w post src [] (CopyOp.moveOp 0 grp.val src dst)))

/-- CPY.LL (R249, R251): sides that overlap are read whole before a byte is written. -/
def execCpyLl (grp : Fin 16) (m : MemOp) (gc : GReg) (len : GImm) (s : State) : Res :=
  s.guarded colC (fun s =>
    let n := s.me.copyLen len
    let x := s.me.memAddr m 128
    let post := s.me.postInc m 128
    issued (do
      let (s, w2, dst) ← s.copyLocal (s.me.rg m.g) 3 m.g x n 0 true [] true
      let (s, w1, src) ← s.copyLocal (s.me.rg gc) 4 gc (s.me.rgv gc).toNat n 0 false [] true
      let o := CopyOp.moveOp 0 grp.val src dst
      return s.copyIssue (w1 + w2) post src dst { o with whole := rangesMeet o.reads o.writes, srcs := src }))

/-- CPYS.IN and CPYS.OUT (R252): each row is checked in turn, and has its beats. -/
def execRows (wr : Bool) (grp : Fin 16) (m : MemOp) (gh gb : GReg) (s : State) : Res :=
  s.guarded colC (fun s =>
    let a := (s.me.rgv gb).toNat
    let b := (s.me.rgv (Fin.ofNat 64 (gb.val + 1))).toNat
    let n := fld a 0 32
    let rows := fld a 32 16
    let x := s.me.memAddr m 128
    let h := (s.me.rgv gh).toNat
    let post := s.me.postInc m 128
    issued (do
      let start : State × Nat × List CPiece × List CPiece × List Beat := (s, 0, [], [], [])
      let (s, w, ls, hs, bs) ← (List.range rows).foldlM
        (fun (acc : State × Nat × List CPiece × List CPiece × List Beat) (i : Nat) => (do
          let (s, w, ls, hs, bs) := acc
          let hw := setFld h 0 48 (wrap 48 ((fld h 0 48 : Nat) + (i : Int) * sext 32 (fld b 32 32)))
          let la := wrap 64 ((x : Int) + (i : Int) * sext 32 (fld b 0 32))
          let (s, v, lp) ← s.copyLocal (s.me.rg m.g) 3 m.g la n 0 wr [] true
          let (s, hp) ← s.copyHandle 4 gh (BitVec.ofNat 64 hw) n (!wr)
          let row := if wr then beatsOf hp lp 0 else beatsOf lp hp 0
          return (s, w + v, ls ++ lp, hs ++ hp, bs ++ row) :
          Except State (State × Nat × List CPiece × List CPiece × List Beat))) start
      let o := CopyOp.base .move 0 grp.val
      if wr then
        return s.copyIssue w post [] ls { o with streams := [bs], reads := cranges hs, writes := cranges ls }
      else return s.copyIssue w post ls [] { o with streams := [bs], reads := cranges ls, writes := cranges hs }))

/-- CPYS.IN (R252). -/
def execCpysIn (grp : Fin 16) (m : MemOp) (gh gb : GReg) (s : State) : Res := execRows true grp m gh gb s
/-- CPYS.OUT (R252). -/
def execCpysOut (grp : Fin 16) (m : MemOp) (gh gb : GReg) (s : State) : Res := execRows false grp m gh gb s

/-! ## CPYF (R253) -/

/-- A fill of n bytes with a pattern of 8 bytes. -/
def State.fillIssue (s : State) (grp : Fin 16) (m : MemOp) (n align : Nat) (pattern : List Byte) : State :=
  let x := s.me.memAddr m 128
  let post := s.me.postInc m 128
  issued (do
    if (capCheck (s.me.rg m.g) x n align [pW, pENGINE] false).isNone && decide (align ≠ 0) && n % align != 0 then
      Except.error (s.trap causeALIGN x (capInfo 3 m.g))
    else
      let (s, w, dst) ← s.copyLocal (s.me.rg m.g) 3 m.g x n align true [] false
      return s.copyIssue w post [] dst
        { CopyOp.base (.fill pattern) 0 grp.val with streams := [beatsOf [] dst 0], writes := cranges dst })

/-- CPYF (R253). -/
def execCpyf (grp : Fin 16) (fmt : Fmt) (m : MemOp) (len : GImm) (s : State) : Res :=
  s.guarded colC (fun s =>
    let wb := fmtWidth fmt / 8
    s.fillIssue grp m (s.me.copyLen len) wb ((List.replicate (8 / wb) (leBytes wb (absentCode fmt))).flatten))
/-- CPYF.PAT (R253). -/
def execCpyfPat (grp : Fin 16) (m : MemOp) (ga : GReg) (len : GImm) (s : State) : Res :=
  s.guarded colC (fun s => s.fillIssue grp m (s.me.copyLen len) 0 (leBytes 8 (s.me.rgv ga).toNat))

/-! ## CPYW and CPYQ (R254, R255) -/

/-- CPYW (R254). -/
def execCpyw (mask : GJ) (s : State) : Res :=
  s.guarded colC (fun s =>
    let m := match mask with
      | .reg g => (s.me.rgv g).toNat % 65536
      | .joined v => v % 65536
    let l := (s.me.descs.filter (fun p => fld m p.2.group 1 == 1)).map (·.1)
    if l.isEmpty then (s.issueAsync colC 1 colC .plain (some (s.clk + 1))).2
    else (s.issueAsync colC 1 colC (.cpyw l) none).2)

/-- The value CPYQ reads. -/
def Core.copyStatus (k : Core) (g : Nat) : Word :=
  let r := mapGetD k.groups g ⟨0, none⟩
  BitVec.ofNat 64 ((if r.fault.isSome then 2 ^ 32 else 0) + k.descs.length * 2 ^ 16 + r.count)

/-- CPYQ (R255). -/
def execCpyq (grp : Fin 16) (gd : GReg) (s : State) : Res :=
  s.guarded colC (fun s => s.issue colC 1 1 0 [.g gd (GVal.data (s.me.copyStatus grp.val))])
/-- CPYQ.C (R255): a FAULT set in this clk survives. -/
def execCpyqC (grp : Fin 16) (gd : GReg) (s : State) : Res :=
  s.guarded colC (fun s =>
    let v := s.me.copyStatus grp.val
    let keep := match (mapGetD s.me.groups grp.val ⟨0, none⟩).fault with
      | some t => t == s.clk
      | none => true
    let s := if keep then s else s.landWr s.hand.core s.ent.serial (.copyFault grp.val none)
    s.issue colC 1 1 0 [.g gd (GVal.data v)])

/-! ## CMUT (R256) -/

/-- The format of a layout. -/
def layoutFmt : Layout → Fmt
  | .f8z => .f8
  | .f32 => .f32
  | .bf16 => .bf16
  | .f16 => .f16
  | .f8 => .f8
  | .f8w => .f8w

/-- The bytes of the block-offset table of n elements (R95), and the longest tensor they give (R256). -/
def f8zTable (n : Nat) : Nat := 8 * ((n + 127) / 128)
def f8zLongest (n : Nat) : Nat := f8zTable n + 72 * (n / 64)

/-- CMUT (R256). -/
def execCmut (grp : Fin 16) (lay : Layout) (m : MemOp) (gh gp : GReg) (s : State) : Res :=
  s.guarded colC (fun s =>
    let r (i : Nat) : Nat := (s.me.rgv (Fin.ofNat 64 (gp.val + i))).toNat
    let n := fld (r 0) 0 32
    let p : Mutation := ⟨n, fld (r 0) 32 24, r 1, r 2, fld (r 3) 0 32, fld (r 3) 32 16, lay⟩
    let x := s.me.memAddr m 128
    let post := s.me.postInc m 128
    if lay = .f8z ∧ n % 64 ≠ 0 then s.trap causeBOUNDS (s.me.rgv gh).toNat (capInfo 5 gp)
    else
      let hn := if lay = .f8z then f8zTable n else n * (fmtWidth (layoutFmt lay) / 8)
      let ln := if lay = .f8z then f8zLongest n else hn
      issued (do
        let (s, w, dst) ← s.copyLocal (s.me.rg m.g) 3 m.g x ln 0 true [] false
        let (s, src) ← s.copyHandle 4 gh (s.me.rgv gh) hn false
        -- an F8Z source reaches from the table to the end of its entry
        let reads := match s.handle (s.me.ctx.getD 0) (fld (s.me.rgv gh).toNat 48 16) with
          | some e =>
            if lay = .f8z then [(e.base + fld (s.me.rgv gh).toNat 0 48, e.len - fld (s.me.rgv gh).toNat 0 48)] else cranges src
          | none => cranges src
        let src := if lay = .f8z then reads.map (fun q => ⟨q.1, none, q.2, false, (src.head?.map CPiece.mt).getD 0⟩) else src
        return s.copyIssue w post [] dst
          { CopyOp.base (if n = 0 then .move else .cmut p) 1 grp.val with srcs := src, dsts := dst, reads := reads, writes := cranges dst }))

/-! ## MCAST (R257) -/

/-- The fields of GROUP_RECT (R76): first row, first column, height, width, and whether it holds gateways. -/
def rectOf (v : Nat) : Nat × Nat × Nat × Nat × Bool := (fld v 0 8, fld v 8 4, fld v 12 9, fld v 21 5, fld v 26 1 == 1)

/-- The core at a row and column of a group's rectangle. -/
def rectCore (v r c : Nat) : Nat :=
  let (r0, c0, _, _, gw) := rectOf v
  if gw then 4096 + 8 * (r0 + r) + c0 + c else (r0 + r) / 32 * 512 + (r0 + r) % 32 * 16 + c0 + c

/-- MCAST (R257). -/
def execMcast (grp : Fin 16) (gr : GReg) (m : MemOp) (len : GImm) (s : State) : Res :=
  s.guarded colC (fun s =>
    let n := s.me.copyLen len
    let d := (s.me.rgv gr).toNat
    let rect := (s.me.cv crRECT).toNat
    let (_, _, h, w, gw) := rectOf rect
    let frow := fld d 0 8
    let nrow := fld d 8 8 + 1
    let fcol := fld d 16 4
    let ncol := fld d 20 4 + 1
    let off := fld d 24 20
    let x := s.me.memAddr m 128
    let post := s.me.postInc m 128
    let top := if gw then 0x10000 else 0x40000
    let fits := decide (off + n ≤ top) || (decide (0x40000 ≤ off) && decide (off + n ≤ 0x58000))
    issued (do
      if h = 0 ∨ w = 0 then Except.error (s.trap causePERM d (capInfo 3 gr))
      else if frow + nrow > h ∨ fcol + ncol > w ∨ !fits then Except.error (s.trap causeBOUNDS d (capInfo 3 gr))
      else
        let (s, wt, src) ← s.copyLocal (s.me.rg m.g) 4 m.g x n 0 false [pREMOTE] false
        let cs := (List.range nrow).flatMap (fun i => (List.range ncol).map (fun j => rectCore rect (frow + i) (fcol + j)))
        let dst (c : Nat) : List CPiece := if n = 0 then [] else [⟨s.phys (coreKey c off), none, n, false, 0⟩]
        let own := if cs.contains s.hand.core then dst s.hand.core else []
        let o := { CopyOp.base .move 2 grp.val with
          streams := cs.map (fun c => beatsOf src (dst c) 0), reads := cranges src, writes := cs.flatMap (fun c => cranges (dst c)) }
        return s.copyIssue wt post src own { o with whole := rangesMeet o.reads o.writes, srcs := src }))

/-! ## SEND (R258, R259) -/

/-- Where a SEND may not go (R258, R259): outside core space; without a queue, outside weight SRAM and scratchpad. -/
def sendRefuses (queue : Bool) (p : CPiece) : Option Nat :=
  if spaceOf p.phys ≠ 0 then some causePERM
  else if !queue && decide (2 ≤ offKind (coreOf p.phys) (offOf p.phys)) then some causeALIGN
  else none

/-- A destination of SEND (R258). -/
def State.sendDst (s : State) (cap : GVal) (g : GReg) (x n : Nat) (queue : Bool) : VRes (Nat × List CPiece) :=
  s.rangeSide cap 3 g x n 0 false true [pW, pENGINE] causePENGINE (sendRefuses queue)

/-- SEND (R258). -/
def execSend (grp : Fin 16) (dst src : MemOp) (len : GImm) (s : State) : Res :=
  s.guarded colC (fun s =>
    let n := s.me.copyLen len
    let post := s.me.postInc dst 128 ++ s.me.postInc src 128
    let xd := s.me.memAddr dst 128
    let xs := s.me.memAddr src 128
    issued (do
      let (s, w2, dp) ← s.sendDst (s.me.rg dst.g) dst.g xd n false
      let (s, w1, sp) ← s.copyLocal (s.me.rg src.g) 4 src.g xs n 0 false [] false
      let own := dp.filter (fun p => s.isOwn s.hand.core p.phys)
      let o := CopyOp.moveOp 3 grp.val sp dp
      return s.copyIssue (w1 + w2) post sp own { o with whole := rangesMeet o.reads o.writes, srcs := sp }))

/-- SEND.Q (R259). -/
def execSendQ (grp : Fin 16) (k : Fin 8) (dst src : MemOp) (len : GImm) (s : State) : Res :=
  s.guarded colC (fun s =>
    let n := s.me.copyLen len
    let post := s.me.postInc dst 128 ++ s.me.postInc src 128
    let xd := s.me.memAddr dst 128
    let xs := s.me.memAddr src 128
    issued (do
      let (s, w2, dp) ← s.sendDst (s.me.rg dst.g) dst.g xd 1 true
      if n % 128 ≠ 0 then Except.error (s.trap causeALIGN ((dp.findSome? CPiece.va).getD xd) (capInfo 3 dst.g))
      else
        let (s, w1, sp) ← s.copyLocal (s.me.rg src.g) 4 src.g xs n 0 false [] false
        let phys := (dp.map CPiece.phys).headD 0
        let mt := (dp.head?.map CPiece.mt).getD 0
        let home := phys / 2 ^ 20 * 2 ^ 20
        let bs : List Beat := (List.range (n / 128)).map (fun i =>
          ⟨128 * i, 128, home, (dp.head?.bind CPiece.va).orElse (fun _ => some xd), mt, cutPieces sp (128 * i) 128⟩)
        return s.copyIssue (w1 + w2) post sp []
          { CopyOp.base (.sendq (phys / 2 ^ 29) k.val) 3 grp.val with streams := [bs], reads := cranges sp }))

/-! ## RECV (R260, R261) -/

def RecvQ.empty : RecvQ := ⟨[], 0, 0⟩
def Core.recvQ (k : Core) (i : Nat) : RecvQ := mapGetD k.rqs i RecvQ.empty

/-- RECV (R260): it pops when it issues; while nothing is there it raises TIMING in a strict block, and else waits at the head
of the C queue. -/
def execRecv (fmt : Fmt) (vd : VReg) (q : Int) (s : State) : Res :=
  s.guarded colC (fun s =>
    let i := q.toNat
    let r := s.me.recvQ i
    if 16 ≤ r.popped then s.trap causeSCHEDULE 0 i
    else
      match r.vecs[r.popped]? with
      | none =>
        if (s.ent.block.map (·.2)) = some true then s.timing (s.me.vcc - s.me.issueLimit colC s.ent) 5
        else s.requeue colC
      | some x =>
        let s := s.landWr s.hand.core s.ent.serial (.pop i 1)
        s.issue colC 3 1 0 [.v vd fmt x 0 0 s.lExpiry])

/-! ## SQTAG (R265) -/

/-- What SQTAG refuses (R265): a part outside the scratchpad. -/
def State.tagRefuses (s : State) (p : CPiece) : Option Nat :=
  if s.isOwn s.hand.core p.phys && offKind s.hand.core (offOf p.phys) == 1 then none else some causeBOUNDS

/-- SQTAG and SQTAG.CLR: the lines they cover. -/
def State.tagLines (s : State) (m : MemOp) (len : GImm) (arm : Bool) : State :=
  let n := s.me.copyLen len
  let x := s.me.memAddr m 128
  let post := s.me.postInc m 128
  let expect := fld s.ent.stamp 8 8
  match s.rangeSide (s.me.rg m.g) 3 m.g x n 0 true false [pR] causePLOAD s.tagRefuses with
  | .error t => t
  | .ok (s, w, ps) =>
    match s.waitClk w with
    | (s, _, true) => s
    | (s, w, false) =>
      let ls := (ps.flatMap (fun p => unitsOf 128 (keyOf p.phys) p.len)).map (· * 128)
      let wr := ls.map (fun a => (a, (if arm then expect else (s.lineAt a).expect, arm)))
      s.issue colC (1 + w) (1 + w) 0 (.lines wr :: post)

/-- SQTAG (R265). -/
def execSqtag (m : MemOp) (len : GImm) (s : State) : Res := s.guarded colC (fun s => s.tagLines m len true)
/-- SQTAG.CLR (R265). -/
def execSqtagClr (m : MemOp) (len : GImm) (s : State) : Res := s.guarded colC (fun s => s.tagLines m len false)

end Sys2Proof.Machine
end

