-- ==== Sys2Proof/Machine/Mutate.lean ====
section
/-! DEFINITION. Copying with mutation (R256, R414): the noise, the perturbation of an element, of a run of elements, and of
an F8Z tensor. -/

namespace Sys2Proof.Machine

/-- The hash of an element (R414). -/
def Mutation.hash (m : Mutation) (e : Nat) : Nat :=
  mix64 (m.seed ^^^ mix64 m.child ^^^ (e * 0xD1B54A32D192ED03 % 2 ^ 64))

/-- Noise (R414): rounded once to F32, with no flag. -/
def Mutation.noise (m : Mutation) (e : Nat) : Num :=
  let h := m.hash e
  let t : Int := ((fld h 0 16 + fld h 16 16 + fld h 32 16 + fld h 48 16 : Nat) : Int) - 131070
  let r3 := (readElem .f32 0x3FDDB3D7).frac
  (roundF32 (.ofFrac false (((⟨t, 1⟩ : Frac).scale (-16)).mul r3))).1

/-- Perturb (R414, R256): the element written in place of w, and flags. -/
def Mutation.perturb (m : Mutation) (w e : Nat) : Nat × Nat :=
  let f := layoutFmt m.lay
  let sg := readElem .f32 m.sigma
  let x := readElem f w
  if elemAbsent f w ∨ sg.isAbsent ∨ sg.isNan then (w, 0)
  else match x with
    | .nan _ => ((writeElem f false false (.nan false)).1, 0)
    | .inf _ => (w, 0)
    | _ =>
      if m.thresh ≠ 0 ∧ m.thresh ≤ fld (mix64 (m.hash e)) 0 16 then (w, 0)
      else writeElem f false true (numFma sg (m.noise e) x).1

/-- A run of elements from the one with number k in the copy on, given as bytes. -/
def Mutation.run (m : Mutation) (k : Nat) (bytes : List Byte) : List Byte × Nat :=
  let wb := fmtWidth (layoutFmt m.lay) / 8
  (List.range (bytes.length / wb)).foldl
    (fun acc i =>
      let (b, f) := m.perturb (leNat ((bytes.drop (wb * i)).take wb)) (m.e0 + k + i)
      (acc.1 ++ leBytes wb b, acc.2 ||| f)) ([], 0)

/-- One F8Z block, re-encoded (R91 to R94): `rd off n` reads n bytes of the tensor, and answers none past its end. The
error is the offset of the block. -/
def Mutation.block (m : Mutation) (rd : Nat → Nat → Option (List Byte)) (b off : Nat) : Except Nat (List Byte × Nat) := do
  let (xs, f) ← (if off % 8 ≠ 0 then pure (List.replicate 64 0x80, flagINV)
    else match rd off 4 with
      | none => .error off
      | some h =>
        match rd off (bzLength h) with
        | none => .error off
        | some bs => pure (f8zDecode bs) : Except Nat (List Nat × Nat))
  let ys := (xs.zipIdx).map (fun p => m.perturb p.1 (m.e0 + 64 * b + p.2))
  return (f8zEncode (ys.map (·.1)), ys.foldl (fun a y => a ||| y.2) f)

/-- A whole F8Z tensor of n elements (R95): its blocks one after the other behind their table; or the first offset that
cannot be read. -/
def Mutation.tensor (m : Mutation) (rd : Nat → Nat → Option (List Byte)) : Except Nat (List Byte × Nat) :=
  let nb := m.n / 64
  let top := f8zTable m.n
  match rd 0 top with
  | none => .error 0
  | some table => do
    let start : List Byte × List Byte × Nat := ([], [], 0)
    let (offs, body, f) ← (List.range nb).foldlM
      (fun (acc : List Byte × List Byte × Nat) b => (do
        let (bs, g) ← m.block rd b (leNat ((table.drop (4 * b)).take 4))
        return (acc.1 ++ leBytes 4 (top + acc.2.1.length), acc.2.1 ++ bs, acc.2.2 ||| g) : Except Nat (List Byte × List Byte × Nat)))
      start
    return (offs ++ List.replicate (top - 4 * nb) 0 ++ body, f)

end Sys2Proof.Machine
end

