-- ==== Sys2Proof/Machine/Page.lean ====
section
/-! DEFINITION. Page instructions and events (R313, R321, R324 to R329): TLB fills, invalidations, hints, and the
handle table. -/

namespace Sys2Proof.Machine

/-! ## Walks and TLBs (R314, R321) -/

/-- The locked entries of a core's TLB. -/
def Core.locked (k : Core) : Nat := k.tlb.countP (fun p => p.2.lock)

/-- PAGE_WALK_COMPLETE (R314, R321): a walk ends; a leaf that translates enters the core's buffer and its die's, locked
when the walk is one of PGHINT.LOCK and fewer than eight are (R327). -/
def execPageWalkComplete (s : State) : Res :=
  let c := s.hand.core
  match s.me.ops.find? (fun o => o.id == s.hand.arg.ix) with
  | none => .next s
  | some o =>
    let s := s.modMe (fun k => { k with ops := k.ops.filter (fun p => p.id != o.id) })
    match o.kind, s.me.ctx with
    | .walk va lock pipe, some x =>
      let lockNow := lock && decide (s.me.locked < 8)
      match tlbFind (if pipe then s.me.pipeTlb else s.me.tlb) va with
      | some (i, t) =>
        let s := if lockNow && !pipe then s.modMe (fun k => { k with tlb := mapPut k.tlb i { t with lock := true } }) else s
        .next (s.llFill (dieOf c) x { t with lock := false })
      | none =>
        match s.walk x va with
        | .error _ => .next s
        | .ok (leaf, size) =>
          let t : TlbEntry := ⟨va / size * size, size, BitVec.ofNat 64 leaf, lockNow, 0⟩
          .next ((s.modMe (fun k => k.tlbFill pipe t)).llFill (dieOf c) x { t with lock := false })
    | _, _ => .next s

/-! ## Invalidations (R313, R324, R326) -/

/-- The cores of a context. -/
def State.coresOf (s : State) (x : Nat) : List Nat := (s.cores.filter (fun p => p.2.ctx == some x)).map (·.1)

/-- Entries of a context that overlap a range leave every buffer. -/
def State.dropTlbs (s : State) (x lo hi : Nat) : State :=
  let out (t : TlbEntry) : Bool := decide (t.va < hi) && decide (lo < t.va + t.size)
  let s := (s.coresOf x).foldl (fun s c => s.modCore c (fun k =>
    { k with tlb := k.tlb.filter (fun p => !out p.2), pipeTlb := k.pipeTlb.filter (fun p => !out p.2) })) s
  { s with lltlb := s.lltlb.map (fun p => (p.1, p.2.filter (fun q => !(q.1 == x && out q.2)))) }

/-- The walks and tensor operations of a context in flight. -/
def State.walksOf (s : State) (x : Nat) : List (Nat × Nat) :=
  (s.coresOf x).flatMap (fun c => ((s.core c).ops.filter (fun o => match o.kind with
    | .walk .. => true
    | _ => false)).map (fun o => (c, o.id)))
def State.topsOf (s : State) (x : Nat) : List (Nat × Nat) :=
  (s.coresOf x).flatMap (fun c => (s.core c).tops.map (fun o => (c, o.serial)))

/-- An invalidation of [lo, hi) begins. -/
def State.startInval (s : State) (x kind lo hi : Nat) (host : Bool) (core op : Nat) : State :=
  let s := if kind = 3 then s else s.dropTlbs x lo hi
  let (l, s) := s.draw
  let v : Inval := ⟨lo, hi, host, core, op, s.clk + l, kind, s.walksOf x, s.topsOf x⟩
  s.modCtx x (fun y => { y with invals := y.invals ++ [v], invBusy := y.invBusy || host })

/-- Can an invalidation complete (R324)? -/
def State.invalReady (s : State) (v : Inval) : Bool :=
  decide (v.due ≤ s.clk) &&
    v.walks.all (fun p => (s.core p.1).ops.all (fun o => o.id != p.2)) &&
    v.tops.all (fun p => (s.core p.1).tops.all (fun o => o.serial != p.2))

/-- INVALIDATION_COMPLETE (R324): what a walk has filled meanwhile is gone too; the registers of R313 that go with its kind
take effect; parked stores are walked again (R319); who asked learns of it. -/
def execInvalidationComplete (s : State) : Res :=
  let x := s.hand.arg.ix
  match (s.ctx x).invals.find? s.invalReady with
  | none => .next s
  | some v =>
    let s := s.modCtx x (fun y =>
      let y := { y with invals := y.invals.erase v, invBusy := y.invBusy && !v.host }
      if v.kind = 3 then { y with htBaseEff := y.htBase, htCountEff := y.htCount } else { y with ptRootEff := y.ptRoot })
    let s := if v.kind = 3 then s
      else (s.coresOf x).foldl (fun s c => s.parkAgain c v.lo v.hi) (s.dropTlbs x v.lo v.hi)
    .next (if v.host then s else s.completeOp v.core v.op)

/-- INV_CMD: ignored while BUSY is 1 (R313). -/
def State.invCmd (s : State) (x kind lo hi : Nat) : State := if (s.ctx x).invBusy then s else s.startInval x kind lo hi true 0 0

/-- A range widened to whole pages; empty when its length is 0 (R325). -/
def widen (a b : Nat) : Nat × Nat := if b = 0 then (0, 0) else (a / 65536 * 65536, (a + b + 65535) / 65536 * 65536)

/-- INV_RANGE (R313). -/
def execInvRange (s : State) : Res :=
  let x := s.hand.arg.ix
  let a := (s.ctx x).invVa.toNat
  .next (s.invCmd x 1 a (a + (s.ctx x).invLen.toNat))
/-- INV_ALL (R313). -/
def execInvAll (s : State) : Res := .next (s.invCmd s.hand.arg.ix 2 0 (2 ^ 64))
/-- INV_HANDLES (R313). -/
def execInvHandles (s : State) : Res := .next (s.invCmd s.hand.arg.ix 3 0 0)

/-- A supervisor form (R325): PRIV at user level. -/
def State.sSupervisor (s : State) (body : State → State) : Res :=
  s.sGuarded (fun s => if s.me.priv then body s else s.trap causePRIV 0 0)

/-- TLBINV.VA and TLBINV.ALL. -/
def State.tlbinv (s : State) (kind lo hi : Nat) : State :=
  let (id, t) := s.sAsync 9 .inval none
  t.startInval (s.me.ctx.getD 0) kind lo hi false s.hand.core id

/-- TLBINV.VA (R326). -/
def execTlbinvVa (ga : GReg) (b : GImm) (s : State) : Res :=
  s.sSupervisor (fun s =>
    let (lo, hi) := widen (s.me.rgv ga).toNat (s.me.gimm b).toNat
    s.tlbinv 1 lo hi)
/-- TLBINV.ALL (R326). -/
def execTlbinvAll (s : State) : Res := s.sSupervisor (fun s => s.tlbinv 2 0 (2 ^ 64))
/-- TLBINV.DROP (R326). -/
def execTlbinvDrop (ga : GReg) (b : GImm) (s : State) : Res :=
  s.sSupervisor (fun s =>
    let (lo, hi) := widen (s.me.rgv ga).toNat (s.me.gimm b).toNat
    let s := s.modMe (fun k => { k with replay := k.replay.filter (fun p =>
      let page := p.va / 65536 * 65536
      !(decide (lo ≤ page) && decide (page < hi))) })
    s.sDone [])

/-! ## Hints (R327) -/

/-- The first eight pages of a range. -/
def hintPages (lo hi : Nat) : List Nat := ((List.range 8).map (fun i => lo + i * 65536)).filter (fun p => decide (p < hi))

/-- PGHINT.T and PGHINT.LOCK: a walk for each page that translates, one after another in ascending order, and the operation
completes with the last. -/
def State.hint (s : State) (a b : Nat) (lock : Bool) : State :=
  let (lo, hi) := widen a b
  match s.me.ctx with
  | none => (s.sAsync 9 .hint (some (s.clk + 1))).2
  | some x =>
    let (s, last) := (hintPages lo hi).foldl
      (fun (acc : State × Nat) p =>
        let (s, last) := acc
        match s.walkNow x p with
        | (s, .error _) => (s, last)
        | (s, .ok _) =>
          let (l, s) : Nat × State :=
            if (tlbFind s.me.tlb p).isSome then (1, s)
            else if (mapGetD s.lltlb (dieOf s.hand.core) []).any (fun q => q.1 == x && q.2.covers p) then (8, s)
            else s.draw
          let op : AsyncOp := ⟨s.me.opId, s.ent.serial, .walk p lock false, none, some (last + l), 8, 0⟩
          (s.modMe (fun k => { k with opId := k.opId + 1, ops := k.ops ++ [op] }), last + l)) (s, s.clk)
    (s.sAsync 9 .hint (some (max last (s.clk + 1)))).2

/-- PGHINT.T (R327). -/
def execPghintT (ga : GReg) (b : GImm) (s : State) : Res :=
  s.sGuarded (fun s => s.hint (s.me.rgv ga).toNat (s.me.gimm b).toNat false)
/-- PGHINT.LOCK (R327). -/
def execPghintLock (ga : GReg) (b : GImm) (s : State) : Res :=
  s.sGuarded (fun s => s.hint (s.me.rgv ga).toNat (s.me.gimm b).toNat true)
/-- PGHINT.UNLOCK (R327). -/
def execPghintUnlock (s : State) : Res :=
  s.sGuarded (fun s => (s.modMe (fun k => { k with tlb := k.tlb.map (fun p => (p.1, { p.2 with lock := false })) })).sDone [])

/-- What PGHINT.CLRW refuses: what is outside core space (R327), and a control window that it does not access as R71 wants. -/
def clrwRefuses (n : Nat) (p : CPiece) : Option Nat :=
  if spaceOf p.phys ≠ 0 then some causePERM
  else if p.window ∧ (n ≠ 8 ∨ p.phys % 8 ≠ 0) then some causeALIGN
  else none

/-- PGHINT.CLRW (R327): checked as a store is; the homes clear WRITTEN, and it completes when the last has answered. -/
def execPghintClrw (ga : GReg) (b : GImm) (s : State) : Res :=
  s.sGuarded (fun s =>
    let c := s.hand.core
    let n := (s.me.gimm b).toNat
    match s.rangeSide (s.me.rg ga) 4 ga (s.me.rgv ga).toNat n 0 false true [pW] causePLOAD (clrwRefuses n) with
    | .error t => t
    | .ok (s, w, ps) =>
      match s.lockTrap true ps with
      | some t => s.raise t
      | none =>
        let s := ps.foldl (fun s p =>
          if s.isHere p.phys then
            { s with written := (unitsOf 128 (keyOf p.phys) p.len).foldl setDel s.written }
          else s.emit .chip (p.phys / 2 ^ 44) p.phys (leBytes 8 p.len)) s
        if ps.any (fun p => !s.isHere p.phys) then (s.sAsync 9 .hint none).2
        else
          let (l, s) := if ps.all (fun p => s.isOwn c p.phys) then (1, s) else s.draw
          (s.sAsync 9 .hint (some (s.clk + w + l))).2)

/-! ## The handle table (R328, R329) -/

/-- The word of a handle entry that HNDL reads: 0 when the entry is not valid. -/
def State.handleRead (s : State) (gh : GReg) (len : Bool) : Word :=
  let x := s.me.ctx.getD 0
  let id := fld (s.me.rgv gh).toNat 48 16
  if (s.handle x id).isSome then
    BitVec.ofNat 64 (if len then (s.handleWords x id).2 else (s.handleWords x id).1)
  else 0

/-- HNDL.LEN and HNDL.BASE hold the sequencer until the entry is read. -/
def State.hndlRead (s : State) (gd gh : GReg) (len : Bool) : State :=
  if s.hand.stage = 0 then
    let (l, s) := s.draw
    s.sWait false 1 0 (s.clk + l) none
  else s.sDone [.g gd (GVal.data (s.handleRead gh len))]

/-- HNDL.LEN (R329). -/
def execHndlLen (gd gh : GReg) (s : State) : Res := s.sGuarded (fun s => s.hndlRead gd gh true)
/-- HNDL.BASE (R329). -/
def execHndlBase (gd gh : GReg) (s : State) : Res := s.sSupervisor (fun s => s.hndlRead gd gh false)

/-- HNDL.SET (R329): the entry is written, and every cached copy replaced, when it completes. -/
def execHndlSet (gh gb : GReg) (s : State) : Res :=
  s.sSupervisor (fun s =>
    let h := s.me.rgv gh
    let id := fld h.toNat 48 16
    let base := s.me.rgv gb
    let w := s.me.rgv (Fin.ofNat 64 (gb.val + 1))
    let v := fld w.toNat 40 1 == 1
    let ok := decide (id < (s.ctx (s.me.ctx.getD 0)).htCountEff.toNat) && s.handleRange base.toNat (fld w.toNat 0 40)
    if v && !ok then s.trap causeBOUNDS h.toNat (capInfo 4 gh)
    else
      let (l, s) := s.draw
      (s.sAsync 9 (.handle id (some (base, w))) (some (s.clk + l))).2)

/-- HNDL.CLR (R329). -/
def execHndlClr (gh : GReg) (s : State) : Res :=
  s.sSupervisor (fun s =>
    let (l, t) := s.draw
    (t.sAsync 9 (.handle (fld (s.me.rgv gh).toNat 48 16) none) (some (s.clk + l))).2)

/-- What HNDL.SET and HNDL.CLR write when they complete. -/
def State.handlePut (s : State) (x id : Nat) (e : Option (Word × Word)) : State :=
  let a := hbmKey ((s.ctx x).htBaseEff.toNat + 16 * id)
  match e with
  | some (b, w) => s.memStore a (leBytes 8 b.toNat ++ leBytes 8 w.toNat) none
  | none => s.memStore (a + 8) (leBytes 8 (setFld (leNat (s.memLoad (a + 8) 8)) 40 1 0)) none

/-- A context's invalidation that can complete. -/
def invalStep (s : State) (x : Nat) : Option (State × List Instr) :=
  if (s.ctx x).invals.any s.invalReady then
    some ({ s with hand := { Hand.empty with arg := { Arg.empty with ix := x } } }, [.invalidationComplete])
  else none

end Sys2Proof.Machine
end

