-- ==== Sys2Proof/Machine/Population.lean ====
section
/-! DEFINITION. The P column (R402 to R421): individuals, populations, ranking, selection with mutation, switching and
migrating. The copies that the engine makes stand in `Core.incoming` of the core they are written to; their beats stand in
Machine/CopyEngine.lean. -/

namespace Sys2Proof.Machine

/-! ## Individuals (R404, R405) -/

def wBase (v : Nat) : Nat := fld v 0 18
def wLen (v : Nat) : Nat := fld v 18 18
def wLay (v : Nat) : Nat := fld v 36 4
def wPop (v : Nat) : Nat := fld v 40 4
def wAccept (v : Nat) : Bool := fld v 44 1 == 1
def wBlocks (v : Nat) : Nat := fld v 45 15
def wAct (v : Nat) : Nat := fld v 60 1
/-- A core's WACTIVE. -/
def Core.wact (k : Core) : Nat := (k.cv crWACTIVE).toNat
/-- Is the individual configured (R405)? -/
def Core.configured (k : Core) : Bool := k.eval != EvalSt.empty && k.eval != EvalSt.retired
/-- The layout of a code of R256. -/
def layoutOf (n : Nat) : Layout :=
  match n with
  | 0 => .f8z
  | 1 => .f32
  | 2 => .bf16
  | 3 => .f16
  | 4 => .f8
  | _ => .f8w
/-- The local offset of a copy. -/
def copyAt (w act : Nat) : Nat := wBase w + act * wLen w
/-- A lineage id (R404). -/
def lineageId (coord core gen : Nat) : Word := BitVec.ofNat 64 (coord % 2 ^ 20 * 2 ^ 44 + core % 2 ^ 13 * 2 ^ 31 + gen % 2 ^ 31)
/-- The codes of R405. -/
def EvalSt.code : EvalSt → Nat
  | .empty => 0
  | .loaded => 1
  | .evaluating => 2
  | .scored => 3
  | .ranked => 4
  | .winner => 5
  | .loser => 6
  | .retired => 11
def CopySt.code : CopySt → Nat
  | .none => 0
  | .overwriting => 1
  | .swapPending => 2
  | .migratingOut => 3
  | .migratingIn => 4

/-! ## Populations (R402, R403) -/

/-- The key of a population record. -/
def popKey (x die p : Nat) : Nat := (x * 10 + die) * 16 + p
/-- The record p of a core's context on its die, with its key. -/
def State.popOf (s : State) (c p : Nat) : Option (Nat × Population) :=
  match (s.core c).ctx with
  | some x => (mapGet s.pops (popKey x (dieOf c) p)).map (fun r => (popKey x (dieOf c) p, r))
  | none => none
def State.setPop (s : State) (key : Nat) (r : Population) : State := { s with pops := mapPut s.pops key r }
/-- The population a core's individual is a member of. -/
def State.popMine (s : State) (c : Nat) : Option (Nat × Population) :=
  match s.popOf c (wPop (s.core c).wact) with
  | some (key, r) => if r.members.contains c then some (key, r) else none
  | none => none
/-- The launch group of a population's members (R402). -/
def State.popLaunch (s : State) (r : Population) : Nat :=
  match r.members with
  | m :: _ => (s.core m).launch
  | [] => r.launch
/-- The population operand of an instruction that any core of the members' group may issue (R407): status 2 otherwise. -/
def State.popUse (s : State) (p : GImm) : Option (Nat × Population) :=
  let n := (s.me.gimm p).toNat
  if 15 < n then none
  else match s.popOf s.hand.core n with
    | some (key, r) => if s.popLaunch r = s.me.launch then some (key, r) else none
    | none => none
/-- The records whose launch group is released (R402): they and their individuals are unconfigured. -/
def State.dropPops (s : State) (launch : Nat) : State :=
  let gone := s.pops.filter (fun p => s.popLaunch p.2 == launch)
  let s := gone.foldl (fun s p => p.2.members.foldl (fun s c => s.modCore c (fun k =>
    { k with eval := .empty, copySt := .none, incoming := none, rank := none, samp := none })) s) s
  { s with pops := s.pops.filter (fun p => !(gone.map (·.1)).contains p.1) }

/-! ## Issuing (R406, R407) -/

/-- A P instruction that completes with a value, `lat` clk after its issue. -/
def State.pResult (s : State) (own : Bool) (lat : Nat) (gd : GReg) (v : Word) : State :=
  (s.issueAsync colP 1 colP (.status gd v own) (some (s.clk + lat))).2
/-- A status at issue + 1. -/
def State.pStatus (s : State) (own : Bool) (gd : GReg) (st : Nat) : State := s.pResult own 1 gd (BitVec.ofNat 64 st)
/-- Is an older WSWAP, MIGR or PCFG of the core not complete (R407)? -/
def Core.ownBusy (k : Core) : Bool :=
  k.ops.any (fun o => match o.kind with
    | .wswap .. => true
    | .migr _ => true
    | .status _ _ own => own
    | .failed .. => true
    | _ => false)
/-- A P instruction that waits for them at the head of its queue. -/
def State.pWait (s : State) (go : State → State) : State := if s.me.ownBusy then s.requeue colP else go s

/-- An operation of a core completes with a status; on a core whose completions are held back (R338), once they are not. -/
def State.draftDone (s : State) (c id : Nat) (r : GReg) (st flags : Nat) : State :=
  if s.asyncFrozen c then
    let clk := s.clk
    s.modCore c (fun k => { k with ops := k.ops.map (fun o =>
      if o.id = id then { o with kind := .status r (BitVec.ofNat 64 st) true, flags := o.flags ||| flags, due := some clk } else o) })
  else
    (s.modCore c (fun k => (k.landOp (k.opSerial id) (.g r (GVal.data (BitVec.ofNat 64 st)))).setFlags s.clk flags)).completeOp c id

/-- The destination of an operation that waits. -/
def Core.opReg (k : Core) (id : Nat) : GReg :=
  match (k.ops.find? (fun o => o.id == id)).map AsyncOp.kind with
  | some (.draft r) => r
  | some (.migr r) => r
  | some (.wswap r _) => r
  | some (.pwait r _) => r
  | _ => 0

/-- It completes in a response error (R413, R419): status 5, engine fault flag 2, ENGINE_FAULT. -/
def State.draftFail (s : State) (c id flags addr : Nat) : State :=
  let r := (s.core c).opReg id
  if s.asyncFrozen c then
    let clk := s.clk
    s.modCore c (fun k => { k with ops := k.ops.map (fun o =>
      if o.id = id then { o with kind := .failed r addr, flags := o.flags ||| flags, due := some clk } else o) })
  else (s.draftDone c id r 5 flags).engineFault c 2 addr (2 + 256)

/-! ## Fitness (R408) -/

/-- FITSET (R408). -/
def execFitset (ga : GReg) (s : State) : Res :=
  s.guarded colP (fun s => s.issue colP 1 1 0 [.fit (BitVec.ofNat 64 ((s.me.rgv ga).toNat % 2 ^ 32))])
/-- FITSET.CLR (R408). -/
def execFitsetClr (s : State) : Res := s.guarded colP (fun s => s.issue colP 1 1 0 [.fit (crReset crFITNESS)])

/-- The member a FITGET or LINRD names (R408). -/
def State.memberOf (s : State) (gc : Option GReg) : Option Nat :=
  match gc with
  | none => some s.hand.core
  | some g =>
    let n := (s.me.rgv g).toNat
    match s.popMine s.hand.core with
    | some (_, r) => if r.members.contains n then some n else none
    | none => none

def allOnes : Word := BitVec.ofNat 64 (2 ^ 64 - 1)

/-- FITGET.RANK (R408). -/
def execFitgetRank (gd : GReg) (gc : Option GReg) (s : State) : Res :=
  s.guarded colP (fun s =>
    s.pResult false 1 gd (match (s.memberOf gc).bind (fun c => (s.core c).rank) with
      | some n => BitVec.ofNat 64 n
      | none => allOnes))
/-- FITGET.SAMP (R408). -/
def execFitgetSamp (gd : GReg) (gc : Option GReg) (s : State) : Res :=
  s.guarded colP (fun s =>
    s.pResult false 1 gd (match (s.memberOf gc).bind (fun c => (s.core c).samp) with
      | some n => BitVec.ofNat 64 n
      | none => crReset crFITNESS))
/-- FITGET.STATE (R408). -/
def execFitgetState (gd : GReg) (gc : Option GReg) (s : State) : Res :=
  s.guarded colP (fun s => s.pWait (fun s =>
    s.pResult false 1 gd (match s.memberOf gc with
      | some c => BitVec.ofNat 64 ((s.core c).copySt.code * 16 + (s.core c).eval.code)
      | none => allOnes)))

/-! ## Ranking (R411, R412) -/

/-- Does fitness f rank before g (R411)? -/
def fitBefore (f g : Nat) : Bool :=
  if elemAbsent .f32 f then false
  else if elemAbsent .f32 g then true
  else numLt (readElem .f32 g) (readElem .f32 f)
/-- A member put in its place; of equals the one put first stays first. -/
def rankInsert (x : Nat × Nat) : List (Nat × Nat) → List (Nat × Nat)
  | [] => [x]
  | y :: t => if fitBefore x.2 y.2 then x :: y :: t else y :: rankInsert x t
/-- The fitness RANK samples: a NaN counts as absent. -/
def Core.fitSample (k : Core) : Nat × Bool :=
  let v := k.fitCommitted.toNat % 2 ^ 32
  if (readElem .f32 v).isNan then (0xFF800001, true) else (v, false)

/-- RANK (R411): it samples the members' committed fitness now. -/
def execRank (gd : GReg) (p : GImm) (s : State) : Res :=
  s.guarded colP (fun s =>
    match s.popUse p with
    | none => s.pResult false 8 gd 2
    | some (key, r) =>
      let n := r.members.length
      if r.op.isSome then s.pResult false (8 + n) gd 1
      else if n / 2 < r.k then s.pResult false (8 + n) gd 3
      else
        let fs := r.members.map (fun c => (c, (s.core c).fitSample))
        let order := fs.foldl (fun l x => rankInsert (x.1, x.2.1) l) []
        let (id, s) := s.issueAsync colP 1 colP (.draft gd) none
        s.setPop key { r with op := some ⟨s.hand.core, id, false, s.clk + 8 + n, order, fs.any (·.2.2), 0, 0, [], 0⟩ })

/-- RANK_COMPLETE (R411): ranks, lists, FRESH, and the members' states. -/
def execRankComplete (s : State) : Res :=
  match mapGet s.pops s.hand.arg.ix with
  | none => .next s
  | some r =>
    match r.op with
    | none => .next s
    | some o =>
      let n := o.order.length
      let s := (o.order.zipIdx).foldl
        (fun s (m, i) => s.modCore m.1 (fun k =>
          { k with rank := some i, samp := some m.2,
                   eval := if !k.configured then k.eval
                     else if i < r.k then .winner else if n ≤ i + r.k then .loser else .ranked })) s
      let cs := o.order.map (·.1)
      let s := s.setPop s.hand.arg.ix
        { r with op := none, fresh := true, winners := cs.take r.k, losers := cs.reverse.take r.k }
      .next (s.draftDone o.core o.id ((s.core o.core).opReg o.id) 0 (flagIf o.nan flagABSNAN))

/-- Is every member of a population SCORED or its unit ended (R412)? -/
def State.allScored (s : State) (r : Population) : Bool :=
  r.members.all (fun c =>
    let k := s.core c
    k.eval == .scored || k.unit == .done || k.unit == .cancelled)

/-- PWAIT (R412). -/
def execPwait (gd : GReg) (p : GImm) (s : State) : Res :=
  s.guarded colP (fun s =>
    if s.ent.block.isSome then s.trap causeILLEGAL 0 0
    else match s.popUse p with
      | none => s.pStatus false gd 2
      | some (key, _) => ((s.issueAsync colP 1 colP (.pwait gd key) (some (s.clk + 1))).2).modMe (fun k => { k with waiting := true }))

/-- Can a core's PWAIT complete? -/
def State.pwaitReady (s : State) (o : AsyncOp) : Bool :=
  match o.kind with
  | .pwait _ key => decide (o.due.getD 0 ≤ s.clk) && (match mapGet s.pops key with
      | some r => s.allScored r
      | none => true)
  | _ => false

/-- PWAIT_COMPLETE (R412). -/
def execPwaitComplete (s : State) : Res :=
  let c := s.hand.core
  let id := s.hand.arg.ix
  .next ((s.draftDone c id (s.me.opReg id) 0 0).modMe (fun k => { k with waiting := false }))

/-! ## Switching (R417, R418) -/

/-- The switch to the other copy. -/
def Core.flip (k : Core) (pend : Bool) : Core :=
  let k := k.setCf crWACTIVE 60 1 (1 - wAct k.wact)
  let k := if pend then k.setCv crLINEAGE k.pendId else k
  { k.setFitness (crReset crFITNESS) with eval := .loaded, copySt := .none }

/-- Does a POPSTEP run that has not claimed a core (R413)? -/
def State.stepElsewhere (s : State) (c : Nat) : Bool :=
  match s.popMine c with
  | some (_, r) => (match r.op with
      | some o => o.step && !r.losers.contains c
      | none => false)
  | none => false

/-- What WSWAP does now (R417): the state, with the status, or none while it waits. -/
def State.swapTry (s : State) (c : Nat) (any : Bool) : State × Option Nat :=
  let k := s.core c
  if !k.configured then (s, some 2)
  else if s.stepElsewhere c then (s, some 1)
  else match k.copySt with
    | .swapPending => (s.modCore c (Core.flip · true), some 0)
    | .overwriting => (s, none)
    | .migratingIn => (s, none)
    | .migratingOut => (s, some 1)
    | .none => if any then (s.modCore c (Core.flip · false), some 0) else (s, some 3)

/-- WSWAPs of a core that wait, when its copy has ended: each in order as it finds the copy state, or status 5 (R417). -/
def State.swapWaiting (s : State) (c : Nat) (failed : Bool) : State :=
  (s.core c).ops.foldl
    (fun s o => match o.kind with
      | .wswap r any =>
        if failed then s.draftDone c o.id r 5 0
        else match s.swapTry c any with
          | (s, some st) => s.draftDone c o.id r st 0
          | (s, none) => s
      | _ => s) s

/-- WSWAP and WSWAP.ANY. -/
def State.wswap (s : State) (gd : GReg) (any : Bool) : State :=
  match s.swapTry s.hand.core any with
  | (s, some st) => s.pStatus true gd st
  | (s, none) => (s.issueAsync colP 1 colP (.wswap gd any) none).2

/-- WSWAP (R417). -/
def execWswap (gd : GReg) (s : State) : Res := s.guarded colP (fun s => s.wswap gd false)
/-- WSWAP.ANY (R417). -/
def execWswapAny (gd : GReg) (s : State) : Res := s.guarded colP (fun s => s.wswap gd true)

/-- The address WBASE gives (R418). -/
def Core.wbase (k : Core) (a : Nat) (inact : Bool) : Word :=
  if !k.configured then BitVec.ofNat 64 a
  else
    let act := wAct k.wact
    BitVec.ofNat 64 (a + wLen k.wact * (if inact then 1 - act else act))

/-- WBASE (R418). -/
def execWbase (gd ga : GReg) (s : State) : Res :=
  s.guarded colP (fun s => s.pWait (fun s => s.pResult false 1 gd (s.me.wbase (s.me.rgv ga).toNat false)))
/-- WBASE.INACT (R418). -/
def execWbaseInact (gd ga : GReg) (s : State) : Res :=
  s.guarded colP (fun s => s.pWait (fun s => s.pResult false 1 gd (s.me.wbase (s.me.rgv ga).toNat true)))

/-! ## Lineage (R420) -/

/-- LINRD.ID (R420). -/
def execLinrdId (gd : GReg) (gc : Option GReg) (s : State) : Res :=
  s.guarded colP (fun s => s.pWait (fun s =>
    let c : Option Nat := match gc with
      | none => some s.hand.core
      | some g =>
        let n := (s.me.rgv g).toNat
        if dieOf n = dieOf s.hand.core ∧ (s.core n).ctx = s.me.ctx ∧ (s.popMine n).isSome then some n else none
    s.pResult false 1 gd (match c with
      | some n => (s.core n).cv crLINEAGE
      | none => 0)))
/-- LINRD.PEND (R420). -/
def execLinrdPend (gd : GReg) (s : State) : Res :=
  s.guarded colP (fun s => s.pWait (fun s =>
    s.pResult false 1 gd (if s.me.copySt = .swapPending then s.me.pendId else 0)))
/-- The value LINRD.GEN or LINRD.CNT reads: status 2 for a core outside the members' launch group (R407), all ones where the
population is not configured (R420), as one whose number is above 15 is. -/
def State.popRead (s : State) (p : GImm) (f : Population → Nat) : Word :=
  let n := (s.me.gimm p).toNat
  match (if 15 < n then none else s.popOf s.hand.core n) with
    | none => allOnes
    | some (_, r) => if s.popLaunch r = s.me.launch then BitVec.ofNat 64 (f r) else 2
/-- LINRD.GEN (R420). -/
def execLinrdGen (gd : GReg) (p : GImm) (s : State) : Res :=
  s.guarded colP (fun s => s.pWait (fun s => s.pResult false 1 gd (s.popRead p Population.gen)))
/-- LINRD.CNT (R420). -/
def execLinrdCnt (gd : GReg) (p : GImm) (s : State) : Res :=
  s.guarded colP (fun s => s.pWait (fun s => s.pResult false 1 gd (s.popRead p Population.rcount)))

/-! ## Configuring (R409, R410) -/

/-- PSEED (R410). -/
def execPseed (gd : GReg) (p : GImm) (gs : GReg) (s : State) : Res :=
  s.guarded colP (fun s =>
    match s.popUse p with
    | none => s.pStatus false gd 2
    | some (key, r) =>
      match r.op with
      | some o =>
        if o.step then s.pStatus false gd 1
        else (s.setPop key { r with seed := (s.me.rgv gs).toNat }).pStatus false gd 0
      | none => (s.setPop key { r with seed := (s.me.rgv gs).toNat }).pStatus false gd 0)

/-- Does an operand of PCFG.IND break a rule (R409)? -/
def indBad (c v : Nat) : Bool :=
  let lay := wLay v
  let nb := wBlocks v
  wBase v % 128 != 0 || wLen v % 128 != 0 || wLen v == 0 ||
    decide ((if isGateway c then 0x10000 else 0x40000) < wBase v + 2 * wLen v) || decide (5 < lay) ||
    (lay != 0 && nb != 0) || (lay == 0 && (nb == 0 || decide (wLen v < 8 * ((nb + 1) / 2) + 72 * nb)))

/-- PCFG.IND (R409): the core's individual joins a population. -/
def execPcfgInd (gd ga : GReg) (s : State) : Res :=
  s.guarded colP (fun s => s.pWait (fun s =>
    let c := s.hand.core
    let v := (s.me.rgv ga).toNat
    if fld v 60 4 ≠ 0 ∨ indBad c v then s.trap causeBOUNDS v (capInfo 4 ga)
    else match s.popOf c (wPop v) with
      | none => s.pStatus true gd 2
      | some (key, r) =>
        if !r.members.isEmpty && s.popLaunch r != s.me.launch then s.pStatus true gd 2
        else if s.me.configured || r.op.isSome then s.pStatus true gd 1
        else
          let s := s.setPop key { r with members := setAdd r.members c, launch := s.me.launch }
          let s := s.modMe (fun k =>
            let k := (k.setCv crWACTIVE (BitVec.ofNat 64 v)).setCv crLINEAGE (lineageId s.isl.coord c r.gen)
            { k.setFitness (crReset crFITNESS) with eval := .loaded, rank := none, samp := none })
          s.pStatus true gd 0))

/-- Bytes a P or queue instruction reads from this core's own memory through a capability with R (R57, R120): the bytes, or
the state after its trap. -/
def State.readOwnAt (s : State) (g : GReg) (field x n align : Nat) : VRes (Nat × List Byte) :=
  match s.rangeSide (s.me.rg g) field g x n align true false [pR] causePLOAD (s.localRefuses true) with
  | .error t => .error t
  | .ok (s, w, ps) =>
    match ((s.lockTrap false ps).map s.raise).orElse (fun _ => s.watchRange ps true false) with
    | some t => .error t
    | none =>
      let s := ps.foldl (fun s p => s.coreRead s.hand.core (keyOf p.phys) p.len (p.va.getD x) 1) s
      .ok (s, w, ps.flatMap (fun p => s.fillLoad (keyOf p.phys) p.len p.af))

/-- Does a population descriptor break a limit (R403)? -/
def popDescBad (d : List Byte) : Bool :=
  let f (a n : Nat) : Nat := leNat ((d.drop a).take n)
  decide (16 ≤ f 0 1) || f 1 1 != 0 || decide (256 < f 2 2) || decide (24 < f 10 1) || f 11 5 != 0 ||
    decide (2 ^ 31 ≤ f 24 4) || f 28 4 != 0

/-- PCFG.POP (R409): configures a population, or replaces some of its fields. -/
def execPcfgPop (gd : GReg) (m : MemOp) (s : State) : Res :=
  s.guarded colP (fun s => s.pWait (fun s =>
    let c := s.hand.core
    let x := s.me.memAddr m 32
    let post := s.me.postInc m 32
    issued (do
      let (s, w, d) ← s.readOwnAt m.g 4 x 32 8
      let f (a n : Nat) : Nat := leNat ((d.drop a).take n)
      let ring := BitVec.ofNat 64 (f 16 8)
      let rlog := f 10 1
      if popDescBad d then Except.error (s.trap causeBOUNDS x (capInfo 4 m.g))
      else
        let s ← (if rlog = 0 then pure s
          else match s.handleSide (s.me.ctx.getD 0) ring (32 * 2 ^ rlog) true with
            | .error cause => .error (s.trap cause ring.toNat (capInfo 4 m.g))
            | .ok _ => pure s : Except State State)
        match s.waitClk w with
        | (s, _, true) => Except.error s
        | (s, w, false) =>
          let p := f 0 1
          let s := s.modMe (fun k => post.foldl (fun k p => k.landAt s.ent.serial 1 p) k)
          let done (s : State) (st : Nat) : Except State State := .ok (s.pResult true (1 + w) gd (BitVec.ofNat 64 st))
          match s.popOf c p with
          | none =>
            let x := s.me.ctx.getD 0
            done (s.setPop (popKey x (dieOf c) p)
              { ctx := x, die := dieOf c, p := p, launch := s.me.launch, k := f 2 2, sigma := f 4 4, thresh := f 8 2,
                rlog := rlog, ring := ring.toNat, gen := f 24 4, seed := 0, rcount := 0, winners := [], losers := [],
                fresh := false, members := [], op := none }) 0
          | some (key, r) =>
            if !r.members.isEmpty && s.popLaunch r != s.me.launch then done s 2
            else if r.op.isSome then done s 1
            else
              done (s.setPop key { r with
                k := f 2 2, sigma := f 4 4, thresh := f 8 2, rlog := rlog, ring := ring.toNat
                rcount := if rlog = r.rlog ∧ ring.toNat = r.ring then r.rcount else 0 }) 0)))

/-- PCFG.RET (R409): the individual leaves its population. -/
def execPcfgRet (gd : GReg) (s : State) : Res :=
  s.guarded colP (fun s => s.pWait (fun s =>
    match s.popMine s.hand.core with
    | none => s.pStatus true gd 2
    | some (key, r) =>
      if !s.me.configured then s.pStatus true gd 2
      else if s.me.copySt != CopySt.none || r.op.isSome then s.pStatus true gd 1
      else
        let s := s.setPop key { r with members := setDel r.members s.hand.core }
        (s.modMe (fun k => { k with eval := .retired })).pStatus true gd 0))

/-! ## Selection (R413, R416) -/

/-- Pair i of a POPSTEP begins: the loser's copy, written through Perturb. -/
def State.startPair (s : State) (key : Nat) (r : Population) (o : DraftOp) : State :=
  match r.winners[o.pair]?, r.losers[o.pair]? with
  | some w, some l =>
    let v := (s.core w).wact
    let u := (s.core l).wact
    let n := wLen v
    let lay := layoutOf (wLay v)
    let child := lineageId s.isl.coord l o.gen
    let m : Mutation :=
      { n := if lay = .f8z then 64 * wBlocks v else n / (fmtWidth (layoutFmt lay) / 8), e0 := 0, seed := r.seed,
        child := child.toNat, sigma := r.sigma, thresh := r.thresh, lay := lay }
    let src : List CPiece := [⟨s.phys (coreKey w (copyAt v (o.acts.getD o.pair 0))), none, n, false, 0⟩]
    let dst : List CPiece := [⟨s.phys (coreKey l (copyAt u (1 - wAct u))), none, n, false, 0⟩]
    let (lat, s) := s.draw
    let q : CopyOp := { CopyOp.base (.cmut m) 9 0 with srcs := src, dsts := dst, since := s.clk, due := s.clk + lat }
    s.modCore l (fun k => { k with incoming := some ⟨q, o.core, o.id, false, key, child⟩ })
  | _, _ => s

/-- POPSTEP (R413): it claims the losers now; the pairs follow. -/
def execPopstep (gd : GReg) (p : GImm) (s : State) : Res :=
  s.guarded colP (fun s =>
    match s.popUse p with
    | none => s.pStatus false gd 2
    | some (key, r) =>
      let shape (c : Nat) : Nat × Nat × Nat := let v := (s.core c).wact; (wLay v, wLen v, wBlocks v)
      if r.op.isSome then s.pStatus false gd 1
      else if !r.fresh || decide (r.members.length / 2 < r.k) || (r.winners.zip r.losers).any (fun q => shape q.1 != shape q.2) then
        s.pStatus false gd 3
      else if r.losers.any (fun l => (s.core l).copySt != CopySt.none) then s.pStatus false gd 4
      else
        let (id, s) := s.issueAsync colP 1 colP (.draft gd) none
        let s := r.losers.foldl (fun s l => s.modCore l (fun k => { k with copySt := .overwriting })) s
        let o : DraftOp :=
          { core := s.hand.core, id := id, step := true, due := s.clk + 1, order := [], nan := false, pair := 0,
            gen := (r.gen + 1) % 2 ^ 31, acts := r.winners.map (fun w => wAct (s.core w).wact), flags := 0 }
        let s := s.setPop key { r with op := some o }
        s.startPair key r o)

/-- The lineage record of a pair (R416). -/
def lineageRec (r : Population) (o : DraftOp) (w l : Nat) (child : Word) (fit : Nat) : List Byte :=
  leBytes 4 o.gen ++ leBytes 2 l ++ leBytes 2 w ++ leBytes 8 child.toNat ++ leBytes 8 r.seed ++ leBytes 4 r.sigma ++ leBytes 4 fit

/-- The end of a POPSTEP (R413): the next generation. -/
def State.endStep (s : State) (key : Nat) (r : Population) (o : DraftOp) : State :=
  let s := r.members.foldl (fun s c => s.modCore c (fun k =>
    if k.configured then { k.setFitness (crReset crFITNESS) with eval := .loaded } else k)) s
  let s := s.setPop key { r with op := none, fresh := false, gen := o.gen }
  s.draftDone o.core o.id ((s.core o.core).opReg o.id) 0 o.flags

/-- A response error in the pair in hand ends a POPSTEP (R413). -/
def State.failStep (s : State) (key : Nat) (r : Population) (o : DraftOp) (addr : Nat) : State :=
  let s := (r.losers.drop o.pair).foldl
    (fun s l => (s.modCore l (fun k => { k with copySt := .none, incoming := none })).swapWaiting l true) s
  (s.setPop key { r with op := none }).draftFail o.core o.id o.flags addr

/-- POPSTEP_PAIR_DONE (R413): the pair's copy has ended; its record is written, the loser moves to SWAP_PENDING, and the next
pair begins, or the operation completes. -/
def execPopstepPairDone (s : State) : Res :=
  let key := s.hand.arg.ix
  match mapGet s.pops key with
  | none => .next s
  | some r =>
    match r.op with
    | none => .next s
    | some o =>
      match r.winners[o.pair]?, r.losers[o.pair]? with
      | some w, some l =>
        match (s.core l).incoming with
        | none => .next s
        | some x =>
          let o := { o with flags := o.flags ||| x.op.flags }
          match x.op.err with
          | some (addr, _) => .next (s.failStep key r o addr)
          | none =>
            let ring := BitVec.ofNat 64 (r.ring + 32 * (r.rcount % 2 ^ r.rlog))
            match (if r.rlog = 0 then .ok none
              else (s.handleSide r.ctx ring 32 true).map (fun p => some p.1) : Except Nat (Option Nat)) with
            | .error _ => .next (s.failStep key r o ((s.handle r.ctx (fld r.ring 48 16)).map HandleEntry.base |>.getD 0))
            | .ok place =>
              match place.filter (fun a => s.placeLost a 32) with
              | some a => .next (s.failStep key r o a)
              | none =>
              let (s, r) := match place with
                | some a =>
                  (s.devWrite a (lineageRec r o w l x.child ((s.core w).samp.getD 0xFF800001)),
                    { r with rcount := (r.rcount + 1) % 2 ^ 64 })
                | none => (s, r)
              let s := s.modCore l (fun k => { k with copySt := .swapPending, pendId := x.child, incoming := none })
              let o := { o with pair := o.pair + 1 }
              let s := (s.setPop key { r with op := some o }).swapWaiting l false
              .next (if o.pair < r.losers.length then s.startPair key r o else s.endStep key r o)
      | _, _ => .next (s.endStep key r o)

/-! ## Migrating (R419) -/

/-- A reply to MIGR. -/
def State.migrAnswer (s : State) (asker id st addr : Nat) : State :=
  if 8192 ≤ asker then s.emit .chip (asker / 8192 - 1) id (leBytes 8 st)
  else s.sendFree asker (.migrReply id st addr)

/-- MIGR (R419). -/
def execMigr (gd gt : GReg) (s : State) : Res :=
  s.guarded colP (fun s =>
    let c := s.hand.core
    let t := (s.me.rgv gt).toNat
    let k := s.me
    if fld t 33 31 ≠ 0 ∨ !k.configured then s.pStatus true gd 2
    else if k.copySt ≠ .none then s.pStatus true gd 1
    else
      let (id, s) := s.issueAsync colP 1 colP (.migr gd) none
      let s := s.modMe (fun k => { k with copySt := .migratingOut })
      let target := fld t 20 13
      let lin := k.cv crLINEAGE
      if fld t 0 20 = s.isl.coord then
        if coreExists target && decide (target < 4144) then
          s.sendFree target (.migr c id (BitVec.ofNat 64 k.wact) lin none)
        else s.sendFree c (.migrReply id 2 0)
      else
        let wait : Msg := ⟨retryNever, c, toChip, .migr (chipField (fld t 0 20)) id 0 0 none⟩
        let s : State := { s with msgs := s.msgs ++ [wait] }
        s.emit .chip (chipField (fld t 0 20)) (coreKey target 0)
          (leBytes 8 k.wact ++ leBytes 8 lin.toNat ++ s.memLoad (coreKey c (copyAt k.wact (wAct k.wact))) (wLen k.wact)))

/-- MIGR_ARRIVAL (R419, R421): the target's draft unit accepts or refuses. From another package: `ix` is the target, `a` the
asker plus 2^40 times its number, `b` the source's WACTIVE, and the bytes its LINEAGE_ID and its copy. -/
def execMigrArrival (s : State) : Res :=
  let c := s.hand.core
  let a := s.hand.arg
  let (asker, id, w, lin, bytes) : Nat × Nat × Nat × Word × Option (List Byte) := match s.hand.msg with
    | some (.migr asker id w lin bytes) => (asker, id, w.toNat, lin, bytes)
    | _ => (a.a % 2 ^ 40, a.a / 2 ^ 40, a.b, BitVec.ofNat 64 (leNat (a.bytes.take 8)), some (a.bytes.drop 8))
  match s.gate c asker with
  | 1 =>
    let m : Msg := ⟨s.clk, asker, c, .migr asker id (BitVec.ofNat 64 w) lin bytes⟩
    .next (s.modEp (socketOf c) (fun e => { e with held := e.held ++ [m] }))
  | 2 => .next ((s.dieDown c asker (s.phys (coreKey c 0))).migrAnswer asker id 5 (s.phys (coreKey c 0)))
  | _ =>
    let k := s.me
    let u := k.wact
    let running := match k.ctx with
      | some x => (s.ctx x).st == .running
      | none => false
    if !running || !k.configured || !wAccept u || wLay u != wLay w || wLen u != wLen w || wBlocks u != wBlocks w then
      .next (s.migrAnswer asker id 2 0)
    else if k.copySt ≠ .none then .next (s.migrAnswer asker id 4 0)
    else
      let n := wLen u
      let src : List CPiece :=
        if bytes.isSome then [] else [⟨s.phys (coreKey asker (copyAt w (wAct w))), none, n, false, 0⟩]
      let dst : List CPiece := [⟨s.phys (coreKey c (copyAt u (1 - wAct u))), none, n, false, 0⟩]
      let (lat, s) := s.draw
      let o : CopyOp := { CopyOp.base .move 9 0 with
        streams := [beatsOf src dst 0], srcs := src, whole := bytes.isSome, held := bytes, since := s.clk, due := s.clk + lat }
      .next (s.modMe (fun k => { k with copySt := .migratingIn, incoming := some ⟨o, asker, id, true, 0, lin⟩ }))

/-- MIGR_COPY_DONE (R419): the target reaches SWAP_PENDING and replies, or its copy has failed. -/
def execMigrCopyDone (s : State) : Res :=
  let c := s.hand.core
  match s.me.incoming with
  | none => .next s
  | some x =>
    match x.op.err with
    | some (addr, _) =>
      .next (((s.modMe (fun k => { k with copySt := .none, incoming := none })).swapWaiting c true).migrAnswer x.asker x.id 5 addr)
    | none =>
      .next (((s.modMe (fun k => { k with copySt := .swapPending, pendId := x.child, incoming := none })).swapWaiting c
        false).migrAnswer x.asker x.id 0 0)

/-- MIGR_REPLY (R419): the source leaves MIGRATING_OUT. From another package: `a` is the request's number, `b` the status,
and the bytes hold the failing address. -/
def execMigrReply (s : State) : Res :=
  let c := s.hand.core
  let (id, st, addr) := match s.hand.msg with
    | some (.migrReply id st addr) => (id, st, addr)
    | _ => (s.hand.arg.a, s.hand.arg.b, leNat s.hand.arg.bytes)
  let sent (m : Msg) : Bool := m.src == c && m.dst == toChip && (match m.body with
    | .migr _ i .. => i == id
    | _ => false)
  let s : State := { s with msgs := s.msgs.filter (fun m => !sent m) }
  let s := s.modMe (fun k => { k with copySt := if k.copySt = .migratingOut then .none else k.copySt })
  if s.me.ops.all (fun o => o.id != id) then .next s
  else if st = 5 then .next (s.draftFail c id 0 addr)
  else .next (s.draftDone c id (s.me.opReg id) st 0)

end Sys2Proof.Machine
end

