-- ==== Sys2Proof/Machine/Timed.lean ====
section
/-! DEFINITION. Timed blocks, the virtual cycle counter and budgets (R336 to R350): TBLK, TEND, REALIGN and BUDG, and the
events of pauses, blocks and budgets. -/

namespace Sys2Proof.Machine

/-! ## Blocks (R340, R344, R345) -/

/-- A block of a core's timetable. -/
def State.blockOf (s : State) (c b : Nat) : Option Block :=
  match s.launch (s.core c).launch with
  | some l => if l.image.timed then l.image.blocks.find? (fun e => e.no == b) else none
  | none => none

/-- Does a core belong to a launch with a timetable? -/
def State.timedLaunch (s : State) (c : Nat) : Bool :=
  match s.launch (s.core c).launch with
  | some l => l.image.timed
  | none => false

/-- TBLK (R344): ILLEGAL in a block or an untimed launch, or where the timetable has no such block at this PC; TIMING
past its START; else held until its START. -/
def execTblk (blk : GImm) (s : State) : Res :=
  s.sGuarded (fun s =>
    let c := s.hand.core
    let b := (s.me.gimm blk).toNat % 256
    if s.me.block.isSome ∨ !s.timedLaunch c then s.trap causeILLEGAL 0 0
    else match s.blockOf c b with
      | none => s.trap causeILLEGAL 0 4
      | some e =>
        if e.tblk ≠ s.ent.pc then s.trap causeILLEGAL 0 4
        else if e.start < s.me.vcc then s.trap causeTIMING 0 (timingInfo (s.me.vcc - e.start) b 2)
        else if s.me.vcc < e.start then s.sWait false 1 0 (s.clk + 1) none
        else
          let s := s.endLate c 9
          (s.modMe (fun k => { k with block := some (b, e.strict), blockNo := b + 1 })).sDone [])

/-- TEND (R345): ILLEGAL outside a block or where the block does not end. -/
def execTend (s : State) : Res :=
  s.sGuarded (fun s =>
    match s.me.block with
    | none => s.trap causeILLEGAL 0 0
    | some (b, _) =>
      match s.blockOf s.hand.core b with
      | some e =>
        if e.tend ≠ s.ent.pc then s.trap causeILLEGAL 0 0
        else (s.modMe (fun k => { k with block := none })).sDone []
      | none => s.trap causeILLEGAL 0 0)

/-! ## REALIGN (R342) -/

/-- The dies of a launch, rising. -/
def Launch.dies (l : Launch) : List Nat := (List.range 10).filter (fun d => l.cores.any (fun c => dieOf c == d))
/-- The master die: the lowest. -/
def Launch.master (l : Launch) : Nat := l.dies.headD 0
/-- M: the largest latency from the master. -/
def Launch.reach (l : Launch) : Nat := (l.dies.map (Config.dieLatency l.master)).foldl max 0

/-- A change to each core of a launch that stands on a die. -/
def State.onDie (s : State) (l : Launch) (die : Nat) (f : Core → Core) : State :=
  (l.cores.filter (fun c => dieOf c == die)).foldl (fun s c => s.modCore c f) s

/-- A message to a die of a launch, in a clk. -/
def State.tellDie (s : State) (due die : Nat) (b : MsgBody) : State :=
  { s with msgs := s.msgs ++ [⟨due, s.hand.core, die, b⟩] }

/-- REALIGN (R342): in a group of several dies, this die's VCC stops after this clk and its report goes to the master;
the release completes it. In a group on one die it has no effect beyond its dispatch. -/
def execRealign (s : State) : Res :=
  s.sGuarded (fun s =>
    let c := s.hand.core
    let n := s.me.launch
    match s.launch n with
    | none => s.sDone []
    | some l =>
      if !l.image.timed ∨ l.dies.length < 2 then s.sDone []
      else
        let d := dieOf c
        let s' := s.sWait false 1 s.clk retryNever none
        if (mapGet l.realign d).isSome then s'
        else
          let s' := s'.modLaunch n (fun l => { l with realign := mapPut l.realign d s.me.vcc })
          let s' := s'.onDie l d (fun k => { k with pauses := k.pauses + 1 })
          s'.tellDie (s.clk + Config.dieLatency d l.master) l.master (.realignReport n d s.me.vcc))

/-- REALIGN_REPORT (R342): the master's release, when every die has reported. -/
def execRealignReport (s : State) : Res :=
  match s.hand.msg with
  | some (.realignReport n d v) =>
    match s.launch n with
    | none => .next s
    | some l =>
      let reports := mapPut l.reports d v
      if l.dies.all (fun e => (mapGet reports e).isSome) then
        let bad := reports.any (fun p => reports.any (fun q => p.2 != q.2))
        let s := s.setLaunch n { l with reports := [] }
        .next (l.dies.foldl
          (fun s e => s.tellDie (s.clk + min (Config.dieLatency l.master e) (l.reach - 1)) e (.realignRelease n e bad)) s)
      else .next (s.setLaunch n { l with reports := reports })
  | _ => .next s

/-- Is the instruction that a core's sequencer holds a REALIGN that waits? -/
def Core.atRealign (k : Core) : Option Held :=
  match k.held with
  | some h => if h.entry.instr = .realign ∧ h.stage = 1 then some h else none
  | none => none

/-- The die's stop for REALIGN ends. -/
def State.leaveRealign (s : State) (n die : Nat) : State :=
  match s.launch n with
  | none => s
  | some l =>
    if (mapGet l.realign die).isSome then
      (s.onDie l die (fun k => { k with pauses := k.pauses - 1 })).setLaunch n { l with realign := mapDel l.realign die }
    else s

/-- REALIGN_RELEASE (R342): the die waits until M clk after the master's release, and its members go on; or each raises
TIMING with reason REALIGN. -/
def execRealignRelease (s : State) : Res :=
  match s.hand.msg with
  | some (.realignRelease n d bad) =>
    match s.launch n with
    | none => .next s
    | some l =>
      let sent := s.clk - min (Config.dieLatency l.master d) (l.reach - 1)
      let s := s.leaveRealign n d
      let s := s.onDie l d (fun k => { k with frozenTo := max k.frozenTo (sent + l.reach - 1) })
      .next ((l.cores.filter (fun c => dieOf c == d)).foldl
        (fun s c =>
          match (s.core c).atRealign with
          | none => s
          | some h =>
            let s := { s with hand := { s.hand with core := c, entry := h.entry, stage := h.stage, mark := h.mark } }
            if bad then s.timing (s.clk - h.mark) 6 else s.sDone []) s)
  | _ => .next s

/-! ## Pauses between dies (R341), and a block's START that comes too early (R344) -/

/-- PAUSE_SPREAD (R341): a pause of the timing group begins or ends on this die, or a freeze of n clk begins. -/
def execPauseSpread (s : State) : Res :=
  match s.hand.msg with
  | some (.pause n d code len) =>
    match s.launch n with
    | none => .next s
    | some l =>
      .next (s.onDie l d (fun k =>
        match code with
        | 0 => { k with pauses := k.pauses - 1 }
        | 1 => { k with pauses := k.pauses + 1 }
        | _ => { k with frozenTo := max k.frozenTo (s.clk + len) }))
  | _ => .next s

/-- BLOCK_START_PASSED (R344): a member that has not reached the TBLK of an elastic block pauses its die until it does; a
strict block's TBLK raises TIMING when it is dispatched. -/
def execBlockStartPassed (s : State) : Res :=
  let c := s.hand.core
  match s.blockOf c s.hand.arg.ix with
  | none => .next s
  | some e =>
    if e.strict ∨ s.me.late.contains 9 then .next s
    else .next ((s.pauseGroup c true true).modCore c (fun k => { k with late := 9 :: k.late }))

/-! ## Budgets (R348 to R350) -/

/-- The clk a BUDG asks for: a joined immediate is zero-extended (R343). -/
def Core.budgClk (k : Core) : GImmJ → Nat
  | .reg g => (k.rgv g).toNat
  | .imm v => v.toNat
  | .joined v => v % 2 ^ 32

/-- BUDGET_LEFT is written in the execution clk (R350). -/
def State.setBudget (s : State) (v : Word) : State :=
  (s.landWr s.hand.core s.ent.serial (.cr crBUDGET_LEFT v)).sDone []

/-- BUDG (R350): n clk, at most those up to the wall; a budget of 0 expires at once. -/
def execBudg (n : GImmJ) (s : State) : Res :=
  s.sGuarded (fun s =>
    let wall := (s.me.cv crBUDGET_WALL).toNat
    let n := s.me.budgClk n
    let n := if wall ≠ 0 then min n (wall - s.now) else n
    s.setBudget (BitVec.ofNat 64 (2 ^ 63 + n % 2 ^ 63)))

/-- BUDG.OFF (R350). -/
def execBudgOff (s : State) : Res := s.sGuarded (fun s => s.setBudget 0)

/-- DEADLINE_EXPIRY (R349): DEADLINE is pending, with the old WALL kept for its TRAP_INFO, and WALL is 0. -/
def execDeadlineExpiry (s : State) : Res :=
  let w := (s.me.cv crBUDGET_WALL).toNat
  .next (s.modMe (fun k =>
    { k.setCv crBUDGET_WALL 0 with pend := { k.pend with deadline := some (k.pend.deadline.getD w) } }))

/-- BUDGET_EXPIRY (R350): ARMED is cleared and BUDGET is pending. -/
def execBudgetExpiry (s : State) : Res :=
  .next (s.modMe (fun k => { k.setCv crBUDGET_LEFT 0 with pend := { k.pend with budget := true } }))

end Sys2Proof.Machine
end

