-- ==== Sys2Proof/Machine/Launch.lean ====
section
/-! DEFINITION. Launches (R330 to R335, R339, R353 to R355, R380 to R390): packets, images, checks, binding, loading, the
start and the completion of a launch, node slots, cancellation and shot clocks. -/

namespace Sys2Proof.Machine

/-! ## What the device's engines read (R473) -/

/-- What a read by an engine of the device finds: bytes, an error, or nothing yet. -/
inductive Fetched where
  | here (b : List Byte)
  | bad
  | away
  deriving DecidableEq, Repr

/-- Is a mesh address in this package's own memory or registers? -/
def State.inPackage (s : State) (phys : Nat) : Bool :=
  s.isHere phys && !(spaceOf phys == 2 && decide (hostBase ≤ phys % 2 ^ 42))

/-- n bytes read by an engine of the device. -/
def State.devFetch (s : State) (phys n : Nat) : Fetched :=
  match mapGet s.ext phys with
  | some (some b) => .here (b.take n)
  | some none => .bad
  | none =>
    if !s.inPackage phys then .away
    else if !s.placeUp (keyOf phys) n || (s.poisoned (keyOf phys) n).isSome then .bad
    else .here (s.memLoad (keyOf phys) n)

/-- A read leaves the package, once. -/
def State.askFor (s : State) (phys n : Nat) : State :=
  if s.asks.any (fun a => a.phys == phys) then s
  else if !s.reaches (phys / 2 ^ 44) ∨ (s.isHere phys ∧ !s.hostUp ((phys % 2 ^ 42 - hostBase) / 2 ^ 40)) then
    { s with ext := mapPut s.ext phys none }
  else
    let host := s.isHere phys
    let o := phys % 2 ^ 42 - hostBase
    let s := if host then s.emit .read (o / 2 ^ 40) (o % 2 ^ 40) (leBytes 8 n) else s.emit .read (phys / 2 ^ 44) phys (leBytes 8 n)
    { s with asks := s.asks ++ [⟨phys, if host then s.clk + hostLimit else retryNever⟩] }

/-- What came back has been used. -/
def State.dropExt (s : State) (phys : Nat) : State := { s with ext := mapDel s.ext phys }

/-- Is a read still on its way? -/
def State.asking (s : State) (phys : Nat) : Bool := s.asks.any (fun a => a.phys == phys)

/-! ## Packets (R380 to R382) -/

/-- Bytes a to a + n − 1 of a packet or descriptor, as a number. -/
def byteFld (p : List Byte) (a n : Nat) : Nat := leNat ((p.drop a).take n)

def pkHead (p : List Byte) : Nat := byteFld p 0 8
def pkLen (h : Nat) : Nat := 8 * fld h 0 6
def pkType (h : Nat) : Nat := fld h 10 2
def pkPrio (h : Nat) : Nat := fld h 12 3
def pkNsucc (h : Nat) : Nat := fld h 16 5
def pkJob (h : Nat) : Nat := fld h 24 8
def pkGraph (h : Nat) : Nat := fld h 32 8
def pkWork (h : Nat) : Nat := fld h 40 12
/-- The end of the fixed payload. -/
def pkFixed (ty : Nat) : Nat := if ty = 0 then 48 else if ty = 1 then 40 else 32

/-- Does a header break R380? -/
def headBad (h : Nat) : Bool :=
  fld h 52 12 != 0 || fld h 21 3 != 0 || fld h 15 1 != 0 || fld h 6 4 != 1 || decide (fld h 0 6 < 4) || decide (32 < fld h 0 6) ||
    (pkType h != 1 && pkGraph h != 0) || (pkType h == 3 && (pkWork h != 0 || pkNsucc h != 0)) ||
    decide (pkLen h < pkFixed (pkType h) + 4 * pkNsucc h)

/-- Is a counter id in range (R383)? KIND 7 is not. -/
def counterOk (id : Nat) : Bool :=
  let ix := fld id 0 13
  decide (id < 65536) && (match fld id 13 3 with
    | 0 => decide (ix < 4144)
    | 1 => decide (ix < 4096)
    | 2 => decide (ix < 256)
    | 3 => decide (128 ≤ ix) && decide (ix < 256) && (fld ix 6 2 == 2 || decide (fld ix 0 6 < 16))
    | 4 => decide (ix < 256)
    | 5 => decide (ix < 64)
    | 6 => decide (ix < 1024)
    | _ => false)

/-- Does an ADD packet break R381? -/
def addBad (id v : Nat) : Bool :=
  !counterOk id || decide (fld id 13 3 < 5) || (fld id 13 3 == 6 && (v == 0 || decide (4095 < v)))

/-- Does a packet break R380 or R381? -/
def packetBad (p : List Byte) : Bool :=
  let h := pkHead p
  let ty := pkType h
  let f := pkFixed ty
  let n := pkLen h
  let succ := (List.range (pkNsucc h)).map (fun i => byteFld p (n - 4 * pkNsucc h + 4 * i) 4)
  headBad h || ((p.drop f).take (n - 4 * pkNsucc h - f)).any (fun b => b != 0) || succ.any (fun v => decide (1024 ≤ v)) ||
    (match ty with
      | 3 =>
        let op := byteFld p 8 8
        decide (4 < op) || (op == 3 && addBad (byteFld p 16 8) (byteFld p 24 8))
      | 1 => decide (8 ≤ byteFld p 28 2) || byteFld p 30 2 != 0 ||
          (let v := byteFld p 32 8; fld v 10 6 != 0 || fld v 28 36 != 0)
      | 0 => decide (8 ≤ byteFld p 28 2) || byteFld p 30 2 != 0 || fld (byteFld p 40 8) 60 4 != 0
      | _ => decide (8 ≤ byteFld p 28 2) || byteFld p 30 2 != 0)

/-- The successors' slots. -/
def pkSucc (p : List Byte) : List Nat :=
  let h := pkHead p
  (List.range (pkNsucc h)).map (fun i => fld (byteFld p (pkLen h - 4 * pkNsucc h + 4 * i) 4) 0 10)

/-- Does a handle word of a packet pass R246 over n bytes? -/
def State.wordOk (s : State) (x w n : Nat) (wr : Bool) : Bool :=
  match s.handleSide x (BitVec.ofNat 64 w) n wr with
  | .ok _ => true
  | .error _ => false

/-! ## Images (R140 to R143) -/

/-- A section of an image: type, file offset, size, load offset. -/
structure Section where
  ty   : Nat
  off  : Nat
  size : Nat
  load : Nat
  deriving DecidableEq, Repr

/-- Reads an image's file: n bytes at an offset. -/
abbrev FileRead := Nat → Nat → List Byte

/-- The section table. -/
def imageSections (rd : FileRead) : List Section :=
  (List.range (byteFld (rd 0 32) 16 2)).map (fun i =>
    let e := rd (32 + 16 * i) 16
    ⟨byteFld e 0 2, byteFld e 4 4, byteFld e 8 4, byteFld e 12 4⟩)

/-- The timetable (R142, R340). -/
def imageBlocks (rd : FileRead) (l : List Section) : List Block :=
  (l.filter (fun x => x.ty == 4)).flatMap (fun x => (List.range (x.size / 16)).map (fun i =>
    let e := rd (x.off + 16 * i) 16
    ⟨byteFld e 13 1, byteFld e 0 8, byteFld e 8 2, byteFld e 10 2, byteFld e 12 1 == 0⟩))

/-- The residency map (R142). -/
def imageResid (rd : FileRead) (l : List Section) : List Resid :=
  (l.filter (fun x => x.ty == 5)).flatMap (fun x => (List.range (x.size / 12)).map (fun i =>
    let e := rd (x.off + 12 * i) 12
    ⟨byteFld e 0 4, byteFld e 0 4 + byteFld e 4 4,
      match byteFld e 8 1 with
      | 0 => 1
      | 1 => 0
      | _ => 2⟩))

/-- A handle relocation of an image (R141): the section and byte offset it fills, its symbol and its addend. -/
structure Reloc where
  sec : Nat
  off : Nat
  sym : Nat
  add : Int
  deriving DecidableEq, Repr

/-- The relocation entries, as bytes (R141). -/
def relocEntries (rd : FileRead) (l : List Section) : List (List Byte) :=
  (l.filter (fun x => x.ty == 6)).flatMap (fun x => (List.range (x.size / 16)).map (fun i => rd (x.off + 16 * i) 16))

/-- The relocations that a launch resolves: those of kind 6. -/
def imageRelocs (rd : FileRead) (l : List Section) : List Reloc :=
  ((relocEntries rd l).filter (fun e => byteFld e 5 1 == 6)).map (fun e =>
    ⟨byteFld e 4 1, byteFld e 0 4, byteFld e 6 2, sext 32 (byteFld e 8 4)⟩)

/-- The value of a handle relocation of an image: the id that the driver fills, and the addend (log entry 41). -/
def Reloc.value (r : Reloc) (word : Nat) : Int := (Config.handleId word r.sym).toNat + r.add

/-- Is a section one that a launch loads into its cores: code, data or region descriptors? -/
def Section.loaded (x : Section) : Bool := decide (1 ≤ x.ty) && decide (x.ty ≤ 3)

/-- An instruction word with a value in the operand that the assembler left for a relocation (R137): its joined immediate (R122), or
else its first operand, of D, A and B, that is a short immediate of 0 (log entry 41). None where the value does not fit. -/
def wordFilled (w v : Nat) : Option Nat :=
  if fld w 54 2 = 3 then
    if v < 2 ^ 32 then some (setFld (setFld (setFld w 0 2 (v / 2 ^ 30)) 40 14 (v / 65536 % 16384)) 24 16 (v % 65536)) else none
  else ([56, 40, 24].find? (fun at_ => fld w at_ 16 == 0x8000)).bind (fun at_ =>
    if v < 8192 then some (setFld w at_ 14 v) else none)

/-- What a handle relocation writes (R141): a local offset and bytes, the filled word in code, the 16-bit id elsewhere, nothing in a
section that is not loaded. None where the value does not fit its field. -/
def Reloc.fill (rd : FileRead) (l : List Section) (word : Nat) (r : Reloc) : Option (Nat × List Byte) :=
  match l[r.sec]?, r.value word with
  | none, _ | some _, .negSucc _ => none
  | some x, .ofNat v =>
    let n := if x.ty = 1 then 12 else 2
    if !x.loaded then some (0, [])
    else if x.size < r.off + n then none
    else if x.ty = 1 then (wordFilled (leNat (rd (x.off + r.off) n)) v).map (fun w => (x.load + r.off, leBytes n w))
    else if v < 65536 then some (x.load + r.off, leBytes n v) else none

/-- What a launch writes to its cores from the image: local offsets and bytes, in order; code, data and region descriptors, then
the handles. -/
def imageParts (rd : FileRead) (l : List Section) (word : Nat) : List (Nat × List Byte) :=
  (l.filter Section.loaded).map (fun x => (x.load, rd x.off x.size)) ++ (imageRelocs rd l).filterMap (Reloc.fill rd l word)

/-- What of some bytes at an offset lies from lo to hi. -/
def partWithin (lo hi : Nat) (p : Nat × List Byte) : Nat × List Byte :=
  (max lo p.1, (p.2.drop (lo - p.1)).take (hi - max lo p.1))

/-- Is an image of a length rejected (R143)? `gw` when its cores are gateways. -/
def imageBad (rd : FileRead) (len : Nat) (gw : Bool) : Bool :=
  if len < 32 then true
  else
    let h := rd 0 32
    let n := byteFld h 16 2
    let words := byteFld h 14 2
    if byteFld h 0 4 ≠ 0x02494B53 ∨ byteFld h 4 2 ≠ Config.imageMajor.toNat ∨ 4 ≤ byteFld h 8 4 ∨ byteFld h 18 14 ≠ 0 ∨ words = 0 ∨
        2730 < words ∨ len < 32 + 16 * n then true
    else
      let l := imageSections rd
      let top := if gw then 0x10000 else 0x40000
      let r := imageResid rd l
      (List.range n).any (fun i => byteFld (rd (32 + 16 * i) 16) 2 2 != 0) ||
      l.any (fun x =>
        decide (len < x.off + x.size) || (decide (3 < x.ty) && x.load != 0) ||
        ((x.ty == 1 || x.ty == 3) && (decide (x.load < 0x60000) || decide (0x68000 < x.load + x.size))) ||
        (x.ty == 1 && decide (x.size ≠ 12 * words)) ||
        (x.ty == 2 && !(decide (x.load + x.size ≤ top) || (decide (0x40000 ≤ x.load) && decide (x.load + x.size ≤ 0x58000)))) ||
        (x.ty == 4 && (x.size % 16 != 0 || (List.range (x.size / 16)).any (fun i =>
          let e := rd (x.off + 16 * i) 16
          byteFld e 14 2 != 0 || decide (1 < byteFld e 12 1)))) ||
        (x.ty == 5 && (x.size % 12 != 0 || (List.range (x.size / 12)).any (fun i =>
          let e := rd (x.off + 12 * i) 12
          byteFld e 9 3 != 0 || decide (2 < byteFld e 8 1)))) ||
        (x.ty == 3 && (List.range (x.size / 16)).any (fun i =>
          let e := rd (x.off + 16 * i) 16
          byteFld e 14 2 != 0 || fld (byteFld e 12 1) 4 4 != 0 || fld (byteFld e 13 1) 2 6 != 0))) ||
      (relocEntries rd l).any (fun e => byteFld e 12 4 != 0) ||
      decide (16 < r.length) ||
      (r.zipIdx).any (fun p => (r.zipIdx).any (fun q => p.2 != q.2 && decide (p.1.lo < q.1.hi) && decide (q.1.lo < p.1.hi)))

/-- Does a timetable break R340? -/
def blocksBad : List Block → Bool
  | [] => false
  | b :: t =>
    decide (b.tend ≤ b.tblk) || (match t with
      | [] => false
      | c :: _ => decide (c.no ≤ b.no) || decide (c.start ≤ b.start)) || blocksBad t

/-- A timetable in the order of its block numbers. -/
def blocksSorted (l : List Block) : List Block :=
  (List.range 256).flatMap (fun n => l.filter (fun b => b.no == n))

/-! ## Launch descriptors (R330, R331) -/

def dRect (d : List Byte) : Nat := byteFld d 20 4
def dFlag (d : List Byte) (i : Nat) : Bool := fld (byteFld d 38 2) i 1 == 1
/-- The cores of a rectangle, by unit number (R76, R330). -/
def rectCores (r : Nat) : List Nat :=
  (List.range (fld r 12 9)).flatMap (fun i => (List.range (fld r 21 5)).map (fun j => rectCore r i j))

/-- A capability over a range, when it is exactly representable (R55): data zero for none. -/
def rangeCap (base len perms : Nat) : Option GVal :=
  if len = 0 then some (GVal.data 0)
  else
    let whole : GVal := ⟨BitVec.ofNat 64 base, mdMake perms 63 0 0 0, true⟩
    let r := csetbResult true whole len
    if r.tag then some r else none

def permsOf (l : List Nat) : Nat := l.foldl (fun a i => a + 2 ^ i) 0
def spillPerms : Nat := permsOf [pR, pW, pLDCAP, pSTCAP, pSPILL]
def globalPerms : Nat := permsOf [pR, pW, pLDCAP, pSTCAP, pATOM, pREMOTE, pENGINE, pGLOBAL]

/-- The bytes of clean ranges in a unit's archive, each range starting on an 8-byte boundary (R332). -/
def archiveBytes (r : List Resid) : Nat :=
  (r.filter (fun x => x.cls == 0)).foldl (fun a x => (a + 7) / 8 * 8 + (x.hi - x.lo)) 0

/-- The length of an image's file: what its handle grants from the word's offset on. -/
def State.fileLen (s : State) (x w : Nat) : Nat :=
  match s.handle x (fld w 48 16) with
  | some e => e.len - fld w 0 48
  | none => 0

/-- Reads a launch's image from the package's memory, or from what was read from outside. -/
def State.imageRd (s : State) (l : Launch) : FileRead :=
  match l.file with
  | some b => fun off n => (b.drop off).take n
  | none =>
    match s.handleSide l.ctx (BitVec.ofNat 64 (byteFld l.desc 0 8)) 0 false with
    | .ok (phys, _) => fun off n => s.memLoad (keyOf phys + off) n
    | .error _ => fun _ _ => []

/-- The first check of R331 that fails, given the descriptor. -/
def State.launchStatus (s : State) (l : Launch) : Nat :=
  let d := l.desc
  let rect := dRect d
  let gw := fld rect 26 1 == 1
  let n := fld rect 12 9 * fld rect 21 5
  let img := byteFld d 0 8
  let rd := s.imageRd l
  let secs := imageSections rd
  let h := rd 0 32
  let flags := byteFld h 8 4
  let timed := dFlag d 1
  let cs := rectCores rect
  let rows := (List.range (fld rect 12 9)).map (fun i => fld rect 0 8 + i)
  if !s.wordOk l.ctx img 32 false || imageBad rd (s.fileLen l.ctx img) gw then 1
  else if fld rect 27 5 ≠ 0 ∨ fld (byteFld d 36 2) 12 4 ≠ 0 ∨ fld (byteFld d 38 2) 5 11 ≠ 0 ∨ !rectOk rect ∨ n = 0 ∨
      byteFld d 16 4 % 8 ≠ 0 ∨ byteFld d 24 8 % 16 ≠ 0 ∨ byteFld d 32 4 % 16 ≠ 0 ∨
      (fld flags 0 1 = 1 ∧ (fld rect 8 4 ≠ 0 ∨ fld rect 21 5 ≠ 16 ∨ gw)) ∨
      (gw ∧ timed ∧ rows.any (· < 3) ∧ rows.any (3 ≤ ·)) ∨ l.card.any (fun e => decide (byteFld h 14 2 ≤ e)) then 2
  else if cs.any (fun c => !coreExists c || mapGet s.cown c != some l.ctx) then 3
  else if (fld flags 1 1 == 1) != timed ∨
      (timed ∧ ((imageBlocks rd secs).length > 256 ∨ blocksBad (blocksSorted (imageBlocks rd secs)) ∨
        (blocksSorted (imageBlocks rd secs)).length ≠ (imageBlocks rd secs).length)) then 4
  else if ((List.range n).any (fun u =>
      (rangeCap ((byteFld d 24 8 + u * byteFld d 32 4) % 2 ^ 64) (byteFld d 32 4) spillPerms).isNone)) ∨
      (rangeCap (byteFld d 40 8) (byteFld d 48 8) globalPerms).isNone then 5
  else if (imageRelocs rd secs).any (fun r => (r.fill rd secs img).isNone) then 6
  else if dFlag d 2 ∧
      !s.wordOk l.ctx (byteFld d 8 8) ((n - 1) * byteFld d 16 4 + archiveBytes (imageResid rd secs)) false then 7
  else 0

/-! ## Counters (R383) -/

/-- The launch of a context that a WORK names. -/
def State.latestOf (s : State) (x work : Nat) : Option (Nat × Launch) :=
  match mapGet s.latest (x * 4096 + work) with
  | some n => (s.launch n).map (fun l => (n, l))
  | none => none
/-- The count of a WAITING node's slot, −H of a HELD one, else 0. -/
def Node.value (o : Option Node) : Int :=
  match o with
  | some n => (match n.st with
    | .waiting => n.n
    | .held => -(n.n : Int)
    | .dispatched => 0)
  | none => 0

/-- Is a unit of a context not ended? -/
def Core.unended (k : Core) (x : Nat) : Bool :=
  k.ctx == some x && (match k.unit with
    | .none | .done | .cancelled => false
    | _ => true)

/-- Has a unit of a context not ended, on its core or in the save area? -/
def State.unitOpen (s : State) (x c : Nat) : Bool := (s.core c).unended x || (mapGet (s.ctx x).saved c).isSome

/-- The value of a counter (R383): 0 for an id out of range. -/
def State.counter (s : State) (x id : Nat) : Int :=
  let ix := fld id 0 13
  if !counterOk id then 0
  else match fld id 13 3 with
    | 0 => if s.unitOpen x ix then 1 else 0
    | 1 =>
      match s.latestOf x ix with
      | some (_, l) => max 1 (l.units - l.ended.length : Nat)
      | none => 0
    | 2 => ((s.ctx x).nodes.countP (fun p => p.2.st != NodeState.held && pkGraph (pkHead p.2.packet) == ix) : Nat)
    | 3 => ((s.bar (barKey x (fld ix 6 2) 0 (fld ix 0 6))).releases : Nat)
    | 4 =>
      (s.launches.countP (fun p => p.2.ctx == x && p.2.job == ix) +
        (s.ctx x).nodes.countP (fun p => p.2.st == NodeState.waiting && pkJob (pkHead p.2.packet) == ix) : Nat)
    | 5 => (mapGetD (s.ctx x).events ix 0).toInt
    | _ => Node.value (mapGet (s.ctx x).nodes ix)

/-! ## Making a launch (R331, R380) -/

/-- A launch whose descriptor is still to be read, from its packet. The shot clock is armed now (R390). -/
def State.makeLaunch (s : State) (x q : Nat) (p : List Byte) (slot : Option Nat) : State :=
  let h := pkHead p
  let card := pkType h == 0
  let shot := byteFld p 24 4
  let l : Launch :=
    { ctx := x, queue := q, work := pkWork h, graph := if pkType h = 1 then some (pkGraph h) else none, job := pkJob h, slot := slot,
      record := BitVec.ofNat 64 (byteFld p 16 8), word := BitVec.ofNat 64 (byteFld p 8 8), pflags := byteFld p 28 2,
      succ := pkSucc p, desc := [], file := none, image := ⟨0, 0, false, false, [], []⟩, units := 0, st := .reading, status := 0,
      cores := [], loads := [], ended := [], startAt := none, shotNs := shot,
      shotAt := if shot = 0 then none else some (s.ns + shot), shotHit := false, cancelled := false,
      card := if card then some (fld (byteFld p 40 8) 48 12) else none, args := BitVec.ofNat 64 (byteFld p 32 8),
      count := if card then byteFld p 40 4 else 0, recsize := if card then byteFld p 44 2 else 0, dealt := 0, doneRecs := 0,
      reports := [], realign := [] }
  let n := s.nextLaunch
  { s with launches := mapPut s.launches n l, nextLaunch := n + 1, latest := mapPut s.latest (x * 4096 + l.work) n }

/-- A launch none of whose units runs: every unit ends CANCELLED (R331). -/
def Launch.dead (l : Launch) (status units : Nat) : Launch :=
  { l with st := .started, status := status, units := units, cores := [], loads := [],
           ended := (List.range units).map (fun u => (u, (.cancelled, 0xFFFE))) }

/-- The units of a descriptor's rectangle. -/
def descUnits (d : List Byte) : Nat := fld (dRect d) 12 9 * fld (dRect d) 21 5

/-- The clk after which a launch's cores have what they load. -/
def State.bindLaunch (s : State) (n : Nat) (l : Launch) : State :=
  let rd := s.imageRd l
  let secs := imageSections rd
  let h := rd 0 32
  let img : Image :=
    ⟨l.card.getD (byteFld h 12 2), byteFld h 14 2, fld (byteFld h 8 4) 0 1 == 1, dFlag l.desc 1,
      if dFlag l.desc 1 then blocksSorted (imageBlocks rd secs) else [], imageResid rd secs⟩
  let cs := rectCores (dRect l.desc)
  let (s, loads) := cs.foldl
    (fun (acc : State × List (Nat × Nat)) c =>
      let (t, s) := acc.1.draw
      (s, acc.2 ++ [(c, s.clk + t)])) (s, [])
  let s := s.setLaunch n { l with st := .bound, image := img, cores := cs, loads := loads }
  (cs.zipIdx).foldl (fun s (c, u) => s.modCore c (fun k =>
    { k with ctx := some l.ctx, unit := .loading, launch := n, unitNo := u, status := 0 })) s

/-- Does an earlier launch wait for a core of this one, or is one of its cores bound (R354)? -/
def State.coresTaken (s : State) (n : Nat) (cs : List Nat) : Bool :=
  cs.any (fun c => (s.core c).launch != 0) ||
    s.launches.any (fun p => decide (p.1 < n) && p.2.st == LaunchState.pending && (rectCores (dRect p.2.desc)).any cs.contains)

/-- The packet at the head of a queue is consumed (R377, R378). -/
def State.consume (s : State) (q : Nat) : State :=
  s.modQueue q (fun u =>
    match u.head with
    | none => u
    | some p =>
      let cons := (u.cons + pkLen (pkHead p)) % 2 ^ 32
      { u with head := none, cons := cons, due := s.clk + 1,
               st := match u.st with
                 | .running | .blocked => if cons = u.prod then .enabled else .running
                 | x => x })

/-- A launch has left its packet: it was bound, or it has failed. -/
def State.leavePacket (s : State) (l : Launch) : State := if l.slot.isSome then s else s.consume l.queue

/-- The physical address of a handle word. -/
def State.wordPhys (s : State) (x w n : Nat) : Option Nat :=
  match s.handleSide x (BitVec.ofNat 64 w) n false with
  | .ok (p, _) => some p
  | .error _ => none

/-- LAUNCH_BIND (R331, R353, R354): a launch's descriptor and image are read and checked; a launch that passes takes its
cores in one step when all of them are unbound, and waits PENDING otherwise; one that fails has no units. -/
def execLaunchBind (s : State) : Res :=
  let n := s.hand.arg.ix
  match s.launch n with
  | none => .next s
  | some l =>
    match l.st with
    | .reading =>
      let fail (s : State) (st units : Nat) : State := (s.setLaunch n (l.dead st units)).leavePacket l
      match s.wordPhys l.ctx l.word.toNat 128 with
      | none => .next (fail s 2 0)
      | some a =>
        match s.devFetch a 128 with
        | .away => .next (s.askFor a 128)
        | .bad => .next (fail (s.dropExt a) 2 0)
        | .here d =>
          let l := { l with desc := d }
          let len := s.fileLen l.ctx (byteFld d 0 8)
          let (file, wait) : Option (List Byte) × Option Nat := match s.wordPhys l.ctx (byteFld d 0 8) 32 with
            | none => (none, none)
            | some b =>
              if s.inPackage b then (none, none)
              else match s.devFetch b len with
                | .here f => (some f, none)
                | .bad => (some [], none)
                | .away => (none, some b)
          match wait with
          | some b => .next (s.askFor b len)
          | none =>
            let l := { l with file := file, units := descUnits d }
            let s := s.dropExt a
            let s := match s.wordPhys l.ctx (byteFld d 0 8) 32 with
              | some b => s.dropExt b
              | none => s
            match s.launchStatus l with
            | 0 =>
              if s.coresTaken n (rectCores (dRect d)) then
                let s := s.setLaunch n { l with st := .pending }
                .next (if l.slot.isNone then s.modQueue l.queue (fun u => { u with st := if u.st = .running then .blocked else u.st }) else s)
              else .next ((s.bindLaunch n l).leavePacket l)
            | st => .next ((s.setLaunch n (l.dead st l.units)).leavePacket l)
    | .pending =>
      if s.coresTaken n (rectCores (dRect l.desc)) then .next s else .next ((s.bindLaunch n l).leavePacket l)
    | _ => .next s

/-- Can LAUNCH_BIND do something for a launch? -/
def State.bindReady (s : State) (n : Nat) (l : Launch) : Bool :=
  match l.st with
  | .reading =>
    (match s.wordPhys l.ctx l.word.toNat 128 with
      | none => true
      | some a =>
        !s.asking a && (match s.devFetch a 128 with
          | .here d => (match s.wordPhys l.ctx (byteFld d 0 8) 32 with
            | some b => !s.asking b
            | none => true)
          | _ => true))
  | .pending => !s.coresTaken n (rectCores (dRect l.desc))
  | _ => false

/-! ## Loading and the start (R332, R333, R339) -/

/-- A core's memory as R332 clears it: weight SRAM and scratchpad zero, every tag, line word and WRITTEN bit clear, the
words of both without owner. -/
def State.clearCore (s : State) (c : Nat) : State :=
  let lo := coreKey c 0
  let hi := coreKey c 0x60000
  let inside (u : Nat) (a : Nat) : Bool := decide (lo ≤ a * u) && decide (a * u < hi)
  let gone := s.owners.filter (fun p => inside 8 p.1)
  let s := gone.foldl (fun s p => if p.2 < 8192 then s.sendFree p.2 (.revoke (s.phys (8 * p.1)))
    else s.emit .chip (p.2 / 8192 - 1) (s.phys (8 * p.1)) []) s
  { s with
    mem := s.mem.filter (fun p => !inside 1 p.1), tags := s.tags.filter (fun g => !inside 16 g)
    written := s.written.filter (fun g => !inside 128 g), lines := s.lines.filter (fun p => !inside 128 p.1)
    owners := s.owners.filter (fun p => !inside 8 p.1), poison := s.poison.filter (fun p => !inside 1 p.1) }

/-- The clean ranges of a residency map with their place in a unit's archive. -/
def archivePlaces (r : List Resid) : List (Resid × Nat) :=
  ((r.filter (fun x => x.cls == 0)).foldl
    (fun (acc : List (Resid × Nat) × Nat) x =>
      let a := (acc.2 + 7) / 8 * 8
      (acc.1 ++ [(x, a)], a + (x.hi - x.lo))) ([], 0)).1

/-- The place of unit u's archive, when the launch has one. -/
def State.archiveOf (s : State) (l : Launch) (u : Nat) : Option Nat :=
  if dFlag l.desc 2 then (s.wordPhys l.ctx (byteFld l.desc 8 8) 0).map (· + u * byteFld l.desc 16 4) else none

/-- What of a launch's image lies in a range of local offsets is written to a core. -/
def State.fillImage (s : State) (c : Nat) (l : Launch) (lo hi : Nat) : State :=
  let rd := s.imageRd l
  (((imageParts rd (imageSections rd) (byteFld l.desc 0 8)).map (partWithin lo hi)).filter (fun p => !p.2.isEmpty)).foldl
    (fun s p => s.memStore (coreKey c p.1) p.2 none) s

/-- Clean ranges that `on` picks by their number are written to a core from its archive. -/
def State.fillClean (s : State) (c : Nat) (l : Launch) (arch : List Byte) (on : Resid → Bool) : State :=
  ((archivePlaces l.image.resid).filter (fun p => on p.1)).foldl
    (fun s p => s.memStore (coreKey c p.1.lo) ((arch.drop p.2).take (p.1.hi - p.1.lo)) none) s

/-- A core's stores filled from the image, and its clean ranges from its archive (R332). -/
def State.fillCore (s : State) (c : Nat) (l : Launch) (arch : Option (List Byte)) : State :=
  let s := s.fillImage c l 0 0x68000
  match arch with
  | none => s
  | some b => s.fillClean c l b (fun _ => true)

/-- Does reading the image for loading end in an error: a place that is not up, or a poisoned word? -/
def State.imageBroken (s : State) (l : Launch) : Bool :=
  match l.file with
  | some _ => false
  | none =>
    match s.wordPhys l.ctx (byteFld l.desc 0 8) 0 with
    | some a => ((imageSections (s.imageRd l)).filter (fun x => decide (1 ≤ x.ty) && decide (x.ty ≤ 3))).any
        (fun x => decide (0 < x.size) && (!s.placeUp (keyOf a + x.off) x.size || (s.poisoned (keyOf a + x.off) x.size).isSome))
    | none => true

/-- Can a core's loading end? -/
def State.loadReady (s : State) (l : Launch) (c : Nat) (due : Nat) : Bool :=
  decide (due ≤ s.clk) && (match s.archiveOf l (s.core c).unitNo with
    | some a => !s.asking a
    | none => true)

/-- LOAD_COMPLETE (R332): a core of a launch holds its image and is READY, or its loading has met an error. -/
def execLoadComplete (s : State) : Res :=
  let c := s.hand.arg.ix
  let n := (s.core c).launch
  match s.launch n with
  | none => .next s
  | some l =>
    if (s.core c).unit ≠ .loading then .next s
    else
      let u := (s.core c).unitNo
      let bytes := archiveBytes l.image.resid
      let fail (s : State) (st : Nat) : State :=
        let s := s.setLaunch n { l with status := if l.status = 0 then st else l.status, loads := mapDel l.loads c }
        (s.modCore c (fun k => { k with unit := .faulted })).barMemberLost c 3
      let go (s : State) (arch : Option (List Byte)) : State :=
        let s := (s.clearCore c).fillCore c l arch
        let s := s.modLaunch n (fun l => { l with loads := mapDel l.loads c })
        s.modCore c (fun k => { k with unit := .ready, residency := 0, locks := [] })
      if s.imageBroken l then .next (fail s 1)
      else match s.archiveOf l u with
        | none => .next (go s none)
        | some a =>
          match s.devFetch a bytes with
          | .away => .next (s.askFor a bytes)
          | .bad => .next (fail (s.dropExt a) 7)
          | .here b => .next (go (s.dropExt a) (some b))

/-- A core's registers at unit start (R77, R333, R404): what belongs to the core's memory side, its debug module and its debug
registers stays. -/
def Core.start (k : Core) (now : Nat) (l : Launch) (lineage : Word) : Core :=
  let d := l.desc
  let u := k.unitNo
  let rect := dRect d
  let w := fld rect 21 5
  let arg (i : Nat) : Word := BitVec.ofNat 64 (byteFld d (64 + 8 * i) 8)
  let args := (List.range 8).map (fun i =>
    if l.card.isSome ∧ i = 0 then l.args else if l.card.isSome ∧ i = 1 then BitVec.ofNat 64 l.recsize else arg i)
  let spill := (rangeCap ((byteFld d 24 8 + u * byteFld d 32 4) % 2 ^ 64) (byteFld d 32 4) spillPerms).getD (GVal.data 0)
  let global := (rangeCap (byteFld d 40 8) (byteFld d 48 8) globalPerms).getD (GVal.data 0)
  let budget := byteFld d 56 8
  let regs : List (Nat × GVal) :=
    [(2, spill), (3, global)] ++ (args.zipIdx).map (fun p => (4 + p.2, GVal.data p.1)) ++ [(63, ⟨0, mdMake 0xFFF 63 0 0 0, true⟩)]
  let handler := fld (byteFld d 36 2) 0 12 + (if dFlag d 3 then 2 ^ 12 else 0) + (if dFlag d 4 then 2 ^ 13 else 0)
  let group := fld rect 0 27 + u / w * 2 ^ 32 + u % w * 2 ^ 44
  let wall := if budget = 0 then 0 else now + budget
  let crs : List (Nat × Word) :=
    [(crHANDLER, BitVec.ofNat 64 handler), (crBUDGET_WALL, BitVec.ofNat 64 wall),
     (crREGION, BitVec.ofNat 64 (0xFFF * 4096 + l.image.entry)), (crLINEAGE, lineage), (crRECT, BitVec.ofNat 64 group)]
  { Core.reset with
    g := regs
    cr := crs ++ k.cr.filter (fun p => decide (0x20 ≤ p.1))
    priv := dFlag d 0
    pc := l.image.entry
    region := ⟨0xFFF, l.image.entry, 0, [], []⟩
    unit := .running
    serial := k.serial
    opId := k.opId
    ctx := k.ctx
    launch := k.launch
    unitNo := k.unitNo
    descs := k.descs.map (fun p => (p.1, { p.2 with slot := none }))
    groups := k.groups
    stores := k.stores
    wcb := k.wcb
    draining := !k.wcb.isEmpty
    pend := { Pending.empty with deadline := k.pend.deadline }
    dbg := k.dbg }

/-- START_RELEASE (R339): every unit of a launch starts in one clk, with VCC 0; the gangs inside it have their barrier. -/
def execStartRelease (s : State) : Res :=
  let n := s.hand.arg.ix
  match s.launch n with
  | none => .next s
  | some l =>
    let s := l.cores.foldl (fun s c =>
      s.modCore c (fun k =>
        let t := k.start s.now l (lineageId s.isl.coord c 0)
        if k.unit = .ready then t.traceAdd s.now (syncRec s.now t) else k)) s
    let s := l.cores.foldl (fun s c => if (s.core c).dbg.stopped then s.pauseGroup c true false else s) s
    let gangs := ((l.cores.filter (fun c => c % 16 == 0 && !isGateway c)).map gangOf).filter (fun g =>
      (List.range 16).all (fun i => l.cores.contains (16 * g + i)))
    let s := gangs.foldl (fun s g =>
      s.setBar (barKey l.ctx 0 g 0) { Barrier.free l.ctx 0 g 0 with st := .armed, launch := n, n := 16 }) s
    let alone := s.launches.all (fun p => p.1 == n) && s.msgs.isEmpty && s.inputs.isEmpty
    .next { s.setLaunch n { l with st := .started, startAt := none } with
            lone := if alone then some (Config.loneSeed l.desc s.mem, s.free) else none }

/-- The clk of a launch's start, once its last unit is READY (R339, R342). -/
def State.planStart (s : State) (n : Nat) (l : Launch) : State := s.setLaunch n { l with startAt := some (s.clk + l.reach) }

/-! ## Nodes and cancellation (R384, R387 to R389) -/

/-- The body of an event record with code 0x41 or 0x45. -/
def launchTag (l : Launch) : List Byte :=
  leBytes 2 l.work ++ leBytes 1 (l.graph.getD 0) ++ leBytes 1 l.job ++ leBytes 2 (l.slot.getD 0xFFFF)

/-- A decrement of a node slot by n (R388), from a core or, 0xFFFF, the queue engine. -/
def State.nodeDec (s : State) (x slot n src : Nat) : State :=
  let put (v : Node) : State := s.modCtx x (fun y => { y with nodes := mapPut y.nodes slot v })
  match mapGet (s.ctx x).nodes slot with
  | none => put ⟨.held, n, 0, [], none⟩
  | some v =>
    match v.st with
    | .held => put { v with n := min 65535 (v.n + n) }
    | .waiting =>
      if n < v.n then put { v with n := v.n - n }
      else (put { v with st := .dispatched, n := 0, launch := some s.nextLaunch }).makeLaunch x v.queue v.packet (some slot)
    | .dispatched => s.postEvent x 0x41 0xFFFF (leBytes 2 slot ++ leBytes 2 src ++ leBytes 4 0 ++ leBytes 8 s.now ++ leBytes 8 0)

/-- A completion record written through a handle word, or its loss (R385). -/
def State.writeRecord (s : State) (x : Nat) (word : Word) (tag : List Byte) (status : Nat) (bytes : List Byte) : State :=
  let lost : State := s.postEvent x 0x45 0xFFFF (tag ++ leBytes 2 status ++ leBytes 8 s.now ++ leBytes 8 0)
  if fld word.toNat 48 16 = 0xFFFF then s
  else match s.handleSide x word 32 true with
    | .ok (p, _) => if s.placeLost p 32 then lost else s.devWrite p bytes
    | .error _ => lost

/-- A completion record (R385). -/
def recordBytes (status flags units done cancelled faulted first now dealt doneRecs : Nat) : List Byte :=
  leBytes 2 status ++ leBytes 2 flags ++ leBytes 2 units ++ leBytes 2 done ++ leBytes 2 cancelled ++ leBytes 2 faulted ++
    leBytes 2 first ++ leBytes 2 0 ++ leBytes 8 now ++ leBytes 4 dealt ++ leBytes 4 doneRecs

/-- A unit whose core stands in the save area ends CANCELLED (R334). -/
def State.cancelSaved (s : State) (x c : Nat) : State :=
  match mapGet (s.ctx x).saved c with
  | none => s
  | some v =>
    let s := s.modLaunch v.launch (fun l => { l with ended := mapPut l.ended v.unitNo (.cancelled, 0xFFFE) })
    s.modCtx x (fun y => { y with saved := mapDel y.saved c })

/-- CANCEL of a launch (R384): the units of one that has cores take it, and one without cores ends. -/
def State.cancelLaunch (s : State) (n : Nat) : State :=
  match s.launch n with
  | none => s
  | some l =>
    let l := { l with cancelled := true }
    match l.st with
    | .reading | .pending =>
      let l' := l.dead 0 (descUnits l.desc)
      (s.setLaunch n l').leavePacket l
    | _ => l.cores.foldl (fun s c => if (s.core c).launch = n then s.cancelUnit c else s.cancelSaved l.ctx c) (s.setLaunch n l)

/-- CANCEL of a node slot (R384, R388), and of what its own CASCADE reaches (R389). -/
def State.cancelNode : Nat → State → Nat → Nat → State
  | 0, s, _, _ => s
  | fuel + 1, s, x, slot =>
    match mapGet (s.ctx x).nodes slot with
    | none => s
    | some v =>
      match v.st with
      | .dispatched =>
        match v.launch with
        | some n => s.cancelLaunch n
        | none => s
      | .held => s.modCtx x (fun y => { y with nodes := mapDel y.nodes slot })
      | .waiting =>
        let p := v.packet
        let h := pkHead p
        let s := s.modCtx x (fun y => { y with nodes := mapDel y.nodes slot })
        let tag := leBytes 2 (pkWork h) ++ leBytes 1 (pkGraph h) ++ leBytes 1 (pkJob h) ++ leBytes 2 slot
        let s := s.writeRecord x (BitVec.ofNat 64 (byteFld p 16 8)) tag 0xFFFE (recordBytes 0xFFFE 2 0 0 0 0 0 s.now 0 0)
        (pkSucc p).foldl (fun s t =>
          if fld (byteFld p 28 2) 2 1 = 1 then State.cancelNode fuel s x t else s.nodeDec x t 1 0xFFFF) s

/-- What R389 does with the successors of a launch. -/
def State.treatSuccessors (s : State) (l : Launch) (ok : Bool) : State :=
  l.succ.foldl (fun s t =>
    if fld l.pflags 2 1 = 1 ∧ !ok then State.cancelNode 1100 s l.ctx t else s.nodeDec l.ctx t 1 0xFFFF) s

/-- What a CANCEL of a counter id targets (R399): units, node slots and launches. -/
def State.cancelTargets (s : State) (x id : Nat) : List Nat × List Nat × List Nat :=
  let ix := fld id 0 13
  if !counterOk id then ([], [], [])
  else match fld id 13 3 with
    | 0 => (if s.unitOpen x ix then [ix] else [], [], [])
    | 1 => ([], [], (s.latestOf x ix).toList.map (·.1))
    | 2 => ([], ((s.ctx x).nodes.filter (fun p => p.2.st != NodeState.held && pkGraph (pkHead p.2.packet) == ix)).map (·.1), [])
    | 3 =>
      let b := s.bar (barKey x (fld ix 6 2) 0 (fld ix 0 6))
      ([], [], if b.st == BarState.free || (s.launch b.launch).isNone then [] else [b.launch])
    | 4 =>
      ([], ((s.ctx x).nodes.filter (fun p => p.2.st == NodeState.waiting && pkJob (pkHead p.2.packet) == ix)).map (·.1),
        (s.launches.filter (fun p => p.2.ctx == x && p.2.job == ix)).map (·.1))
    | _ => ([], [], [])

/-- CANCEL of a counter id (R384). -/
def State.cancelId (s : State) (x id : Nat) : State :=
  let (us, ns, ls) := s.cancelTargets x id
  let s := us.foldl (fun s c => if (s.core c).unended x then s.cancelUnit c else s.cancelSaved x c) s
  let s := ns.foldl (fun s t => State.cancelNode 1100 s x t) s
  ls.foldl State.cancelLaunch s

/-- Has everything a CANCEL targeted ended or become FREE (R399)? -/
def State.cancelDone (s : State) (x : Nat) (us ns ls : List Nat) : Bool :=
  us.all (fun c => !s.unitOpen x c) && ns.all (fun t => (mapGet (s.ctx x).nodes t).isNone) &&
    ls.all (fun n => (s.launch n).isNone)

/-! ## Completion (R355, R385, R389) -/

/-- Has every unit of a launch entered DONE or CANCELLED (R355), or ended with its die's reset (R429; NONE stands for that)? -/
def Launch.over (l : Launch) : Bool :=
  l.st == .started && l.ended.length == l.units && l.ended.all (fun p => p.2.1 == .done || p.2.1 == .cancelled || p.2.1 == .none) ||
    l.st == .bound && l.ended.length == l.units && l.units != 0 && l.ended.all (fun p => p.2.1 == .cancelled || p.2.1 == .none)

/-- The cores of a launch become unbound: their unit, their barriers and populations are gone (R355, R369, R402). -/
def State.unbind (s : State) (n : Nat) (l : Launch) : State :=
  let s := s.dropPops n
  let stale (m : Msg) : Bool := match m.body with
    | .deal => l.cores.contains m.src
    | .dealt .. => l.cores.contains m.dst
    | _ => false
  let s := { s with barriers := s.barriers.filter (fun p => p.2.launch != n), msgs := s.msgs.filter (fun m => !stale m) }
  (l.cores.filter (fun c => (s.core c).launch == n)).foldl
    (fun s c => s.modCore c (fun k => { k with launch := 0, unit := .none, joins := [] })) s

/-- LAUNCH_COMPLETE (R355, R385, R389): the record, then the counters, the node slot and the successors; the cores are
unbound. -/
def execLaunchComplete (s : State) : Res :=
  let n := s.hand.arg.ix
  match s.launch n with
  | none => .next s
  | some l =>
    let count (f : UnitState → Bool) : Nat := l.ended.countP (fun p => f p.2.1)
    let first := ((l.ended.find? (fun p => p.2.2 != 0)).map (fun p => p.2.2)).getD 0
    let flags := (if l.shotHit then 1 else 0) + (if l.cancelled then 2 else 0)
    let done := count (fun u => u == .done)
    let dealt := if l.card.isSome then l.dealt else 0
    let rec_ := recordBytes l.status flags l.units done (count (fun u => u == .cancelled)) (count (fun u => u == .faulted || u == .none)) first s.now
      dealt (if l.card.isSome then l.doneRecs else 0)
    let s := s.writeRecord l.ctx l.record (launchTag l) l.status rec_
    let s := s.unbind n l
    let s := { s with launches := mapDel s.launches n }
    let s := match l.slot with
      | some t => s.modCtx l.ctx (fun y => { y with nodes := mapDel y.nodes t })
      | none => s
    .next (s.treatSuccessors l (l.status == 0 && done == l.units))

/-- SHOT_CLOCK_EXPIRY (R390). -/
def execShotClockExpiry (s : State) : Res :=
  let n := s.hand.arg.ix
  match s.launch n with
  | none => .next s
  | some l =>
    let s := s.postEvent l.ctx 0x0F 0xFFFF (launchTag l ++ leBytes 2 0 ++ leBytes 8 s.now ++ leBytes 8 0)
    let s := s.setLaunch n { l with shotAt := none, shotHit := true }
    let s := if fld l.pflags 1 1 = 1 then
        l.cores.foldl (fun s c =>
          if (s.core c).launch = n ∧ (s.core c).unended l.ctx then
            s.modCore c (fun k => { k with pend := { k.pend with deadline := some (2 ^ 64 + l.shotNs) } })
          else
            s.modCtx l.ctx (fun y => { y with saved := y.saved.map (fun p =>
              if p.1 = c ∧ p.2.launch = n then (p.1, { p.2 with pend := { p.2.pend with deadline := some (2 ^ 64 + l.shotNs) } })
              else p) })) s
      else s
    .next (if fld l.pflags 0 1 = 1 then s.cancelLaunch n else s)

/-- The next step of a launch: checks and binding, loading, the start, its end, its shot clock. One of a context that drains has
neither (R355). -/
def launchStep (s : State) (n : Nat) (l : Launch) : Option (State × List Instr) :=
  let ev (ix : Nat) (i : Instr) : Option (State × List Instr) :=
    some ({ s with hand := { Hand.empty with arg := { Arg.empty with ix := ix } } }, [i])
  if [.draining, .dead].contains (s.ctx l.ctx).st then none
  else if l.over then ev n .launchComplete
  else if (match l.shotAt with
      | some t => decide (t < s.ns)
      | none => false) then ev n .shotClockExpiry
  else if s.bindReady n l then ev n .launchBind
  else match l.loads.find? (fun p => s.loadReady l p.1 p.2) with
    | some p => ev p.1 .loadComplete
    | none =>
      if l.st == .bound && l.loads.isEmpty && l.cores.all (fun c => (s.core c).unit == .ready || (s.core c).unit == .cancelled) then
        match l.startAt with
        | none => some (s.planStart n l, [])
        | some t => if t ≤ s.clk ∧ (s.ctx l.ctx).st = .running then ev n .startRelease else none
      else none

end Sys2Proof.Machine
end

