-- ==== Sys2Proof/Machine/QueueOps.lean ====
section
/-! DEFINITION. Queues (R376 to R379): what the host writes to them, the queue engine, and the packets it dispatches (R380 to
R388). -/

namespace Sys2Proof.Machine

/-! ## Control blocks (R376 to R378) -/

/-- A queue enters ERROR while it runs, with an event record (R378, R392). -/
def State.queueError (s : State) (q code : Nat) : State :=
  let u := s.queue q
  let s := s.setQueue q { u with st := .error, err := code, errIx := u.cons, head := none }
  match u.own with
  | some x => s.postEvent x 0x42 0xFFFF (leBytes 2 q ++ leBytes 1 code ++ leBytes 1 0 ++ leBytes 4 u.cons ++ leBytes 8 s.now ++ leBytes 8 0)
  | none => s

/-- Is a producer index legal (R377)? -/
def Queue.legal (u : Queue) (p : Nat) : Bool :=
  p % 8 == 0 && decide ((p + 2 ^ 32 - u.prod) % 2 ^ 32 + (u.prod + 2 ^ 32 - u.cons) % 2 ^ 32 ≤ u.size)

/-- QUEUE_DOORBELL (R376 to R378): the host's write of a producer index. -/
def State.doorbell (s : State) (q v : Nat) : State :=
  let u := s.queue q
  let p := v % 2 ^ 32
  let draining : Bool := match u.own with
    | some x => (s.ctx x).st == .draining
    | none => false
  if u.feed == 1 || draining then s
  else match u.st with
    | .enabled | .running | .blocked =>
      if u.legal p then s.setQueue q { u with prod := p, due := max u.due (s.clk + 1) }
      else s.setQueue q { u with st := .error, err := 1, head := none }
    | .disabled | .error => s.setQueue q { u with prod := p }
    | .draining => s

/-- QUEUE_DOORBELL: `ix` is the queue and `a` the value. -/
def execQueueDoorbell (s : State) : Res := .next (s.doorbell s.hand.arg.ix s.hand.arg.a)

/-- Is a configuration accepted (R376)? -/
def configOk (ctl : Nat) : Bool :=
  decide (ctl < 512) && decide (12 ≤ fld ctl 4 5) && decide (fld ctl 4 5 ≤ 24) &&
    (if fld ctl 1 1 = 0 then fld ctl 3 1 == 0 else fld ctl 2 1 == 1 || fld ctl 3 1 == 0)

/-- Does the ring pass R246 over its bytes: R where the device consumes, W where it produces? -/
def State.ringOk (s : State) (u : Queue) : Bool :=
  match u.own with
  | none => false
  | some x => (u.drain == 1 || s.wordOk x u.ring.toNat u.size false) && (u.feed == 0 || s.wordOk x u.ring.toNat u.size true)

/-- A write of Q_CTL (R376, R378): ENABLE := 1 on a DISABLED queue enables it or puts it into ERROR; ENABLE := 0 disables one;
while it is enabled its other bits stay. One that is DRAINING does not take an ENABLE. -/
def State.writeQctl (s : State) (q v : Nat) : State :=
  let u := s.queue q
  if u.st = .disabled then
    let u := { u with ctl := BitVec.ofNat 64 v }
    if fld v 0 1 = 0 then s.setQueue q u
    else if !configOk v then s.setQueue q { u with st := .error, err := 6, errIx := 0 }
    else if fld u.ring.toNat 0 8 ≠ 0 ∨ !s.ringOk u then s.setQueue q { u with st := .error, err := 3, errIx := 0 }
    else
      let s := s.setQueue q { u with st := .enabled, prod := 0, cons := 0, err := 0, errIx := 0, head := none, due := s.clk + 1 }
      match u.own with
      | some x => s.modCtx x (fun y => { y with st := if y.st = .ready then .running else y.st })
      | none => s
  else if fld v 0 1 = 0 ∧ u.st ≠ .draining then
    -- a head that has not been dispatched is abandoned
    let head (l : Launch) : Bool := l.queue == q && l.slot.isNone && (l.st == .reading || l.st == .pending)
    let s := { s with launches := s.launches.filter (fun p => !head p.2) }
    s.setQueue q { u with ctl := BitVec.ofNat 64 (setFld u.ctl.toNat 0 1 0), st := .draining, head := none }
  else if u.st = .draining then s.setQueue q { u with ctl := BitVec.ofNat 64 (setFld v 0 1 0) }
  else s

/-- QUEUE_ENABLE (R378): `ix` is the queue and `a` the value of Q_CTL. -/
def execQueueEnable (s : State) : Res := .next (s.writeQctl s.hand.arg.ix (setFld s.hand.arg.a 0 1 1))
/-- QUEUE_DISABLE (R378). -/
def execQueueDisable (s : State) : Res := .next (s.writeQctl s.hand.arg.ix 0)
/-- QUEUE_DRAINED (R378). -/
def execQueueDrained (s : State) : Res := .next (s.modQueue s.hand.arg.ix (fun u => { u with st := .disabled }))
/-- A host's write of Q_CONS, when the host consumes (R376). -/
def State.hostConsume (s : State) (q v : Nat) : State :=
  let u := s.queue q
  if u.drain = 1 then s.setQueue q { u with cons := v % 2 ^ 32 } else s
/-- HOST_CONSUME (R376): `ix` is the queue and `a` the index. -/
def execHostConsume (s : State) : Res := .next (s.hostConsume s.hand.arg.ix s.hand.arg.a)

/-! ## Reading packets (R377 to R379) -/

/-- The parts of a ring that n bytes from index i on lie in, as mesh addresses. -/
def State.ringParts (s : State) (q i n : Nat) : Option (List (Nat × Nat)) :=
  let u := s.queue q
  let a := i % u.size
  match s.ringAddr q i, s.ringAddr q (i - a) with
  | some p, some start => some (if a + n ≤ u.size then [(p, n)] else [(p, u.size - a), (start, n - (u.size - a))])
  | _, _ => none

/-- What reading some parts finds, and the parts still to be asked for. -/
def State.fetchParts (s : State) (l : List (Nat × Nat)) : Fetched × List (Nat × Nat) :=
  l.foldl (fun acc p =>
    match acc.1, s.devFetch p.1 p.2 with
    | .bad, _ => acc
    | _, .bad => (.bad, [])
    | .away, .away => (.away, acc.2 ++ [p])
    | .away, _ => acc
    | .here _, .away => (.away, acc.2 ++ [p])
    | .here b, .here c => (.here (b ++ c), [])) (.here [], [])

/-- The head packet: its header first. -/
def State.headFetch (s : State) (q : Nat) : Option (Fetched × List (Nat × Nat)) :=
  let u := s.queue q
  match s.ringParts q u.cons 8 with
  | none => none
  | some l =>
    match s.fetchParts l with
    | (.here b, _) =>
      let h := leNat b
      if headBad h then some (.here b, [])
      else (s.ringParts q u.cons (pkLen h)).map (fun l => s.fetchParts l)
    | x => some x

/-- Can a queue read its head (R377, R379)? -/
def State.readReady (s : State) (q : Nat) : Bool :=
  let u := s.queue q
  (u.st == .enabled || u.st == .running) && u.kind == 0 && u.head.isNone && u.prod != u.cons && decide (u.due ≤ s.clk) &&
    (match s.headFetch q with
      | some (.here b, _) => headBad (leNat (b.take 8)) || decide (pkLen (leNat (b.take 8)) ≤ u.held)
      | some (.away, l) => l.any (fun p => !s.asking p.1)
      | _ => true)

/-- PACKET_READ (R378): the head packet is read and checked. -/
def execPacketRead (s : State) : Res :=
  let q := s.hand.arg.ix
  let u := s.queue q
  let s := s.setQueue q { u with st := if u.st = .enabled then .running else u.st }
  match s.headFetch q, u.own with
  | some (.here p, _), some x =>
    let s := match s.ringParts q u.cons p.length with
      | some l => l.foldl (fun (s : State) (a : Nat × Nat) => s.dropExt a.1) s
      | none => s
    let h := pkHead p
    if headBad h ∨ packetBad p then .next (s.queueError q 2)
    else if pkType h ≠ 3 ∧ (!s.wordOk x (byteFld p 8 8) 128 false ∨
        (byteFld p 22 2 ≠ 0xFFFF ∧ !s.wordOk x (byteFld p 16 8) 32 true)) then .next (s.queueError q 3)
    else .next (s.modQueue q (fun u => { u with head := some p }))
  | some (.bad, _), _ => .next (s.queueError q 4)
  | some (.away, l), _ => .next (l.foldl (fun s p => s.askFor p.1 p.2) s)
  | _, _ => .next (s.queueError q 3)

/-! ## Dispatching packets (R379, R381) -/

/-- Has a queue's head launch been made already? -/
def State.headLaunch (s : State) (q : Nat) : Bool :=
  s.launches.any (fun p => p.2.queue == q && p.2.slot.isNone && (p.2.st == .reading || p.2.st == .pending))

/-- LAUNCH_PACKET and JOB_CARD_PACKET: the launch is made; LAUNCH_BIND checks and binds it. -/
def State.launchPacket (s : State) (q : Nat) : State :=
  match (s.queue q).head, (s.queue q).own with
  | some p, some x => if s.headLaunch q then s else s.makeLaunch x q p none
  | _, _ => s

/-- LAUNCH_PACKET (R381). -/
def execLaunchPacket (s : State) : Res := .next (s.launchPacket s.hand.arg.ix)
/-- JOB_CARD_PACKET (R381, R386). -/
def execJobCardPacket (s : State) : Res := .next (s.launchPacket s.hand.arg.ix)

/-- GRAPH_NODE_PACKET (R388): the node is registered, or the queue enters ERROR with code NODE. -/
def execGraphNodePacket (s : State) : Res :=
  let q := s.hand.arg.ix
  match (s.queue q).head, (s.queue q).own with
  | some p, some x =>
    let slot := fld (byteFld p 32 4) 0 10
    let dep := fld (byteFld p 32 4) 16 12
    let put (s : State) (v : Node) : State := s.modCtx x (fun y => { y with nodes := mapPut y.nodes slot v })
    let reg (h : Nat) : State :=
      if h < dep then (put s ⟨.waiting, dep - h, q, p, none⟩).consume q
      else ((put s ⟨.dispatched, 0, q, p, some s.nextLaunch⟩).makeLaunch x q p (some slot)).consume q
    match mapGet (s.ctx x).nodes slot with
    | none => .next (reg 0)
    | some v =>
      match v.st with
      | .held => .next (reg v.n)
      | _ => .next (s.queueError q 5)
  | _, _ => .next s

/-- What a control packet waits for holds (R381): its counter is at most its value, or every earlier packet of the queue has
completed. -/
def State.controlMet (s : State) (q : Nat) (p : List Byte) : Bool :=
  match (s.queue q).own with
  | none => true
  | some x =>
    match byteFld p 8 8 with
    | 1 => decide (s.counter x (byteFld p 16 8) ≤ (BitVec.ofNat 64 (byteFld p 24 8)).toInt)
    | 4 => s.launches.all (fun l => l.2.queue != q) &&
        (s.ctx x).nodes.all (fun n => n.2.queue != q || n.2.st == NodeState.held)
    | _ => true

/-- A control packet: dispatched when what it waits for holds, BLOCKED until then. -/
def State.controlPacket (s : State) (q : Nat) (act : State → Nat → List Byte → State) : State :=
  match (s.queue q).head, (s.queue q).own with
  | some p, some x => if s.controlMet q p then (act s x p).consume q else s.modQueue q (fun u => { u with st := .blocked })
  | _, _ => s

/-- CTRL_NOP (R381). -/
def execCtrlNop (s : State) : Res := .next (s.controlPacket s.hand.arg.ix (fun s _ _ => s))
/-- CTRL_WAIT (R381). -/
def execCtrlWait (s : State) : Res := .next (s.controlPacket s.hand.arg.ix (fun s _ _ => s))
/-- CTRL_CANCEL (R381, R384). -/
def execCtrlCancel (s : State) : Res :=
  .next (s.controlPacket s.hand.arg.ix (fun s x p => s.cancelId x (byteFld p 16 8)))

/-- CNTADD of a value to a counter (R396): kind 5 adds, kind 6 decrements its slot. -/
def State.counterAdd (s : State) (x id : Nat) (v : Word) (src : Nat) : State :=
  let ix := fld id 0 13
  if fld id 13 3 = 5 then s.modCtx x (fun y => { y with events := mapPut y.events ix (mapGetD y.events ix 0 + v) })
  else if fld id 13 3 = 6 then s.nodeDec x ix v.toNat src
  else s

/-- CTRL_ADD (R381, R396). -/
def execCtrlAdd (s : State) : Res :=
  .next (s.controlPacket s.hand.arg.ix (fun s x p => s.counterAdd x (byteFld p 16 8) (BitVec.ofNat 64 (byteFld p 24 8)) 0xFFFF))
/-- CTRL_FENCE (R381). -/
def execCtrlFence (s : State) : Res := .next (s.controlPacket s.hand.arg.ix (fun s _ _ => s))

/-- The event that dispatches a packet. -/
def packetEvent (p : List Byte) : Instr :=
  match pkType (pkHead p) with
  | 0 => .jobCardPacket
  | 1 => .graphNodePacket
  | 2 => .launchPacket
  | _ =>
    match byteFld p 8 8 with
    | 0 => .ctrlNop
    | 1 => .ctrlWait
    | 2 => .ctrlCancel
    | 3 => .ctrlAdd
    | _ => .ctrlFence

/-- Can a queue's head packet do something now? -/
def State.packetReady (s : State) (q : Nat) : Option (List Byte) :=
  let u := s.queue q
  match u.head with
  | none => none
  | some p =>
    let go := match u.st with
      | .running => if pkType (pkHead p) = 3 then true else !s.headLaunch q
      | .blocked => pkType (pkHead p) == 3 && s.controlMet q p
      | _ => false
    if go then some p else none

/-- The queue whose packet is dispatched next: by descending PRIO, then ascending number (R379). -/
def State.nextPacket (s : State) : Option (Nat × List Byte) :=
  s.queues.foldl (fun b e =>
    match s.packetReady e.1 with
    | none => b
    | some p => match b with
      | none => some (e.1, p)
      | some (_, r) => if pkPrio (pkHead r) < pkPrio (pkHead p) then some (e.1, p) else b) none

/-- The queue engine's next step. -/
def queueStep (s : State) : Option (State × List Instr) :=
  let ev (ix : Nat) (i : Instr) : Option (State × List Instr) :=
    some ({ s with hand := { Hand.empty with arg := { Arg.empty with ix := ix } } }, [i])
  match s.queues.find? (fun e => e.2.st == .draining && s.launches.all (fun l => l.2.queue != e.1)) with
  | some e => ev e.1 .queueDrained
  | none =>
    match s.queues.find? (fun e => s.readReady e.1) with
    | some e => ev e.1 .packetRead
    | none =>
      match s.nextPacket with
      | some (q, p) => ev q (packetEvent p)
      | none => none

/-! ## Counters read by the host (R383) -/

/-- COUNTER_SELECT (R383): `ix` is the function and `a` the counter id. -/
def execCounterSelect (s : State) : Res :=
  .next (s.modCtx s.hand.arg.ix (fun y => { y with cntSel := BitVec.ofNat 64 s.hand.arg.a }))

end Sys2Proof.Machine
end

