-- ==== Sys2Proof/Machine/QueueInstr.lean ====
section
/-! DEFINITION. The queue and counter instructions (R395 to R401), and the dealer of a job card (R386). -/

namespace Sys2Proof.Machine

/-- The context of the core in hand. -/
def State.myCtx (s : State) : Nat := s.me.ctx.getD 0

/-- The release wait of R273, made by an instruction of the sequencer. -/
def State.sRelease (s : State) (go : State → State) : State :=
  if s.me.released s.ent.serial then go s else (s.modMe Core.startDrain).sHold false 1 0

/-- The clk in which a request of this core that has no stated time arrives: after its earlier ones (R401). -/
def State.requestDue (s : State) : Nat × State :=
  let (l, s) := s.draw
  (s.me.ops.foldl (fun t o => match o.kind, o.due with
    | .cntadd .., some d => max t d
    | .qpush .., some d => max t d
    | .tsub .., some d => max t d
    | _, _ => t) (s.clk + l), s)

/-! ## Counters (R396, R399) -/

/-- CNTADD (R396). -/
def execCntadd (gc : GReg) (b : GImm) (s : State) : Res :=
  s.sGuarded (fun s =>
    let id := (s.me.rgv gc).toNat
    let v := s.me.gimm b
    if !counterOk id ∨ fld id 13 3 < 5 then s.trap causePERM id (capInfo 4 gc)
    else if fld id 13 3 = 6 ∧ (v.toNat = 0 ∨ 4095 < v.toNat) then s.trap causeBOUNDS id (capInfo 4 gc)
    else s.sRelease (fun s =>
      let (due, s) := s.requestDue
      (s.sAsync 9 (.cntadd id v) (some due)).2))

/-- Does a counter's condition hold (R396)? -/
def State.cntHolds (s : State) (x id : Nat) (b : Int) (ge : Bool) : Bool :=
  if ge then decide (b ≤ s.counter x id) else decide (s.counter x id ≤ b)

/-- CNTWT's waiting forms: the unit waits until the condition holds, then acquires (R396). -/
def State.cntwt (s : State) (gc : GReg) (b : GImm) (ge : Bool) : State :=
  let id := (s.me.rgv gc).toNat
  if s.ent.block.isSome then s.trap causeILLEGAL 0 0
  else if !counterOk id then s.trap causePERM id (capInfo 4 gc)
  else if s.cntHolds s.myCtx id (s.me.gimm b).toInt ge then (s.modMe Core.acquire).sDone []
  else s.sWait true 1 0 (s.clk + 1) none
/-- CNTWT.LE (R396). -/
def execCntwtLe (gc : GReg) (b : GImm) (s : State) : Res := s.sGuarded (fun s => s.cntwt gc b false)
/-- CNTWT.GE (R396). -/
def execCntwtGe (gc : GReg) (b : GImm) (s : State) : Res := s.sGuarded (fun s => s.cntwt gc b true)

/-- CNTWT's .A forms: dk counts until the condition holds (R396). -/
def State.cntwtA (s : State) (dk : DReg) (gc : GReg) (b : GImm) (ge : Bool) : State :=
  let id := (s.me.rgv gc).toNat
  if !counterOk id then s.trap causePERM id (capInfo 4 gc)
  else
    let e := s.ent
    let n := s.me.opId
    let v := (s.me.gimm b).toInt
    let s := s.sDone []
    s.modMe (fun k =>
      let k := k.slotInc s.clk (some dk)
      { k with opId := n + 1, ops := k.ops ++ [⟨n, e.serial, .cntwt id v ge, some dk, some (s.clk + 1), 9, 0⟩] })
/-- CNTWT.LE.A (R396). -/
def execCntwtLeA (dk : DReg) (gc : GReg) (b : GImm) (s : State) : Res := s.sGuarded (fun s => s.cntwtA dk gc b false)
/-- CNTWT.GE.A (R396). -/
def execCntwtGeA (dk : DReg) (gc : GReg) (b : GImm) (s : State) : Res := s.sGuarded (fun s => s.cntwtA dk gc b true)

/-- CANCEL (R384, R399). -/
def execCancel (gc : GReg) (s : State) : Res :=
  s.sGuarded (fun s =>
    let id := (s.me.rgv gc).toNat
    let x := s.myCtx
    if !counterOk id then s.trap causePERM id (capInfo 4 gc)
    else
      let (us, ns, ls) := s.cancelTargets x id
      ((s.sAsync 9 (.cancel us ns ls) (some (s.clk + 1))).2).cancelId x id)

/-! ## Job cards (R386, R397) -/

/-- The chunk a unit holds is complete. -/
def State.chunkDone (s : State) : State :=
  match s.me.chunk with
  | none => s
  | some (_, n) =>
    (s.modLaunch s.me.launch (fun l => { l with doneRecs := l.doneRecs + n })).modMe (fun k => { k with chunk := none })

/-- Is a request of a core on its way to the dealer, or the reply on its way back? -/
def State.dealing (s : State) (c : Nat) : Bool :=
  s.msgs.any (fun m => match m.body with
    | .deal => m.src == c
    | .dealt .. => m.dst == c
    | _ => false)

/-- TNEXT (R397): stage 1 waits for the reply. -/
def execTnext (gd : GReg) (s : State) : Res :=
  s.sGuarded (fun s =>
    if s.ent.block.isSome then s.trap causeILLEGAL 0 0
    else match s.launch s.me.launch with
      | none => s.sDone [.g gd (GVal.data 0)]
      | some l =>
        if l.card.isNone then s.sDone [.g gd (GVal.data 0)]
        else
          let s := s.chunkDone
          let s := if s.dealing s.hand.core then s else s.sendFree s.hand.core .deal
          s.sWait true 1 0 retryNever none)

/-- The size of the next chunk of a card (R386). -/
def Launch.nextChunk (l : Launch) : Nat :=
  let r := l.count - l.dealt
  min r (max 1 ((r + 2 * l.units - 1) / (2 * l.units)))

/-- DEAL_REQUEST (R386, R401): the dealer hands out the next chunk; its reply goes back. -/
def execDealRequest (s : State) : Res :=
  let c := s.hand.core
  match s.launch (s.core c).launch with
  | none => .next s
  | some l =>
    let n := l.nextChunk
    let s := s.setLaunch (s.core c).launch { l with dealt := l.dealt + n }
    .next (s.sendFree c (.dealt l.dealt n))

/-- Does a core's sequencer wait at a TNEXT? -/
def Core.atTnext (k : Core) : Option (Held × GReg) :=
  match k.held with
  | some h => (match h.entry.instr with
    | .tnext gd => if h.stage = 1 then some (h, gd) else none
    | _ => none)
  | none => none

/-- The dealer's reply: the chunk's first index and its count. -/
def State.dealt (s : State) (c first n : Nat) : State :=
  match (s.core c).atTnext with
  | none => s
  | some (h, gd) =>
    let s := { s with hand := { Hand.empty with core := c, entry := h.entry } }
    let s := s.modMe (fun k => { k with chunk := if n = 0 then none else some (first, n) })
    s.sDone [.g gd (GVal.data (BitVec.ofNat 64 (first % 2 ^ 32 + n * 2 ^ 32)))]

/-- TDONE (R397). -/
def execTdone (s : State) : Res := s.sGuarded (fun s => s.chunkDone.sDone [])

/-! ## Queues fed and popped by the device (R398, R400) -/

/-- Is a queue operand one of this context, of a kind (R395)? `feed` and `drain` are what it must have. -/
def State.queueOk (s : State) (v kind : Nat) (feed drain : Option Nat) : Bool :=
  let u := s.queue v
  s.ownsQueue s.myCtx v && u.kind == kind && (feed.isNone || feed == some u.feed) && (drain.isNone || drain == some u.drain)

/-- TSUB (R398): the release wait, the packet's bytes; it is appended when it arrives. -/
def execTsub (gd : GReg) (m : MemOp) (gq : GReg) (s : State) : Res :=
  s.sGuarded (fun s =>
    let q := (s.me.rgv gq).toNat
    if !s.queueOk q 0 (some 1) none then s.trap causePERM q (capInfo 5 gq)
    else s.sRelease (fun s => issued (do
      let post := s.me.postInc m 8
      let x0 := s.me.memAddr m 8
      let (s, _, hb) ← s.readOwnAt m.g 4 x0 8 0
      let h := leNat hb
      let (s, bytes) ← (if headBad h then pure (s, hb)
        else (s.readOwnAt m.g 4 x0 (pkLen h) 0).map (fun r => (r.1, r.2.2)) : Except State (State × List Byte))
      let (due, s) := s.requestDue
      let s := s.modMe (fun k => post.foldl (fun k p => k.landAt s.ent.serial 1 p) k)
      return (s.sAsync 9 (.tsub q bytes gd (headBad h)) (some due)).2)))
/-- Bytes appended to a ring at PROD. -/
def State.appendBytes (s : State) (q : Nat) (bytes : List Byte) : State :=
  match s.ringParts q (s.queue q).prod bytes.length with
  | none => s
  | some l =>
    let s := (l.foldl (fun (acc : State × List Byte) p => (acc.1.devWrite p.1 (acc.2.take p.2), acc.2.drop p.2)) (s, bytes)).1
    s.modQueue q (fun u => { u with prod := (u.prod + bytes.length) % 2 ^ 32, due := max u.due (s.clk + 1) })

/-- The status of TSUB when it arrives (R398). -/
def State.tsubLands (s : State) (c serial q : Nat) (bytes : List Byte) (gd : GReg) (bad : Bool) : State :=
  let u := s.queue q
  let put (s : State) (st : Nat) : State := s.modCore c (fun k => k.landOp serial (.g gd (GVal.data (BitVec.ofNat 64 st))))
  if bad then put s 2
  else if !u.running ∨ u.room < bytes.length ∨ (s.ringAddr q 0).isNone then put s 1
  else put (s.appendBytes q bytes) 0

/-- QPUSH (R400). -/
def execQpush (qd : QReg) (gq gv : GReg) (s : State) : Res :=
  s.sGuarded (fun s =>
    let q := (s.me.rgv gq).toNat
    if !s.queueOk q 1 (some 1) none then s.trap causePERM q (capInfo 4 gq)
    else s.sRelease (fun s =>
      let v := s.me.rgv gv
      let (due, s) := s.requestDue
      (s.sAsync 9 (.qpush q v qd) (some due)).2))

/-- The item is written, or the queue is full (R400). -/
def State.qpushLands (s : State) (c serial q : Nat) (v : Word) (qd : QReg) : State :=
  let u := s.queue q
  let ok := u.running && decide (8 ≤ u.room) && (s.ringAddr q 0).isSome
  let s := if ok then s.pushItem q v.toNat else s
  s.modCore c (fun k => (k.landOp serial (.q qd ok)).qVisible serial (k.vcc + 1))

/-- The item at CONS of a queue that holds one: the state after it is taken, or what is still to be read. -/
def State.takeItem (s : State) (q : Nat) : State × Option Word :=
  let u := s.queue q
  match s.ringAddr q u.cons with
  | none => (s, none)
  | some a =>
    let take (s : State) (b : List Byte) : State × Option Word :=
      ((s.dropExt a).setQueue q { u with cons := (u.cons + 8) % 2 ^ 32 }, some (BitVec.ofNat 64 (leNat b)))
    match s.devFetch a 8 with
    | .here b => take s b
    | .bad =>
      match s.onRead s.me.ctx (keyOf a) 8 (2 ^ 64 - 1) s.hand.core 1 0 with
      | (s, some id) => take (s.eccPend s.hand.core a id) (s.memLoad (keyOf a) 8)
      | (s, none) => take s (s.memLoad (keyOf a) 8)
    | .away => (s.askFor a 8, none)

/-- Does a queue hold an item? -/
def Queue.hasItem (u : Queue) : Bool := u.running && decide (8 ≤ u.held)

/-- QPOP (R400): the unit waits for an item, then acquires. -/
def execQpop (gd gq : GReg) (s : State) : Res :=
  s.sGuarded (fun s =>
    let q := (s.me.rgv gq).toNat
    if s.ent.block.isSome then s.trap causeILLEGAL 0 0
    else if !s.queueOk q 1 none (some 0) then s.trap causePERM q (capInfo 4 gq)
    else
      let wait (s : State) : State := s.sWait true 1 0 (s.clk + 1) none
      if (s.queue q).hasItem then
        match s.takeItem q with
        | (s, some v) => (s.modMe Core.acquire).sDone [.g gd (GVal.data v)]
        | (s, none) => wait s
      else wait s)

/-- QPOP.NB (R400). An item in memory outside the package holds the sequencer until it has been read. -/
def execQpopNb (gd gq : GReg) (qk : QReg) (s : State) : Res :=
  s.sGuarded (fun s =>
    let q := (s.me.rgv gq).toNat
    if !s.queueOk q 1 none (some 0) then s.trap causePERM q (capInfo 4 gq)
    else
      let done (s : State) (v : Word) (b : Bool) : State :=
        let (l, s) := s.draw
        (s.sAsync 9 (.writeGQ gd (GVal.data v) qk b) (some (s.clk + l))).2
      if (s.queue q).hasItem then
        match s.takeItem q with
        | (s, some v) => done s v true
        | (s, none) => s.sHold false 1 0
      else done s 0 false)

end Sys2Proof.Machine
end

