-- ==== Sys2Proof/Machine/Barrier.lean ====
section
/-! DEFINITION. The barriers (R367 to R373): arming, arriving, waiting, and their release. -/

namespace Sys2Proof.Machine

/-! ## Ids (R367) -/

def barKind (id : Nat) : Nat := fld id 6 2
def barSlot (id : Nat) : Nat := fld id 0 6

/-- The key of the instance that an id names on a core. -/
def State.barOf (s : State) (c id : Nat) : Nat :=
  barKey ((s.core c).ctx.getD 0) (barKind id) (barPlace (barKind id) c) (barSlot id)

/-- Does a core's gang lie wholly in its launch group (R359)? -/
def State.wholeGang (s : State) (c : Nat) : Bool :=
  !isGateway c && (match s.launch (s.core c).launch with
    | some l => (gangCores (gangOf c)).all l.cores.contains
    | none => false)

/-- A bad id (R367). -/
def State.barBad (s : State) (c id : Nat) : Bool :=
  decide (256 ≤ id) || (barKind id == 0 && (barSlot id != 0 || !s.wholeGang c)) || (barKind id == 3 && decide (16 ≤ barSlot id))

/-- TRAP_INFO of BARRIER_BROKEN (R370). -/
def barInfo (id reason : Nat) : Nat := id % 256 * 256 + reason % 16

/-- BARRIER_BROKEN at the instruction in hand. -/
def State.barTrap (s : State) (id reason : Nat) : State := s.trap causeBROKEN 0 (barInfo id reason)

/-! ## Arming (R369, R371) -/

/-- Is a parameter register bad for an id (R371)? -/
def barParBad (id par : Nat) : Bool :=
  if barKind id = 3 then fld par 32 20 == 0 || decide (786432 < fld par 32 20) || decide (2 ^ 52 ≤ par) else par != 0

/-- The members of an instance that a core of a launch arms: of a global one, those of each of P packages (R367). -/
def State.barSize (s : State) (c id p : Nat) : Nat :=
  let n := match s.launch (s.core c).launch with
    | some l => (l.cores.filter (fun x => decide (2 ≤ barKind id) || barPlace (barKind id) x == barPlace (barKind id) c)).length
    | none => 1
  if barKind id = 3 then n * p else n

/-- BARARM.REP and BARARM.ONCE (R369): on the gang barrier, which is armed, they change nothing (R368). -/
def State.barArm (s : State) (ga gb : GReg) (hasB once : Bool) : State :=
  let c := s.hand.core
  let id := (s.me.rgv ga).toNat
  let par := if hasB then (s.me.rgv gb).toNat else 0
  if s.barBad c id ∨ barParBad id par then s.barTrap id 4
  else if barKind id = 0 ∧ (s.bar (s.barOf c id)).st ≠ .broken then s.sDone []
  else
    let key := s.barOf c id
    let b := s.bar key
    let tag := fld par 0 32
    let p := fld par 32 20
    match b.st with
    | .free =>
      let b0 : Barrier := { b with
        st := .armed, once := once, launch := s.me.launch, n := s.barSize c id p, episode := 0, tag := tag, p := p, reason := 0,
        waiters := [], last := [], releases := 0, snapped := false, rolls := 0 }
      (s.setBar key { b0 with count := s.barEnded b0 }).sDone []
    | .broken => s.barTrap id b.reason
    | _ => (if b.once = once ∧ b.tag = tag ∧ b.p = p then s else s.barBreak key 2).sDone []

/-- BARARM.REP (R369, R371). -/
def execBararmRep (ga : GReg) (gb : Option GReg) (s : State) : Res :=
  s.sGuarded (fun s => s.barArm ga (gb.getD 0) gb.isSome false)
/-- BARARM.ONCE (R369, R371). -/
def execBararmOnce (ga : GReg) (gb : Option GReg) (s : State) : Res :=
  s.sGuarded (fun s => s.barArm ga (gb.getD 0) gb.isSome true)

/-! ## Waiters -/

/-- Does a core stand in the wait of a barrier instruction: BARWT, BARAW or SNAP? -/
def Core.barWait (k : Core) : Option Held :=
  match k.held with
  | none => none
  | some h =>
    let is : Bool := match h.entry.instr with
      | .barwt .. => true
      | .baraw .. => true
      | .snap .. => true
      | _ => false
    if is && h.stage == 7 then some h else none

/-- The id register of a barrier instruction. -/
def barIdReg (i : Instr) : GReg :=
  match i with
  | .barwt ga _ => ga
  | .baraw ga => ga
  | .snap ga _ => ga
  | _ => 0

/-- The clk in which the first word after the wait for an episode dispatches, when its last arrival has come. -/
def Barrier.releaseOf (b : Barrier) (ep : Nat) : Option Nat := (b.last.find? (fun p => p.1 == ep)).map (·.2)

/-- Is a waiter's time to leave come: its release, or the break it raises? -/
def Barrier.wakes (b : Barrier) (clk : Nat) (w : Waiter) : Bool :=
  match b.releaseOf w.episode with
  | some t => decide (t ≤ clk + 1)
  | none => b.st == .broken && decide (b.brokenAt ≤ clk)

/-- A waiter whose time has come leaves its wait: it performs the acquire action and goes on, or raises BARRIER_BROKEN. -/
def State.barWake (s : State) (b : Barrier) (w : Waiter) : State :=
  match (s.core w.core).barWait with
  | none => s
  | some h =>
    let s := { s with hand := { Hand.empty with core := w.core, entry := h.entry } }
    match b.releaseOf w.episode with
    | some _ =>
      let still := s.frozen w.core && s.holding w.core
      let s := (s.modMe Core.acquire).sDone []
      if still then s.modMe (fun k => { k with seqAt := k.vcc }) else s
    | none => s.barTrap (s.me.rgv (barIdReg h.entry.instr)).toNat b.reason

/-- BARRIER_RELEASE (R367, R369, R372): the members of an instance whose release, or whose break, reaches them leave
their wait, in ascending core number. -/
def execBarrierRelease (s : State) : Res :=
  let key := s.hand.arg.ix
  let b := s.bar key
  let go := b.waiters.filter (b.wakes s.clk)
  let s := s.setBar key { b with waiters := b.waiters.filter (fun w => !b.wakes s.clk w) }
  .next (go.foldl (fun s w => s.barWake b w) s)

/-- The waiters of an instance, in ascending core number. -/
def addWaiter : List Waiter → Waiter → List Waiter
  | [], w => [w]
  | x :: l, w => if w.core < x.core then w :: x :: l else if w.core = x.core then w :: l else x :: addWaiter l w

/-- The release latency of a kind that has a fixed one (R367). -/
def barLat (kind : Nat) : Nat := if kind = 0 then 3 else if kind = 1 then 6 else 24

/-- The vc past which a barrier wait in a timed block is late (R372): its planned issue and the release latency; a global
instance has none. -/
def State.barLimit (s : State) (kind : Nat) : Option Nat :=
  if s.ent.block.isNone ∨ 3 ≤ kind then none else some (s.ent.planned + barLat kind - 1)

/-- The member in hand waits for an episode of an instance. -/
def State.barHold (s : State) (key ep : Nat) : State :=
  let b := s.bar key
  let s := s.setBar key { b with waiters := addWaiter b.waiters ⟨s.hand.core, ep⟩ }
  s.sWait true 7 ep retryNever (s.barLimit b.kind)

/-- BARARM.FREE (R369, R371). -/
def execBararmFree (ga : GReg) (s : State) : Res :=
  s.sGuarded (fun s =>
    let c := s.hand.core
    let id := (s.me.rgv ga).toNat
    if s.me.block.isSome then s.trap causeILLEGAL 0 0
    else if s.barBad c id then s.barTrap id 4
    else if barKind id = 0 then s.sDone []
    else
      let key := s.barOf c id
      let b := s.bar key
      let s := s.sDone []
      let hand := s.hand
      let s := { s with barriers := mapDel s.barriers key }
      let s := b.waiters.foldl (fun s w => s.barWake { b with last := [], reason := 7 } w) s
      { s with hand := hand })

/-! ## Arrivals (R369, R372) -/

/-- May an arrival be made: the release conditions hold, and no older instruction is still to be issued (R273, R373)? -/
def Core.arrivalReady (k : Core) (serial : Nat) : Bool :=
  k.released serial && k.trapAt.isNone && k.queues.all (fun p => p.2.all (fun e => decide (serial ≤ e.serial)))

/-- An arrival at an instance: of a global one, also sent to the other packages. -/
def State.barJoin (s : State) (key : Nat) : State :=
  let b := s.bar key
  let s := if b.kind = 3 ∧ 1 < b.p then s.emit .chip 0 key (leBytes 4 b.tag) else s
  s.barArrive key s.hand.core

/-- The arrival of the instruction in hand, and then what follows it, given the episode before it. -/
def State.barArrival (s : State) (id : Nat) (then_ : State → Nat → Nat → State) : State :=
  let c := s.hand.core
  if s.barBad c id then s.barTrap id 4
  else if !s.me.arrivalReady s.ent.serial then (s.modMe Core.startDrain).sHold false 0 0
  else
    let key := s.barOf c id
    let b := s.bar key
    match b.st with
    | .free => s.barTrap id 1
    | .released => s.barTrap id 1
    | .broken => s.barTrap id b.reason
    | _ => then_ (s.barJoin key) key b.episode

/-- BARARV (R372). -/
def execBararv (gd ga : GReg) (s : State) : Res :=
  s.sGuarded (fun s =>
    let id := (s.me.rgv ga).toNat
    s.barArrival id (fun s _ ep => s.sDone [.g gd (GVal.data (BitVec.ofNat 64 (ep + id * 65536)))]))

/-- BARAW (R372). -/
def execBaraw (ga : GReg) (s : State) : Res :=
  s.sGuarded (fun s => s.barArrival (s.me.rgv ga).toNat State.barHold)

/-- BARWT (R372): an episode that has been released lets the member pass, in its release's time. -/
def execBarwt (ga gb : GReg) (s : State) : Res :=
  s.sGuarded (fun s =>
    let c := s.hand.core
    let id := (s.me.rgv ga).toNat
    let tok := (s.me.rgv gb).toNat
    let ep := fld tok 0 16
    if s.barBad c id ∨ fld tok 16 8 ≠ id then s.barTrap id 4
    else
      let key := s.barOf c id
      let b := s.bar key
      let pass (s : State) : State :=
        match b.releaseOf ep with
        | some t => if t ≤ s.clk + 1 then (s.modMe Core.acquire).sDone [] else s.barHold key ep
        | none => (s.modMe Core.acquire).sDone []
      let strict := (s.ent.block.map (·.2)) == some true && barKind id != 3
      match b.st with
      | .free => s.barTrap id 1
      | _ =>
        if b.episode ≠ ep then
          (match b.releaseOf ep with
            | some t =>
              if strict ∧ t < s.clk + barLat (barKind id) then s.timing 0 1 else pass s
            | none => if strict then s.timing 0 1 else pass s)
        else match b.st with
          | .released => s.barTrap id 1
          | .broken => s.barTrap id b.reason
          | _ => s.barHold key ep)

/-- GLOBAL_BARRIER_ARRIVAL (R367, R369): an arrival at another package, `ix` the instance and `a` its TAG; with `b` not 0,
the loss of a participant package. -/
def execGlobalBarrierArrival (s : State) : Res :=
  let key := s.hand.arg.ix
  let b := s.bar key
  if b.kind ≠ 3 then .next s
  else if s.hand.arg.b ≠ 0 then .next (s.barBreak key 6)
  else if b.tag ≠ s.hand.arg.a then .next s
  else .next (s.barCount key)

end Sys2Proof.Machine
end

