-- ==== Sys2Proof/Machine/Completion.lean ====
section
/-! DEFINITION. The completion of asynchronous operations (R33). -/

namespace Sys2Proof.Machine

/-- What an operation writes when it completes. -/
def State.opWrites (s : State) (c : Nat) (o : AsyncOp) : State :=
  match o.kind with
  | .writeG r v => s.modCore c (fun k => k.landOp o.serial (.g r v))
  | .atomic r v acq =>
    s.modCore c (fun k =>
      let k := { k with stores := k.stores.filter (fun x => x.id != o.id) }.landOp o.serial (.g r v)
      if acq then k.landOp o.serial .acquire else k)
  | .writeQ r b => s.modCore c (fun k => (k.landOp o.serial (.q r b)).qVisible o.serial (k.vcc + 1))
  | .writeGQ r v qr b =>
    s.modCore c (fun k =>
      let k := if b then k.landOp o.serial (.g r v) else k
      (k.landOp o.serial (.q qr b)).qVisible o.serial (k.vcc + 1))
  | .cntadd id v => s.counterAdd ((s.core c).ctx.getD 0) id v c
  | .qpush q v qd => s.qpushLands c o.serial q v qd
  | .tsub q bytes gd bad => s.tsubLands c o.serial q bytes gd bad
  | .status r v _ => s.modCore c (fun k => k.landOp o.serial (.g r (GVal.data v)))
  | .failed r addr => (s.modCore c (fun k => k.landOp o.serial (.g r (GVal.data 5)))).engineFault c 2 addr (2 + 256)
  | .handle id e =>
    match (s.core c).ctx with
    | some x => s.handlePut x id e
    | none => s
  | _ => s

/-- OPERATION_COMPLETE (R33): the operation the step names completes, with the write it makes then. -/
def execOperationComplete (s : State) : Res :=
  let c := s.hand.core
  match s.hand.msg with
  | some (.atomicOld m old flags err) => .next (s.oldLands m old flags err)
  | _ =>
    match s.me.ops.find? (fun o => o.id == s.hand.arg.ix) with
    | none => .next s
    | some o => .next ((s.opWrites c o).completeOp c o.id)

end Sys2Proof.Machine
end

