-- ==== Sys2Proof/Machine/Sequence.lean ====
section
/-! DEFINITION. The sequencer (R28 to R31, R36, R37, R44, R45, R109, R110, R128, R345, R456): what it fetches, when it
dispatches, and the instruction that is executed or issued next in a core. Each function answers none when its core has
nothing of that kind to do in this clk. -/

namespace Sys2Proof.Machine

/-- What comes next: the state made ready, with the instructions it then executes. -/
abbrev Agenda := Option (State × List Instr)

/-- The step acts for a core. -/
def State.onCore (s : State) (c : Nat) : State := { s with hand := { Hand.empty with core := c } }

/-- An event at a core, or at whatever its argument names. -/
def State.onEvent (s : State) (c : Nat) (a : Arg) (m : Option MsgBody) : State :=
  { s with hand := { Hand.empty with core := c, arg := a, msg := m } }

/-- An argument that is one number. -/
def argIx (n : Nat) : Arg := { Arg.empty with ix := n }

/-- Does a core execute its unit: running, not stopped, not saving? -/
def Core.live (k : Core) : Bool := k.unit == .running && !k.dbg.stopped && k.saving == 0

/-! ## Fetching -/

/-- The bytes of word `pc` of a core's instruction SRAM, as a number (R109). -/
def State.wordAt (s : State) (c pc : Nat) : Nat := leNat (s.memLoad (coreKey c (0x60000 + 12 * pc)) 12)

/-- A follower compares its next PC with its buffer: it diverges, rejoins, or stays as it is (R45, R364). An attached one
whose leader has ended goes on alone. -/
def State.settle (s : State) (c : Nat) : Option Core :=
  let k := s.core c
  match k.mode with
  | 2 =>
    match k.fwd with
    | [] => if (s.core k.peer).unit = .running then none else some { k with mode := 3 }
    | w :: _ => if w.pc = k.pc then none else some { k with mode := 3 }
  | 3 =>
    match k.fwd.dropWhile (fun w => w.pc != k.pc) with
    | [] => none
    | l => some { k with mode := 2, fwd := l }
  | _ =>
    match k.fwd.dropWhile (fun w => w.pc != k.pc) with
    | [] => none
    | l => if l.length = k.fwd.length ∨ k.pendFol then none else some { k with fwd := l }

/-- Does a core take its next word from its forwarding buffer? -/
def Core.attached (k : Core) : Bool :=
  k.mode == 2 || (k.mode == 0 && !k.pendFol && (match k.fwd with
    | w :: _ => w.pc == k.pc
    | [] => false))

/-- The word a core would dispatch, and whether it comes from the buffer; none while an attached follower waits. -/
def State.nextWord (s : State) (c : Nat) : Option (Nat × Bool) :=
  let k := s.core c
  if k.attached then
    match k.fwd with
    | w :: _ => if w.due ≤ k.vcc then some (w.w, true) else none
    | [] => none
  else
    match k.fetched with
    | some (p, w) => if p = k.pc then some (w, false) else some (s.wordAt c k.pc, false)
    | none => some (s.wordAt c k.pc, false)

/-- The configured streams, as the bits of a number. -/
def Core.streamBits (k : Core) : Nat := k.streams.foldl (fun n p => n + 2 ^ p.1) 0

/-- What the sequencer decodes a core's word with. -/
def State.env (s : State) (c : Nat) : DecodeEnv := ⟨some (s.core c).streamBits, !(s.core c).priv, isGateway c⟩

/-! ## Dispatch (R28, R29, R32, R37) -/

/-- Is a PWAIT dispatched and not complete (R412)? -/
def Core.pwaitOpen (k : Core) : Bool :=
  (k.queueOf colP).any (fun e => match e.instr with
    | .pwait .. => true
    | _ => false) || k.ops.any (fun o => match o.kind with
    | .pwait .. => true
    | _ => false)

/-- Instructions dispatched and not issued that set a slot (R32). -/
def Core.queuedSetters (k : Core) (d : DReg) : Nat :=
  k.queues.foldl (fun n p => n + p.2.countP (fun e => e.head.set == some d)) 0

/-- Is an S instruction one that may redirect (R146, R148, R149, R153, R296)? -/
def mayRedirect (i : Instr) : Bool :=
  match i with
  | .b .. | .br .. | .call .. | .callr .. | .ret .. | .bengZ .. | .bengNz .. | .bengF .. | .bengFc .. | .loop .. | .loopx .. |
    .eret | .eretRgn => true
  | _ => false

/-- Does it redirect when it executes now, so that the end test is skipped (R150)? -/
def Core.redirects (k : Core) (clk : Nat) (h : Head) (i : Instr) : Bool :=
  k.guardOk h.guard && (match i with
    | .bengZ d _ => k.sampled clk d == 0
    | .bengNz d _ => k.sampled clk d != 0
    | .bengF e _ => k.sampledFlag clk e.toNat
    | .bengFc e _ => k.sampledFlag clk e.toNat
    | .loop n _ => (k.gimm n).toNat % 2 ^ 32 == 0
    | .loopx _ n _ => (k.gimm n).toNat % 2 ^ 32 == 0
    | _ => mayRedirect i)

/-- Is a q register that the end test at the next word would read still to be written (R37, R150)? -/
def Core.endTestBusy (k : Core) : Bool := (endTestReads k k.pc k.loops).any k.qBusy

/-- Do the conditions of R28 let an instruction be dispatched? -/
def Core.mayDispatch (k : Core) (h : Head) (i : Instr) : Bool :=
  let col := colOfOp ((opcodeOf i).getD 0)
  (match col with
    | some c => decide ((k.queueOf c).length < 16)
    | none => (qReads h i).all (fun q => !k.qBusy q)) &&
  (match h.set with
    | some d => k.slot d + k.queuedSetters d != 15
    | none => true) &&
  (mayRedirect i || !k.endTestBusy) && !k.pwaitOpen

/-- An instruction takes its place among those dispatched: its entry, stamped and planned. -/
def Core.enroll (k : Core) (h : Head) (i : Instr) : QEntry × Core :=
  let n := k.serial + 1
  let e : QEntry := ⟨n, k.pc, h, i, k.vcc + h.delay, (k.seqSpec).toNat, k.block⟩
  let r : Rob := ⟨n, k.pc, i, false, 0, 0, none, h.phase, none, none, k.loops, k.block⟩
  let q := match qDest i with
    | some q => k.qWriters ++ [(n, (q.val, 0))]
    | none => k.qWriters
  (e, { k with serial := n, rob := k.rob ++ [r], qWriters := q,
               seqSpec := if h.phase then seqMarked k.seqSpec else k.seqSpec })

/-- A word that is not dispatched takes a place among those dispatched for the trap it raises. -/
def State.enrollFault (s : State) (c : Nat) : State :=
  let (e, k) := (s.core c).enroll Head.plain .nop
  { s.setCore c k with hand := { Hand.empty with core := c, entry := e } }

/-- The breakpoint register that matches a PC (R456). -/
def Core.bkptHit (k : Core) (pc : Nat) : Option Nat :=
  (List.range 4).find? (fun i =>
    k.cf (0x028 + i) 63 1 == 1 && k.cf (0x028 + i) 61 1 == 0 && k.cf (0x028 + i) 0 12 == pc)

/-- A dispatch clears SKIP of the breakpoint registers. -/
def Core.clearBkptSkip (k : Core) : Core :=
  (List.range 4).foldl (fun k i => if k.cf (0x028 + i) 61 1 = 1 then k.setSkip (0x028 + i) false else k) k

/-- The TRAP of a breakpoint match: a stop, or BKPT in place (R456). -/
def State.bkptTrap (s : State) (c i : Nat) : State :=
  let stop := (s.core c).cf (0x028 + i) 62 1 == 1
  let s := s.modCore c (fun k => k.setSkip (0x028 + i) true)
  let s := s.enrollFault c
  if stop then s.raise ⟨causeBKPT, 0, 3, 4, false⟩ else s.raise ⟨causeBKPT, 0, i, 1, false⟩

/-- A decode fault's trap (R129, R290). -/
def faultTrap : DecodeFault → Trap
  | .illegal field reason => ⟨causeILLEGAL, 0, reason * 16 + field, 0, false⟩
  | .overlap field => ⟨causeOVERLAP, 0, field, 0, false⟩
  | .priv field => ⟨causePRIV, 0, field, 0, false⟩

/-- Does a word lie outside the timed block it would be dispatched in (R345)? -/
def State.escapes (s : State) (c : Nat) : Bool :=
  let k := s.core c
  match k.block with
  | none => false
  | some (b, _) =>
    match s.blockOf c b with
    | some e => !(decide (e.tblk ≤ k.pc) && decide (k.pc ≤ e.tend))
    | none => true

/-! ## An S instruction that stands in the sequencer -/

/-- The instruction in the sequencer executes. -/
def State.runHeld (s : State) (c : Nat) (h : Held) : State × List Instr :=
  ({ s.modCore c (fun k => { k with held := none }) with
      hand := { Hand.empty with core := c, entry := h.entry, stage := h.stage, mark := h.mark } }, [h.entry.instr])

/-- Is an instruction late in a strict block (R30)? -/
def lateStrict (e : QEntry) (vcc limit : Nat) : Bool := (e.block.map (·.2)) == some true && decide (limit < vcc)

/-- The next step of the instruction in the sequencer. -/
def State.heldStep (s : State) (c : Nat) (h : Held) : Agenda :=
  let k := s.core c
  let late := match h.limit with
    | some p => lateStrict h.entry k.vcc p
    | none => false
  let miss : State × List Instr :=
    (({ s.modCore c (fun k => { k with held := none, waiting := false }) with
      hand := { Hand.empty with core := c, entry := h.entry } }).timing (k.vcc - h.limit.getD 0) 1, [])
  match h.kind with
  | .ready =>
    if h.entry.planned ≤ k.vcc && k.waitMet h.entry.serial h.entry.head.wait then
      if late then some miss
      else if mayRedirect h.entry.instr && !k.redirects s.clk h.entry.head h.entry.instr && k.endTestBusy then
        -- the scoreboard wait of R37 is no deviation (R31)
        if (h.limit.map (fun p => decide (p ≤ k.vcc))).getD false then
          some (s.modCore c (fun k => { k with held := some { h with limit := some (k.vcc + 1) } }), [])
        else none
      else some (s.runHeld c h)
    else if late then some miss else none
  | .waiting _ =>
    if h.stage = 9 then
      if h.mark ≤ k.vcc ∨ k.pend.newSince h.retry then some (s.onCore c, [.sleepEnd]) else none
    else if h.stage = 8 then (if k.allQuiet then some (s.resumeAsEret c h.mark, []) else none)
    else if late then some miss
    else if h.retry ≤ s.clk then some (s.runHeld c h)
    else none

/-! ## Columns -/

/-- The order in which a core's columns issue in a clk: V before M (R40). The P column of every core comes after them
(R421). -/
def columnOrder : List Nat := [colV, colX, colM, colI, colF, colT, colC]

/-- The first agenda of a list of functions. -/
def firstOf (l : List (State → Agenda)) (s : State) : Agenda := l.findSome? (fun f => f s)

/-- The write of X to memory that is due, once V has issued (R222). -/
def State.putStep (s : State) (c : Nat) : Agenda :=
  if (s.core c).nextPut.isSome then some (s.onEvent c (argIx 2) none, [.resultLands]) else none

/-- What a core's X and M columns write to memory in this clk, once the columns before them have issued (R40, R193, R222). -/
def State.storeStep (s : State) (c : Nat) : Agenda :=
  (s.putStep c).orElse (fun _ => if (s.core c).nextStore.isSome then some (s.onEvent c (argIx 1) none, [.resultLands]) else none)

/-- The head of a column's queue issues. -/
def State.issueColumn (s : State) (c col : Nat) (i : Instr) : State × List Instr :=
  (s.onEvent c (argIx col) none, [.columnIssue, i])

/-- The next issue of a core's columns, or the TIMING of one that is late in a strict block (R30, R345). -/
def State.columnStep (s : State) (c : Nat) (cols : List Nat) : Agenda :=
  let k := s.core c
  cols.findSome? (fun col =>
    match k.queueOf col with
    | [] => none
    | e :: rest =>
      let limit := k.issueLimit col e
      if lateStrict e k.vcc limit && !(col == colT && k.gmma.isSome) then
        let trapped := match k.trapAt with
          | some n => decide (n < e.serial)
          | none => false
        if trapped then none
        else
          some (({ s.modCore c (fun k => k.setQueueOf col rest) with
            hand := { Hand.empty with core := c, entry := e } }).timing (k.vcc - limit) 1, [])
      else
        match k.issuable col with
        | some e => some (s.issueColumn c col e.instr)
        | none => none)

/-- What the columns of a core do next: V, what X writes to memory, X, an M store that is due, the others. -/
def State.columnsStep (s : State) (c : Nat) (cols : List Nat) : Agenda :=
  firstOf [(State.columnStep · c (cols.filter (· == colV))), (State.putStep · c), (State.columnStep · c (cols.filter (· == colX))),
    (State.storeStep · c), (State.columnStep · c cols)] s

/-! ## The next word -/

/-- A dispatched word: it enters its column's queue or the sequencer, the leader forwards it, and it executes or issues in
this step when nothing else of its core comes before it. -/
def State.dispatch (s : State) (c w : Nat) (h : Head) (i : Instr) : State × List Instr :=
  let pc := (s.core c).pc
  let s := if (s.core c).mode = 1 ∧ i ≠ .detach then s.forward c pc w else s
  let (e, k) := (s.core c).clearBkptSkip.enroll h i
  match colOfOp ((opcodeOf i).getD 0) with
  | none =>
    let hd : Held := ⟨e, .ready, 0, 0, s.clk, some e.planned⟩
    let s := s.setCore c { k with held := some hd }
    (s.heldStep c hd).getD (s, [])
  | some col =>
    let s := s.setCore c ((k.setQueueOf col (k.queueOf col ++ [e])).advance pc)
    let k := s.core c
    match columnOrder.find? (fun x => (k.issuable x).isSome) with
    | some x =>
      if x = col ∧ (k.issuable col).map QEntry.serial = some e.serial ∧ k.nextPut.isNone ∧ k.nextStore.isNone then s.issueColumn c col i else (s, [])
    | none => (s, [])

/-- The next word of a core: fetched, checked and dispatched (R128), or none while it must wait. -/
def State.wordStep (s : State) (c : Nat) : Agenda :=
  match s.settle c with
  | some k => some (s.setCore c k, [])
  | none =>
    let k := s.core c
    match s.nextWord c with
    | none => none
    | some (w, fwd) =>
      if !fwd ∧ 2730 ≤ k.pc then some (s.enrollFault c, [.fetchOutsideInstructionWords])
      else
        let off := 0x60000 + 12 * k.pc
        match (if fwd then none else k.lockHit off 12 false) with
        | some (i, first, wh) => some ((s.enrollFault c).trap causeLOCK first (lockInfo true wh i), [])
        | none =>
        match k.bkptHit k.pc with
        | some i => some (s.bkptTrap c i, [])
        | none =>
        match decodeWith (s.env c) w with
        | .error f =>
          some ((s.enrollFault c).raise (faultTrap f), [])
        | .ok (_, .reservedOpcode) => some (s.enrollFault c, [.reservedOpcode])
        | .ok (h, i) =>
          if !k.mayDispatch h i then none
          else if s.escapes c then some ((s.enrollFault c).timing 0 3, [])
          else if fwd then
            let (s, l) := (s.onCore c).dispatch c w h i
            some (s, .forwardedWordDispatch :: l)
          else some ((s.coreRead c (coreKey c off) 12 off 3).dispatch c w h i)

/-- The next step of a core's sequencer. -/
def State.seqStep (s : State) (c : Nat) : Agenda :=
  let k := s.core c
  match k.held with
  | some h => s.heldStep c h
  | none => if k.trapAt.isSome ∨ k.vcc < k.seqAt then none else s.wordStep c

/-! ## One core in one clk -/

/-- The bits of an expired register that has not been read as such yet (R42). -/
def Core.expiring (k : Core) : Bool :=
  k.v.any (fun p => match p.2.expiry with
    | some e => decide (e ≤ k.vcc) && p.2.bits != absentBits p.2.fmt
    | none => false)

/-- Refresh, expiry, landings and commits of a core (R33, R41, R42, R48). -/
def State.settleStep (s : State) (c : Nat) : Agenda :=
  let k := s.core c
  if k.vcc % 256 = 0 ∧ k.refreshed ≠ k.vcc + 1 then some (s.onCore c, [.vrfRefresh])
  else if k.expiring then some (s.onCore c, [.shortLivedExpiry])
  else if k.nextLanding.isSome then some (s.onCore c, [.resultLands])
  else if k.committable s.clk then some (s.onCore c, [.instructionCommit])
  else none

/-- Sequencer and columns of a core that runs; of a core that its own pause holds, only what is late (R338). -/
def State.runStep (s : State) (c : Nat) : Agenda :=
  let k := s.core c
  if k.late.contains 8 ∧ k.held.isNone then some (s.endLate c 8, [])
  else match k.late.find? (fun col => decide (col < 8) && (k.queueOf col).isEmpty || k.unit != .running) with
  | some col => some (s.endLate c col, [])
  | none =>
  if k.saving = 1 ∧ k.unit = .running ∧ !k.dbg.stopped ∧ !s.frozen c then s.columnsStep c columnOrder
  else if !k.live then none
  else if s.frozen c then
    match k.held with
    | some h =>
      if k.late.contains 8 then s.heldStep c h
      else if k.late.contains 9 then s.seqStep c
      else s.columnsStep c (columnOrder.filter k.late.contains)
    | none =>
      if k.late.contains 9 then (s.seqStep c).orElse (fun _ => s.columnsStep c columnOrder)
      else s.columnsStep c (columnOrder.filter k.late.contains)
  else (s.seqStep c).orElse (fun _ => s.columnsStep c columnOrder)

end Sys2Proof.Machine
end

