-- ==== Sys2Proof/Machine/Record.lean ====
section
/-! DEFINITION. The record of a core (R308, R309): how a save, a snapshot and a dump write it, and how a core is restored
from it (R310). -/

namespace Sys2Proof.Machine

/-- Zero bytes. -/
def zeros (n : Nat) : List Byte := List.replicate n 0#8

/-- Bytes padded with zeros to a length. -/
def padTo (n : Nat) (l : List Byte) : List Byte := l ++ zeros (n - l.length)

/-- Bytes padded with zeros to a multiple of 8. -/
def pad8 (l : List Byte) : List Byte := padTo ((l.length + 7) / 8 * 8) l

/-- What a record is written with: its resume kind and PC, the masks of g, v and a saved, the privilege and ACTIVE it
shows, the registers and records that stand in it, and the VCC that a snapshot holds. -/
structure RecForm where
  kind    : Nat
  pc      : Nat
  gMask   : Nat
  vMask   : Nat
  aMask   : Nat
  priv    : Bool
  active  : Bool
  region  : RegionRec
  trapLoops : List LoopEntry
  snapVcc : Option Nat
  deriving DecidableEq, Repr

/-! ## Live-ins (R140, R297) -/

/-- The masks of g, v and a registers that a region descriptor names; those of the entry region are g1 to g11 and g63. -/
def State.liveIns (s : State) (c desc : Nat) : Nat × (Nat × Nat) :=
  if desc = 0xFFF then (0x8000000000000FFE, (0, 0))
  else
    let b := s.memLoad (coreKey c (0x60000 + 16 * desc)) 16
    (byteFld b 0 8, (byteFld b 8 4, byteFld b 12 1 % 16))

/-- Registers of operand B that an opcode reads from the one named on (R130, R244). -/
def groupLen (op fn : Nat) : Nat :=
  if op = 0x1D ∨ op = 0xC1 then 2 else if op = 0xC5 then 4 else if op = 0xEE ∧ fn = 2 then 2 else 1

/-- The g registers that an operand field names: a register, or the base of a memory operand (R118). -/
def fieldG (f n : Nat) : Nat :=
  if f / 2 ^ 14 = 0 ∧ fld f 11 3 = 0 then (List.range n).foldl (fun m i => m ||| 2 ^ ((fld f 5 6 + i) % 64)) 0
  else if f / 2 ^ 14 = 1 then 2 ^ fld f 8 6
  else 0

/-- The accumulator that an operand field names. -/
def fieldA (f : Nat) : Nat := if f / 2 ^ 14 = 0 ∧ fld f 11 3 = 2 then 2 ^ (fld f 5 6 % 4) else 0

/-- The g registers and the accumulators that the word at a PC names (R307). -/
def State.wordOperands (s : State) (c pc : Nat) : Nat × Nat :=
  let r := Raw.ofNat (leNat (s.memLoad (coreKey c (0x60000 + 12 * pc)) 12))
  (fieldG r.d 1 ||| fieldG r.a 1 ||| fieldG r.b (groupLen r.op r.fn), fieldA r.d ||| fieldA r.a ||| fieldA r.b)

/-! ## The parts of a record (R308, R309) -/

/-- Is a control register saved (R72)? -/
def crSaved (n : Nat) : Bool := (decide (5 ≤ n) && decide (n ≤ 0x15)) || (decide (0x20 ≤ n) && decide (n ≤ 0x2B))

/-- A loop stack, innermost last. -/
def loopBytes (l : List LoopEntry) : List Byte :=
  padTo 64 ((l.reverse.map (fun e =>
    leBytes 2 e.start ++ leBytes 2 e.stop ++ leBytes 4 e.cnt ++
      leBytes 1 (match e.xq with
        | some q => q.val
        | none => 255) ++ zeros 7)).flatten)

/-- The 64 bytes of a stream, with the indices its region record holds. -/
def streamBytes (r : RegionRec) (i : Nat) (t : Stream) : List Byte :=
  let (a, b, c) := mapGetD r.indices i (0, 0, 0)
  leBytes 8 t.cap.val.toNat ++ leBytes 8 t.cap.md.toNat ++ leBytes 1 (if t.cap.tag then 1 else 0) ++
    leBytes 1 (if t.wr then 1 else 0) ++ leBytes 1 t.fmt.code ++ zeros 1 ++ leBytes 2 t.n0 ++ leBytes 2 t.n1 ++ leBytes 2 t.n2 ++
    leBytes 2 t.i0 ++ leBytes 2 t.i1 ++ leBytes 2 t.i2 ++ leBytes 4 (wrap 32 t.s0) ++ leBytes 4 (wrap 32 t.s1) ++
    leBytes 4 (wrap 32 t.s2) ++ zeros 4 ++ leBytes 2 a ++ leBytes 2 b ++ leBytes 2 c ++ zeros 10

/-- The 12 KiB of an accumulator: its values, then its counts, row by row. -/
def accBytes (a : Acc) : List Byte :=
  let cell (i : Nat) : BitVec 32 × Nat := a.at (i / 64) (i % 64)
  ((List.range 2048).map (fun i => leBytes 4 (cell i).1.toNat)).flatten ++
    ((List.range 2048).map (fun i => leBytes 2 (cell i).2)).flatten

/-- The two bits of an accumulator's tag (R243). -/
def accTag (a : Acc) : Nat :=
  match a.tag with
  | .f32 => 1
  | .i32 => 2
  | _ => 0

/-- A mask as numbers. -/
def maskList (m n : Nat) : List Nat := (List.range n).filter (fun i => m.testBit i)

/-- A number made of fields of w bits, the first lowest. -/
def packNat (w : Nat) (l : List Nat) : Nat := l.foldr (fun x acc => x % 2 ^ w + acc * 2 ^ w) 0

/-- The format tags of the v registers saved, four bits each. -/
def vTags (k : Core) (m : Nat) : List Byte :=
  leBytes 16 (packNat 4 ((List.range 32).map (fun i => if m.testBit i then ((k.vraw (Fin.ofNat 32 i)).fmt).code else 0)))

/-- The line words of scratchpad lines from an offset on (R309). -/
def State.lineBytes (s : State) (c lo hi : Nat) : List Byte :=
  ((List.range ((hi - lo + 127) / 128)).map (fun i =>
    let l := s.lineAt (coreKey c (lo + 128 * i))
    leBytes 4 (l.seq + l.expect * 256 + (if l.arm then 65536 else 0)))).flatten

/-- One bit for each 16-byte granule from an offset on. -/
def State.tagBytes (s : State) (c lo hi : Nat) : List Byte :=
  let n := (hi - lo + 15) / 16
  leBytes ((n + 7) / 8) (packNat 1 ((List.range n).map (fun i => if s.tagAt (coreKey c (lo + 16 * i)) then 1 else 0)))

/-- The residency entries of a core that a record holds: class save, and clean ones written since load. -/
def State.savedRanges (s : State) (c : Nat) : List Resid :=
  match s.launch (s.core c).launch with
  | none => []
  | some l => ((l.image.resid.zipIdx).filter (fun p => p.1.cls == 1 || (p.1.cls == 0 && (s.core c).residency.testBit p.2))).map (·.1)

/-- One range of the save-range section. -/
def State.rangeBytes (s : State) (c : Nat) (r : Resid) : List Byte :=
  pad8 (s.memLoad (coreKey c r.lo) (r.hi - r.lo)) ++ pad8 (s.tagBytes c r.lo r.hi) ++
    (if bankOf r.lo < 3 then pad8 (s.lineBytes c r.lo r.hi) else [])

/-- The save-range section. -/
def State.rangeSection (s : State) (c : Nat) : List Byte := ((s.savedRanges c).map (s.rangeBytes c)).flatten

/-- The header. -/
def State.recHeader (s : State) (c : Nat) (f : RecForm) (ranges bytes : Nat) : List Byte :=
  let k := s.core c
  let b (x : Bool) (i : Nat) : Nat := if x then 2 ^ i else 0
  leBytes 4 0x02434B53 ++ leBytes 2 1 ++ leBytes 2 c ++ leBytes 2 f.pc ++ leBytes 1 f.kind ++
    leBytes 1 (b f.priv 0 + b f.active 1 + b (k.mode == 2 || k.mode == 3) 2 + b (k.mode == 1) 3) ++
    leBytes 2 (k.q.toNat % 2 ^ 15 + 2 ^ 15) ++ leBytes 1 f.aMask ++
    leBytes 1 (packNat 2 ((List.range 4).map (fun i => if f.aMask.testBit i then accTag (k.ra (Fin.ofNat 4 i)) else 0))) ++
    leBytes 8 f.gMask ++
    leBytes 8 (packNat 1 ((List.range 64).map (fun i => if f.gMask.testBit i && (k.rg (Fin.ofNat 64 i)).tag then 1 else 0))) ++
    leBytes 4 f.vMask ++ leBytes 1 k.streamBits ++ zeros 3 ++
    (match f.snapVcc with
      | some v => leBytes 8 v ++ zeros 8
      | none => vTags k f.vMask) ++
    leBytes 2 k.residency ++ leBytes 2 ranges ++ leBytes 4 bytes ++ zeros 192

/-- What a control register's slot holds. -/
def State.crSlot (s : State) (c n : Nat) (f : RecForm) : Nat :=
  if !crSaved n then 0
  else if n = crREGION then f.region.desc * 4096 + f.region.pc % 4096
  else if n = crTRAP_CAUSE then setFld ((s.core c).cv crTRAP_CAUSE).toNat 15 1 (if f.active then 1 else 0)
  else (s.crRead c n).toNat

/-- The record of a core up to its save ranges. -/
def State.recBody (s : State) (c : Nat) (f : RecForm) (ranges bytes : Nat) : List Byte :=
  let k := s.core c
  s.recHeader c f ranges bytes ++ ((List.range 64).map (fun n => leBytes 8 (s.crSlot c n f))).flatten ++
    loopBytes f.region.loops ++ loopBytes f.trapLoops ++
    ((List.range 8).map (fun j =>
      match mapGet k.rqs j with
      | some q => leBytes 1 ((q.mark + q.popped) % 16) ++ leBytes 1 q.mark ++ leBytes 1 q.vecs.length ++ zeros 13
      | none => zeros 16)).flatten ++
    ((List.range 64).map (fun i =>
      let x := if f.gMask.testBit i then k.rg (Fin.ofNat 64 i) else GVal.data 0
      leBytes 8 x.val.toNat ++ leBytes 8 x.md.toNat)).flatten ++
    ((List.range 8).map (fun i =>
      match mapGet k.streams i with
      | some t => streamBytes f.region i t
      | none => zeros 64)).flatten ++
    padTo 1536 (if f.snapVcc.isSome then vTags k f.vMask else []) ++
    ((List.range 32).map (fun i => if f.vMask.testBit i then bytesOfV (k.rv (Fin.ofNat 32 i)).bits else zeros 128)).flatten ++
    ((List.range 4).map (fun i => if f.aMask.testBit i then accBytes (k.ra (Fin.ofNat 4 i)) else zeros 12288)).flatten ++
    padTo 8192 (leBytes 2 k.slice.kcfg ++ leBytes 1 (if k.slice.bz then 1 else 0) ++ leBytes 1 k.slice.bfmt.code ++
      leBytes 2 k.slice.kb ++ zeros 2 ++ leBytes 4 (wrap 32 k.slice.astr) ++ leBytes 4 (wrap 32 k.slice.bstr)) ++
    padTo 65536 ((List.range k.slice.kb).map (fun i =>
      leBytes (8 * fmtWidth k.slice.bfmt) (mapGetD k.slice.rows i 0))).flatten ++
    ((List.range 8).map (fun j =>
      padTo 2048 (((mapGetD k.rqs j ⟨[], 0, 0⟩).vecs.map bytesOfV).flatten))).flatten

/-- The record of a core that a save or a snapshot writes. -/
def State.coreRecord (s : State) (c : Nat) (f : RecForm) : List Byte :=
  let sec := s.rangeSection c
  s.recBody c f (s.savedRanges c).length sec.length ++ sec

/-- A poisoned word of a save range is saved as it reads, and reported (R449). -/
def State.readRanges (s : State) (c : Nat) : State :=
  (s.savedRanges c).foldl (fun s r => (s.onRead (s.core c).ctx (coreKey c r.lo) (r.hi - r.lo) (2 ^ 64 - 1) 0xFFFF 0 0).1) s

/-! ## Restoring (R310) -/

/-- A loop stack from its bytes. -/
def loopsFrom (b : List Byte) : List LoopEntry :=
  (((List.range 4).map (fun i => (b.drop (16 * i)).take 16)).filter (fun e => byteFld e 4 4 != 0)).reverse.map (fun e =>
    ⟨byteFld e 0 2, byteFld e 2 2, byteFld e 4 4, if byteFld e 8 1 = 255 then none else some (Fin.ofNat 16 (byteFld e 8 1))⟩)

/-- A stream from its bytes. -/
def streamFrom (b : List Byte) : Stream :=
  ⟨⟨BitVec.ofNat 64 (byteFld b 0 8), BitVec.ofNat 64 (byteFld b 8 8), byteFld b 16 1 == 1⟩, byteFld b 17 1 == 1,
    Fmt.ofCode (byteFld b 18 1), byteFld b 20 2, byteFld b 22 2, byteFld b 24 2, sext 32 (byteFld b 32 4),
    sext 32 (byteFld b 36 4), sext 32 (byteFld b 40 4), byteFld b 26 2, byteFld b 28 2, byteFld b 30 2⟩

/-- An accumulator from its bytes and tag. -/
def accFrom (tag : Nat) (b : List Byte) : Acc :=
  (List.range 2048).foldl
    (fun a i => a.put i (BitVec.ofNat 32 (byteFld b (4 * i) 4), byteFld b (8192 + 2 * i) 2))
    ⟨if tag = 1 then .f32 else if tag = 2 then .i32 else .noFmt, []⟩

/-- The parts of a record, cut once. -/
def cut (b : List Byte) (off n : Nat) : List Byte := (b.drop off).take n

/-- A core's registers as a record has them, before it resumes: what is not saved is data zero, or tagged NONE. -/
def Core.fromRecord (k : Core) (b : List Byte) (snap : Bool) : Core :=
  let aMask := byteFld b 14 1
  let gMask := byteFld b 16 8
  let gTags := byteFld b 24 8
  let vMask := byteFld b 32 4
  let sMask := byteFld b 36 1
  let tags := if snap then byteFld b 0xA00 16 else byteFld b 40 16
  let crs := (cut b 0x100 512)
  let slice := cut b 0xE000 8192
  let bf := Fmt.ofCode (byteFld slice 3 1)
  let rb := 8 * fmtWidth bf
  let reg := byteFld crs (8 * crREGION) 8
  let strs := (maskList sMask 8).map (fun i => (i, streamFrom (cut b (0x800 + 64 * i) 64)))
  let idx := (maskList sMask 8).map (fun i =>
    let e := cut b (0x800 + 64 * i) 64
    (i, (byteFld e 48 2, byteFld e 50 2, byteFld e 52 2)))
  let bBuf := cut b 0x10000 65536
  let rqb := cut b 0x20000 16384
  { k with
    g := (maskList gMask 64).map (fun i =>
      (i, ⟨BitVec.ofNat 64 (byteFld b (0x400 + 16 * i) 8), BitVec.ofNat 64 (byteFld b (0x408 + 16 * i) 8), gTags.testBit i⟩))
    q := BitVec.ofNat 16 (byteFld b 12 2)
    v := (maskList vMask 32).map (fun i =>
      (i, ⟨vOfBytes (cut b (0x1000 + 128 * i) 128), Fmt.ofCode (fld tags (4 * i) 4), none⟩))
    streams := strs
    acc := (maskList aMask 4).map (fun i => (i, accFrom (fld (byteFld b 15 1) (2 * i) 2) (cut b (0x2000 + 12288 * i) 12288)))
    slots := [], slotLog := [], engFlags := []
    trapLoops := loopsFrom (cut b 0x340 64)
    loops := loopsFrom (cut b 0x340 64)
    region := ⟨fld reg 12 12, fld reg 0 12, 0, loopsFrom (cut b 0x300 64), idx⟩
    cr := ((List.range 64).filter (fun n => crSaved n && n != crSHOT && n != crFLAGS)).map (fun n =>
      (n, BitVec.ofNat 64 (byteFld crs (8 * n) 8))) ++ k.cr.filter (fun p => decide (0x30 ≤ p.1))
    flags := byteFld crs (8 * crFLAGS) 8 % 128
    priv := (byteFld b 11 1).testBit 0
    slice := ⟨byteFld slice 0 2, byteFld slice 2 1 == 1, sext 32 (byteFld slice 8 4), sext 32 (byteFld slice 12 4), bf,
      byteFld slice 4 2, (List.range (byteFld slice 4 2)).map (fun i => (i, byteFld bBuf (rb * i) rb))⟩
    rqs := ((List.range 8).filter (fun j => byteFld b (0x382 + 16 * j) 1 != 0 || byteFld b (0x381 + 16 * j) 1 != 0)).map (fun j =>
      let n := byteFld b (0x382 + 16 * j) 1
      let m := byteFld b (0x381 + 16 * j) 1
      (j, ⟨(List.range n).map (fun i => vOfBytes (cut rqb (2048 * j + 128 * i) 128)), (byteFld b (0x380 + 16 * j) 1 + 16 - m) % 16, m⟩)) }

/-- A core's pipeline emptied: nothing dispatched, in flight or held. -/
def Core.quiet (k : Core) : Core :=
  { k with
    rob := [], queues := [], colFree := [], colHold := [], slack := [], runs := [], landings := [], wlog := [], qWriters := [],
    held := none, block := none, bankUse := [], trapAt := none, pend := Pending.empty, tops := [], vredq := none, gmma := none,
    waiting := false, fetched := none, fwd := [], flagsSet := (0, 0), seqSpec := k.cv crSEQ, crAt := 0, checkTo := 0, saving := 0 }

/-- Bytes of a save range put back with tags and line words; answers how many were read. -/
def State.restoreRange (s : State) (c : Nat) (r : Resid) (b : List Byte) : State × Nat :=
  let n := r.hi - r.lo
  let n8 := (n + 7) / 8 * 8
  let gn := (n + 15) / 16
  let g8 := ((gn + 7) / 8 + 7) / 8 * 8
  let s := s.memStore (coreKey c r.lo) (b.take n) none
  let bits := leNat (cut b n8 g8)
  let s := { s with tags := (maskList bits gn).foldl (fun t i => setAdd t ((coreKey c r.lo) / 16 + i)) s.tags }
  if bankOf r.lo < 3 then
    let ln := (n + 127) / 128
    let lb := cut b (n8 + g8) (4 * ln)
    ((List.range ln).foldl (fun s i =>
      let w := byteFld lb (4 * i) 4
      s.setLine (coreKey c (r.lo + 128 * i)) ⟨fld w 0 8, fld w 8 8, fld w 16 1 == 1⟩) s, n8 + g8 + (4 * ln + 7) / 8 * 8)
  else (s, n8 + g8)

/-- The archives that restoring cores of a launch reads are asked for, when they stand outside the package; none when all
are at hand. -/
def State.askArchives (s : State) (cs : List (Nat × Nat)) : Option State :=
  cs.foldl (fun (acc : Option State) p =>
    let s' := acc.getD s
    match s'.launch p.2 with
    | none => acc
    | some l =>
      match s'.archiveOf l (s'.core p.1).unitNo with
      | none => acc
      | some a =>
        let n := archiveBytes l.image.resid
        match s'.devFetch a n with
        | .away => some (s'.askFor a n)
        | _ => acc) none

/-- A core's stores as R310 restores them: instruction SRAM from the image, the clean ranges not written since load from their
archive, or from the image of a launch without one, the save ranges from the record, and zeros elsewhere. An archive or image
that answers with an error makes the unit FAULTED (R332). -/
def State.restoreStores (s : State) (c : Nat) (l : Launch) (res : Nat) (sec : List Byte) : State :=
  let at_ := s.archiveOf l (s.core c).unitNo
  let got := at_.map (fun a => (a, s.devFetch a (archiveBytes l.image.resid)))
  let s := match at_ with
    | some a => s.dropExt a
    | none => s
  let unwritten := ((l.image.resid.zipIdx).filter (fun p => p.1.cls == 0 && !res.testBit p.2)).map (·.1)
  let broken := s.imageBroken l
  let s := (s.clearCore c).fillImage c l 0x60000 0x68000
  let s := match got with
    | some (_, .here b) => s.fillClean c l b (fun r => unwritten.contains r)
    | some _ => s
    | none => unwritten.foldl (fun s r => s.fillImage c l r.lo r.hi) s
  let keep := (l.image.resid.zipIdx).filter (fun p => p.1.cls == 1 || (p.1.cls == 0 && res.testBit p.2))
  let s := (keep.foldl (fun (acc : State × List Byte) p =>
    let (s, n) := acc.1.restoreRange c p.1 acc.2
    (s, acc.2.drop n)) (s, sec)).1
  let s := s.modCore c (fun k => { k with residency := res, locks := [] })
  let fail (st : Nat) : State :=
    let s := s.modLaunch (s.core c).launch (fun l => { l with status := if l.status = 0 then st else l.status })
    (s.modCore c (fun k => { k with unit := .faulted })).barMemberLost c 3
  if broken then fail 1
  else match got with
    | some (_, .bad) => fail 7
    | _ => s

/-- A core is restored from the record at a mesh key (R310): its stores, its registers; nothing is in flight. -/
def State.restoreCore (s : State) (c key : Nat) (snap : Bool) : State :=
  let head := s.memLoad key 0x24000
  let sec := s.memLoad (key + 0x24000) (byteFld head 60 4)
  let s := s.modCore c (fun k => (k.quiet).fromRecord head snap)
  let s := match s.launch (s.core c).launch with
    | some l => s.restoreStores c l (byteFld head 56 2) sec
    | none => s
  s.modCore c (fun k =>
    let d := k.region.desc
    let fl := s.descFlags c d
    { k with region := { k.region with flags := fl }, seqSpec := k.cv crSEQ, tlb := [], pipeTlb := [] })

/-- A restored core goes on with the record's resume kind and PC (R296, R310): in `wait` vc at the earliest. -/
def Core.resumeAs (k : Core) (kind pc : Nat) : Core :=
  match kind with
  | 0 => k.replayRegion
  | 1 => k.redirect pc
  | _ => { k.advance pc with seqAt := k.vcc + 3 }

end Sys2Proof.Machine
end

