-- ==== Sys2Proof/Machine/Context.lean ====
section
/-! DEFINITION. The life of a context (R284, R285, R312): delivery points and pre-emption (R291, R306, R307), resuming
(R310), the live dump (R465 to R467), draining, snapshots and rollback (R374, R375), and stops of the debug module
(R454, R455). -/

namespace Sys2Proof.Machine

/-! ## Stops (R454, R455) -/

/-- A stop at the delivery point: nothing is discarded, and everything of the core stands still until it resumes. -/
def State.deliveryPc (s : State) (c : Nat) : Nat :=
  let k := s.core c
  match k.rob with
  | r :: _ => r.pc
  | [] => k.pc

/-- A stopped core goes on (R454). -/
def State.unstop (s : State) (c : Nat) : State :=
  if (s.core c).dbg.stopped then
    (s.pauseGroup c false false).modCore c (fun k => { k with dbg := { k.dbg with stopped := false, steps := none } })
  else s

/-- DBG_HALT (R453, R454): `ix` is the core. One that runs no unit stops at once. -/
def execDbgHalt (s : State) : Res :=
  let c := s.hand.arg.ix
  let k := s.core c
  if k.dbg.stopped then .next s
  else if k.unit = .running then .next (s.modCore c (fun k => { k with pend := { k.pend with stop := some (k.pend.stop.getD 1) } }))
  else .next (s.stopCore c 1 k.pc)

/-- DBG_RESUME (R454). -/
def execDbgResume (s : State) : Res := .next (s.unstop s.hand.arg.ix)

/-- DBG_STEP (R455): a stopped core runs until STEPN further instructions have committed; 0 is read as 1. -/
def execDbgStep (s : State) : Res :=
  let c := s.hand.arg.ix
  let k := s.core c
  if !k.dbg.stopped then .next s
  else
    let n := max 1 (fld k.dbg.ctl.toNat 32 32)
    .next ((s.unstop c).modCore c (fun k => { k with dbg := { k.dbg with steps := some n } }))

/-! ## Pre-emption (R306, R307) -/

/-- The descriptor of an RGN that stands at a PC, when one does. -/
def State.rgnAt (s : State) (c pc : Nat) : Option Nat :=
  match decodeWith (s.env c) (s.wordAt c pc) with
  | .ok (_, .rgn d) => some d.toNat
  | _ => none

/-- The serial of the youngest MMA or GMMA that has issued and is not committed, unless a VREDQ runs before it. -/
def Core.lastMma (k : Core) : Option Nat :=
  let l := (k.tops.filter (fun t => !t.load)).map TensorOp.serial
  let m := k.rob.filter (fun r => l.contains r.serial)
  match m.getLast?, k.vredq with
  | some r, some v => if v.serial < r.serial then none else some r.serial
  | some r, none => some r.serial
  | none, _ => none

/-- The pre-emption point (R306): where the core will go on, and how; a core in its handler goes on with the code that was
interrupted, and one in a timed block at the region of the block (R303). -/
def State.preemptPoint (s : State) (c : Nat) : State :=
  let s := match (s.core c).barWait with
    | some h => s.barBreak (s.barOf c ((s.core c).rgv (barIdReg h.entry.instr)).toNat) 8
    | none => s
  let vq := match (s.core c).vredq with
    | some v => if (s.core c).robHead = some v.serial then some v.pc else none
    | none => none
  let s := s.stopVredq c
  let pc := s.deliveryPc c
  let s := s.flushAll c
  let timed := (s.core c).block.isSome
  let s := s.modCore c (fun k =>
    { k.diverge with forced := k.forced || k.pend.forced, block := none, waiting := false, pc := pc, pend := { k.pend with preempt := false, forced := false } })
  let s := if (s.core c).mode = 1 then (s.core c).followers.foldl (fun s f => s.modCore f Core.diverge) s else s
  let set (kind pc : Nat) (f : Core → Core) : State :=
    s.modCore c (fun k => { f k with saving := 2, savedPc := pc, savedKind := kind, draining := !k.wcb.isEmpty })
  let here (k : Core) : Core := if k.active then k else { k with trapLoops := k.loops }
  let leave (k : Core) : Core := { k.setCf crTRAP_CAUSE 15 1 0 with priv := k.cf crTRAP_CAUSE 14 1 == 1 }
  let k := s.core c
  if timed then set 0 pc id
  else match s.rgnAt c pc with
  | some d =>
    set 0 pc (fun k =>
      { k.setCv crREGION (BitVec.ofNat 64 (d * 4096 + pc % 4096)) with
        region := ⟨d, pc, 0, k.loops, k.streams.map (fun p => (p.1, (p.2.i0, p.2.i1, p.2.i2)))⟩ })
  | none =>
    match vq with
    | some p => set 1 p here
    | none =>
      if k.cf crRPR 31 1 = 1 then set 1 (k.cf crRPR 16 12) (fun k => if k.active then leave k else here k)
      else if k.active then
        let r := k.cf crTRAP_CAUSE 10 2
        set (if r = 2 then 1 else r) (k.cf crTRAP_PC 0 12) leave
      else set 0 pc id

/-- A pre-emption request is taken (R306): dispatch stops, and every MMA and GMMA that has issued commits first. -/
def State.takePreempt (s : State) (c : Nat) : State :=
  match (s.core c).lastMma with
  | some n => (s.flushFrom c (n + 1)).modCore c (fun k => { k with forced := k.pend.forced, saving := 1, savedPc := n })
  | none => s.preemptPoint c

/-- Has a pre-empted core nothing in flight (R307)? -/
def Core.savable (k : Core) : Bool :=
  k.saving == 2 && k.ops.all (fun o => match o.kind with
    | .walk .. => true
    | _ => false) &&
    k.descs.isEmpty && k.tops.isEmpty && k.landings.isEmpty && k.replay.isEmpty && k.wcb.isEmpty && k.stores.isEmpty &&
    !k.dbg.stopped

/-- The cores of a context's launches. -/
def State.ctxCores (s : State) (x : Nat) : List Nat :=
  (s.cores.filter (fun p => p.2.ctx == some x && p.2.launch != 0)).map (·.1)

/-- The form of the record that a pre-emption writes (R307). -/
def State.saveForm (s : State) (c : Nat) : RecForm :=
  let k := s.core c
  let (g, v, a) := s.liveIns c k.region.desc
  let (g', a') := if k.savedKind = 1 then s.wordOperands c k.savedPc else (0, 0)
  ⟨k.savedKind, k.savedPc, g ||| g', v, a ||| a', k.priv, k.active, k.region, k.trapLoops, none⟩

/-- CORE_SAVED (R307): the record is written, and the unit is PREEMPTED. -/
def execCoreSaved (s : State) : Res :=
  let c := s.hand.core
  let k := s.me
  match k.ctx with
  | none => .next s
  | some x =>
    let y := s.ctx x
    let f := s.saveForm c
    let s := s.readRanges c
    let s := s.memStore (hbmKey (y.saveBase.toNat + c * y.saveStride.toNat)) (s.coreRecord c f) none
    let v : SavedCore :=
      { launch := k.launch, unitNo := k.unitNo, vcc := k.vcc, clk := s.clk, eval := k.eval, copySt := k.copySt, pendId := k.pendId,
        rank := k.rank, samp := k.samp, chunk := k.chunk, mode := k.mode, peer := k.peer, followers := k.followers,
        blockNo := k.blockNo, joins := k.joins, snapAt := k.snapAt,
        pend := { k.pend with preempt := false, forced := false, stop := none } }
    let s := s.modCtx x (fun y => { y with saved := mapPut y.saved c v })
    .next (s.modCore c (fun k => { k with unit := .preempted, waiting := false }))

/-- A core free for other contexts: what belongs to it and not to a unit stays. -/
def Core.release (k : Core) : Core :=
  { Core.reset with serial := k.serial, opId := k.opId, vcc := k.vcc, tlb := k.tlb, tlbUse := k.tlbUse, pipeTlb := k.pipeTlb,
                    cr := k.cr.filter (fun p => decide (0x30 ≤ p.1)), dbg := k.dbg }

/-- Every core of a context that pre-empts is saved: it is SUSPENDED, and the cores are released (R285, R307). -/
def State.suspend (s : State) (x : Nat) : State :=
  let s := (s.ctx x).saved.foldl (fun s p => s.modCore p.1 Core.release) s
  s.modCtx x (fun y => { y with st := .suspended, limitAt := none })

/-- Is the pre-emption of a context complete? -/
def State.allSaved (s : State) (x : Nat) : Bool :=
  (s.ctx x).st == .preempting && (s.ctxCores x).all (fun c => (s.core c).unit != .running)

/-- PREEMPT and PREEMPT_FORCE (R285, R306). -/
def State.preempt (s : State) (x : Nat) (forced : Bool) : State :=
  let y := s.ctx x
  if y.st ≠ .running then s
  else
    let lim := y.limit.toNat
    let s := s.setCtx x { y with st := .preempting, limitAt := if lim = 0 then none else some (s.clk + 1250 * lim) }
    (s.ctxCores x).foldl (fun s c =>
      if (s.core c).unit = .running then
        s.modCore c (fun k => { k with pend := { k.pend with preempt := true, forced := forced } })
      else s) s

/-- The pipeline scheduler's request on one unit of a context that runs (R306). -/
def State.preemptUnit (s : State) (x c : Nat) (forced : Bool) : State :=
  let k := s.core c
  if (s.ctx x).st = .running ∧ k.ctx = some x ∧ k.unit = .running ∧ !k.pend.preempt ∧ k.saving = 0 then
    s.modCore c (fun k => { k with pend := { k.pend with preempt := true, forced := forced } })
  else s

/-- PREEMPT: `ix` is the context; with `b` 1 the pipeline scheduler asks for the one unit on core `a` (log entry 4). -/
def execPreempt (s : State) : Res :=
  let a := s.hand.arg
  .next (if a.b = 1 then s.preemptUnit a.ix a.a false else s.preempt a.ix false)
/-- PREEMPT_FORCE. -/
def execPreemptForce (s : State) : Res :=
  let a := s.hand.arg
  .next (if a.b = 1 then s.preemptUnit a.ix a.a true else s.preempt a.ix true)

/-- PREEMPT_LIMIT_EXPIRY (R285): the cores that are not saved stop in place, and a fault record with cause PREEMPT is
posted. -/
def execPreemptLimitExpiry (s : State) : Res :=
  let x := s.hand.arg.ix
  if (s.ctx x).st ≠ .preempting then .next s
  else
  let late := (s.ctxCores x).filter (fun c => (s.core c).unit == .running)
  let c0 := late.headD 0xFFFF
  let t : Trap := ⟨causePREEMPT, 0, 0, 0, false⟩
  let s := s.postEvent x causePREEMPT c0 (faultBody t (s.deliveryPc c0 % 4096) false false true)
  let s := late.foldl (fun s c => s.stopCore c 6 (s.deliveryPc c)) s
  .next (s.modCtx x (fun y => { y with st := .faulted, limitAt := none }))

/-! ## Resuming (R285, R296, R310) -/

/-- A unit whose RESUME kind is NONE ends (R296). -/
def State.resumeKind (s : State) (c kind pc : Nat) : State :=
  if kind = 3 then s.endByTrap c else s.modCore c (fun k => k.resumeAs kind pc)

/-- A core of a FAULTED context goes on as ERET does, with ERET's wait first, at stage 8 (R293, R296). -/
def State.resumeInPlace (s : State) (x c : Nat) : State :=
  let k := s.core c
  if k.unit = .faulted then
    let s := (s.unstop c).modCore c (fun k => { k with unit := .running })
    let e : QEntry := { QEntry.empty with pc := k.cf crTRAP_PC 0 12 }
    s.modCore c (fun k => { k with held := some ⟨e, .waiting false, 8, k.cf crTRAP_CAUSE 10 2, s.clk, none⟩ })
  else if k.unit = .preempted ∨ k.saving = 2 then
    let s := (s.unstop c).modCore c (fun k =>
      { k with unit := .running, saving := 0, forced := false, loops := if k.savedKind = 0 then k.loops else k.trapLoops })
    (s.modCtx x (fun y => { y with saved := mapDel y.saved c })).resumeKind c k.savedKind k.savedPc
  else if k.dbg.stopped ∧ k.dbg.reason = 6 then
    (s.unstop c).modCore c (fun k => { k with saving := 0, forced := false, pend := { k.pend with preempt := false, forced := false } })
  else s

/-- A core of a SUSPENDED context is restored (R310). -/
def State.resumeSaved (s : State) (x c : Nat) (v : SavedCore) : State :=
  let y := s.ctx x
  let key := hbmKey (y.saveBase.toNat + c * y.saveStride.toNat)
  let s := s.modCore c (fun k =>
    { k with ctx := some x, launch := v.launch, unitNo := v.unitNo, unit := .running, vcc := v.vcc + (s.clk - v.clk),
             eval := v.eval, copySt := v.copySt, pendId := v.pendId, rank := v.rank, samp := v.samp, chunk := v.chunk,
             mode := v.mode, peer := v.peer, followers := v.followers, blockNo := v.blockNo, joins := v.joins,
             snapAt := v.snapAt, pend := v.pend })
  let head := s.memLoad key 64
  let s := s.restoreCore c key false
  if (s.core c).unit = .running then s.resumeKind c (byteFld head 10 1) (byteFld head 8 2) else s

/-- The pipeline scheduler restores one unit that it had pre-empted: its core is PREEMPTED, and its context runs. -/
def State.resumeUnit (s : State) (x c : Nat) : State :=
  match mapGet (s.ctx x).saved c with
  | none => s
  | some v =>
    if (s.ctx x).st ≠ .running ∨ (s.core c).unit ≠ .preempted then s
    else match s.askArchives [(c, v.launch)] with
      | some s' => { s' with inputs := s'.inputs ++ [⟨s.clk + 1, .ctxResume, s.hand.arg⟩] }
      | none => (s.resumeSaved x c v).modCtx x (fun y => { y with saved := mapDel y.saved c })

/-- CTX_RESUME (R285): `ix` is the context; with `b` 1 the pipeline scheduler restores the one unit of core `a` (log entry 4).
Archives outside the package that restoring reads are waited for. -/
def execCtxResume (s : State) : Res :=
  let x := s.hand.arg.ix
  let y := s.ctx x
  if s.hand.arg.b = 1 then .next (s.resumeUnit x s.hand.arg.a)
  else match y.st with
  | .faulted =>
    let s := (s.ctxCores x).foldl (fun s c => s.resumeInPlace x c) s
    .next (s.modCtx x (fun y => { y with st := .running }))
  | .suspended =>
    if y.saved.any (fun p => (s.core p.1).launch != 0) then .next s
    else
      let named := y.saved.foldl (fun s p => s.modCore p.1 (fun k => { k with unitNo := p.2.unitNo })) s
      match named.askArchives (y.saved.map (fun p => (p.1, p.2.launch))) with
      | some s' => .next { s' with inputs := s'.inputs ++ [⟨s.clk + 1, .ctxResume, s.hand.arg⟩] }
      | none =>
        let s := y.saved.foldl (fun s p => s.resumeSaved x p.1 p.2) s
        .next (s.modCtx x (fun y => { y with st := .running, saved := [] }))
  | _ => .next s

/-! ## Creation (R285) -/

/-- CREATE (R285): empty page and handle tables. -/
def execCreate (s : State) : Res :=
  let x := s.hand.arg.ix
  if (s.ctx x).st ≠ .free then .next s
  else .next (s.modCtx x (fun y =>
    { y with st := .building, ptRoot := 0, htBase := 0, htCount := 0, ptRootEff := 0, htBaseEff := 0, htCountEff := 0,
             events := [], nodes := [] }))

/-- COMMIT (R285): every core of the context holds a loaded image. -/
def execCommit (s : State) : Res :=
  let x := s.hand.arg.ix
  let loaded (k : Core) : Bool := match k.unit with
    | .ready | .running | .preempted | .done => true
    | _ => false
  if (s.ctx x).st ≠ .building ∨ s.cores.any (fun p => p.2.ctx == some x && !loaded p.2) then .next s
  else .next (s.modCtx x (fun y => { y with st := .ready }))

/-! ## Draining (R312) -/

/-- The drain of a context begins: its queues are disabled, and its units end CANCELLED without a handler. -/
def State.drain (s : State) (x : Nat) : State :=
  let y := s.ctx x
  match y.st with
  | .building | .ready | .running | .preempting | .faulted | .suspended =>
    let s := (s.queues.filter (fun p => p.2.own == some x)).foldl (fun s p => s.setQueue p.1 { p.2 with st := .disabled, head := none }) s
    let s := (s.ctxCores x).foldl (fun s c =>
      match (s.core c).unit with
      | .done | .cancelled | .none => s
      | _ => s.endUnit c .cancelled 0xFFFE false) s
    s.modCtx x (fun y => { y with st := .draining, drainAt := some (s.clk + 1250000), limitAt := none, saved := [] })
  | _ => s

/-- DESTROY. -/
def execDestroy (s : State) : Res := .next (s.drain s.hand.arg.ix)
/-- CTX_RESET. -/
def execCtxReset (s : State) : Res := .next (s.drain s.hand.arg.ix)
/-- FUNCTION_LEVEL_RESET (R285): RESET, and the registers of the control block are reset; what the drain still needs, the tables
in use among it, stays until the scrub. -/
def execFunctionLevelReset (s : State) : Res :=
  let x := s.hand.arg.ix
  let s := s.drain x
  let wipe (p : Nat × Queue) : Nat × Queue := if p.2.own = some x then (p.1, { Queue.reset with own := some x }) else p
  let s : State := { s with queues := s.queues.map wipe }
  .next (s.modCtx x (fun y =>
    if y.st = .free then Ctx.reset
    else { Ctx.reset with st := y.st, before := y.before, ptRootEff := y.ptRootEff, htBaseEff := y.htBaseEff, htCountEff := y.htCountEff,
                          drainAt := y.drainAt, nodes := y.nodes, invals := y.invals, saved := y.saved }))

/-- Are the requests of a draining context over? -/
def State.drained (s : State) (x : Nat) : Bool :=
  let cs := (s.cores.filter (fun p => p.2.ctx == some x)).map (·.1)
  cs.all (fun c =>
    let k := s.core c
    k.descs.isEmpty && k.stores.isEmpty && k.incoming.isNone && k.ops.all (fun o => match o.kind with
      | .remote => false
      | _ => true)) &&
    s.msgs.all (fun m => !cs.contains m.src && !cs.contains m.dst)

/-- SCRUB_COMPLETE (R312): the cores of the context are written to zero, its handle table is cleared, and they are
released. -/
def execScrubComplete (s : State) : Res :=
  let x := s.hand.arg.ix
  let y := s.ctx x
  if y.st ≠ .draining then .next s
  else
  let cs := (s.cores.filter (fun p => p.2.ctx == some x)).map (·.1)
  let s : State := cs.foldl (fun s c =>
    let s := s.clearCore c
    let s := s.memStore (coreKey c 0x60000) (zeros 0x8000) none
    s.modCore c (fun k => { k.release with cr := [], tlb := [], pipeTlb := [], tlbUse := 0 })) s
  let s : State := { s with lltlb := s.lltlb.map (fun p => (p.1, p.2.filter (fun q => q.1 != x))) }
  let s := s.memStore (hbmKey y.htBaseEff.toNat) (zeros (16 * y.htCountEff.toNat)) none
  let gone := (s.launches.filter (fun p => p.2.ctx == x)).map (·.1)
  let s := gone.foldl (fun s n => s.dropPops n) s
  let s := { s with launches := s.launches.filter (fun p => p.2.ctx != x), barriers := s.barriers.filter (fun p => p.2.ctx != x),
                    pops := s.pops.filter (fun p => p.2.ctx != x) }
  .next (s.modCtx x (fun y => { y with st := .free, drainAt := none, nodes := [], events := [], saved := [], invals := [] }))

/-- DRAIN_TIMEOUT (R285): a core or link has not finished the drain within 1 ms. -/
def execDrainTimeout (s : State) : Res :=
  if (s.ctx s.hand.arg.ix).st ≠ .draining then .next s
  else .next (s.modCtx s.hand.arg.ix (fun y => { y with st := .dead, drainAt := none }))

/-! ## The live dump (R465 to R467) -/

/-- DUMP (R465): every core of the context stops with reason DUMP. -/
def execDump (s : State) : Res :=
  let x := s.hand.arg.ix
  let y := s.ctx x
  match y.st with
  | .running | .faulted | .suspended =>
    let s := s.setCtx x { y with st := .dumping, before := y.st }
    .next ((s.ctxCores x).foldl (fun s c =>
      let k := s.core c
      if k.unit = .running ∧ !k.dbg.stopped then s.modCore c (fun k => { k with pend := { k.pend with stop := some 7 } }) else s) s)
  | _ => .next s

/-- One entry of the pending-store section: its 32-byte head and its data (R467). -/
def pendingEntry (ty st mt reason ix phys va done : Nat) (data : List Byte) : List Byte :=
  leBytes 1 ty ++ leBytes 1 st ++ leBytes 2 data.length ++ leBytes 1 mt ++ leBytes 1 reason ++ leBytes 2 ix ++ leBytes 8 phys ++
    leBytes 8 va ++ leBytes 4 done ++ zeros 4 ++ pad8 data

/-- The 144 bytes of a write-combining line: its data, and a mask of the bytes it holds. -/
def lineData (l : List (Nat × Byte)) : List Byte :=
  (List.range 128).map (fun i => mapGetD l i 0) ++ leBytes 16 (packNat 1 ((List.range 128).map (fun i => if (mapGet l i).isSome then 1 else 0)))

/-- The bytes that a copy operation's beats still have to write. -/
def CopyOp.left (o : CopyOp) : Nat := ((o.streams.map (fun l => (l.map Beat.len).foldl (· + ·) 0)).foldl (· + ·) 0)

/-- The entries of a core's pending-store section, each with the serial of its instruction. -/
def State.pendingEntries (s : State) (c : Nat) : List (Nat × List Byte) :=
  let k := s.core c
  let sent := s.msgs.filterMap (fun m =>
    if m.src ≠ c then none
    else match m.body with
      | .store r b _ => some (r.serial, pendingEntry 1 0 r.mt 0 0 r.phys r.va 0 b)
      | .atomic r _ opnd _ => some (r.serial, pendingEntry 2 0 r.mt 0 0 r.phys r.va 0 (leBytes 8 opnd.toNat))
      | _ => none)
  let lines := k.wcb.map (fun p => (0, pendingEntry 3 0 1 0 p.1 p.2.phys p.2.va 0 (lineData p.2.bytes)))
  let parked := k.replay.map (fun p => (p.serial, match p.st with
    | .transient => pendingEntry 4 2 0 0 p.slot 0 p.va 0 p.bytes
    | .resolved a mt => pendingEntry 4 1 mt 0 p.slot a p.va 0 p.bytes
    | .failed r _ => pendingEntry 4 0 0 r p.slot 0 p.va 0 p.bytes
    | .reported => pendingEntry 4 0 0 0 p.slot 0 p.va 0 p.bytes))
  let copies := k.descs.map (fun p =>
    let total := (p.2.writes.map (·.2)).foldl (· + ·) 0
    (p.2.serial, pendingEntry 5 p.2.group 0 0 p.1 ((p.2.writes.head?.map (·.1)).getD 0) 0 (total - p.2.left) []))
  (sent ++ lines ++ parked ++ copies).foldl (fun l e => (l.takeWhile (fun x => decide (x.1 ≤ e.1))) ++ e :: l.dropWhile (fun x => decide (x.1 ≤ e.1))) []

/-- A core as its committed instructions have left it. -/
def State.committed (s : State) (c : Nat) : State :=
  match (s.core c).robHead with
  | some n => s.rewind c n
  | none => s

/-- The dump record of a core (R466). -/
def State.dumpRecord (s : State) (c : Nat) : List Byte :=
  let pend := s.pendingEntries c
  let t := s.committed c
  let k := t.core c
  let f : RecForm := ⟨3, t.deliveryPc c, 2 ^ 64 - 1, 2 ^ 32 - 1, 15, k.priv, k.active, k.region, k.trapLoops, none⟩
  let m (lo n : Nat) : List Byte := t.memLoad (coreKey c lo) n
  t.recBody c f 0 0 ++ (if isGateway c then padTo 262144 (m 0 0x10000) else m 0 0x40000) ++ m 0x40000 0x18000 ++ m 0x60000 0x8000 ++
    padTo 4096 (t.tagBytes c 0 0x80000) ++ padTo 8192 (t.lineBytes c 0x40000 0x58000) ++
    (padTo 65536 (leBytes 8 pend.length ++ (pend.map (·.2)).flatten)).take 65536

/-- Has every core of a context that dumps stopped? -/
def State.dumpReady (s : State) (x : Nat) : Bool :=
  (s.ctx x).st == .dumping && (s.ctxCores x).all (fun c => (s.core c).unit != .running || (s.core c).dbg.stopped)

/-- DUMP_COMPLETE (R465): the records are written, and what the dump stopped goes on. -/
def execDumpComplete (s : State) : Res :=
  let x := s.hand.arg.ix
  let y := s.ctx x
  if y.st ≠ .dumping then .next s
  else
  let cs := s.ctxCores x
  let s := cs.foldl (fun s c => s.memStore (hbmKey (y.dumpBase.toNat + c * y.dumpStride.toNat)) (s.dumpRecord c) none) s
  let s := cs.foldl (fun s c => if (s.core c).dbg.reason = 7 then s.unstop c else s) s
  .next (s.modCtx x (fun y => { y with st := y.before }))

/-! ## Snapshots (R374) -/

/-- Is everything older than a SNAP complete, so that its record is whole? -/
def Core.snapReady (k : Core) (serial : Nat) : Bool :=
  k.arrivalReady serial && k.robHead == some serial && k.ops.all (fun o => match o.kind with
    | .walk .. => true
    | _ => decide (serial ≤ o.serial))

/-- A core's last snapshot that has been released: its instance, its episode, its area (R374). -/
def State.lastSnap (s : State) (c : Nat) : Option (Nat × (Nat × (Nat × Nat))) :=
  (s.core c).snapAt.find? (fun p => (s.bar p.1).st != .free && (s.bar p.1).snapEp == some ((p.2.1 + 1) % 65536))

/-- SNAP's mark on its episode is set before it arrives. -/
def State.markSnap (s : State) (key : Nat) : State := s.modBar key (fun b => { b with snapped := true })

/-- SNAP (R374). Stage 0 checks and waits, and the record is complete some clk later, in stage 1: the core arrives. -/
def execSnap (ga gb : GReg) (s : State) : Res :=
  s.sGuarded (fun s =>
    let c := s.hand.core
    let k := s.me
    let id := (k.rgv ga).toNat
    let h := k.rgv gb
    let size := (k.rgv (gb + 1)).toNat
    if k.block.isSome then s.trap causeILLEGAL 0 0
    else if s.barBad c id ∨ barKind id < 2 then s.barTrap id 4
    else match s.handleSide (k.ctx.getD 0) h (2 * size) true with
      | .error e => s.trap e h.toNat (capInfo 5 gb)
      | .ok (area, _) =>
        if size < 0x24000 + (s.rangeSection c).length then s.trap causeBOUNDS h.toNat (capInfo 5 gb)
        else if !k.snapReady s.ent.serial then (s.modMe Core.startDrain).sHold false 0 0
        else if s.hand.stage = 0 then
          let (l, s) := s.draw
          s.sWait false 1 0 (s.clk + l) none
        else
          let key := s.barOf c id
          let ep := (s.bar key).episode
          let reg := (k.rob.filterMap Rob.region).getLast?.getD k.region
          let f : RecForm := ⟨2, s.ent.pc, 2 ^ 64 - 1, 2 ^ 32 - 1, 15, k.priv, k.active, reg, k.loops, some k.vcc⟩
          let s := s.readRanges c
          let s := s.devWrite (area + ep % 2 * size) (s.coreRecord c f)
          let s := if (s.bar key).st = .armed ∨ (s.bar key).st = .collecting then s.markSnap key else s
          s.barArrival id (fun s key ep =>
            let old := s.lastSnap c
            let s := s.modMe (fun k => { k with snapAt := (key, (ep, (area, size))) :: old.toList })
            s.barHold key ep))

/-! ## Rollback (R375) -/

/-- The last report about a core is marked: bit 2 rollback taken, bit 3 escalated (R450). -/
def State.markReport (s : State) (c bit : Nat) : State :=
  let n := min 512 s.isl.errCnt
  let hit := (List.range n).find? (fun i =>
    let a := devKey (0x8000 + 64 * ((s.isl.errCnt - 1 - i) % 512))
    let r := s.memLoad a 64
    byteFld r 32 2 == c && [3, 4, 6].contains (byteFld r 0 1))
  match hit with
  | none => s
  | some i =>
    let a := devKey (0x8000 + 64 * ((s.isl.errCnt - 1 - i) % 512)) + 1
    { s with mem := memWrite s.mem a [BitVec.ofNat 8 ((memGet s.mem a).toNat ||| 2 ^ bit)] }

/-- The instance and area that a core would be rolled back to, when its last snapshot has been released. -/
def State.rollTarget (s : State) (c : Nat) : Option (Nat × (Nat × Nat)) :=
  (s.lastSnap c).map (fun p => (p.1, p.2.2))

/-- A member's operations in flight are abandoned, and its state is restored from its snapshot. -/
def State.rollMember (s : State) (c area size ep lat : Nat) : State :=
  let key := keyOf area + (ep + 65535) % 65536 % 2 * size
  let s := (s.core c).late.foldl (fun (s : State) (col : Nat) => s.endLate c col) s
  let stay (m : Msg) : Bool := match m.body with
    | .vector .. => m.src != c && m.dst != c
    | _ => true
  let s : State := { s with msgs := s.msgs.filter stay }
  let head := s.memLoad key 64
  let s := s.modLaunch (s.core c).launch (fun l => { l with ended := mapDel l.ended (s.core c).unitNo })
  let s := s.modCore c (fun k =>
    { k with vcc := byteFld head 40 8, unit := .running, descs := [], groups := k.groups.map (fun p => (p.1, ⟨0, p.2.fault⟩)),
             snapAt := (s.lastSnap c).toList, ops := [], stores := [], replay := [], wcb := [], draining := false, cache := [], joins := [], refreshed := 0 })
  let s := s.restoreCore c key true
  if (s.core c).unit = .running then
    s.modCore c (fun k => { k.advance (byteFld head 8 2) with seqAt := k.vcc + lat })
  else s

/-- The members of an instance go back to its last snapshot, and resume together (R375). -/
def State.rollAll (s : State) (key : Nat) : State :=
  let b := s.bar key
  match b.snapEp with
  | none => s
  | some ep =>
    let ms := (s.barMembers b).filterMap (fun c =>
      match s.rollTarget c with
      | some (k, (area, size)) => if k = key then some (c, (area, size)) else none
      | none => none)
    let (lat, s) := s.barLatency b.kind
    let s := ms.foldl (fun s p => s.rollMember p.1 p.2.1 p.2.2 ep lat) s
    s.setBar key { b with st := .armed, episode := ep, count := b.snapEnd, rolls := b.rolls + 1, waiters := [], last := [], snapped := false }

/-- An uncorrectable error that no rollback answers escalates on its core (R375, R451). -/
def State.escalateError (s : State) (c : Nat) (t : Trap) : State :=
  let s := s.markReport c 3
  let pc := s.deliveryPc c
  let s := s.flushAll c
  let nested := (s.core c).active
  let s := s.modCore c (fun k => { (k.trapFields t pc).diverge with block := none, waiting := false, saving := 0 })
  s.escalate c t pc nested

/-- ROLLBACK (R375): the core in hand has consumed an uncorrectable error, or failed its umpire twice; with `a` 1, another
package has sent the rollback of the instance `ix`. -/
def execRollback (s : State) : Res :=
  if s.hand.arg.a = 1 then .next (s.rollAll s.hand.arg.ix)
  else
    let c := s.hand.core
    match s.me.pend.rollback with
    | none => .next s
    | some t =>
      let done (s : State) : State := s.modCore c (fun k => { k with pend := { k.pend with rollback := none } })
      match s.rollTarget c with
      | none => .next ((done s).escalateError c t)
      | some (key, (area, _)) =>
        let b := s.bar key
        if 3 ≤ b.rolls ∨ !s.inPackage area then .next ((done s).escalateError c t)
        else
          match s.askArchives ((s.barMembers b).map (fun m => (m, b.launch))) with
          | some s' => .next s'
          | none =>
            let s := (done s).markReport c 2
            let s := if b.kind = 3 ∧ 1 < b.p then s.emit .chip 0 key [1] else s
            .next (s.rollAll key)

/-! ## Delivery points (R291, R292) -/

/-- The first of the pending events of a core that can be taken now, by number: 1 rollback; 2 a precise trap; 3 a parked
store; 4 ENGINE_FAULT; 5 a watch report; 6 LINK; 7 COLLECTIVE; 8 CANCEL; 9 DEADLINE; 10 BUDGET; 11 PREEMPT; 12 a stop; 13
the point of a pre-emption that waited for an MMA. -/
def State.delivery (s : State) (c : Nat) : Option Nat :=
  let k := s.core c
  let p := k.pend
  if k.unit != .running || k.dbg.stopped || k.saving == 2 || (s.frozen c && k.late.isEmpty && k.atRealign.isNone) then none
  else
    let free := !k.active && k.saving == 0
    let open_ := free && k.barWait.isNone
    let own := match k.rob with
      | r :: _ => r.trap.isSome
      | [] => false
    let own2 := match k.rob with
      | _ :: r :: _ => r.trap.isSome && k.afterVredq r.serial
      | _ => false
    let parked := match k.replay.find? (fun e => match e.st with
        | .failed .. => true
        | _ => false) with
      | some _ => true
      | none => false
    let preempt := p.preempt && k.saving == 0 && (p.forced || (!k.deferred && k.barWait.isNone))
    let mma := k.saving == 1 && k.rob.all (fun r => decide (k.savedPc < r.serial))
    let l : List (Nat × Bool) :=
      [(1, p.rollback.isSome && s.asks.isEmpty), (2, own || own2), (3, open_ && parked), (4, open_ && !p.engine.isEmpty),
       (5, open_ && !p.watch.isEmpty), (6, open_ && p.link.isSome), (7, open_ && p.coll.isSome), (8, free && p.cancel),
       (9, open_ && p.deadline.isSome), (10, open_ && p.budget), (11, preempt), (12, p.stop.isSome && k.saving == 0), (13, mma)]
    (l.find? (·.2)).map (·.1)

/-- A trap taken at the delivery point. -/
def State.deliver (s : State) (c : Nat) (t : Trap) : State :=
  let s := match (s.core c).atRealign with
    | some _ => s.leaveRealign (s.core c).launch (dieOf c)
    | none => s
  s.takeTrap c (s.deliveryPc c) t

/-- A parked store that cannot be made raises PAGE_STORE_PARKED (R318, R320). -/
def State.deliverParked (s : State) (c : Nat) : State :=
  let is (e : Parked) : Bool := match e.st with
    | .failed .. => true
    | _ => false
  match (s.core c).replay.find? is with
  | some e =>
    let info := match e.st with
      | .failed r l => e.slot * 256 + 64 + l % 4 * 16 + r
      | _ => 0
    let s := s.modCore c (fun k =>
      { k with replay := k.replay.map (fun x => if x.slot = e.slot then { x with st := .reported } else x) })
    s.deliver c ⟨causePARKED, e.va, info, 0, false⟩
  | none => s

/-- CANCEL at a delivery point (R384). -/
def State.deliverCancel (s : State) (c : Nat) : State :=
  let s := s.modCore c (fun k => { k with pend := { k.pend with cancel := false } })
  if (s.core c).cf crHANDLER 13 1 = 1 then s.deliver c ⟨causeCANCEL, 0, 0, 3, false⟩
  else
    let s := match (s.core c).atRealign with
      | some _ => s.leaveRealign (s.core c).launch (dieOf c)
      | none => s
    s.endUnit c .cancelled 0xFFFE false

/-- The precise trap that waits at the head of the list of uncommitted instructions. -/
def State.deliverOwn (s : State) (c : Nat) : State :=
  let k := s.core c
  let first := match k.rob with
    | r :: rest => if r.trap.isSome then some r else rest.head?
    | [] => none
  match first with
  | some r =>
    (match r.trap with
      | some t => s.takeTrap c r.pc t
      | none => s)
  | none => s

/-- TRAP_DELIVERY (R291): the first event that can be taken is. -/
def execTrapDelivery (s : State) : Res :=
  let c := s.hand.core
  let p := s.me.pend
  let drop (f : Pending → Pending) : State := s.modCore c (fun k => { k with pend := f k.pend })
  match s.delivery c with
  | some 2 => .next (s.deliverOwn c)
  | some 3 => .next (s.deliverParked c)
  | some 4 =>
    (match p.engine with
      | (_, t) :: l => .next ((drop (fun p => { p with engine := l })).deliver c t)
      | [] => .next s)
  | some 5 =>
    (match p.watch with
      | (i, t) :: l =>
        let s := drop (fun p => { p with watch := l })
        if (s.core c).cf (0x021 + 2 * i) 62 1 = 1 then .next (s.stopCore c 4 (s.deliveryPc c)) else .next (s.deliver c t)
      | [] => .next s)
  | some 6 => .next ((drop (fun p => { p with link := none })).deliver c (p.link.getD ⟨causeLINK, 0, 0, 0, true⟩))
  | some 7 => .next ((drop (fun p => { p with coll := none })).deliver c (p.coll.getD ⟨causeCOLL, 0, 0, 0, true⟩))
  | some 8 => .next (s.deliverCancel c)
  | some 9 =>
    let d := p.deadline.getD 0
    let info := if 2 ^ 64 ≤ d then 2 ^ 63 + d % 2 ^ 48 else s.now - d
    .next ((drop (fun p => { p with deadline := none })).deliver c ⟨causeDEADLINE, 0, info, 0, false⟩)
  | some 10 => .next ((drop (fun p => { p with budget := false })).deliver c ⟨causeBUDGET, 0, 0, 0, false⟩)
  | some 11 => .next (s.takePreempt c)
  | some 12 =>
    .next ((drop (fun p => { p with stop := none })).stopCore c (p.stop.getD 1) (s.deliveryPc c))
  | some 13 => .next (s.preemptPoint c)
  | _ => .next s

/-- What comes next in the life of a context. -/
def ctxStep (s : State) (x : Nat) : Agenda :=
  let y := s.ctx x
  let ev (i : Instr) : Agenda := some ({ s with hand := { Hand.empty with arg := { Arg.empty with ix := x } } }, [i])
  let past (t : Option Nat) : Bool := match t with
    | some t => decide (t ≤ s.clk)
    | none => false
  match y.st with
  | .preempting =>
    if s.allSaved x then some (s.suspend x, []) else if past y.limitAt then ev .preemptLimitExpiry else none
  | .dumping => if s.dumpReady x then ev .dumpComplete else none
  | .draining => if s.drained x then ev .scrubComplete else if past y.drainAt then ev .drainTimeout else none
  | _ => none

/-- A pending event is taken, or a pre-empted core is saved. -/
def deliverStep (s : State) (c : Nat) : Agenda :=
  if (s.core c).savable && (s.core c).unit == .running then some (s.onCore c, [.coreSaved])
  else match s.delivery c with
    | some 1 => some (s.onCore c, [.rollback])
    | some _ => some (s.onCore c, [.trapDelivery])
    | none => none

end Sys2Proof.Machine
end

