-- ==== Sys2Proof/Machine/Debug.lean ====
section
/-! DEFINITION. The debug instructions (R459, R460), the trace buffer (R461), the Whistle (R462 to R464), and the scrubber
(R447, R452). -/

namespace Sys2Proof.Machine

/-! ## Debug instructions -/

/-- BKPT (R460): WAIT.ALL's wait, then a stop or the trap BKPT with RESUME NEXT. -/
def execBkpt (code : Int) (s : State) : Res :=
  s.sGuarded (fun s =>
    if !s.me.allQuiet then s.sHold false 1 0
    else
      let c := s.hand.core
      let ctl := s.me.dbg.ctl.toNat
      if fld ctl 3 1 = 1 ∧ fld ctl 4 1 = 1 then
        let s := s.sDone []
        s.stopCore c 3 s.me.pc
      else s.raise ⟨causeBKPT, 0, 4 + code.toNat % 256 * 256, 2, false⟩)

/-- TRACE (R460, R461): a user record. -/
def execTrace (ga : GReg) (tag : Int) (s : State) : Res :=
  s.sGuarded (fun s =>
    (s.traceAtCommit (traceRec 6 (tag.toNat % 256) (s.ent.pc % 65536) 0 (s.me.rgv ga).toNat)).sDone [])

/-- TRACE.SYNC (R460, R461): a sync record. -/
def execTraceSync (s : State) : Res := s.sGuarded (fun s => (s.traceAtCommit (syncRec s.now s.me)).sDone [])

/-- SMPL (R460): what this core latched at the latest Whistle. -/
def execSmpl (gd : GReg) (s : State) : Res :=
  s.sGuarded (fun s =>
    let d := s.me.dbg
    s.sDone [.g gd (GVal.data (BitVec.ofNat 64 (d.latchPc % 4096 + d.latchSt % 16 * 4096 + d.latchSeq % 2 ^ 48 * 65536)))])

/-- A request for a Whistle: one tick for those of one island ns (R463). -/
def State.whistleReq (s : State) : State :=
  if fld s.isl.whCtl.toNat 0 1 = 1 then s.modIsl (fun i => { i with whReq := some (i.whReq.getD s.ns) }) else s

/-- SMPL.REQ (R460, R463): at supervisor level. -/
def execSmplReq (s : State) : Res :=
  s.sGuarded (fun s => if !s.me.priv then s.trap causePRIV 0 0 else s.whistleReq.sDone [])

/-- WHISTLE_REQ (R462): WHISTLE_CTL.REQ. -/
def execWhistleReq (s : State) : Res := .next s.whistleReq

/-! ## Trace records into their buffer (R461) -/

/-- The mesh address of a byte of a core's trace buffer: TRACE_BUF's handle, at PTR mod 2^SIZE. -/
def State.traceAddr (s : State) (c : Nat) : Option Nat :=
  let k := s.core c
  let size := 2 ^ max 12 (min 30 (fld k.dbg.traceCtl.toNat 8 5))
  match s.handleSide (k.ctx.getD 0) k.dbg.traceBuf size true with
  | .ok (a, _) => some (a + k.dbg.ptr % size)
  | .error _ => none

/-- One record of a core leaves its encoder. With WRAP 0, EN clears when PTR reaches 2^SIZE; an error clears EN. -/
def State.traceDrain (s : State) (c : Nat) : State :=
  let k := s.core c
  match k.dbg.buffer with
  | [] => s
  | r :: rest =>
    let off (d : Debug) : Debug := { d with traceCtl := BitVec.ofNat 64 (setFld d.traceCtl.toNat 0 1 0), buffer := [] }
    if !traceOn k then s.modCore c (fun k => { k with dbg := { k.dbg with buffer := [] } })
    else match s.traceAddr c with
      | none => s.modCore c (fun k => { k with dbg := off k.dbg })
      | some a =>
        if s.placeLost a 16 then s.modCore c (fun k => { k with dbg := off k.dbg })
        else
        let size := 2 ^ max 12 (min 30 (fld k.dbg.traceCtl.toNat 8 5))
        let s := s.devWrite a r
        s.modCore c (fun k =>
          let d := { k.dbg with buffer := rest, ptr := k.dbg.ptr + 16 }
          { k with dbg := if fld d.traceCtl.toNat 1 1 = 0 ∧ size ≤ d.ptr then off d else d })

/-- The encoders' work in a clk. -/
def State.traceDrains (s : State) : State :=
  (s.cores.filter (fun p => !p.2.dbg.buffer.isEmpty)).foldl (fun s p => s.traceDrain p.1) s

/-! ## The Whistle (R463, R464) -/

/-- The run state of a core (R463). -/
def State.runState (s : State) (c : Nat) : Nat :=
  let k := s.core c
  match k.unit with
  | .running =>
    if k.dbg.stopped then 6
    else if k.saving ≠ 0 then 9
    else if s.frozen c then 8
    else if k.waiting then 4
    else if k.active then 5
    else if k.held.isSome then 2
    else if k.queues.any (fun p => decide (16 ≤ p.2.length)) then 3
    else if k.block.isSome then 7
    else 1
  | .faulted => 6
  | _ => if k.launch = 0 then 0 else if k.dbg.stopped then 6 else 9

/-- Fields of a bit stream, each with its width, least significant bit first. -/
def packFields (l : List (Nat × Nat)) : List Byte :=
  let x := l.foldl (fun (acc : Nat × Nat) f => (acc.1 + f.2 % 2 ^ f.1 * 2 ^ acc.2, acc.2 + f.1)) (0, 0)
  leBytes ((x.2 + 7) / 8) x.1

/-- The entry of one core: its prefix and what follows it. -/
def whistleEntry (key : Bool) (k : Core) (pc st : Nat) : List (Nat × Nat) :=
  if st = 0 then [(2, 3)]
  else if key ∨ k.dbg.prevSt = 0 then [(2, 2), (12, pc), (4, st)]
  else if pc = k.dbg.prevPc ∧ st = k.dbg.prevSt then [(2, 0)]
  else if pc < k.dbg.prevPc + 128 ∧ k.dbg.prevPc ≤ pc + 128 then [(2, 1), (8, wrap 8 ((pc : Int) - k.dbg.prevPc)), (4, st)]
  else [(2, 2), (12, pc), (4, st)]

/-- The cores of a DIES bit, in ascending order. -/
def whistleCores (d : Nat) : List Nat :=
  if d < 8 then (List.range (Config.nrows * 16)).map (fun i => 512 * d + i) else (List.range 48).map (fun i => 4096 + i)

/-- The record of a tick. -/
def State.whistleRecord (s : State) (key : Bool) : List Byte :=
  let st (c : Nat) : Nat := s.runState c
  let down := (List.range 8).filter (fun d => (s.ep d).st != .active)
  let dies := (List.range 9).filter (fun d =>
    !down.contains d && s.cores.any (fun p => (whistleCores d).contains p.1 && st p.1 != 0))
  let streams := (dies.map (fun d =>
    packFields ((whistleCores d).map (fun c => whistleEntry key (s.core c) (s.deliveryPc c % 4096) (st c))).flatten)).flatten
  let mask (l : List Nat) : Nat := l.foldl (fun m d => m + 2 ^ d) 0
  let n := (32 + streams.length + 7) / 8 * 8
  padTo n (leBytes 2 0x5753 ++ leBytes 1 1 ++ leBytes 1 (if key then 1 else 0) ++ leBytes 4 n ++ leBytes 8 s.isl.whSeq ++ leBytes 8 s.now ++
    leBytes 4 s.isl.coord ++ leBytes 2 (mask dies) ++ leBytes 2 (mask down) ++ streams)

/-- WHISTLE_TICK (R463, R464): every core latches its PC and run state, and a record is made unless both buffers are full. -/
def execWhistleTick (s : State) : Res :=
  let i := s.isl
  let s := s.modIsl (fun i =>
    let p := fld i.whCtl.toNat 32 32
    let next := if p = 0 then 0 else if i.whNext ≤ s.ns / 1000 then (s.ns / 1000 / p + 1) * p else i.whNext
    { i with whReq := i.whReq.filter (fun t => decide (s.ns ≤ t)), whNext := next, whSeq := (i.whSeq + 1) % 2 ^ 64 })
  let seq := i.whSeq
  let latches := s.cores.map (fun p => (p.1, (s.deliveryPc p.1 % 4096, s.runState p.1)))
  let key := i.whKey || seq % 64 == 0
  let r := { s with isl := i }.whistleRecord key
  let s := latches.foldl (fun s p => s.modCore p.1 (fun k =>
    { k with dbg := { k.dbg with latchPc := p.2.1, latchSt := p.2.2, latchSeq := seq } })) s
  if 2 ≤ i.whBuf.length then .next (s.modIsl (fun i => { i with whDrops := i.whDrops + 1, whKey := true }))
  else
    let (l, s) := s.draw
    let s := latches.foldl (fun s p => s.modCore p.1 (fun k => { k with dbg := { k.dbg with prevPc := p.2.1, prevSt := p.2.2 } })) s
    .next (s.modIsl (fun i => { i with whBuf := i.whBuf ++ [(s.clk + l, r)], whKey := false }))

/-- Does a tick come now: a multiple of PERIOD, or a request of an earlier ns (R463)? -/
def State.whistleDue (s : State) : Bool :=
  fld s.isl.whCtl.toNat 0 1 == 1 &&
    ((match s.isl.whReq with
      | some t => decide (t < s.ns)
      | none => false) ||
      (fld s.isl.whCtl.toNat 32 32 != 0 && decide (s.isl.whNext * 1000 ≤ s.ns)))

/-- A Whistle record whose time has come is written at the ring's offset; one that the ring's handle refuses, or whose
place is not up, is dropped. -/
def State.whistleWrite (s : State) : Option State :=
  match s.isl.whBuf with
  | [] => none
  | (t, r) :: rest =>
    if s.clk < t then none
    else
      let size := 2 ^ max 16 (min 30 (fld s.isl.whCtl.toNat 16 8))
      let s := s.modIsl (fun i => { i with whBuf := rest })
      match s.handleSide 0 s.isl.whRing size true with
      | .error _ => some (s.modIsl (fun i => { i with whDrops := i.whDrops + 1, whKey := true }))
      | .ok (a, _) =>
        if s.placeLost a size then some (s.modIsl (fun i => { i with whDrops := i.whDrops + 1, whKey := true }))
        else
        let o := s.isl.whOff % size
        let first := min r.length (size - o)
        let s := s.devWrite (a + o) (r.take first)
        let s := if first < r.length then s.devWrite a (r.drop first) else s
        some (s.modIsl (fun i => { i with whOff := o + r.length, whWritten := i.whWritten + 1 }))

/-! ## The scrubber (R447, R449, R452) -/

/-- SCRUB (R447): a scrubber reads the word `a`, by its mesh key, and finds, by `b`, nothing, one wrong bit or two; of HBM,
what the device-level code finds (R448). -/
def execScrub (s : State) : Res :=
  let n := poisonUnit s.hand.arg.a
  let key := s.hand.arg.a / n * n
  let hbm := spaceOf key != 0
  let x := if hbm then none else (s.core (coreOf key)).ctx
  let rep (s : State) (code fl id : Nat) : State :=
    s.errReport code ((if hbm then 0 else 2) + fl) x id (s.phys key) n (2 ^ 64 - 1) 0xFFFF 0 0
  let fixed := if hbm then 2 else 1
  match s.injAt key n with
  | some j =>
    let ctl := ((s.core j).cv 0x031).toNat
    let s := s.modCore j (fun k => k.setCv 0x031 (BitVec.ofNat 64 (setFld (setFld ctl 0 1 0) 9 1 1)))
    let (id, s) := s.newErrId
    .next (rep s (if fld ctl 8 1 = 0 then fixed else 3) 1 id)
  | none =>
    match s.poisoned key n with
    | some (_, id) => .next (rep s 4 0 id)
    | none =>
      if s.hand.arg.b = 0 then .next s
      else
        let (id, s) := s.newErrId
        if s.hand.arg.b = 1 then .next (rep s fixed 0 id)
        else .next (rep { s with poison := mapPut s.poison key id } 3 0 id)

end Sys2Proof.Machine
end

