-- ==== Sys2Proof/Machine/Island.lean ====
section
/-! DEFINITION. The island's own life (R422 to R432, R475 to R482): boot, endpoints, split reset, power, throttling and
attestation. -/

namespace Sys2Proof.Machine

/-- Does the island route (R423)? -/
def State.islUp (s : State) : Bool :=
  match s.isl.st with
  | .active => true
  | .degraded => true
  | _ => false

/-- A command that is not accepted in the current state writes a log record with code 7 (R422). -/
def State.cmdRefused (s : State) (socket core : Nat) : State := s.islLog 7 socket core s.isl.coord 0 0

/-! ## A passenger loses its state (R428, R429) -/

/-- The cores of a socket that the state lists. -/
def State.socketCores (s : State) (k : Nat) : List Nat := (s.cores.filter (fun p => socketOf p.1 == k)).map (·.1)

/-- A core of a die that is reset: its unit ends FAULTED with status 0xFFFF, the barriers it is a member of break, and it
holds back no other core (R429). -/
def State.loseCore (s : State) (c : Nat) : State :=
  let s := (s.core c).late.foldl (fun (s : State) (col : Nat) => s.endLate c col) (s.unstop c)
  let s := match (s.core c).atRealign with
    | some _ => s.leaveRealign (s.core c).launch (dieOf c)
    | none => s
  let s := s.barMemberLost c 3
  let k := s.core c
  let over_ : Bool := match k.unit with
    | .none | .done | .cancelled => true
    | _ => false
  let s := s.modLaunch k.launch (fun l =>
    { l with loads := mapDel l.loads c, ended := if over_ then l.ended else mapPut l.ended k.unitNo (.none, 0xFFFF) })
  s.setCore c { Core.reset with
    serial := k.serial, opId := k.opId, ctx := k.ctx, launch := k.launch, unitNo := k.unitNo
    unit := if over_ then k.unit else .none }

/-- Does a message answer a request? -/
def MsgBody.isReply : MsgBody → Bool
  | .data .. => true
  | .ack .. => true
  | .atomicOld .. => true
  | .followReply _ => true
  | .dealt .. => true
  | .migrReply .. => true
  | _ => false

/-- The cores of a die take core reset, and its SRAMs, tags, line words and WRITTEN bits are written zero (R428). -/
def State.dieReset (s : State) (k : Nat) : State :=
  let s := (s.socketCores k).foldl State.loseCore s
  let here (key : Nat) : Bool := spaceOf key == 0 && socketOf (coreOf key) == k
  let d := if k < 8 then k else k - 8
  let toIt (m : Msg) : Bool := m.body.isReply && decide (m.dst < 4144) && socketOf m.dst == k
  { s with
    mem := s.mem.filter (fun p => !here p.1), tags := s.tags.filter (fun g => !here (16 * g))
    written := s.written.filter (fun g => !here (128 * g)), poison := s.poison.filter (fun p => !here p.1)
    lines := s.lines.filter (fun p => !here (128 * p.1)), owners := s.owners.filter (fun p => !here (8 * p.1))
    pops := s.pops.filter (fun p => p.2.die != d), lltlb := mapDel s.lltlb d, msgs := s.msgs.filter (fun m => !toIt m) }

/-- A passenger without power: a die is reset, and a stack's bytes are gone. -/
def State.powerDown (s : State) (k : Nat) : State :=
  if k < 8 ∨ 16 ≤ k then s.dieReset k
  else
    let here (key : Nat) : Bool := spaceOf key == 1 && key % 2 ^ 42 / 4096 % 8 == k - 8
    { s with mem := s.mem.filter (fun p => !here p.1), poison := s.poison.filter (fun p => !here p.1) }

/-! ## Endpoints (R424, R426) -/

/-- The requests held for a socket are delivered in the order they came (R426). -/
def State.releaseHeld (s : State) (k : Nat) : State :=
  let l := ((s.ep k).held.zipIdx).map (fun p => { p.1 with due := s.clk + p.2 })
  let s := s.modEp k (fun e => { e with held := [] })
  { s with msgs := s.msgs ++ l }

/-- A request held for a socket receives DIE_DOWN. -/
def State.refuseOne (s : State) (m : Msg) : State :=
  let s := { s with hand := { s.hand with core := m.dst } }
  match m.body.req with
  | some r => (s.dieDown m.dst r.src r.phys).refuse r m.body 1
  | none =>
    match m.body with
    | .migr asker id .. => (s.dieDown m.dst asker (s.phys (coreKey m.dst 0))).migrAnswer asker id 5 (s.phys (coreKey m.dst 0))
    | _ => s

/-- Every request held for a socket receives DIE_DOWN (R426). -/
def State.refuseHeld (s : State) (k : Nat) : State :=
  let l := (s.ep k).held
  l.foldl State.refuseOne (s.modEp k (fun e => { e with held := [] }))

/-- An endpoint becomes ORPHANED with a CAUSE other than RESETTING (R424). -/
def State.orphan (s : State) (k cause : Nat) : State :=
  (s.modEp k (fun e => { e with st := .orphaned, cause := cause, step := 0, tries := 0, limitAt := none })).refuseHeld k

/-- Steps 4 and 5 of R428 begin: the die is reset, and its retraining follows. -/
def State.resetDie (s : State) (k : Nat) : State :=
  let (l, s) := s.draw
  (s.dieReset k).modEp k (fun e => { e with step := 4, limitAt := some (s.clk + l) })

/-- Step 3 of R428: the endpoint is ORPHANED with CAUSE RESETTING. -/
def State.drainEnd (s : State) (k : Nat) : State :=
  (s.modEp k (fun e => { e with st := .orphaned, cause := 1 })).resetDie k

/-- Is a message a response that a die owes to another (R428)? -/
def owedBy (k : Nat) (m : Msg) : Bool :=
  m.body.isReply && decide (m.src < 4144) && socketOf m.src == k && (decide (4144 ≤ m.dst) || socketOf m.dst != k)

/-- Does a die still owe the end of a MIGR that another die or package asked for? -/
def State.owesMigr (s : State) (c : Nat) : Bool :=
  match (s.core c).incoming with
  | some x => x.migr && (decide (8192 ≤ x.asker) || socketOf x.asker != socketOf c)
  | none => false

/-- Has a die returned what it owes? -/
def State.dieDrained (s : State) (k : Nat) : Bool :=
  s.msgs.all (fun m => !owedBy k m) && (s.socketCores k).all (fun c => !s.owesMigr c)

/-- SPLIT_RESET (R424, R428) of a socket, asked for by a core or, 0xFFFF, the host. -/
def State.splitReset (s : State) (k core : Nat) : State :=
  let e := s.ep k
  if !s.islUp ∨ 8 ≤ k then s.cmdRefused k core
  else if e.st = .active ∧ e.step = 0 then s.modEp k (fun e => { e with step := 1, limitAt := some (s.clk + 12500) })
  else if e.st = .orphaned ∧ e.cause = 2 ∧ e.step = 0 then s.resetDie k
  else s.cmdRefused k core

/-- SPLIT_RESET: `ix` is the socket. -/
def execSplitReset (s : State) : Res := .next (s.splitReset s.hand.arg.ix 0xFFFF)

/-- SPLIT_DRAIN_TIMEOUT (R428): what the die still owes is answered DIE_DOWN. -/
def execSplitDrainTimeout (s : State) : Res :=
  let k := s.hand.arg.ix
  if (s.ep k).step ≠ 1 then .next s
  else
    let fail (b : MsgBody) : MsgBody := match b with
      | .data m .. => .data m [] false [] 1
      | .ack m .. => .ack m false true
      | .atomicOld m .. => .atomicOld m 0 0 1
      | .migrReply id _ addr => .migrReply id 5 addr
      | b => b
    let owed := s.msgs.filter (owedBy k)
    let s := owed.foldl (fun (s : State) (m : Msg) => s.dieDown m.src m.dst (match m.body with
      | .data r .. => r.phys
      | .ack r .. => r.phys
      | .atomicOld r .. => r.phys
      | _ => s.phys (coreKey m.src 0))) s
    let s := { s with msgs := s.msgs.map (fun m => if owedBy k m then { m with body := fail m.body } else m) }
    let s := ((s.socketCores k).filter s.owesMigr).foldl (fun (s : State) (c : Nat) =>
      match (s.core c).incoming with
      | some x =>
        let a := s.phys (coreKey c 0)
        (({ s with hand := { s.hand with core := c } }.dieDown c x.asker a).modCore c (fun k =>
          { k with incoming := none })).migrAnswer x.asker x.id 5 a
      | none => s) s
    .next (s.drainEnd k)

/-- POWER_OFF (R424). -/
def State.powerOff (s : State) (k core : Nat) : State :=
  match (s.ep k).st with
  | .active => if s.islUp then (s.orphan k 3).powerDown k else s.cmdRefused k core
  | .orphaned => if s.islUp then (s.orphan k 3).powerDown k else s.cmdRefused k core
  | _ => s.cmdRefused k core
/-- POWER_OFF: `ix` is the socket. -/
def execPowerOff (s : State) : Res := .next (s.powerOff s.hand.arg.ix 0xFFFF)

/-- POWER_ON (R424): the passenger is powered and held in reset. -/
def State.powerOn (s : State) (k core : Nat) : State :=
  let e := s.ep k
  let ok := decide (k < 18) && ((e.st == .absent && s.isl.st == .active) ||
    (e.st == .orphaned && s.islUp && e.step == 0 && (e.cause == 2 || e.cause == 3 || e.cause == 4)))
  if !ok then s.cmdRefused k core
  else
    let (l, s) := s.draw
    (s.powerDown k).modEp k (fun e => { e with st := .reset, cause := 0, step := 0, tries := 0, limitAt := some (s.clk + l) })
/-- POWER_ON: `ix` is the socket. -/
def execPowerOn (s : State) : Res := .next (s.powerOn s.hand.arg.ix 0xFFFF)

/-- ENDPOINT_RESET_RELEASE (R424): training begins. -/
def execEndpointResetRelease (s : State) : Res :=
  let k := s.hand.arg.ix
  if (s.ep k).st = .reset then .next (s.modEp k (fun e => { e with st := .linkup, tries := 0, limitAt := none })) else .next s

/-- ENDPOINT_TRAINING_DONE (R424, R426): the endpoint is ACTIVE, and what was held for it is delivered. -/
def execEndpointTrainingDone (s : State) : Res :=
  let k := s.hand.arg.ix
  if (s.ep k).st = .linkup then
    .next ((s.modEp k (fun e => { e with st := .active, cause := 0, step := 0, tries := 0 })).releaseHeld k)
  else .next s

/-- ENDPOINT_TRAINING_FAIL (R424): the third failed attempt orphans the endpoint with CAUSE TRAIN. -/
def execEndpointTrainingFail (s : State) : Res :=
  let k := s.hand.arg.ix
  let e := s.ep k
  if e.st ≠ .linkup then .next s
  else if e.tries + 1 < 3 then .next (s.modEp k (fun e => { e with tries := e.tries + 1 }))
  else .next (s.orphan k 4)

/-- HEARTBEAT_TIMEOUT (R424): CAUSE HUNG, and a log record with code 2. -/
def execHeartbeatTimeout (s : State) : Res :=
  let k := s.hand.arg.ix
  if (s.ep k).st = .active then .next ((s.orphan k 2).islLog 2 k 0xFFFF 0 0 0) else .next s

/-- MESH_LINK_FAIL (R423, R432): the failed path `ix` is taken out of use. -/
def execMeshLinkFail (s : State) : Res :=
  if !s.islUp then .next s
  else .next (s.modIsl (fun i => { i with st := .degraded, links := setAdd i.links s.hand.arg.ix }))

/-- What comes next for an endpoint. -/
def epStep (s : State) (k : Nat) : Agenda :=
  let e := s.ep k
  let past : Bool := match e.limitAt with
    | some t => decide (t ≤ s.clk)
    | none => false
  let ev (i : Instr) : Agenda := some ({ s with hand := { Hand.empty with arg := { Arg.empty with ix := k } } }, [i])
  if e.step = 1 then (if s.dieDrained k then some (s.drainEnd k, []) else if past then ev .splitDrainTimeout else none)
  else if e.step = 4 ∧ past then
    some (s.modEp k (fun e => { e with st := .linkup, cause := 0, step := 0, tries := 0, limitAt := none }), [])
  else if e.st = .reset ∧ past then ev .endpointResetRelease
  else none

/-! ## The island (R423, R430, R475 to R478) -/

/-- Every part of the package as after its reset; time, what comes from outside and what has left stay. -/
def State.reboot (s : State) : State :=
  { State.reset with clk := s.clk, inputs := s.inputs, outbox := s.outbox, free := s.free, nextLaunch := s.nextLaunch }

/-- V_ISL_UP (R423). -/
def execVIslUp (s : State) : Res :=
  match s.isl.st with
  | .off => .next s.reboot
  | _ => .next s

/-- V_ISL_REMOVED (R423): every passenger loses power. -/
def execVIslRemoved (s : State) : Res := .next (s.reboot.modIsl (fun i => { i with st := .off }))

/-- ISLAND_RESET (R430): accepted when every endpoint is ABSENT, or ORPHANED with CAUSE OFF. -/
def State.islandReset (s : State) (core : Nat) : State :=
  let gone (k : Nat) : Bool := (s.ep k).st == .absent || ((s.ep k).st == .orphaned && (s.ep k).cause == 3)
  if s.islUp && (List.range 18).all gone then s.reboot else s.cmdRefused 0xFF core
/-- ISLAND_RESET. -/
def execIslandReset (s : State) : Res := .next (s.islandReset 0xFFFF)

/-- Boot's first three steps (R475): the firmware, and the passengers' power, or the step that fails. -/
def bootStep (s : State) : Agenda :=
  if s.isl.st ≠ .boot ∨ s.isl.bootStep ≠ 1 ∨ s.isl.bootErr ≠ 0 then none
  else
    let n := Config.bootFinds s.free
    let t := { s with free := s.free + 1 }
    if n = 1 ∨ n = 2 then some (t.modIsl (fun i => { i with bootErr := n }), [])
    else
      let t := t.modIsl (fun i => { i with bootStep := 4, fwver := Config.firmwareVersion.toNat })
      some ({ t with eps := (List.range 18).foldl (fun m d => mapPut m d { Endpoint.reset with st := .active }) [] }, [])

/-- BOOT_CTL written with GO (R475, R477, R478, R499): discovery, and the island ACTIVE with CLK at 0; or BOOTERR 3. -/
def State.goBoot (s : State) (coord : Nat) : State :=
  if s.isl.st ≠ .boot ∨ s.isl.bootStep ≠ 4 ∨ s.isl.bootErr ≠ 0 then s
  else
    let n := Config.bootFinds s.free
    let s := { s with free := s.free + 1 }.modIsl (fun i => { i with coord := coord % 2 ^ 20 })
    if 95 < fld s.isl.torus 0 7 ∨ !s.chipInstalled (chipField coord) ∨ n = 3 then s.modIsl (fun i => { i with bootErr := 3 })
    else
      let t := s.clk
      s.modIsl (fun i => { i with st := .active, bootStep := 6, clkAt := t })

/-- GO (R477): `a` is COORD. -/
def execGo (s : State) : Res := .next (s.goBoot s.hand.arg.a)

/-! ## Power and attestation (R480, R482) -/

/-- THERMAL_THROTTLE (R482): with `a` not 0 the freezes of one clk in eight begin, else they end. -/
def execThermalThrottle (s : State) : Res := .next (s.modIsl (fun i => { i with hot := s.hand.arg.a != 0 }))

/-- OVERTEMP_POWER_OFF (R482): at 115 °C the die `ix` is powered off, and the log has a record with code 2. -/
def execOvertempPowerOff (s : State) : Res :=
  let k := s.hand.arg.ix
  if (s.ep k).st = .active ∨ (s.ep k).st = .orphaned then .next (((s.orphan k 3).powerDown k).islLog 2 k 0xFFFF 0 0 0) else .next s

/-- The report of R480, drawn with a number. -/
def State.attReport (s : State) (n : Nat) : List Byte :=
  let part (i j : Nat) : List Byte := (List.range j).map (fun k => Config.attestByte (i + k))
  ((List.range 4).map (fun i => leBytes 8 (mapGetD s.isl.nonce i 0).toNat)).flatten ++ part 0 64 ++ part 64 8 ++
    leBytes 1 (if Config.smallPart then 1 else 0) ++ leBytes 1 0 ++ leBytes 2 s.isl.fwver ++ part 72 4 ++ part 76 57 ++
    zeros 7 ++ (List.range 114).map (Config.attestSignature n) ++ zeros 30

/-- A handle word of the physical function written to ATT_CMD (R480). -/
def State.attest (s : State) (w : Nat) : State :=
  match s.handleSide 0 (BitVec.ofNat 64 w) 320 true with
  | .error _ => s
  | .ok (a, _) => if s.placeLost a 320 then s else { s with free := s.free + 1 }.devWrite a (s.attReport s.free)

/-- ATT_CMD (R480): `a` is the handle word. -/
def execAttCmd (s : State) : Res := .next (s.attest s.hand.arg.a)

end Sys2Proof.Machine
end

