-- ==== Sys2Proof/Machine/Link.lean ====
section
/-! DEFINITION. The Birdar ports (R434 to R439, R446) and the collectives (R440 to R445). How a request or a response to
another package is packed into flits is not given: those leave and come whole (log entry 5). -/

namespace Sys2Proof.Machine

/-! ## Flits (R434) -/

/-- CRC-32C. -/
def crc32c (l : List Byte) : Nat :=
  let bit (c _ : Nat) : Nat := if c % 2 = 1 then (c / 2) ^^^ 0x82F63B78 else c / 2
  (l.foldl (fun c b => (List.range 8).foldl bit (c ^^^ b.toNat)) 0xFFFFFFFF) ^^^ 0xFFFFFFFF

/-- Header and payload of a flit. -/
def flitBody (ty dst src vc : Nat) (payload : List Byte) : List Byte :=
  leBytes 8 (ty % 256 * 2 ^ 56 + dst % 2 ^ 20 * 2 ^ 36 + src % 2 ^ 20 * 2 ^ 16 + vc % 16 * 2 ^ 12 +
    (payload.length + 7) / 8 % 32 * 2 ^ 7) ++ padTo 240 payload

/-- A flit: CRC and sequence number after header and payload. -/
def flitSeal (body : List Byte) (seq : Nat) : List Byte := body ++ leBytes 4 (crc32c body) ++ leBytes 4 seq

/-- The number of a flit that has none yet. -/
def noSeq : Nat := 2 ^ 32

/-- Does one sequence number come before another, modulo 2^32? -/
def seqBefore (a b : Nat) : Bool := a != b && decide ((b + 2 ^ 32 - a) % 2 ^ 32 < 2 ^ 31)

/-- The chip a port leads to. -/
def State.neighbour (s : State) (p : Nat) : Nat :=
  let go (lo w ext : Nat) : Nat :=
    let n := ext + 1
    let x := fld s.isl.coord lo w
    setFld s.isl.coord lo w ((x + (if p % 2 = 0 then 1 else n - 1)) % n)
  match p / 2 with
  | 0 => go 0 7 (fld s.isl.torus 0 7)
  | 1 => go 7 6 (fld s.isl.torus 7 6)
  | _ => go 13 7 (fld s.isl.torus 13 7)

/-! ## Sending (R435, R446) -/

def Port.up (q : Port) : Bool :=
  match q.st with
  | .active => true
  | .degraded => true
  | _ => false

/-- A flit waits for the line, numbered ones before the others. -/
def Port.hold (q : Port) (f : FlitRec) : Port :=
  if f.seq = noSeq then { q with heldOut := q.heldOut ++ [f] }
  else
    let has (g : FlitRec) : Bool := g.seq != noSeq
    { q with heldOut := q.heldOut.takeWhile has ++ f :: q.heldOut.dropWhile has }

/-- A numbered flit goes out on the line, and through the injectors of the lanes in use; a DELAY counts ic, of 5/8 clk (R4). -/
def State.sendNow (s : State) (p : Nat) (f : FlitRec) : State :=
  let q := s.port p
  let reg (i : Nat) : Nat := (mapGetD q.linj i 0).toNat
  let armed := (List.range q.lanes).filter (fun i => fld (reg i) 63 1 == 1)
  let cnt (i : Nat) : Nat := mapGetD q.linjCnt i 0 + 1
  let s := s.modPort p (fun q => { q with linjCnt := armed.foldl (fun m i => mapPut m i (cnt i)) q.linjCnt })
  match armed.find? (fun i => decide (max 1 (fld (reg i) 0 32) ≤ cnt i)) with
  | none => s.emit .flit p f.seq (flitSeal f.bytes f.seq)
  | some i =>
    let s := s.modPort p (fun q => { q with linj := mapPut q.linj i (BitVec.ofNat 64 (setFld (reg i) 63 1 0)) })
    let s := s.islLog 6 p 0xFFFF 0 0 0
    match fld (reg i) 61 2 with
    | 0 => { s with free := s.free + 1 }.emit .flit p f.seq (Config.corruptFlit s.free)
    | 1 => s
    | 2 =>
      let t := s.clk + (5 * fld (reg i) 32 16 + 7) / 8
      s.modPort p (fun q => { q.hold { f with vc := f.vc + 16 } with busyTo := t })
    | _ => s.emit .flit p f.seq (flitSeal f.bytes f.seq)

/-- A numbered flit is sent, or waits behind what waits. -/
def State.transmit (s : State) (p : Nat) (f : FlitRec) : State :=
  let q := s.port p
  if s.clk < q.busyTo ∨ q.heldOut.any (fun g => g.seq != noSeq) then s.modPort p (fun q => q.hold f) else s.sendNow p f

/-- A new flit takes the next number, enters the replay buffer and is sent. -/
def State.pushFlit (s : State) (p vc : Nat) (body : List Byte) : State :=
  let f : FlitRec := ⟨(s.port p).sendSeq, vc, body⟩
  (s.modPort p (fun q => { q with sendSeq := (q.sendSeq + 1) % 2 ^ 32, replay := q.replay ++ [f] })).transmit p f

/-- A new flit: held while the replay buffer is full or the port does not send. -/
def State.sendFlit (s : State) (p vc : Nat) (body : List Byte) : State :=
  let q := s.port p
  if !q.operating then s
  else if q.up ∧ q.replay.length < 256 ∧ q.heldOut.isEmpty ∧ q.busyTo ≤ s.clk then s.pushFlit p vc body
  else s.modPort p (fun q => q.hold ⟨noSeq, vc, body⟩)

/-- What a port holds goes on when it can. -/
def portStep (s : State) (p : Nat) : Agenda :=
  let q := s.port p
  if !q.up ∨ s.clk < q.busyTo then none
  else match q.heldOut with
    | [] => none
    | f :: rest =>
      let t := s.modPort p (fun q => { q with heldOut := rest })
      if f.seq = noSeq then (if q.replay.length < 256 then some (t.pushFlit p f.vc f.bytes, []) else none)
      else if 16 ≤ f.vc then some (t.emit .flit p f.seq (flitSeal f.bytes f.seq), [])
      else some (t.sendNow p f, [])

/-- A flit of the port's own control: acknowledge (5) or negative acknowledge (6), carrying a number. -/
def State.sendControl (s : State) (p ty n : Nat) : State :=
  s.sendFlit p 3 (flitBody ty (s.neighbour p) s.isl.coord 3 (leBytes 8 n))

/-! ## The states of a port (R436 to R438) -/

/-- The codes of PORT_STATUS. -/
def PortState.code : PortState → Nat
  | .down => 0
  | .training => 1
  | .active => 2
  | .retrain => 3
  | .widthChange => 4
  | .degraded => 5
  | .failed => 6

/-- The width a port takes with some lanes usable (R436, R439); 0 when fewer than 2 are. -/
def Port.width (q : Port) (lanes : Nat) : Nat :=
  let cap := match q.widthReq with
    | 2 => 4
    | 3 => 2
    | _ => 8
  let m := min lanes cap
  if 8 ≤ m then 8 else if 4 ≤ m then 4 else if 2 ≤ m then 2 else 0

/-- The socket of the I/O die that carries a port. -/
def portSocket (p : Nat) : Nat := if p < 3 then 16 else 17

/-- FREQ begins on a die (R438): its clock, and the clk of its beginning. -/
def State.startFreq (s : State) (k mhz : Nat) : State :=
  let t := s.clk
  s.modIsl (fun i => { i with freq := mapPut i.freq k (t * 65536 + mhz % 65536) })

/-- A FREQ that a port has held back begins. -/
def State.freeFreq (s : State) (p : Nat) : State :=
  match (s.port p).freqHeld with
  | some mhz => (s.modPort p (fun q => { q with freqHeld := none })).startFreq (portSocket p) mhz
  | none => s

/-- A port operates at a width; what is not acknowledged is sent again. -/
def State.portReady (s : State) (p width : Nat) : State :=
  let s := s.modPort p (fun q => { q with st := if width = 8 then .active else .degraded, lanes := width, tries := 0 })
  let s := ((s.port p).replay).foldl (fun (s : State) (f : FlitRec) => s.transmit p f) s
  s.freeFreq p

/-- A message of a core that waits for another package receives a response error, when its way is lost. -/
def State.loseMsg (s : State) (p : Nat) (m : Msg) : State :=
  let via (f : Nat) : Bool := s.routePort f == some p
  if m.dst ≠ toChip then s
  else match m.body.req with
    | some r =>
      if via (r.phys / 2 ^ 44) then { s.dropMsg m with hand := { s.hand with core := m.src } }.refuse r m.body 1 else s
    | none =>
      match m.body with
      | .migr f id .. => if via f then (s.dropMsg m).sendFree m.src (.migrReply id 5 (f * 2 ^ 44)) else s
      | _ => s

/-- A port that was operating enters FAILED or DOWN (R436). -/
def State.portLost (s : State) (p old : Nat) : State :=
  let s : State := s.msgs.foldl (fun (s : State) (m : Msg) => s.loseMsg p m) s
  let via (a : Ask) : Bool := s.routePort (a.phys / 2 ^ 44) == some p
  let ext : List (Nat × Option (List Byte)) := (s.asks.filter via).foldl (fun m a => mapPut m a.phys none) s.ext
  let s : State := { s with asks := s.asks.filter (fun a => !via a), ext := ext }
  let far (b : Nat × Barrier) : Bool := b.2.kind == 3 && decide (1 < b.2.p)
  let s : State := (s.barriers.filter far).foldl (fun (s : State) (b : Nat × Barrier) => s.barBreak b.1 6) s
  let s := s.modPort p (fun q => { q with replay := [], heldOut := [], values := [], discard := false, widthHeld := false })
  (List.range 8).foldl (fun (s : State) (i : Nat) =>
    if (s.core (4096 + 8 * p + i)).unit = .running then
      s.modCore (4096 + 8 * p + i) (fun k =>
        { k with pend := { k.pend with link := some (k.pend.link.getD ⟨causeLINK, 0, p + 16 * old, 0, true⟩) } })
    else s) s

/-- A port leaves its state for FAILED or DOWN. -/
def State.portLeave (s : State) (p failr : Nat) (st : PortState) : State :=
  let q := s.port p
  let s := s.modPort p (fun q => { q with st := st, failr := if failr = 0 then q.failr else failr, tries := 0, lanes := 0 })
  let s := if q.operating then s.portLost p q.st.code else s
  s.freeFreq p

/-- PORT_CTL.EN := 1. -/
def State.portEnable (s : State) (p : Nat) : State :=
  let s := s.modPort p (fun q => { q with en := true })
  if (s.port p).st = .down ∧ s.islUp then s.modPort p (fun q => { q with st := .training, tries := 0 }) else s
/-- PORT_ENABLE (R436): `ix` is the port. -/
def execPortEnable (s : State) : Res := .next (if s.hand.arg.ix < 6 then s.portEnable s.hand.arg.ix else s)

/-- PORT_CTL.EN := 0. -/
def State.portDisable (s : State) (p : Nat) : State :=
  (s.modPort p (fun q => { q with en := false })).portLeave p 0 .down
/-- PORT_DISABLE (R436). -/
def execPortDisable (s : State) : Res := .next (if s.hand.arg.ix < 6 then s.portDisable s.hand.arg.ix else s)

/-- A width change begins. -/
def State.startWidth (s : State) (p : Nat) : State :=
  if (s.port p).up then s.modPort p (fun q => { q with st := .widthChange, widthHeld := false })
  else s.modPort p (fun q => { q with widthHeld := false })

/-- PORT_CTL.WIDTH written (R436, R438): held during a FREQ of the die, but for one of the same clk, which waits for it. -/
def State.widthRequest (s : State) (p code : Nat) : State :=
  let s := s.modPort p (fun q => { q with widthReq := code % 4 })
  if !(s.port p).up then s
  else match mapGet s.isl.freq (portSocket p) with
    | none => s.startWidth p
    | some v =>
      if v / 65536 = s.clk then
        ((s.modIsl (fun i => { i with freq := mapDel i.freq (portSocket p) })).modPort p (fun q =>
          { q with freqHeld := some (v % 65536) })).startWidth p
      else s.modPort p (fun q => { q with widthHeld := true })
/-- PORT_WIDTH_REQUEST (R436): `ix` is the port, `a` the code of PORT_CTL.WIDTH. -/
def execPortWidthRequest (s : State) : Res := .next (if s.hand.arg.ix < 6 then s.widthRequest s.hand.arg.ix s.hand.arg.a else s)

/-- PORT_TRAINING_DONE (R436, R437): `a` lanes are trained, and the peer offers versions `b` [7:0] to [15:8]. -/
def execPortTrainingDone (s : State) : Res :=
  let p := s.hand.arg.ix
  let q := s.port p
  if q.st ≠ .training then .next s
  else
    let lo := max q.vmin (fld s.hand.arg.b 0 8)
    let hi := min q.vmax (fld s.hand.arg.b 8 8)
    let w := q.width s.hand.arg.a
    if hi < lo then .next (s.portLeave p 1 .failed)
    else if w = 0 then .next (s.portLeave p 2 .failed)
    else
      let s := s.modPort p (fun q =>
        { q with ver := hi, sendSeq := 0, recvSeq := 0, since := 0, replay := [], heldOut := [], again := (0, 0), discard := false })
      let s := s.portReady p w
      .next (s.islLog 5 p 0xFFFF 0 0 ((s.port p).st.code + 256 * PortState.training.code))

/-- PORT_TRAINING_FAIL (R436): the third failed attempt. -/
def execPortTrainingFail (s : State) : Res :=
  let p := s.hand.arg.ix
  let q := s.port p
  if q.st ≠ .training then .next s
  else if q.tries + 1 < 3 then .next (s.modPort p (fun q => { q with tries := q.tries + 1 }))
  else .next (s.portLeave p 2 .failed)

/-- A port retrains. -/
def State.portRetrain (s : State) (p : Nat) : State :=
  if (s.port p).up then s.modPort p (fun q => { q with st := .retrain, retrains := q.retrains + 1, tries := 0 }) else s
/-- LANE_LOSS_OF_LOCK (R436). -/
def execLaneLossOfLock (s : State) : Res := .next (s.portRetrain s.hand.arg.ix)
/-- LANE_ERROR_RATE (R436): the port changes width. -/
def execLaneErrorRate (s : State) : Res := .next (s.startWidth s.hand.arg.ix)

/-- A retrain of a port fails (R436): the third ends in FAILED. -/
def State.retrainFails (s : State) (p : Nat) : State :=
  let q := s.port p
  if q.st ≠ .retrain then s
  else if q.tries + 1 < 3 then s.modPort p (fun q => { q with tries := q.tries + 1 })
  else s.portLeave p 3 .failed

/-- RETRAIN_DONE (R436): `a` lanes are usable; the version is kept. With fewer than two lanes it has failed. -/
def execRetrainDone (s : State) : Res :=
  let p := s.hand.arg.ix
  let q := s.port p
  if q.st ≠ .retrain then .next s
  else if q.width s.hand.arg.a = 0 then .next (s.retrainFails p)
  else .next (s.portReady p (q.width s.hand.arg.a))

/-- RETRAIN_FAIL (R436). -/
def execRetrainFail (s : State) : Res := .next (s.retrainFails s.hand.arg.ix)

/-- WIDTH_CHANGE_DONE (R436): `a` lanes are usable. With fewer than two no width is trained, and the port goes on trying. -/
def execWidthChangeDone (s : State) : Res :=
  let p := s.hand.arg.ix
  let q := s.port p
  if q.st ≠ .widthChange ∨ q.width s.hand.arg.a = 0 then .next s
  else .next (s.portReady p (q.width s.hand.arg.a))

/-- FREQ (R422, R438, R482): on a compute die only while none of its cores is bound; held while a port of an I/O die is in
WIDTH_CHANGE or RETRAIN. -/
def State.freqCmd (s : State) (k mhz core : Nat) : State :=
  if !s.islUp ∨ 18 ≤ k ∨ (k < 8 ∧ (s.socketCores k).any (fun c => (s.core c).launch != 0)) then s.cmdRefused k core
  else match (List.range 6).find? (fun p => portSocket p == k && ((s.port p).st == .widthChange || (s.port p).st == .retrain)) with
    | some p => s.modPort p (fun q => { q with freqHeld := some mhz })
    | none => s.startFreq k mhz
/-- FREQ: `ix` is the socket, `a` the clock in MHz. -/
def execFreq (s : State) : Res := .next (s.freqCmd s.hand.arg.ix s.hand.arg.a 0xFFFF)

/-- FREQ_COMPLETE (R438): the clock of the die `ix` is changed, and width changes held behind it begin. -/
def execFreqComplete (s : State) : Res :=
  let k := s.hand.arg.ix
  match mapGet s.isl.freq k with
  | none => .next s
  | some v =>
    let s := s.modIsl (fun i => { i with freq := mapDel i.freq k, mhz := mapPut i.mhz k (v % 65536) })
    let ports := (List.range 6).filter (fun p => portSocket p == k && (s.port p).widthHeld)
    .next (ports.foldl (fun (s : State) (p : Nat) => s.startWidth p) s)

/-- LINJ written (R446): `ix` is the port, `a` the lane, `b` the value; ARM starts its count. -/
def State.linjWrite (s : State) (p lane v : Nat) : State :=
  let w := setFld v 48 13 0
  s.modPort p (fun q =>
    { q with linj := mapPut q.linj lane (BitVec.ofNat 64 w),
             linjCnt := if fld w 63 1 = 1 then mapPut q.linjCnt lane 0 else q.linjCnt })
/-- LINJ_ARM (R446). -/
def execLinjArm (s : State) : Res :=
  .next (if s.hand.arg.ix < 6 ∧ s.hand.arg.a < 8 then s.linjWrite s.hand.arg.ix s.hand.arg.a s.hand.arg.b else s)

/-! ## Collectives (R440 to R445) -/

def Coll.en (e : Coll) : Bool := fld e.ctl.toNat 0 1 == 1
def Coll.fmt (e : Coll) : Fmt := Fmt.ofCode (fld e.ctl.toNat 8 4)
def Coll.home (e : Coll) : Nat := fld e.ctl.toNat 4 4
/-- NBLK; 0 is read as 65,536, the most there are. -/
def Coll.nblk (e : Coll) : Nat := if fld e.ctl.toNat 32 32 = 0 then 65536 else min 65536 (fld e.ctl.toNat 32 32)
/-- The first chip of the box, and its extents minus one, each as x, y, z. -/
def Coll.origin (e : Coll) : Nat × Nat × Nat := (fld e.box.toNat 0 7, fld e.box.toNat 7 6, fld e.box.toNat 13 7)
def Coll.extent (e : Coll) : Nat × Nat × Nat := (fld e.box.toNat 53 7, fld e.box.toNat 47 6, fld e.box.toNat 40 7)
/-- The participants, by ascending x, then y, then z (R442), in the layout of CHIP_COORD. -/
def Coll.chips (e : Coll) : List Nat :=
  let (x, y, z) := e.origin
  let (a, b, c) := e.extent
  (List.range (a + 1)).flatMap (fun i => (List.range (b + 1)).flatMap (fun j => (List.range (c + 1)).map (fun k =>
    x + i + (y + j) * 2 ^ 7 + (z + k) * 2 ^ 13)))
/-- Does the box lie in one load-store domain, and in the torus, and hold a chip? -/
def Coll.boxOk (e : Coll) (coord : Nat) : Bool :=
  let (x, y, z) := e.origin
  let (a, b, c) := e.extent
  let ok (lo ext me : Nat) : Bool := lo / 8 == (lo + ext) / 8 && decide (lo ≤ me) && decide (me ≤ lo + ext)
  ok x a (fld coord 0 7) && ok y b (fld coord 7 6) && ok z c (fld coord 13 7)

/-- The blocks delivered to gateway core j, the place in the box's order, and whether the values have gone. -/
def Coll.place (e : Coll) (j : Nat) : Nat × (Nat × Bool) := mapGetD e.places j (0, (0, false))
/-- The lowest block that is not delivered whole. -/
def Coll.next (e : Coll) : Nat :=
  (List.range 8).foldl (fun n j => min n (8 * (e.place j).1 + j)) e.nblk
/-- Has a shard been delivered? -/
def Coll.delivered (e : Coll) (b src : Nat) : Bool :=
  let (n, i, _) := e.place (b % 8)
  decide (b < 8 * n + b % 8) || (b == 8 * n + b % 8 && (e.chips.take i).contains src)
/-- Has a shard neither been delivered nor entered? -/
def Coll.lacks (e : Coll) (b src : Nat) : Bool := !e.delivered b src && e.shards.all (fun x => x.blk != b || x.src != src)

/-- The address field of a log record about a shard (R427). -/
def shardTag (c b src : Nat) : Nat := c + b % 65536 * 65536 + src * 2 ^ 44

/-- A shard comes to this package's block queue (R444); `data` is none when it is poisoned. -/
def State.shardArrive (s : State) (c b src : Nat) (data : Option (VBits × VBits)) (port : Nat) : State :=
  let e := s.coll c
  if !e.en ∨ e.broken ∨ e.nblk ≤ b ∨ !e.chips.contains src then s.islLog 8 0xFF 0xFFFF 0 (shardTag c b src) 0
  else if e.missing ∨ !e.lacks b src then s
  else match data with
    | some (v, n) => s.modColl c (fun e => { e with shards := e.shards ++ [⟨b, src, v, n⟩] })
    | none =>
      (s.islLog 3 port 0xFFFF 0 (shardTag c b src) 0).modColl c (fun e =>
        { e with shards := e.shards ++ [⟨b, src, absentBits e.fmt, 0⟩], poison := true })

/-- SHARD_ARRIVAL (R444): `ix` is the entry, `a` the block, `b` the source chip; 256 bytes, or none when it is poisoned. -/
def execShardArrival (s : State) : Res :=
  let a := s.hand.arg
  let data := if a.bytes.isEmpty then none else some (vOfBytes (a.bytes.take 128), vOfBytes (a.bytes.drop 128))
  .next (s.shardArrive a.ix a.a a.b data 0xFF)

/-- A shard goes to every participant (R441): here, and as two flits to each of the others. -/
def State.sendShard (s : State) (c b : Nat) (v n : VBits) : State :=
  let e := s.coll c
  let head := leBytes 2 c ++ leBytes 2 b ++ leBytes 1 (fld e.ctl.toNat 8 4) ++ zeros 11
  let s := s.modColl c (fun e => { e with written := setAdd e.written b })
  e.chips.foldl (fun (s : State) (x : Nat) =>
    if x = s.isl.coord then s.shardArrive c b x (some (v, n)) 0xFF
    else match s.routePort (chipField x) with
      | some p =>
        (s.sendFlit p 2 (flitBody 3 x s.isl.coord 2 (head ++ bytesOfV v))).sendFlit p 2
          (flitBody 4 x s.isl.coord 2 (head ++ bytesOfV n))
      | none => s) s

/-- A contribution of 256 bytes (R441), or its response error. -/
def State.contribute (s : State) (c b : Nat) (bytes : List Byte) : Option State :=
  let e := s.coll c
  if !e.en ∨ e.nblk ≤ b ∨ bytes.length ≠ 256 then none
  else some (s.sendShard c b (vOfBytes (bytes.take 128)) (vOfBytes (bytes.drop 128)))

/-- CONTRIBUTION_WRITE (R441): `ix` is the entry, `a` the block. -/
def execContributionWrite (s : State) : Res :=
  .next ((s.contribute s.hand.arg.ix s.hand.arg.a s.hand.arg.bytes).getD s)

/-- A vector enters a receive queue, when it has room (R259). -/
def State.rqPush (s : State) (c q : Nat) (x : VBits) : Option State :=
  let r := (s.core c).recvQ q
  if 16 ≤ r.vecs.length then none
  else some (s.modCore c (fun k => { k with rqs := mapPut k.rqs q { r with vecs := r.vecs ++ [x] } }))

/-- The next shard of gateway core j in order (R442). -/
def Coll.nextShard (e : Coll) (j : Nat) : Option Shard :=
  let (n, i, _) := e.place j
  let b := 8 * n + j
  if e.nblk ≤ b then none
  else match e.chips[i]? with
    | none => none
    | some src =>
      match e.shards.find? (fun x => x.blk == b && x.src == src) with
      | some x => some x
      | none => if e.missing then some ⟨b, src, absentBits e.fmt, 0⟩ else none

/-- Can the block queue deliver to gateway core j? -/
def State.shardReady (s : State) (c j : Nat) : Bool :=
  let e := s.coll c
  e.en && !e.broken && (e.nextShard j).isSome && decide (((s.core (4096 + 8 * e.home + j)).recvQ 7).vecs.length < 16)

/-- SHARD_DELIVERY (R442): the next vector for gateway core `a` of entry `ix`, values then counts. -/
def execShardDelivery (s : State) : Res :=
  let c := s.hand.arg.ix
  let j := s.hand.arg.a
  let e := s.coll c
  match e.nextShard j with
  | none => .next s
  | some x =>
    let (n, i, gone) := e.place j
    match (if s.shardReady c j then s.rqPush (4096 + 8 * e.home + j) 7 (if gone then x.cnts else x.vals) else none) with
    | none => .next s
    | some t =>
      let next : Nat × (Nat × Bool) :=
        if !gone then (n, (i, true)) else if i + 1 < e.chips.length then (n, (i + 1, false)) else (n + 1, (0, false))
      .next (t.modColl c (fun e =>
        { e with places := mapPut e.places j next,
                 shards := if gone then e.shards.filter (fun y => y.blk != x.blk || y.src != x.src) else e.shards }))

/-- COLLECTIVE_ENABLE (R440): a value of COLL_CTL with EN 1 starts an entry that is off, or fails. -/
def State.collEnable (s : State) (c v core : Nat) : State :=
  if (s.coll c).en then s
  else
    let w := setFld (setFld v 12 20 0) 1 3 0
    let e := { Coll.reset with ctl := BitVec.ofNat 64 w, box := (s.coll c).box, shot := (s.coll c).shot }
    if 5 < fld w 4 4 ∨ fld w 8 4 = 0 ∨ 3 < fld w 8 4 ∨ !e.boxOk s.isl.coord then
      (s.modColl c (fun _ => { e with ctl := BitVec.ofNat 64 (setFld w 0 1 0) })).cmdRefused 0xFF core
    else
      let t := s.ns + e.shot.toNat
      s.modColl c (fun _ => { e with endAt := if e.shot = 0 then none else some t })
/-- COLLECTIVE_ENABLE: `ix` is the entry, `a` the value of COLL_CTL. -/
def execCollectiveEnable (s : State) : Res :=
  .next (if s.hand.arg.ix < 16 then s.collEnable s.hand.arg.ix (setFld s.hand.arg.a 0 1 1) 0xFFFF else s)

/-- COLLECTIVE_ABANDON (R440): EN := 0; undelivered shards are discarded and the status is cleared. -/
def State.collAbandon (s : State) (c : Nat) : State :=
  s.modColl c (fun e => if e.en then
    { Coll.reset with ctl := BitVec.ofNat 64 (setFld e.ctl.toNat 0 1 0), box := e.box, shot := e.shot } else e)
/-- COLLECTIVE_ABANDON: `ix` is the entry. -/
def execCollectiveAbandon (s : State) : Res := .next (s.collAbandon s.hand.arg.ix)

/-- COLLECTIVE_SHOT_EXPIRY (R444, R445): what has not arrived enters as absent, but for halted sources, which break the
entry. -/
def execCollectiveShotExpiry (s : State) : Res :=
  let c := s.hand.arg.ix
  let e := s.coll c
  let lack := ((List.range (e.nblk - e.next)).map (fun i => e.next + i)).flatMap (fun b =>
    (e.chips.filter (e.lacks b)).map (fun x => (b, x)))
  let halted := lack.filter (fun p => e.halts.contains p.2)
  let gone := lack.filter (fun p => !e.halts.contains p.2)
  let s := s.modColl c (fun e =>
    { e with endAt := none, missing := e.missing || !gone.isEmpty, broken := e.broken || !halted.isEmpty })
  let s := gone.foldl (fun (s : State) p => s.islLog 4 e.home 0xFFFF 0 (shardTag c p.1 p.2) 0) s
  match e.chips.find? (fun x => halted.any (fun p => p.2 == x)) with
  | none => .next s
  | some x =>
    .next ((List.range 8).foldl (fun (s : State) (j : Nat) =>
      let g := 4096 + 8 * e.home + j
      if (s.core g).unit = .running then
        s.modCore g (fun k =>
          { k with pend := { k.pend with coll := some (k.pend.coll.getD ⟨causeCOLL, 0, x * 2 ^ 44 + c * 16 + 1, 0, true⟩) } })
      else s) s)

/-- ISL_DBG.HALTED (R422): every core of the package is stopped. -/
def State.allHalted (s : State) : Bool := (List.range 4144).all (fun c => !coreExists c || (s.core c).dbg.stopped)

/-- PASS_THROUGH_SHARD (R443): an absent shard in place of block `a` of entry `ix`. -/
def execPassThroughShard (s : State) : Res :=
  let c := s.hand.arg.ix
  .next (s.sendShard c s.hand.arg.a (absentBits (s.coll c).fmt) 0)

/-- HALT_NOTICE (R443): the notice of chip `b` reaches entry `ix`; this package's own goes to every other participant. -/
def execHaltNotice (s : State) : Res :=
  let c := s.hand.arg.ix
  let x := s.hand.arg.b
  let e := s.coll c
  let s := s.modColl c (fun e => if e.en then { e with halts := setAdd e.halts x } else e)
  if x ≠ s.isl.coord then .next s
  else
    .next ((e.chips.filter (fun y => y != x)).foldl (fun (s : State) (y : Nat) => s.emit .chip (chipField y) (devKey (0x6000 + 0x40 * c)) (leBytes 4 x))
      (s.modColl c (fun e => { e with noted := true })))

/-- What comes next for a collective entry. -/
def collStep (s : State) (c : Nat) : Agenda :=
  let e := s.coll c
  let ev (a b : Nat) (i : Instr) : Agenda := some ({ s with hand := { Hand.empty with arg := ⟨c, a, b, []⟩ } }, [i])
  if !e.en then none
  else if (match e.endAt with
      | some t => decide (t < s.ns)
      | none => false) && decide (e.next < e.nblk) && !e.broken then ev 0 0 .collectiveShotExpiry
  else match (List.range 8).find? (s.shardReady c) with
    | some j => ev j 0 .shardDelivery
    | none =>
      if !s.allHalted then none
      else if s.isl.pass then
        (match (List.range e.nblk).find? (fun b => !setMem e.written b) with
          | some b => ev b 0 .passThroughShard
          | none => none)
      else if e.noted then none else ev 0 s.isl.coord .haltNotice

/-! ## Receiving (R435) -/

/-- The peer has accepted every flit up to a number. -/
def State.ackReceived (s : State) (p n : Nat) : State :=
  s.modPort p (fun q => { q with replay := q.replay.filter (fun f => seqBefore n f.seq) })
/-- ACKNOWLEDGE_RECEIVED (R435): `ix` is the port, `a` the number. -/
def execAcknowledgeReceived (s : State) : Res := .next (s.ackReceived s.hand.arg.ix s.hand.arg.a)

/-- A poisoned flit keeps its header and 16 bytes. -/
def poisonBody (b : List Byte) : List Byte := leBytes 8 (setFld (leNat (b.take 8)) 7 5 2) ++ padTo 240 ((b.drop 8).take 16)

/-- The peer asks for a number again: a replay from it; after the eighth replay of one number the flit is poisoned, or the
port retrains. -/
def State.nakReceived (s : State) (p n : Nat) : State :=
  let q := s.port p
  let cnt := if q.again.1 = n then q.again.2 + 1 else 1
  let replay := q.replay.filter (fun f => !seqBefore f.seq n)
  let s := s.modPort p (fun q => { q with replay := replay, again := (n, cnt) })
  let again (s : State) : State :=
    (s.port p).replay.foldl (fun (s : State) (f : FlitRec) => s.transmit p f)
      (s.modPort p (fun q => { q with replays := q.replays + 1 }))
  if cnt ≤ 8 then again s
  else match replay.find? (fun f => f.seq == n) with
    | none => s
    | some f =>
      if f.vc = 2 then
        let cut (g : FlitRec) : FlitRec := if g.seq = n then { g with bytes := poisonBody g.bytes } else g
        again (s.modPort p (fun q => { q with replay := q.replay.map cut, again := (n, 0), poisoned := q.poisoned + 1 }))
      else s.portRetrain p
/-- NEGATIVE_ACKNOWLEDGE (R435): `ix` is the port, `a` the number asked for. -/
def execNegativeAcknowledge (s : State) : Res := .next (s.nakReceived s.hand.arg.ix s.hand.arg.a)

/-- An accepted flit takes effect: the port's own control, a shard's vector, or transit. -/
def State.flitEffect (s : State) (p : Nat) (body : List Byte) : State :=
  let h := leNat (body.take 8)
  let ty := fld h 56 8
  let dst := fld h 36 20
  let src := fld h 16 20
  let pay := (body.drop 8).take (8 * fld h 7 5)
  let num := leNat (pay.take 4)
  if ty = 5 then s.ackReceived p num
  else if ty = 6 then s.nakReceived p num
  else if ty = 7 then s
  else if dst ≠ s.isl.coord then
    match s.routePort (chipField dst) with
    | some o => s.sendFlit o (fld h 12 4) (body.take 248)
    | none => s
  else if ty = 3 then s.modPort p (fun q => { q with values := q.values ++ [(src, pay)] })
  else if ty = 4 then
    let is (v : Nat × List Byte) : Bool := v.1 == src && v.2.take 4 == pay.take 4
    match (s.port p).values.find? is with
    | none => s
    | some v =>
      let s := s.modPort p (fun q => { q with values := q.values.erase v })
      let data := if v.2.length < 144 ∨ pay.length < 144 then none
        else some (vOfBytes ((v.2.drop 16).take 128), vOfBytes ((pay.drop 16).take 128))
      s.shardArrive (leNat (pay.take 2)) (leNat ((pay.drop 2).take 2)) src data p
  else s

/-- FLIT_RECEIVED (R435): `ix` is the port, with the flit's 256 bytes; `a` codewords were corrected, and `b` could not be. -/
def execFlitReceived (s : State) : Res :=
  let p := s.hand.arg.ix
  let f := s.hand.arg.bytes
  if !(s.port p).up then .next s
  else
    let s := s.modPort p (fun q => { q with corr := q.corr + s.hand.arg.a, uncorr := q.uncorr + s.hand.arg.b })
    let q := s.port p
    let body := f.take 248
    let n := leNat (f.drop 252)
    let good := f.length == 256 && s.hand.arg.b == 0 && leNat ((f.drop 248).take 4) == crc32c body
    let idle := good && fld (leNat (body.take 8)) 56 8 == 0
    let want := if idle then (q.recvSeq + 2 ^ 32 - 1) % 2 ^ 32 else q.recvSeq
    let ask (s : State) : State :=
      if q.discard then s else (s.modPort p (fun q => { q with discard := true })).sendControl p 6 q.recvSeq
    if !good then .next (ask s)
    else if n ≠ want then .next (if seqBefore n want then s else ask s)
    else if idle then .next s
    else
      let s := s.modPort p (fun q => { q with recvSeq := (q.recvSeq + 1) % 2 ^ 32, discard := false, since := q.since + 1 })
      let s := s.flitEffect p body
      if 32 ≤ (s.port p).since then .next ((s.modPort p (fun q => { q with since := 0 })).sendControl p 5 n) else .next s

end Sys2Proof.Machine
end

