-- ==== Sys2Proof/Machine/Device.lean ====
section
/-! DEFINITION. Device control space (R471) and what reaches it: the host's BARs (R470), and pages and handles of cores. Each
register is read and written as its rule says; offsets that no rule places read zero and ignore writes. -/

namespace Sys2Proof.Machine

/-! ## Codes -/

/-- CTX_STATE (R284). -/
def CtxState.code : CtxState → Nat
  | .free => 0
  | .building => 1
  | .ready => 2
  | .running => 3
  | .preempting => 4
  | .suspended => 5
  | .faulted => 6
  | .dumping => 7
  | .draining => 8
  | .dead => 9
/-- Q_STATUS (R376). -/
def QState.code : QState → Nat
  | .disabled => 0
  | .enabled => 1
  | .running => 2
  | .blocked => 3
  | .draining => 4
  | .error => 5
/-- ISL_STATUS (R422). -/
def IslState.code : IslState → Nat
  | .off => 0
  | .boot => 1
  | .active => 2
  | .degraded => 3
/-- EP_STATUS (R422). -/
def EpState.code : EpState → Nat
  | .absent => 0
  | .reset => 1
  | .linkup => 2
  | .active => 3
  | .orphaned => 4

/-- The state a meaning leaves. -/
def nextOr (s : State) (r : Res) : State :=
  match r with
  | .next t => t
  | _ => s

/-- An event at a number. -/
def State.named (s : State) (n : Nat) : State := { s with hand := { Hand.empty with arg := argIx n } }

/-! ## Context control pages (R284, R313, R383, R393, R465) -/

def ctxRead (s : State) (x off : Nat) : Nat :=
  let y := s.ctx x
  if off < 0x200 then
    match off / 8 with
    | 0 => y.st.code
    | 2 => y.saveBase.toNat
    | 3 => y.saveStride.toNat
    | 4 => y.limit.toNat
    | 5 => y.eventQ.toNat
    | 6 => y.ptRoot.toNat
    | 7 => y.htBase.toNat
    | 8 => y.htCount.toNat
    | 9 => y.invVa.toNat
    | 10 => y.invLen.toNat
    | 12 => if y.invBusy then 1 else 0
    | 13 => y.cntSel.toNat
    | 14 => (BitVec.ofInt 64 (s.counter x y.cntSel.toNat)).toNat
    | 15 => y.dumpBase.toNat
    | 17 => y.dumpStride.toNat
    | _ => 0
  else if off < 0x400 then
    let b := mapGetD y.budgets ((off - 0x200) / 32) ⟨0, 0, 0, 0, 0, 0⟩
    match (off - 0x200) / 8 % 4 with
    | 0 => b.kind + b.id * 2 ^ 16 + b.bytes * 2 ^ 32
    | 1 => b.lo
    | 2 => b.hi
    | _ => 0
  else 0

/-- CTX_CMD (R284, R285). -/
def State.ctxCmd (s : State) (x v : Nat) : State :=
  let t := s.named x
  match v with
  | 1 => nextOr s (execCreate t)
  | 2 => nextOr s (execCommit t)
  | 3 => nextOr s (execPreempt t)
  | 4 => nextOr s (execPreemptForce t)
  | 5 => nextOr s (execCtxResume t)
  | 6 => nextOr s (execDump t)
  | 7 => nextOr s (execDestroy t)
  | 8 => nextOr s (execCtxReset t)
  | _ => s

def ctxWrite (s : State) (x off v : Nat) : State :=
  let w : Word := BitVec.ofNat 64 v
  let put (f : Ctx → Ctx) : State := s.modCtx x f
  if off < 0x200 then
    match off / 8 with
    | 1 => s.ctxCmd x v
    | 2 => put (fun y => { y with saveBase := w })
    | 3 => put (fun y => { y with saveStride := w })
    | 4 => put (fun y => { y with limit := w })
    | 5 => put (fun y => { y with eventQ := w })
    | 6 => put (fun y => { y with ptRoot := BitVec.ofNat 64 (setFld v 1 15 0) })
    | 7 => put (fun y => { y with htBase := w })
    | 8 => put (fun y => { y with htCount := w })
    | 9 => put (fun y => { y with invVa := w })
    | 10 => put (fun y => { y with invLen := w })
    | 11 =>
      (match v with
        | 1 => nextOr s (execInvRange (s.named x))
        | 2 => nextOr s (execInvAll (s.named x))
        | 3 => nextOr s (execInvHandles (s.named x))
        | _ => s)
    | 13 => put (fun y => { y with cntSel := w })
    | 15 => put (fun y => { y with dumpBase := w })
    | 17 => put (fun y => { y with dumpStride := w })
    | _ => s
  else if off < 0x400 then
    let i := (off - 0x200) / 32
    let set (f : Budget → Budget) : State :=
      put (fun y => { y with budgets := mapPut y.budgets i (f (mapGetD y.budgets i ⟨0, 0, 0, 0, 0, 0⟩)) })
    match (off - 0x200) / 8 % 4 with
    | 0 => set (fun b => { b with kind := fld v 0 16, id := fld v 16 16, bytes := fld v 32 32 })
    | 1 => set (fun b => { b with lo := v })
    | 2 => set (fun b => { b with hi := v })
    | _ => s
  else s

/-! ## Queue control blocks (R376) -/

def queueRead (s : State) (q off : Nat) : Nat :=
  let u := s.queue q
  match off / 8 with
  | 0 => u.ring.toNat
  | 1 => u.ctl.toNat
  | 2 => u.prod
  | 3 => u.cons
  | 4 => u.st.code + 16 + u.err % 256 * 2 ^ 8 + u.errIx % 2 ^ 32 * 2 ^ 16
  | 5 => u.drop
  | _ => 0

def queueWrite (s : State) (q off v : Nat) : State :=
  match off / 8 with
  | 0 => s.modQueue q (fun u => if fld u.ctl.toNat 0 1 = 1 then u else { u with ring := BitVec.ofNat 64 v })
  | 1 => s.writeQctl q v
  | 2 => s.doorbell q v
  | 3 => s.hostConsume q v
  | _ => s

/-- What FUNC of QOWN (key the queue) or COWN (16384 and the core) reads as while VALID is 0 (R5, R472). -/
def State.setFunc (s : State) (key v : Nat) : State :=
  { s with funcs := if fld v 0 6 = 0 ∨ fld v 8 1 = 1 then mapDel s.funcs key else mapPut s.funcs key (fld v 0 6) }

/-- QOWN (R472). -/
def State.qownWrite (s : State) (q v : Nat) : State :=
  let own := if fld v 8 1 = 1 then some (fld v 0 6) else none
  if (s.queue q).st = .disabled then (s.modQueue q (fun u => { u with own := own })).setFunc q v else s
/-- QOWN_WRITE (R472): by the physical function; `ix` is the queue, `a` the value. -/
def execQownWrite (s : State) : Res := .next (if s.hand.arg.ix < 16384 then s.qownWrite s.hand.arg.ix s.hand.arg.a else s)

/-- COWN (R472): a core that changes hands keeps no translation. -/
def State.cownWrite (s : State) (c v : Nat) : State :=
  if (s.core c).launch ≠ 0 then s
  else
    let own := if fld v 8 1 = 1 then some (fld v 0 6) else none
    let same := mapGet s.cown c == own
    let s := { s.setFunc (16384 + c) v with cown := match own with
        | some x => mapPut s.cown c x
        | none => mapDel s.cown c }
    if same || (mapGet s.cores c).isNone then s else s.modCore c (fun k => { k with ctx := none, tlb := [], pipeTlb := [] })
/-- COWN_WRITE (R472): by the physical function; `ix` is the core, `a` the value. -/
def execCownWrite (s : State) : Res := .next (if s.hand.arg.ix < 4144 then s.cownWrite s.hand.arg.ix s.hand.arg.a else s)

/-- QOWN or COWN, given its owner and the FUNC of one that has none. -/
def ownWord (o : Option Nat) (f : Nat) : Nat := (o.map (256 + ·)).getD f

/-! ## The island's registers (R422, R462, R477, R480, R482, R499) -/

/-- The harvest map and the latency table (R341, R356), once discovery has filled them. -/
def State.harvest (s : State) (off : Nat) : Nat :=
  if !s.islUp then 0
  else if off < 0x1040 then
    (List.range 8).foldl (fun n e => n + Config.dieLatency ((off - 0x1000) / 8) e * 2 ^ (8 * e)) 0
  else if off < 0x1080 then Config.nrows * 2 ^ 32 + (2 ^ Config.nrows - 1)
  else if off = 0x1080 then 2 ^ 48 - 1
  else 8 * 2 ^ 8 + (if Config.smallPart then 1 else 0)

def islRead (s : State) (off : Nat) : Nat :=
  let i := s.isl
  if 0x1000 ≤ off ∧ off < 0x1090 then s.harvest off
  else if 0x1200 ≤ off ∧ off < 0x1290 then
    let e := s.ep ((off - 0x1200) / 8)
    e.heldBeats (fun _ => true) % 2 ^ 16 * 2 ^ 16 + e.cause * 2 ^ 8 + e.st.code
  else if 0x1158 ≤ off ∧ off ≤ 0x1170 then (mapGetD i.nonce ((off - 0x1158) / 8) 0).toNat
  else if off = 0x1100 then i.fwver % 2 ^ 16 * 2 ^ 16 + i.bootErr * 2 ^ 8 + i.st.code
  else if off = 0x1110 then (if i.pass then 2 else 0) + (if s.allHalted then 1 else 0)
  else if off = 0x1118 then i.logCnt
  else if off = 0x1120 then i.whCtl.toNat
  else if off = 0x1128 then i.whRing.toNat
  else if off = 0x1130 then i.whDrops % 2 ^ 32 * 2 ^ 32 + i.whWritten % 2 ^ 32
  else if off = 0x1140 then i.errCnt
  else if off = 0x1148 then i.coord
  else if off = 0x1150 then i.torus
  else if off = 0x1180 then i.pwrCap
  else 0

/-- ISL_CMD (R422). -/
def State.islCmd (s : State) (core v : Nat) : State :=
  let k := fld v 8 5
  match fld v 0 4 with
  | 1 => s.splitReset k core
  | 2 => s.powerOff k core
  | 3 => s.powerOn k core
  | 4 => s.islandReset core
  | 5 => s.freqCmd k (fld v 32 16) core
  | _ => s

/-- WHISTLE_CTL (R462, R463). -/
def State.whistleCtl (s : State) (v : Nat) : State :=
  let on := fld s.isl.whCtl.toNat 0 1 == 1
  let w := fld v 32 32 * 2 ^ 32 + fld v 16 8 * 2 ^ 16 + fld v 0 1
  let p := fld v 32 32
  let next := if p = 0 then 0 else (s.ns / 1000 / p + 1) * p
  let s := s.modIsl (fun i =>
    { i with whCtl := BitVec.ofNat 64 w, whNext := next, whKey := i.whKey || !on, whOff := if on then i.whOff else 0,
             whReq := if fld v 0 1 = 1 then i.whReq else none })
  if fld v 1 1 = 1 then s.whistleReq else s

/-- The registers that only the physical function writes (R422). -/
def islWrite (s : State) (core off v : Nat) : State :=
  let w : Word := BitVec.ofNat 64 v
  if 0x1158 ≤ off ∧ off ≤ 0x1170 then s.modIsl (fun i => { i with nonce := mapPut i.nonce ((off - 0x1158) / 8) w })
  else if off = 0x1108 then s.islCmd core v
  else if off = 0x1110 then s.modIsl (fun i => { i with pass := fld v 1 1 == 1 })
  else if off = 0x1120 then s.whistleCtl v
  else if off = 0x1128 then s.modIsl (fun i => { i with whRing := w })
  else if off = 0x1148 then
    if s.isl.st = .boot ∧ s.isl.bootStep = 4 then
      let s := s.modIsl (fun i => { i with coord := fld v 0 20 })
      if fld v 20 1 = 1 then s.goBoot (fld v 0 20) else s
    else s
  else if off = 0x1150 then
    if s.isl.st = .boot ∧ s.isl.bootStep = 4 then s.modIsl (fun i => { i with torus := fld v 0 20 }) else s
  else if off = 0x1178 then s.attest v
  else if off = 0x1180 then s.modIsl (fun i => { i with pwrCap := fld v 0 16 })
  else s

/-! ## Ports (R439) and collectives (R440) -/

def portRead (s : State) (p off : Nat) : Nat :=
  let q := s.port p
  if 0x40 ≤ off then (mapGetD q.linj ((off - 0x40) / 8) 0).toNat
  else match off / 8 with
    | 0 => q.vmin * 2 ^ 16 + q.vmax * 2 ^ 8 + q.widthReq * 2 + (if q.en then 1 else 0)
    | 1 => q.retrains % 2 ^ 32 * 2 ^ 32 + q.failr * 2 ^ 24 + q.ver * 2 ^ 16 + q.lanes * 2 ^ 4 + q.st.code
    | 2 => q.uncorr % 2 ^ 32 * 2 ^ 32 + q.corr % 2 ^ 32
    | 3 => q.poisoned % 2 ^ 32 * 2 ^ 32 + q.replays % 2 ^ 32
    | _ => 0

/-- A write of the physical function: the versions, then EN, then a changed WIDTH. -/
def portWrite (s : State) (p off v : Nat) : State :=
  if 0x40 ≤ off then s.linjWrite p ((off - 0x40) / 8) v
  else if off ≠ 0 then s
  else
    let en := (s.port p).en
    let s := s.modPort p (fun q => { q with vmin := fld v 16 8, vmax := fld v 8 8 })
    let s := if fld v 0 1 = 1 ∧ !en then s.portEnable p else if fld v 0 1 = 0 ∧ en then s.portDisable p else s
    if (s.port p).widthReq = fld v 1 2 then s else s.widthRequest p (fld v 1 2)

def collRead (s : State) (c off : Nat) : Nat :=
  let e := s.coll c
  let bit (b : Bool) (i : Nat) : Nat := if b then 2 ^ i else 0
  match off / 8 with
  | 0 => e.ctl.toNat
  | 1 => e.box.toNat
  | 2 => e.shot.toNat
  | 3 => if !e.en then 0 else bit e.broken 19 + bit e.missing 18 + bit e.poison 17 + bit (decide (e.nblk ≤ e.next)) 16 + e.next % 2 ^ 16
  | _ => 0

/-- Does a function own the eight gateway cores of a port (R440)? -/
def State.ownsGateways (s : State) (fn port : Nat) : Bool :=
  decide (5 < port) || (List.range 8).all (fun j => mapGet s.cown (4096 + 8 * port + j) == some fn)

def collWrite (s : State) (fn core c off v : Nat) : State :=
  let e := s.coll c
  let w : Word := BitVec.ofNat 64 v
  match off / 8 with
  | 0 =>
    if e.en then (if fld v 0 1 = 0 ∧ s.ownsGateways fn e.home then s.collAbandon c else s)
    else if !s.ownsGateways fn (fld v 4 4) then s
    else if fld v 0 1 = 1 then s.collEnable c v core
    else s.modColl c (fun e => { e with ctl := BitVec.ofNat 64 (setFld (setFld v 12 20 0) 1 3 0) })
  | 1 =>
    if e.en ∨ !s.ownsGateways fn e.home then s
    else s.modColl c (fun e => { e with box := BitVec.ofNat 64 (setFld (setFld v 60 4 0) 20 20 0) })
  | 2 => if e.en ∨ !s.ownsGateways fn e.home then s else s.modColl c (fun e => { e with shot := w })
  | _ => s

/-! ## Debug modules (R453) -/

def debugRead (s : State) (c off : Nat) : Nat :=
  let d := (s.core c).dbg
  match off / 8 with
  | 0 => d.ctl.toNat
  | 1 => if d.stopped then d.pc % 4096 * 2 ^ 16 + d.reason * 2 ^ 8 + 1 else 0
  | 2 => d.traceCtl.toNat
  | 3 => d.traceBuf.toNat
  | 4 => d.ptr
  | 5 => d.drop
  | _ => 0

/-- DBG_CTL: its fields, then RESUME, STEP and HALT, in this order. -/
def State.dbgCtl (s : State) (c v : Nat) : State :=
  let w := fld v 32 32 * 2 ^ 32 + fld v 3 2 * 2 ^ 3
  let s := s.modCore c (fun k => { k with dbg := { k.dbg with ctl := BitVec.ofNat 64 w } })
  let s := if fld v 1 1 = 1 then nextOr s (execDbgResume (s.named c)) else s
  let s := if fld v 2 1 = 1 then nextOr s (execDbgStep (s.named c)) else s
  if fld v 0 1 = 1 then nextOr s (execDbgHalt (s.named c)) else s

/-- TRACE_CTL (R453, R461): EN set starts the buffer with a sync record. -/
def State.traceCtl (s : State) (c v : Nat) : State :=
  let on := traceOn (s.core c)
  let now := s.now
  s.modCore c (fun k =>
    let d := { k.dbg with traceCtl := BitVec.ofNat 64 (fld v 8 5 * 2 ^ 8 + fld v 0 2) }
    { k with dbg :=
        if fld v 0 1 = 1 ∧ !on then { d with ptr := 0, buffer := [syncRec now k], sync := false, since := 1 }
        else if fld v 0 1 = 0 then { d with buffer := [] } else d })

def debugWrite (s : State) (c off v : Nat) : State :=
  match off / 8 with
  | 0 => s.dbgCtl c v
  | 2 => s.traceCtl c v
  | 3 => s.modCore c (fun k => { k with dbg := { k.dbg with traceBuf := BitVec.ofNat 64 v } })
  | _ => s

/-- May a function reach a core's debug module: the physical one, and the core's owner? A missing core has none (R2). -/
def State.dbgAccess (s : State) (fn c : Nat) : Bool := coreExists c && (fn == 0 || mapGet s.cown c == some fn)

/-! ## The space (R471) -/

/-- Is an offset in a region? -/
def within (off lo n : Nat) : Bool := decide (lo ≤ off) && decide (off < lo + n)

/-- Eight bytes of device control space, for a function. -/
def State.devRead8 (s : State) (fn off : Nat) : Nat :=
  if within off 0x1000 0x1000 then islRead s off
  else if within off 0x2000 0x2000 ∨ within off 0x8000 0x8000 then leNat (s.memLoad (devKey off) 8)
  else if within off 0x4000 0x300 then portRead s ((off - 0x4000) / 0x80) ((off - 0x4000) % 0x80)
  else if within off 0x6000 0x400 then collRead s ((off - 0x6000) / 0x40) ((off - 0x6000) % 0x40)
  else if within off 0x800000 0x40C00 then
    let c := (off - 0x800000) / 0x40
    if s.dbgAccess fn c then debugRead s c (off % 0x40) else 0
  else if within off 0x20000000 0x40000 then ctxRead s ((off - 0x20000000) / 0x1000) (off % 0x1000)
  else if within off 0x20100000 0x100000 then queueRead s ((off - 0x20100000) / 64) (off % 64)
  else if within off 0x20200000 0x20000 then ownWord (s.queue ((off - 0x20200000) / 8)).own (mapGetD s.funcs ((off - 0x20200000) / 8) 0)
  else if within off 0x20400000 0x8180 then ownWord (mapGet s.cown ((off - 0x20400000) / 8)) (mapGetD s.funcs (16384 + (off - 0x20400000) / 8) 0)
  else 0

/-- A write of eight bytes, for a function and a core, or 0xFFFF for the host; and whether it is a response error. -/
def State.devWrite8 (s : State) (fn core off v : Nat) : State × Bool :=
  if within off 0x1000 0x1000 then (if fn = 0 then islWrite s core off v else s, false)
  else if within off 0x4000 0x300 then
    (if fn = 0 then portWrite s ((off - 0x4000) / 0x80) ((off - 0x4000) % 0x80) v else s, false)
  else if within off 0x6000 0x400 then (collWrite s fn core ((off - 0x6000) / 0x40) ((off - 0x6000) % 0x40) v, false)
  else if within off 0x800000 0x40C00 then
    let c := (off - 0x800000) / 0x40
    (if s.dbgAccess fn c then debugWrite s c (off % 0x40) v else s, false)
  else if within off 0x1000000 0x10000000 then (s, true)
  else if within off 0x20000000 0x40000 then (ctxWrite s ((off - 0x20000000) / 0x1000) (off % 0x1000) v, false)
  else if within off 0x20100000 0x100000 then (queueWrite s ((off - 0x20100000) / 64) (off % 64) v, false)
  else if within off 0x20200000 0x20000 then (if fn = 0 then s.qownWrite ((off - 0x20200000) / 8) v else s, false)
  else if within off 0x20400000 0x8180 then (if fn = 0 then s.cownWrite ((off - 0x20400000) / 8) v else s, false)
  else (s, false)

/-- What a function other than the physical one reaches through its BARs: its context page and the queues it owns (R470). -/
def State.barReach (s : State) (fn off : Nat) : Bool :=
  fn == 0 || within off (0x20000000 + 0x1000 * fn) 0x1000 ||
    (within off 0x20100000 0x100000 && (s.queue ((off - 0x20100000) / 64)).own == some fn)

/-- REGISTER_WRITE (R5): a write of a register, by the host (`ix` is the function, `a` the offset in device control space, `b`
the value, R470) or by a core's 8-byte store; or a core's load of one. -/
def execRegisterWrite (s : State) : Res :=
  match s.hand.msg with
  | some (.window m wr v) =>
    let fn := if m.src < 8192 then (s.core m.src).ctx.getD 64 else 64
    let off := m.phys % 2 ^ 42
    if wr then
      let (t, bad) := s.devWrite8 fn (m.src % 8192) off v.toNat
      .next ({ t with hand := s.hand }.answer m 0 (.ack m false bad))
    else
      let r := leBytes 8 (s.devRead8 fn off)
      .next (s.answer m 0 (.data m r false [] 0))
  | _ =>
    let a := s.hand.arg
    if a.a % 8 = 0 ∧ a.ix < 64 ∧ s.barReach a.ix a.a then .next (s.devWrite8 a.ix 0xFFFF a.a (a.b % 2 ^ 64)).1 else .next s

/-- HOST_WINDOW_TIMEOUT (R473): a request to the host without an answer for 50 ms ends in a response error; without a message,
that of the device's read `a`. -/
def execHostWindowTimeout (s : State) : Res :=
  match s.hand.msg with
  | none => .next (s.extLands s.hand.arg.a none)
  | some b =>
    match b.req with
    | none => .next s
    | some m =>
      match b with
      | .load _ => .next (s.dataLands m [] false [] 1)
      | .window _ false _ => .next (s.dataLands m [] false [] 1)
      | .atomic .. => .next (s.oldLands m 0 0 1)
      | _ => .next (s.ackLands m false true)

end Sys2Proof.Machine
end

