-- ==== Sys2Proof/Machine/CopyEngine.lean ====
section
/-! DEFINITION. The copy engines (R249, R250, R256 to R259, R262): the beats of copy operations and of the copies that
POPSTEP and MIGR make, activity budgets (R393, R394), receive queues, and the completion of a copy operation. A copy is
named by its core and a number: one more than its descriptor, or 0 for what `Core.incoming` holds. -/

namespace Sys2Proof.Machine

/-! ## The copy in hand -/

def State.copyOf (s : State) (c ix : Nat) : Option CopyOp :=
  if ix = 0 then (s.core c).incoming.map Incoming.op else mapGet (s.core c).descs (ix - 1)

def State.modCopy (s : State) (c ix : Nat) (f : CopyOp → CopyOp) : State :=
  s.modCore c (fun k =>
    if ix = 0 then { k with incoming := k.incoming.map (fun x => { x with op := f x.op }) }
    else match mapGet k.descs (ix - 1) with
      | some o => { k with descs := mapPut k.descs (ix - 1) (f o) }
      | none => k)

/-- Does a copy still have something to write? -/
def CopyOp.open_ (o : CopyOp) : Bool := o.streams.any (fun l => !l.isEmpty) || !o.dsts.isEmpty

/-- Is a read of this copy on its way? -/
def State.copyAsking (s : State) (o : CopyOp) : Bool :=
  o.asked && s.asks.any (fun a =>
    o.reads.any (fun r => decide (r.1 ≤ a.phys) && decide (a.phys < r.1 + r.2)) ||
      o.srcs.any (fun p => decide (p.phys ≤ a.phys) && decide (a.phys < p.phys + p.len)))

/-- Can a copy write its next beat in this clk: the operations it must follow have completed (R249), what it asked for has
come, its last beat to another package is acknowledged or can no longer be, its watch report has been taken (R458)? -/
def State.beatReady (s : State) (c : Nat) (o : CopyOp) : Bool :=
  let k := s.core c
  let dumping : Bool := match k.ctx with
    | some x => (s.ctx x).st == .dumping
    | none => false
  let stalled : Bool := match o.stall with
    | some i => (mapGet k.pend.watch i).isSome
    | none => false
  let waits : Bool := match o.away with
    | some a => s.reaches (a / 2 ^ 44)
    | none => false
  o.open_ && decide (o.due ≤ s.clk) && !waits && !s.copyAsking o && !stalled && !dumping &&
    o.after.all (fun i => (mapGet k.descs i).isNone)

/-! ## Activity budgets (R393, R394) -/

/-- Does a budget entry match an access of a copy? -/
def State.budgetFits (s : State) (c : Nat) (o : CopyOp) (b : Budget) (phys : Nat) : Bool :=
  match b.kind with
  | 1 => (match s.launch (s.core c).launch with
    | some l => l.queue == b.id
    | none => false)
  | 2 => o.cls == b.id
  | 3 => !s.isHere phys && s.routePort (phys / 2 ^ 44) == some b.id
  | 4 => s.isHere phys && spaceOf phys == 1 && phys % 2 ^ 42 / 4096 % 8 == b.id
  | _ => false

/-- The entry that applies to an access: the lowest that matches. -/
def State.budgetOf (s : State) (c : Nat) (o : CopyOp) (phys : Nat) : Option (Nat × Budget) :=
  match (s.core c).ctx with
  | none => none
  | some x => (s.ctx x).budgets.find? (fun b => s.budgetFits c o b.2 phys)

/-- What the budgets say of a request that makes some accesses of n bytes in all: it goes, it waits, or the entry and the
address that it may not reach, with the virtual address where its side has one. -/
inductive Verdict where
  | go
  | wait
  | denied (ix addr : Nat) (va : Option Nat)
  deriving DecidableEq, Repr

def State.budgetVerdict (s : State) (c : Nat) (o : CopyOp) (n : Nat) (l : List CPiece) : Verdict :=
  l.foldl (fun (v : Verdict) (p : CPiece) =>
    match v with
    | .denied .. => v
    | _ =>
      match s.budgetOf c o p.phys with
      | none => v
      | some (i, b) =>
        if b.hi ≠ 0 ∧ ¬(b.lo ≤ p.phys ∧ p.phys + p.len ≤ b.hi) then
          let a := if p.phys < b.lo then p.phys else max p.phys b.hi
          .denied i a (p.va.map (fun v => v + (a - p.phys)))
        else if b.bytes ≠ 0 ∧ b.used ≠ 0 ∧ b.bytes < b.used + n then .wait
        else v) .go

/-- Counts a request of n bytes in each entry that applies to it, once. -/
def State.budgetCharge (s : State) (c : Nat) (o : CopyOp) (n : Nat) (l : List CPiece) : State :=
  match (s.core c).ctx with
  | none => s
  | some x =>
    if (s.ctx x).budgets.isEmpty then s
    else
      let ixs := l.foldl (fun m p => match s.budgetOf c o p.phys with
        | some (i, _) => setAdd m i
        | none => m) []
      s.modCtx x (fun y => { y with budgets := y.budgets.map (fun b =>
        if ixs.contains b.1 then (b.1, { b.2 with used := b.2.used + n }) else b) })

/-- The event record of an access outside [LO, HI). -/
def State.budgetEvent (s : State) (c ix addr : Nat) : State :=
  match (s.core c).ctx with
  | none => s
  | some x => s.postEvent x 0x40 c (leBytes 8 ix ++ leBytes 8 addr ++ leBytes 8 s.now)

/-- BUDGET_PERIOD (R394): a new period of 8 µs. -/
def execBudgetPeriod (s : State) : Res :=
  let n := s.now / 10000
  let fresh (b : Nat × Budget) : Nat × Budget := (b.1, { b.2 with used := 0 })
  .next { s with period := n, ctxs := s.ctxs.map (fun p => (p.1, { p.2 with budgets := p.2.budgets.map fresh })) }

/-! ## Reading -/

/-- What an engine finds where it reads: bytes, nothing before the next clk, nothing before an answer from outside the
package, or a response error at an address that is physical or not. -/
inductive Got where
  | bytes (b : List Byte)
  | hold
  | away
  | fail (addr : Nat) (phys : Bool)
  deriving DecidableEq, Repr

/-- A part's address in a report (R250). -/
def CPiece.failed (p : CPiece) : Got := .fail (p.va.getD p.phys) p.va.isNone

/-- Bytes of device control space. -/
def State.devBytes (s : State) (fn off n : Nat) : List Byte :=
  ((((unitsOf 8 off n).map (fun w => leBytes 8 (s.devRead8 fn (8 * w)))).flatten).drop (off % 8)).take n

/-- Bytes of a page, 128-byte line by line: zero where an absent-fill page is not written (R322). -/
def State.lineLoad (s : State) (key n : Nat) (af : Bool) : List Byte :=
  if !af then s.memLoad key n
  else (unitsOf 128 key n).flatMap (fun l =>
    let lo := max key (128 * l)
    s.fillLoad lo (min (key + n) (128 * l + 128) - lo) true)

/-- Do the columns of a core use the bank of a beat in this clk (R40)? -/
def State.bankTaken (s : State) (home off : Nat) : Bool :=
  let k := s.core home
  !s.frozen home && k.usesBank k.vcc (bankOf off)

/-- Reads one part of a source. -/
def State.readPart (s : State) (c group : Nat) (p : CPiece) : State × Got :=
  let key := keyOf p.phys
  if p.len = 0 then (s, .bytes [])
  else if !s.inPackage p.phys then
    match mapGet s.ext p.phys with
    | some none => ({ s with ext := mapDel s.ext p.phys }, p.failed)
    | some (some b) =>
      if p.len ≤ b.length then (s, .bytes (b.take p.len))
      else ({ s with ext := mapDel s.ext p.phys }.askFor p.phys p.len, .away)
    | none =>
      let s := s.askFor p.phys p.len
      if mapGet s.ext p.phys = some none then ({ s with ext := mapDel s.ext p.phys }, p.failed) else (s, .away)
  else if spaceOf p.phys = 2 then (s, .bytes (s.devBytes ((s.core c).ctx.getD 64) (p.phys % 2 ^ 42) p.len))
  else
    let home := coreOf p.phys
    let gate := if spaceOf p.phys ≠ 0 then (if s.placeUp key p.len then 0 else 2) else if home = c then 0 else s.gate home c
    match gate with
    | 1 => (s, .hold)
    | 0 =>
      if spaceOf p.phys = 0 ∧ s.bankTaken home (offOf p.phys) then (s, .hold)
      else
      (match s.onRead (s.core c).ctx key p.len (p.va.getD (2 ^ 64 - 1)) c 5 group with
        | (s, some _) => (s, p.failed)
        | (s, none) => (s, .bytes (s.lineLoad key p.len p.af)))
    | _ => (if spaceOf p.phys = 0 then s.dieDown home c p.phys else s.stackDown key p.len c p.phys, p.failed)

/-- Reads parts in order, as far as they can be read. -/
def State.readParts (s : State) (c group : Nat) (l : List CPiece) : State × Got :=
  l.foldl (fun (acc : State × Got) (p : CPiece) =>
    match acc with
    | (s, .bytes b) =>
      (match s.readPart c group p with
        | (s, .bytes b') => (s, .bytes (b ++ b'))
        | r => r)
    | (s, .away) =>
      (match s.readPart c group p with
        | (s, .fail a f) => (s, .fail a f)
        | (s, _) => (s, .away))
    | r => r) (s, .bytes [])

/-- What came for parts of a source has been used. -/
def State.usedParts (s : State) (l : List CPiece) : State :=
  if s.ext.isEmpty then s
  else { s with ext := s.ext.filter (fun e => !l.any (fun p => decide (p.phys ≤ e.1) && decide (e.1 < p.phys + p.len))) }

/-! ## F8Z sources (R95, R256) -/

/-- The pieces of an F8Z source that a mutation reads, each with its offset: what has been read, or why not. -/
def State.f8zGather (s : State) (c group : Nat) (m : Mutation) (srcs : List CPiece) :
    State × Except Got (List (Nat × List Byte)) :=
  let total := (srcs.map CPiece.len).foldl (· + ·) 0
  let read (s : State) (off n : Nat) : State × Got :=
    if total < off + n then
      (s, match cutPieces srcs (min off (total - 1)) 1 with
        | p :: _ => (⟨p.phys + (off - min off (total - 1)), p.va.map (· + (off - min off (total - 1))), 1, false, p.mt⟩ : CPiece).failed
        | [] => .fail 0 true)
    else s.readParts c group (cutPieces srcs off n)
  match read s 0 (f8zTable m.n) with
  | (s, .bytes table) =>
    (List.range (m.n / 64)).foldl
      (fun (acc : State × Except Got (List (Nat × List Byte))) (b : Nat) =>
        match acc with
        | (s, .ok l) =>
          let off := leNat ((table.drop (4 * b)).take 4)
          if off % 8 ≠ 0 then (s, .ok l)
          else
            (match read s off 4 with
              | (s, .bytes h) =>
                (match read s off (bzLength h) with
                  | (s, .bytes x) => (s, .ok (l ++ [(off, x)]))
                  | (s, g) => (s, .error g))
              | (s, g) => (s, .error g))
        | r => r) (s, .ok [(0, table)])
  | (s, g) => (s, .error g)

/-- Reads from what has been gathered. -/
def gatherRead (l : List (Nat × List Byte)) (off n : Nat) : Option (List Byte) :=
  (l.find? (fun p => p.1 == off && decide (n ≤ p.2.length))).map (fun p => p.2.take n)

/-! ## A response error (R250) -/

/-- The stream in hand ends in a response error: its beats go, and the first error of the operation is kept. -/
def CopyOp.failAt (o : CopyOp) (addr : Nat) (phys : Bool) : CopyOp :=
  { o with streams := (o.streams.filter (fun l => !l.isEmpty)).drop 1, dsts := [], err := some (o.err.getD (addr, phys)) }

/-- What an engine that could not read does: it tries again in the next clk, waits for an answer, or ends the stream. -/
def State.copyStuck (s : State) (c ix : Nat) (g : Got) : State :=
  let t := s.clk + 1
  match g with
  | .away => s.modCopy c ix (fun o => { o with asked := true, due := t })
  | .fail a f => s.modCopy c ix (fun o => { o.failAt a f with due := t })
  | _ => s.modCopy c ix (fun o => { o with due := t })

/-- A request under the budgets: made, put off to the next period, or refused. -/
def State.underBudget (s : State) (c ix : Nat) (o : CopyOp) (n : Nat) (l : List CPiece) (go : State → State) : State :=
  match s.budgetVerdict c o n l with
  | .go => go s
  | .wait =>
    let t := s.clk + (10000 - s.now % 10000)
    s.modCopy c ix (fun o => { o with due := t })
  | .denied i a va => (s.budgetEvent c i a).copyStuck c ix (.fail (va.getD a) va.isNone)

/-! ## Preparation -/

/-- A copy that reads its source whole before it writes has read it (R249). -/
def State.copyWhole (s : State) (c ix : Nat) (o : CopyOp) : State :=
  match s.readParts c o.group o.srcs with
  | (s, .bytes b) =>
    let t := s.clk + 1
    (s.usedParts o.srcs).modCopy c ix (fun o => { o with held := some b, due := t })
  | (s, g) => s.copyStuck c ix g

/-- A mutation of plain elements finds its beats; one of an F8Z tensor reads it and makes the new one (R256). -/
def State.copyMutate (s : State) (c ix : Nat) (o : CopyOp) (m : Mutation) : State :=
  let t := s.clk + 1
  if m.lay ≠ .f8z then s.modCopy c ix (fun o => { o with streams := [beatsOf o.srcs o.dsts 0], dsts := [] })
  else
    match s.f8zGather c o.group m o.srcs with
    | (s, .error g) => s.copyStuck c ix g
    | (s, .ok l) =>
      let n := (l.map (fun p => p.2.length)).foldl (· + ·) 0
      s.underBudget c ix o n o.srcs (fun s =>
        let s := (s.budgetCharge c o n o.srcs).usedParts o.srcs
        match m.tensor (gatherRead l) with
        | .error _ => s.copyStuck c ix (.fail ((o.srcs.map CPiece.phys).headD 0) true)
        | .ok (b, f) =>
          s.modCopy c ix (fun o =>
            { o with held := some b, streams := [beatsOf [] (cutPieces o.dsts 0 b.length) 0], dsts := [], flags := o.flags ||| f, due := t }))

/-! ## Beats -/

/-- The bytes of a beat, with the flags they set. -/
def State.beatBytes (s : State) (c : Nat) (o : CopyOp) (b : Beat) : State × Got × Nat :=
  match o.kind, o.held with
  | .fill pat, _ => (s, .bytes ((List.range b.len).map (fun i => pat.getD ((b.off + i) % 8) 0)), 0)
  | _, some h => (s, .bytes ((h.drop b.off).take b.len), 0)
  | .cmut m, none =>
    let wb := fmtWidth (layoutFmt m.lay) / 8
    let lo := b.off / wb * wb
    let n := (b.off + b.len + wb - 1) / wb * wb - lo
    let ps := cutPieces o.srcs lo n
    (match s.readParts c o.group ps with
      | (s, .bytes x) =>
        let (y, f) := m.run (lo / wb) x
        (s.usedParts ps, .bytes ((y.drop (b.off - lo)).take b.len), f)
      | (s, g) => (s, g, 0))
  | _, none =>
    (match s.readParts c o.group b.srcs with
      | (s, .bytes x) => (s.usedParts b.srcs, .bytes x, 0)
      | (s, g) => (s, g, 0))

/-- What an engine's write of a beat comes to: written, and acknowledged after some clk (R270); sent to a mesh address of another
package, which will acknowledge it; not yet; or a response error. -/
inductive Put where
  | done (ack : Nat)
  | away (phys : Nat)
  | hold
  | fail
  deriving DecidableEq, Repr

/-- Bytes written into a core's memory by an engine of another requester or its own. -/
def State.engineStore (s : State) (home writer phys : Nat) (bytes : List Byte) : State × Put :=
  match (if writer = home then 0 else s.gate home writer) with
  | 0 =>
    if s.bankTaken home (offOf phys) then (s, .hold)
    else
      let hand := s.hand
      let (t, l) := { s with hand := { hand with core := home } }.writeHome writer (keyOf phys) bytes none none
      ({ t with hand := hand }, .done l)
  | 1 => (s, .hold)
  | _ => (s.dieDown home writer phys, .fail)

/-- Aligned 8-byte writes of device registers. -/
def State.devPut (s : State) (fn core off : Nat) (bytes : List Byte) : State × Put :=
  if off % 8 ≠ 0 ∨ bytes.length % 8 ≠ 0 then (s, .fail)
  else
    let (s, bad) := (List.range (bytes.length / 8)).foldl
      (fun (acc : State × Bool) (i : Nat) =>
        let (t, b) := acc.1.devWrite8 fn core (off + 8 * i) (leNat ((bytes.drop (8 * i)).take 8))
        (t, acc.2 || b)) (s, false)
    (s, if bad then .fail else .done 0)

/-- A write into device control space or the host (R441, R473). -/
def State.putDevice (s : State) (c phys : Nat) (bytes : List Byte) : State × Put :=
  let off := phys % 2 ^ 42
  if hostBase ≤ off ∧ !s.hostUp ((off - hostBase) / 2 ^ 40) then (s, .fail)
  else if hostBase ≤ off then (s.emit .host ((off - hostBase) / 2 ^ 40) ((off - hostBase) % 2 ^ 40) bytes, .done 0)
  else if inContribution phys then
    if off % 256 ≠ 0 ∨ bytes.length ≠ 256 then (s, .fail)
    else match s.contribute ((off - 0x1000000) / 0x1000000) ((off - 0x1000000) % 0x1000000 / 256) bytes with
      | some t => (t, .done 0)
      | none => (s, .fail)
  else s.devPut ((s.core c).ctx.getD 64) c off bytes

/-- Writes bytes where a beat goes. -/
def State.putBeat (s : State) (c phys : Nat) (bytes : List Byte) : State × Put :=
  if !s.isHere phys then
    if s.reaches (phys / 2 ^ 44) then (s.emit .chip (phys / 2 ^ 44) phys bytes, .away phys) else (s, .fail)
  else match spaceOf phys with
    | 0 => s.engineStore (coreOf phys) c phys bytes
    | 1 =>
      if s.placeUp (keyOf phys) bytes.length then (s.memStore (keyOf phys) bytes none, .done 0)
      else (s.stackDown (keyOf phys) bytes.length c phys, .fail)
    | _ => s.putDevice c phys bytes

/-- SEQ of a scratchpad line becomes the SENDTAG when an operation has written its last byte of the line (R262). -/
def State.sealLine (s : State) (o : CopyOp) (phys : Nat) : State :=
  let key := keyOf phys
  if !s.isHere phys || spaceOf phys != 0 || 3 ≤ bankOf (offOf phys) then s
  else if o.streams.any (fun l => l.any (fun b => b.dst / 128 == phys / 128)) then s
  else s.setLine key { s.lineAt key with seq := o.tag }

/-- Is queue 7 of this core a collective's (R442)? -/
def State.collOwned (s : State) (c q : Nat) : Bool :=
  q == 7 && s.colls.any (fun e => e.2.en && e.2.home == (c - 4096) / 8 && decide (4096 ≤ c))

/-- A vector sent to a receive queue (R259): it leaves when the queue has room for it and for those on their way. -/
def State.putVector (s : State) (c ix target q : Nat) (bytes : List Byte) : State × Put :=
  let f := target / 2 ^ 15
  let home := target % 8192
  if f ≠ s.chip then
    let a := f * 2 ^ 44 + coreKey home 0 + q
    if s.reaches f then (s.emit .chip f a bytes, .away a) else (s, .fail)
  else if s.collOwned home q then (s, .fail)
  else match (if home = c then 0 else s.gate home c) with
    | 0 =>
      let toIt (m : Msg) : Bool := m.dst == home && (match m.body with
        | .vector _ _ j _ => j == q
        | _ => false)
      if 16 ≤ ((s.core home).recvQ q).vecs.length + s.msgs.countP toIt then (s, .hold)
      else
        let t := { s with hand := { s.hand with core := c } }
        (t.sendAfter (fun m => m.src == c && toIt m) 0 home (.vector c ix q (vOfBytes bytes)), .done 0)
    | 1 => (s, .hold)
    | _ => (s.dieDown home c (s.phys (coreKey home 0)), .fail)

/-- Where a beat of an operation goes. -/
def State.putOf (s : State) (c ix : Nat) (o : CopyOp) (b : Beat) (bytes : List Byte) : State × Put :=
  match o.kind with
  | .sendq target q => s.putVector c ix target q bytes
  | _ => s.putBeat c b.dst bytes

/-- After a beat is written: the next one, through Device and Strongly ordered pages not before the acknowledgement (R279); the
line's SEQ, the watch (R262, R458). -/
def State.beatDone (s : State) (c ix : Nat) (b : Beat) (flags ack : Nat) : State :=
  let t := s.clk + 1 + (if 2 ≤ b.mt then ack else 0)
  let at_ := s.clk + ack
  let next (o : CopyOp) : CopyOp :=
    match o.streams.filter (fun l => !l.isEmpty) with
    | l :: rest =>
      { o with streams := rest ++ [l.drop 1], due := t, asked := false, stall := none, flags := o.flags ||| flags,
               acked := max o.acked at_, away := none }
    | [] => o
  let s := s.modCopy c ix next
  match s.copyOf c ix with
  | none => s
  | some o =>
    let queue : Bool := match o.kind with
      | .sendq .. => true
      | _ => false
    if ix = 0 ∨ queue then s
    else
      let s := s.sealLine o b.dst
      match (s.core c).watchHit b.dst b.len [22] false with
      | none => s
      | some i => (s.watchReport c i b.dst (o.group * 256 + 16 + 4)).modCopy c ix (fun o => { o with stall := some i })

/-- The next beat of a copy, of the first of its targets that has one. -/
def State.copyBeat (s : State) (c ix : Nat) (o : CopyOp) : State :=
  match o.streams.find? (fun l => !l.isEmpty) with
  | none => s
  | some [] => s
  | some (b :: _) =>
    let reach := b.srcs ++ (match o.kind with
      | .sendq .. => []
      | _ => [⟨b.dst, b.dva, b.len, false, b.mt⟩])
    s.underBudget c ix o b.len reach (fun s =>
      match s.beatBytes c o b with
      | (s, .bytes x, f) =>
        (match s.putOf c ix o b x with
          | (s, .done l) =>
            let (l, s) := if 2 ≤ b.mt then (let (d, s) := s.draw; (l + d, s)) else (l, s)
            (s.budgetCharge c o b.len reach).beatDone c ix b f l
          | (s, .away a) =>
            (s.budgetCharge c o b.len reach).modCopy c ix (fun o => { o with away := some a, flags := o.flags ||| f })
          | (s, .hold) =>
            let t := s.clk + 1
            s.modCopy c ix (fun o => { o with due := t, streams := match o.streams.filter (fun l => !l.isEmpty) with
              | l :: rest => rest ++ [l]
              | [] => [] })
          | (s, .fail) => s.copyStuck c ix (.fail (b.dva.getD b.dst) b.dva.isNone))
      | (s, g, _) => s.copyStuck c ix g)

/-- The beat that waits for another package's acknowledgement has an error response. -/
def State.awayFails (s : State) (c ix : Nat) (o : CopyOp) : State :=
  match o.streams.find? (fun l => !l.isEmpty) with
  | some (b :: _) =>
    (s.modCopy c ix (fun o => { o with away := none })).copyStuck c ix (.fail (b.dva.getD b.dst) b.dva.isNone)
  | _ => s

/-- What a copy does next. -/
def State.copyGo (s : State) (c ix : Nat) : State :=
  match s.copyOf c ix with
  | none => s
  | some o =>
    if o.away.isSome then s.awayFails c ix o
    else
    match o.kind, o.held, o.dsts.isEmpty with
    | .cmut m, _, false => s.copyMutate c ix o m
    | _, none, _ => if o.whole then s.copyWhole c ix o else s.copyBeat c ix o
    | _, _, _ => s.copyBeat c ix o

/-- Another package has acknowledged a beat or a vector of a core's copy, or answered with an error: of those that wait for this
address, the first that began (R250, log entry 5). -/
def State.beatAnswered (s : State) (c phys : Nat) (bad : Bool) : State :=
  let k := s.core c
  let l := (match k.incoming with
    | some x => [(0, x.op)]
    | none => []) ++ k.descs.map (fun d => (d.1 + 1, d.2))
  let first := (l.filter (fun p => p.2.away == some phys)).foldl (fun (b : Option (Nat × CopyOp)) p => match b with
    | none => some p
    | some q => if p.2.since < q.2.since then some p else b) none
  match first with
  | none => s
  | some (ix, o) =>
    if bad then s.awayFails c ix o
    else match o.streams.find? (fun l => !l.isEmpty) with
    | some (b :: _) => s.beatDone c ix b 0 0
    | _ => s

/-- A beat from another package: `ix` is the requester, `a` the mesh address, `b` its SENDTAG and, with 256 added, that the
line is then whole; it comes again in the next clk while it is held. -/
def State.foreignBeat (s : State) : State :=
  let a := s.hand.arg
  let again : Input := ⟨s.clk + 1, .copyBeatWrite, a⟩
  let from_ := a.ix / 8192 - 1
  match s.putBeat a.ix a.a a.bytes with
  | (s, .done l) =>
    let key := keyOf a.a
    let s := if spaceOf a.a = 0 ∧ bankOf (offOf a.a) < 3 ∧ 256 ≤ a.b then s.setLine key { s.lineAt key with seq := a.b % 256 } else s
    s.emitIn l .chip from_ a.a [0]
  | (s, .hold) => { s with inputs := again :: s.inputs }
  | (s, _) => s.emit .chip from_ a.a []

/-- COPY_BEAT_WRITE (R250): the engine's next beat, or what it has to read before its first. From outside: a beat of another
package's engine, which `ix` names as a requester; or, with `b` 1 an error and with `b` 2 none, what another package answers to a
beat of the core `ix` that went to the mesh address `a`. -/
def execCopyBeatWrite (s : State) : Res :=
  .next (if 8192 ≤ s.hand.core then s.foreignBeat
    else if s.hand.arg.b ≠ 0 then s.beatAnswered s.hand.core s.hand.arg.a (s.hand.arg.b == 1)
    else s.copyGo s.hand.core s.hand.arg.ix)

/-- RECEIVE_QUEUE_PUSH (R259): a vector enters a receive queue, or comes again in the next clk while that is full. From
another package `ix` is the core, `a` the queue and `b` the requester, which is answered; to queue 7 of an enabled collective with an
error (R442). -/
def execReceiveQueuePush (s : State) : Res :=
  let c := s.hand.core
  match s.hand.msg with
  | some (.vector src ix q bits) =>
    (match s.rqPush c q bits with
      | some t => .next t
      | none =>
        let late (m : Msg) : Msg := match m.body with
          | .vector _ _ j _ => if m.dst = c ∧ j = q then { m with due := max m.due (s.clk + 1) } else m
          | _ => m
        let again : Msg := ⟨s.clk + 1, src, c, .vector src ix q bits⟩
        .next { s with msgs := again :: s.msgs.map late })
  | _ =>
    let a := s.hand.arg
    let at_ := s.phys (coreKey a.ix 0 + a.a)
    let answer (s : State) (l : List Byte) : State := if 8192 ≤ a.b then s.emit .chip (a.b / 8192 - 1) at_ l else s
    let gate := s.gate a.ix a.b
    if s.collOwned a.ix a.a ∨ !coreExists a.ix then .next (answer s [])
    else if gate = 2 then .next (answer (s.dieDown a.ix a.b at_) [])
    else match (if gate = 0 then s.rqPush a.ix a.a (vOfBytes a.bytes) else none) with
    | some t => .next (answer t [0])
    | none =>
      let again : Input := ⟨s.clk + 1, .receiveQueuePush, a⟩
      .next { s with inputs := again :: s.inputs }

/-! ## Completion -/

/-- Has a copy operation written everything, is it acknowledged, and have its vectors entered their queue? -/
def State.copyOver (s : State) (c ix : Nat) (o : CopyOp) : Bool :=
  let mine (m : Msg) : Bool := match m.body with
    | .vector x j _ _ => x == c && j == ix
    | _ => false
  !o.open_ && decide (o.due ≤ s.clk) && decide (o.acked ≤ s.clk) && s.msgs.all (fun m => !mine m)

/-- COPY_COMPLETE (R245, R250): the descriptor is free; the slot, the group's count and its range-lock entry go down, its
flags are written, and a response error is reported. `ix` is one more than the descriptor. -/
def execCopyComplete (s : State) : Res :=
  let c := s.hand.core
  let d := s.hand.arg.ix - 1
  match mapGet s.me.descs d with
  | none => .next s
  | some o =>
    let clk := s.clk
    let s := s.modMe (fun k =>
      let g := mapGetD k.groups o.group ⟨0, none⟩
      let g' : CopyGroup := ⟨g.count - 1, if o.err.isSome then some clk else g.fault⟩
      let k := { k with descs := mapDel k.descs d, groups := mapPut k.groups o.group g' }.setFlags s.clk o.flags
      let k := if g'.count = 0 then
          { k with locks := k.locks.filter (fun p => p.2.owner != LockOwner.group o.group) } else k
      k.slotDec clk o.slot)
    match o.err with
    | none => .next s
    | some (addr, phys) => .next (s.engineFault c 0 addr (o.group * 16 + (if phys then 256 else 0)))

/-- The copies of every core, each with its number. -/
def State.copies (s : State) : List (Nat × (Nat × CopyOp)) :=
  s.cores.flatMap (fun p =>
    (match p.2.incoming with
      | some x => [(p.1, (0, x.op))]
      | none => []) ++ p.2.descs.map (fun d => (p.1, (d.1 + 1, d.2))))

/-- The next beat, of the copy that began first (R394). -/
def copyStep (s : State) : Agenda :=
  let first := s.copies.foldl (fun (b : Option (Nat × (Nat × CopyOp))) (x : Nat × (Nat × CopyOp)) =>
    if !s.beatReady x.1 x.2.2 then b
    else match b with
      | none => some x
      | some y => if x.2.2.since < y.2.2.since then some x else b) none
  first.map (fun x => (s.onEvent x.1 (argIx x.2.1) none, [.copyBeatWrite]))

end Sys2Proof.Machine
end

