-- ==== Sys2Proof/Machine/Group.lean ====
section
/-! DEFINITION. Follower sets (R360 to R366): FOLLOW and DETACH, and the events of following. -/

namespace Sys2Proof.Machine

/-- Does a core belong to the launch group of another, on its die? -/
def State.peerOk (s : State) (c t : Nat) : Bool :=
  match s.launch (s.core c).launch with
  | some l => l.cores.contains t && dieOf t == dieOf c
  | none => false

/-- FOLLOW to a leader, or to none when it cannot be resolved (R363). Stage 0 sends the request; stage 1 waits until six
clk after its dispatch, with one more than the status in `mark`, or 0 while the reply has not come. -/
def State.follow (s : State) (gd : GReg) (t : Option Nat) : State :=
  let c := s.hand.core
  let k := s.me
  if k.block.isSome then s.trap causeILLEGAL 0 0
  else if s.hand.stage = 0 then
    let hold (s : State) (mark : Nat) : State := s.sWait false 1 mark (s.clk + 6) none
    if k.mode ≠ 0 ∨ k.pendFol then hold s 5
    else if t = some c then hold s 2
    else match t with
      | some t =>
        if s.peerOk c t then hold ((s.modMe (fun k => { k with pendFol := true })).send 2 t .followReq) 0 else hold s 3
      | none => hold s 3
  else
    let st := s.hand.mark - 1
    let s := if st = 0 then s.modMe (fun k => { k with mode := 3, detached := false }) else s
    (s.modMe (fun k => { k with pendFol := if st = 4 then k.pendFol else false })).sDone [.g gd (GVal.data (BitVec.ofNat 64 st))]

/-- FOLLOW (R363): the leader by its number, the whole value unsigned. -/
def execFollow (gd : GReg) (leader : GJ) (s : State) : Res :=
  s.sGuarded (fun s =>
    let t := match leader with
      | .reg g => (s.me.rgv g).toNat
      | .joined v => v
    s.follow gd (some t))

/-- FOLLOW.REL (R363): the leader by its row and column deltas (R61, R362). -/
def execFollowRel (gd : GReg) (spec : Int) (s : State) : Res :=
  s.sGuarded (fun s =>
    let x := spec.toNat
    s.follow gd (relCore (s.me.cv crRECT).toNat (fld x 5 8 * 2 ^ 34 + fld x 0 5 * 2 ^ 29)))

/-- DETACH (R364). -/
def execDetach (s : State) : Res :=
  s.sGuarded (fun s =>
    let c := s.hand.core
    let k := s.me
    if k.block.isSome then s.trap causeILLEGAL 0 0
    else if k.mode = 1 then
      let s := k.followers.foldl (fun s f => s.modCore f (fun k => { k with mode := 0 })) s
      (s.modMe (fun k => { k with mode := 0, followers := [] })).sDone []
    else if k.mode = 0 then s.sDone []
    else
      let s := s.leaveLeader c
      (s.modMe (fun k => { k with mode := 0, fwd := [] })).sDone [])

/-- FOLLOW_REQUEST (R363): at the leader, two clk after its dispatch; the reply comes three clk later. -/
def execFollowRequest (s : State) : Res :=
  let t := s.hand.core
  let f := s.hand.arg.ix
  let k := s.me
  if k.mode = 2 ∨ k.mode = 3 ∨ k.pendFol ∨ 15 ≤ k.followers.length then
    .next { s with msgs := s.msgs ++ [⟨s.clk + 3, t, f, .followReply 3⟩] }
  else
    let s := s.modMe (fun k => { k with mode := 1, followers := k.followers ++ [f] })
    let s := s.modCore f (fun k => { k with peer := t, fwd := [] })
    .next { s with msgs := s.msgs ++ [⟨s.clk + 3, t, f, .followReply 0⟩] }

/-- FOLLOW_REPLY (R363): the reply waits for the end of the hold. -/
def execFollowReply (s : State) : Res :=
  match s.hand.msg with
  | some (.followReply st) =>
    .next (s.modMe (fun k =>
      match k.held with
      | some h => { k with held := some { h with mark := st + 1 } }
      | none => k))
  | _ => .next s

/-- FORWARDED_WORD_DISPATCH (R44): the oldest word leaves the follower's buffer; it is dispatched in the same clk. -/
def execForwardedWordDispatch (s : State) : Res := .next (s.modMe (fun k => { k with fwd := k.fwd.drop 1 }))

/-- LEADER_END_DETACH (R365): a follower that is not attached when its leader's unit ends is detached with reason END. -/
def execLeaderEndDetach (s : State) : Res :=
  let k := s.me
  .next (if k.mode = 2 ∨ k.mode = 3 then s.followDetach s.hand.core 2 else s)

/-- A follower has left: its leader counts one fewer, and leads no more when none is left (R364 to R366). -/
def State.followerGone (s : State) (leader f : Nat) : State :=
  s.modCore leader (fun k =>
    let l := k.followers.filter (· != f)
    { k with followers := l, mode := if l.isEmpty ∧ k.mode = 1 then 0 else k.mode })

end Sys2Proof.Machine
end

