-- ==== Sys2Proof/Machine/Integer.lean ====
section
/-! DEFINITION. The integer instructions, opcodes 0x20 to 0x39 (R165 to R170). Each issues in the I column; its g result
is data with tag 0 (R164), except MOV and SEL. -/

namespace Sys2Proof.Machine

/-- Issues an I instruction that writes data to gd with a latency and an occupancy (R35, R164). -/
def State.intResult (s : State) (lat occ : Nat) (gd : GReg) (v : Word) : State := s.issue colI lat occ 0 [.g gd (GVal.data v)]

/-- A two-operand I instruction of latency 1. -/
def execInt2 (f : Word → Word → Word) (gd ga : GReg) (b : GImm) (s : State) : Res :=
  s.guarded colI (fun s => s.intResult 1 1 gd (f (s.me.rgv ga) (s.me.gimm b)))

/-- A one-operand I instruction of latency 1. -/
def execInt1 (f : Word → Word) (gd ga : GReg) (s : State) : Res :=
  s.guarded colI (fun s => s.intResult 1 1 gd (f (s.me.rgv ga)))

/-- The amount of a shift: b mod 64 (R166). -/
def shiftBy (b : Word) : Nat := b.toNat % 64

/-- The high half of the product (R166). -/
def mulHigh (kind : MulhKind) (a b : Word) : Word :=
  match kind with
  | .ss => wordOfInt (a.toInt * b.toInt / 2 ^ 64)
  | .uu => BitVec.ofNat 64 (a.toNat * b.toNat / 2 ^ 64)
  | .su => wordOfInt (a.toInt * (b.toNat : Int) / 2 ^ 64)

/-- The quotient, toward zero, with the fixed corners of R167. -/
def quotient (u : Bool) (a b : Word) : Word :=
  if b = 0 then BitVec.allOnes 64
  else if u then BitVec.ofNat 64 (a.toNat / b.toNat)
  else wordOfInt (a.toInt.tdiv b.toInt)

/-- The remainder, with the sign of the dividend and the corners of R167. -/
def remainder (u : Bool) (a b : Word) : Word :=
  if b = 0 then a
  else if u then BitVec.ofNat 64 (a.toNat % b.toNat)
  else wordOfInt (a.toInt.tmod b.toInt)

def minWord (u : Bool) (a b : Word) : Word :=
  if u then (if a.toNat ≤ b.toNat then a else b) else (if a.toInt ≤ b.toInt then a else b)
def maxWord (u : Bool) (a b : Word) : Word :=
  if u then (if a.toNat ≤ b.toNat then b else a) else (if a.toInt ≤ b.toInt then b else a)

/-- Leading zero bits; 64 for zero (R166). -/
def leadingZeros (a : Word) : Word := if a = 0 then 64 else BitVec.ofNat 64 (63 - a.toNat.log2)

/-- Trailing zero bits among the lowest n. -/
def trailingAux : Nat → Nat → Nat
  | 0, _ => 0
  | n + 1, x => if x % 2 = 1 then 0 else 1 + trailingAux n (x / 2)

def trailingZeros (a : Word) : Word := BitVec.ofNat 64 (trailingAux 64 a.toNat)

/-- One bits of the lowest n. -/
def onesAux : Nat → Nat → Nat
  | 0, _ => 0
  | n + 1, x => x % 2 + onesAux n (x / 2)

def onesCount (a : Word) : Word := BitVec.ofNat 64 (onesAux 64 a.toNat)

/-- BFX (R168): the field at lsb of the width, zero- or sign-extended. -/
def fieldExtract (spec : Nat) (a : Word) : Word :=
  let w := fld spec 6 6 + 1
  let v := fld a.toNat (fld spec 0 6) w
  if fld spec 12 1 = 1 then wordOfInt (sext w v) else BitVec.ofNat 64 v

/-- BFI (R168): the old register with the field replaced by the low bits of a. -/
def fieldInsert (spec : Nat) (a old : Word) : Word :=
  BitVec.ofNat 64 (setFld old.toNat (fld spec 0 6) (fld spec 6 6 + 1) a.toNat)

/-- The 32 bits MOVHI writes: a short immediate is sign-extended to 32 bits first (R166). -/
def immJ32 : ImmJ → Nat
  | .imm v => wrap 32 v
  | .joined v => v % 2 ^ 32

/-- The immediate MOVI writes (R166). -/
def immJ64 : ImmJ → Word
  | .imm v => wordOfInt v
  | .joined v => wordOfInt (sext 32 v)

/-- The conditions of CMP (R169). -/
def cmpHolds (c : CmpCond) (a b : Word) : Bool :=
  match c with
  | .eq => a == b
  | .ne => a != b
  | .lt => decide (a.toInt < b.toInt)
  | .le => decide (a.toInt ≤ b.toInt)
  | .gt => decide (b.toInt < a.toInt)
  | .ge => decide (b.toInt ≤ a.toInt)
  | .ltu => decide (a.toNat < b.toNat)
  | .leu => decide (a.toNat ≤ b.toNat)
  | .gtu => decide (b.toNat < a.toNat)
  | .geu => decide (b.toNat ≤ a.toNat)
  | .tst => (a &&& b) != 0

/-- ADD (R166). -/
def execAdd (gd ga : GReg) (b : GImm) (s : State) : Res := execInt2 (· + ·) gd ga b s
/-- SUB (R166). -/
def execSub (gd ga : GReg) (b : GImm) (s : State) : Res := execInt2 (· - ·) gd ga b s
/-- MUL (R166): latency 3. -/
def execMul (gd ga : GReg) (b : GImm) (s : State) : Res :=
  s.guarded colI (fun s => s.intResult 3 1 gd (s.me.rgv ga * s.me.gimm b))
/-- MULH (R166): latency 3. -/
def execMulh (kind : MulhKind) (gd ga : GReg) (b : GImm) (s : State) : Res :=
  s.guarded colI (fun s => s.intResult 3 1 gd (mulHigh kind (s.me.rgv ga) (s.me.gimm b)))
/-- DIV (R167): latency and occupancy 18. -/
def execDiv (u : Bool) (gd ga : GReg) (b : GImm) (s : State) : Res :=
  s.guarded colI (fun s => s.intResult 18 18 gd (quotient u (s.me.rgv ga) (s.me.gimm b))) 18
/-- REM (R167): latency and occupancy 18. -/
def execRem (u : Bool) (gd ga : GReg) (b : GImm) (s : State) : Res :=
  s.guarded colI (fun s => s.intResult 18 18 gd (remainder u (s.me.rgv ga) (s.me.gimm b))) 18
/-- AND (R166). -/
def execAnd (gd ga : GReg) (b : GImm) (s : State) : Res := execInt2 (· &&& ·) gd ga b s
/-- OR (R166). -/
def execOr (gd ga : GReg) (b : GImm) (s : State) : Res := execInt2 (· ||| ·) gd ga b s
/-- XOR (R166). -/
def execXor (gd ga : GReg) (b : GImm) (s : State) : Res := execInt2 (· ^^^ ·) gd ga b s
/-- ANDN (R166). -/
def execAndn (gd ga : GReg) (b : GImm) (s : State) : Res := execInt2 (fun a b => a &&& ~~~b) gd ga b s
/-- SHL (R166). -/
def execShl (gd ga : GReg) (b : GImm) (s : State) : Res := execInt2 (fun a b => a <<< shiftBy b) gd ga b s
/-- SHR (R166). -/
def execShr (gd ga : GReg) (b : GImm) (s : State) : Res := execInt2 (fun a b => a >>> shiftBy b) gd ga b s
/-- SRA (R166). -/
def execSra (gd ga : GReg) (b : GImm) (s : State) : Res := execInt2 (fun a b => a.sshiftRight (shiftBy b)) gd ga b s
/-- ROT (R166). -/
def execRot (gd ga : GReg) (b : GImm) (s : State) : Res := execInt2 (fun a b => a.rotateRight (shiftBy b)) gd ga b s
/-- MIN (R166). -/
def execMin (u : Bool) (gd ga : GReg) (b : GImm) (s : State) : Res := execInt2 (minWord u) gd ga b s
/-- MAX (R166). -/
def execMax (u : Bool) (gd ga : GReg) (b : GImm) (s : State) : Res := execInt2 (maxWord u) gd ga b s
/-- CLZ (R166). -/
def execClz (gd ga : GReg) (s : State) : Res := execInt1 leadingZeros gd ga s
/-- CTZ (R166). -/
def execCtz (gd ga : GReg) (s : State) : Res := execInt1 trailingZeros gd ga s
/-- POPC (R166). -/
def execPopc (gd ga : GReg) (s : State) : Res := execInt1 onesCount gd ga s
/-- BFX (R168). -/
def execBfx (gd ga : GReg) (spec : Nat) (s : State) : Res := execInt1 (fieldExtract spec) gd ga s
/-- BFI (R168). -/
def execBfi (gd ga : GReg) (spec : Nat) (s : State) : Res :=
  s.guarded colI (fun s => s.intResult 1 1 gd (fieldInsert spec (s.me.rgv ga) (s.me.rgv gd)))
/-- MOVI (R166). -/
def execMovi (gd : GReg) (v : ImmJ) (s : State) : Res := s.guarded colI (fun s => s.intResult 1 1 gd (immJ64 v))
/-- MOVHI (R166). -/
def execMovhi (gd : GReg) (v : ImmJ) (s : State) : Res :=
  s.guarded colI (fun s => s.intResult 1 1 gd (BitVec.ofNat 64 (immJ32 v * 2 ^ 32 + (s.me.rgv gd).toNat % 2 ^ 32)))
/-- MOV (R52, R166): all 129 bits. -/
def execMov (gd ga : GReg) (s : State) : Res := s.guarded colI (fun s => s.issue colI 1 1 0 [.g gd (s.me.rg ga)])
/-- CMP (R169). -/
def execCmp (c : CmpCond) (qd : QReg) (ga : GReg) (b : GImm) (s : State) : Res :=
  s.guarded colI (fun s => s.issue colI 1 1 0 [.q qd (cmpHolds c (s.me.rgv ga) (s.me.gimm b))])
/-- SEL (R170): all 129 bits. -/
def execSel (q : QReg) (gd ga gb : GReg) (s : State) : Res :=
  s.guarded colI (fun s => s.issue colI 1 1 0 [.g gd (if s.me.rq q then s.me.rg ga else s.me.rg gb)])

end Sys2Proof.Machine
end

