-- ==== Sys2Proof/Machine/Special.lean ====
section
/-! DEFINITION. The X column (R221 to R227): conversion into and out of L16, addition in the log domain, exponential,
logarithm, reciprocals and activation functions, each through the tables. -/

namespace Sys2Proof.Machine

/-! ## L16 (R224, R225) -/

/-- VTOLOG (R224). -/
def execVtolog (f : VFn) (vd va : VReg) (p : Nat) (s : State) : Res :=
  let fn (x : Nat) : Nat × Nat :=
    if elemAbsent f.fmt x then (absentCode .l16, 0)
    else
      let a := readElem f.fmt x
      let (y, g) := l16Write a
      (y, g ||| a.sigFlag)
  s.vGuarded colX [va] (fun s => s.vOne colX 8 1 (fun s => s.vParts vd va f.fmt .l16 p f.policy fn))

/-- VFRLOG (R224). -/
def execVfrlog (f : VFn) (vd va : VReg) (p : Nat) (s : State) : Res :=
  let fn (x : Nat) : Nat × Nat := if elemAbsent .l16 x then (absentCode f.fmt, 0) else vRound f (l16Read x, 0)
  s.vGuarded colX [va] (fun s => s.vOne colX 8 1 (fun s => s.vParts vd va .l16 f.fmt p f.policy fn))

/-- The log-domain sum of two present codes (R225). -/
def logAdd (a b : Nat) : Nat × Nat :=
  if a = 0x4000 then (b, 0)
  else if b = 0x4000 then (a, 0)
  else
    let sa := fld a 15 1 == 1
    let sb := fld b 15 1 == 1
    let ka := sext 15 a
    let kb := sext 15 b
    if sa = sb then
      let y := (gaussLog (ka - kb).natAbs).mul ⟨1, 32⟩
      l16Clamp sa (max ka kb + y.roundNE) (!y.isInt)
    else
      let sg (n : Bool) (v : Frac) : Frac := if n then v.neg else v
      let x := (sg sa (pow2L ka)).add (sg sb (pow2L kb))
      let (r, fl) := roundF32 (.ofFrac false x)
      if r.isZero then (0x4000, fl)
      else let (y, g) := l16Write r; (y, fl ||| g)

/-- VLADD on two elements (R99, R225). -/
def vlAdd (f : VFn) : List Nat → Nat × Nat
  | [a, b] =>
    match elemAbsent .l16 a, elemAbsent .l16 b with
    | true, true => (absentCode .l16, 0)
    | true, false => if f.pass then (b, 0) else (absentCode .l16, 0)
    | false, true => if f.pass then (a, 0) else (absentCode .l16, 0)
    | false, false => logAdd a b
  | _ => (0, 0)

/-- VLADD (R225). -/
def execVladd (f : VFn) (d a b : VSM) (s : State) : Res := execMap colX 8 f d [(4, a), (5, b)] (vlAdd f) s

/-! ## Exponential, logarithm, reciprocals (R226) -/

/-- A rounding to an integer, with INX when it discards something. -/
def roundK (x : Frac) : Int × Nat := (x.roundNE, flagIf (!x.isInt) flagINX)

def clampTo (b k : Int) : Int := max (-b) (min b k)

/-- An infinity of a format, whatever SAT holds. -/
def vInf (f : VFn) (neg : Bool) (fl : Nat) : Nat × Nat := ((writeElem f.fmt false false (.inf neg)).1, fl)

/-- VEXP2 on a present element. -/
def exp2Elem (f : VFn) (x : Num) : Nat × Nat :=
  match x with
  | .nan _ => vRound f (x, x.sigFlag)
  | .inf n => if n then vRound f (.zero false, 0) else vInf f false 0
  | _ =>
    let (k, fl) := roundK (x.frac.mul ⟨1024, 1⟩)
    vRound f (.ofFrac false (pow2L (clampTo (2 ^ 20) k)), fl)

/-- VLOG2 on a present element. -/
def log2Elem (f : VFn) (x : Num) : Nat × Nat :=
  match x with
  | .nan _ => vRound f (x, x.sigFlag)
  | .inf n => if n then vRound f (.nan false, flagINV) else vInf f false 0
  | _ =>
    if x.isZero then vInf f true flagDZ
    else if x.sign then vRound f (.nan false, flagINV)
    else vRound f (.ofFrac false ((logReal x).mul ⟨1, 1024⟩), 0)

/-- VRCP on a present element. -/
def rcpElem (f : VFn) (x : Num) : Nat × Nat :=
  match x with
  | .nan _ => vRound f (x, x.sigFlag)
  | .inf n => vRound f (.zero n, 0)
  | _ =>
    if x.isZero then vInf f x.sign flagDZ
    else
      let (k, fl) := roundK (logReal x)
      let p := pow2L (-k)
      vRound f (.fin x.sign p.n.natAbs p.d, fl)

/-- VRSQ on a present element. -/
def rsqElem (f : VFn) (x : Num) : Nat × Nat :=
  match x with
  | .nan _ => vRound f (x, x.sigFlag)
  | .inf n => if n then vRound f (.nan false, flagINV) else vRound f (.zero false, 0)
  | _ =>
    if x.isZero then vInf f x.sign flagDZ
    else if x.sign then vRound f (.nan false, flagINV)
    else
      let (k, fl) := roundK (logReal x)
      vRound f (.ofFrac false (pow2L (-(k / 2))), fl)

/-- A one-source X instruction, strict under R99. -/
def execX1 (f : VFn) (d a : VSM) (fn : Num → Nat × Nat) (s : State) : Res :=
  execMap colX 8 f d [(4, a)] (on1 (fun x => if elemAbsent f.fmt x then (absentCode f.fmt, 0) else fn (readElem f.fmt x))) s

/-- VEXP2 (R226). -/
def execVexp2 (f : VFn) (d a : VSM) (s : State) : Res := execX1 f d a (exp2Elem f) s
/-- VLOG2 (R226). -/
def execVlog2 (f : VFn) (d a : VSM) (s : State) : Res := execX1 f d a (log2Elem f) s
/-- VRSQ (R226). -/
def execVrsq (f : VFn) (d a : VSM) (s : State) : Res := execX1 f d a (rsqElem f) s
/-- VRCP (R226). -/
def execVrcp (f : VFn) (d a : VSM) (s : State) : Res := execX1 f d a (rcpElem f) s

/-! ## Activation functions (R227) -/

/-- The F32 constants LOG2E, LN2, 0.044715 and 2·√(2/π). -/
def cLOG2E : Frac := (specF32.read 0x3FB8AA3B).frac
def cLN2 : Frac := (specF32.read 0x3F317218).frac
def cCube : Frac := (specF32.read 0x3D372713).frac
def cScale : Frac := (specF32.read 0x3FCC422A).frac

def Frac.abs (a : Frac) : Frac := ⟨a.n.natAbs, a.d⟩

/-- u of SigL: RoundNE(1024·|z|·LOG2E), at most 2^20. -/
def sigU (z : Frac) : Nat × Nat :=
  let (u, fl) := roundK ((z.abs.mul cLOG2E).mul ⟨1024, 1⟩)
  (min u.toNat (2 ^ 20), fl)

/-- SigL from u and the sign of z. -/
def sigFrom (u : Nat) (neg : Bool) : Frac × Nat :=
  let w := if neg then (gaussLog u).add (.ofInt (32 * u)) else gaussLog u
  let (k, fl) := roundK (w.mul ⟨1, 32⟩)
  (pow2L (-k), fl)

/-- SigL (R227). -/
def sigL (z : Frac) : Frac × Nat :=
  let (u, fl) := sigU z
  let (r, g) := sigFrom u (z.n < 0)
  (r, fl ||| g)

/-- An F32 rounding inside GELU's argument: it may give an infinity, without a flag. -/
def geluRound (x : Num) : Num × Nat :=
  match roundF32 x with
  | (.inf n, _) => (.inf n, 0)
  | r => r

/-- A product in GELU's argument; an infinite factor stays infinite with the sign of the product. -/
def geluMul (a b : Num) : Num :=
  match a, b with
  | .fin .., .fin .. => .ofFrac (a.sign != b.sign) (a.frac.mul b.frac)
  | _, _ => .inf (a.sign != b.sign)

/-- GELU-tanh on a finite non-zero number: the exact result before its rounding, with flags. -/
def gelu (x : Num) : Num × Nat :=
  let (t, f1) := geluRound (geluMul x x)
  let (t, f2) := geluRound (geluMul (.ofFrac false cCube) t)
  let (t, f3) := geluRound (match t with
    | .inf n => .inf n
    | t => .ofFrac false (t.frac.add ⟨1, 1⟩))
  let (v, f4) := geluRound (geluMul x t)
  let (v, f5) := geluRound (geluMul v (.ofFrac false cScale))
  let (r, f6) := match v with
    | .inf n => sigFrom (2 ^ 20) n
    | v => sigL v.frac
  (.ofFrac x.sign (x.frac.mul r), f1 ||| f2 ||| f3 ||| f4 ||| f5 ||| f6)

/-- Softplus on a finite non-zero number. -/
def softplus (x : Num) : Num × Nat :=
  let (u, f1) := sigU x.frac
  if 16384 ≤ u then (if x.sign then .zero false else x, f1)
  else
    let w := if x.sign then gaussLog u else (gaussLog u).add (.ofInt (32 * u))
    (.ofFrac false ((w.mul ⟨1, 2 ^ 15⟩).mul cLN2), f1)

/-- VACT on a present element: 0 sigmoid, 1 tanh, 2 GELU-tanh, 3 softplus. -/
def actElem (f : VFn) (fn : Nat) (x : Num) : Nat × Nat :=
  match x with
  | .nan _ => vRound f (x, x.sigFlag)
  | .inf n =>
    match fn with
    | 0 => vRound f (if n then .zero false else .fin false 1 1, 0)
    | 1 => vRound f (.fin n 1 1, 0)
    | 2 => if n then vRound f (.zero true, 0) else vInf f false 0
    | _ => if n then vRound f (.zero false, 0) else vInf f false 0
  | _ =>
    if x.isZero then
      match fn with
      | 0 => vRound f (.fin false 1 2, 0)
      | 1 => vRound f (x, 0)
      | 2 => vRound f (x, 0)
      | _ => vRound f (.ofFrac false cLN2, 0)
    else
      match fn with
      | 0 => let (r, fl) := sigL x.frac; vRound f (.ofFrac false r, fl)
      | 1 =>
        if x.frac.abs.lt ⟨1, 64⟩ then vRound f (x, 0)
        else
          let (r, fl) := sigL (x.frac.abs.mul ⟨2, 1⟩)
          let y := (r.mul ⟨2, 1⟩).sub ⟨1, 1⟩
          vRound f (.ofFrac x.sign (if x.sign then y.neg else y), fl)
      | 2 => vRound f (gelu x)
      | _ => vRound f (softplus x)

/-- VACT (R227). -/
def execVact (f : VFn) (d a : VSM) (fn : Nat) (s : State) : Res := execX1 f d a (actElem f fn) s

end Sys2Proof.Machine
end

