-- ==== Sys2Proof/Machine/Dispatch.lean ====
section
/-! DEFINITION. One arm for each constructor of Instr: a direct call of its meaning. -/

namespace Sys2Proof.Machine

open Sys2Proof

def exec (i : Instr) (s : State) : Host.Outcome State Fault Refusal :=
  match i with
  | .nop => Sys2Proof.Machine.execNop s
  | .b off => Sys2Proof.Machine.execB off s
  | .br gn => Sys2Proof.Machine.execBr gn s
  | .call off => Sys2Proof.Machine.execCall off s
  | .callr gn => Sys2Proof.Machine.execCallr gn s
  | .ret gn => Sys2Proof.Machine.execRet gn s
  | .loop count endOff => Sys2Proof.Machine.execLoop count endOff s
  | .loopx qk count endOff => Sys2Proof.Machine.execLoopx qk count endOff s
  | .bengZ dk off => Sys2Proof.Machine.execBengZ dk off s
  | .bengNz dk off => Sys2Proof.Machine.execBengNz dk off s
  | .bengF e off => Sys2Proof.Machine.execBengF e off s
  | .bengFc e off => Sys2Proof.Machine.execBengFc e off s
  | .wait dk => Sys2Proof.Machine.execWait dk s
  | .waitAll => Sys2Proof.Machine.execWaitAll s
  | .rgn desc => Sys2Proof.Machine.execRgn desc s
  | .tblk blk => Sys2Proof.Machine.execTblk blk s
  | .tend => Sys2Proof.Machine.execTend s
  | .realign => Sys2Proof.Machine.execRealign s
  | .halt => Sys2Proof.Machine.execHalt s
  | .exit status => Sys2Proof.Machine.execExit status s
  | .trap code => Sys2Proof.Machine.execTrap code s
  | .trapEsc => Sys2Proof.Machine.execTrapEsc s
  | .eret => Sys2Proof.Machine.execEret s
  | .eretRgn => Sys2Proof.Machine.execEretRgn s
  | .bkpt code => Sys2Proof.Machine.execBkpt code s
  | .sleep n => Sys2Proof.Machine.execSleep n s
  | .qop f qd qa qb => Sys2Proof.Machine.execQop f qd qa qb s
  | .qmov qd qa => Sys2Proof.Machine.execQmov qd qa s
  | .qmovG qd gn => Sys2Proof.Machine.execQmovG qd gn s
  | .qmovI qd v => Sys2Proof.Machine.execQmovI qd v s
  | .qrd gd qk n => Sys2Proof.Machine.execQrd gd qk n s
  | .follow gd leader => Sys2Proof.Machine.execFollow gd leader s
  | .followRel gd spec => Sys2Proof.Machine.execFollowRel gd spec s
  | .followRequest => Sys2Proof.Machine.execFollowRequest s
  | .followReply => Sys2Proof.Machine.execFollowReply s
  | .detach => Sys2Proof.Machine.execDetach s
  | .forwardedWordDispatch => Sys2Proof.Machine.execForwardedWordDispatch s
  | .leaderEndDetach => Sys2Proof.Machine.execLeaderEndDetach s
  | .bararmRep id par => Sys2Proof.Machine.execBararmRep id par s
  | .bararmOnce id par => Sys2Proof.Machine.execBararmOnce id par s
  | .bararmFree id => Sys2Proof.Machine.execBararmFree id s
  | .bararv gd id => Sys2Proof.Machine.execBararv gd id s
  | .barwt id tok => Sys2Proof.Machine.execBarwt id tok s
  | .baraw id => Sys2Proof.Machine.execBaraw id s
  | .snap id gb => Sys2Proof.Machine.execSnap id gb s
  | .barrierRelease => Sys2Proof.Machine.execBarrierRelease s
  | .globalBarrierArrival => Sys2Proof.Machine.execGlobalBarrierArrival s
  | .budg n => Sys2Proof.Machine.execBudg n s
  | .budgOff => Sys2Proof.Machine.execBudgOff s
  | .add gd ga b => Sys2Proof.Machine.execAdd gd ga b s
  | .sub gd ga b => Sys2Proof.Machine.execSub gd ga b s
  | .mul gd ga b => Sys2Proof.Machine.execMul gd ga b s
  | .mulh k gd ga b => Sys2Proof.Machine.execMulh k gd ga b s
  | .div u gd ga b => Sys2Proof.Machine.execDiv u gd ga b s
  | .rem u gd ga b => Sys2Proof.Machine.execRem u gd ga b s
  | .and gd ga b => Sys2Proof.Machine.execAnd gd ga b s
  | .or gd ga b => Sys2Proof.Machine.execOr gd ga b s
  | .xor gd ga b => Sys2Proof.Machine.execXor gd ga b s
  | .andn gd ga b => Sys2Proof.Machine.execAndn gd ga b s
  | .shl gd ga b => Sys2Proof.Machine.execShl gd ga b s
  | .shr gd ga b => Sys2Proof.Machine.execShr gd ga b s
  | .sra gd ga b => Sys2Proof.Machine.execSra gd ga b s
  | .rot gd ga b => Sys2Proof.Machine.execRot gd ga b s
  | .min u gd ga b => Sys2Proof.Machine.execMin u gd ga b s
  | .max u gd ga b => Sys2Proof.Machine.execMax u gd ga b s
  | .clz gd ga => Sys2Proof.Machine.execClz gd ga s
  | .ctz gd ga => Sys2Proof.Machine.execCtz gd ga s
  | .popc gd ga => Sys2Proof.Machine.execPopc gd ga s
  | .bfx gd ga spec => Sys2Proof.Machine.execBfx gd ga spec s
  | .bfi gd ga spec => Sys2Proof.Machine.execBfi gd ga spec s
  | .movi gd v => Sys2Proof.Machine.execMovi gd v s
  | .movhi gd v => Sys2Proof.Machine.execMovhi gd v s
  | .mov gd ga => Sys2Proof.Machine.execMov gd ga s
  | .cmp c qd ga b => Sys2Proof.Machine.execCmp c qd ga b s
  | .sel k gd ga gb => Sys2Proof.Machine.execSel k gd ga gb s
  | .csetb gd ga b => Sys2Proof.Machine.execCsetb gd ga b s
  | .csetbx gd ga b => Sys2Proof.Machine.execCsetbx gd ga b s
  | .candp gd ga b => Sys2Proof.Machine.execCandp gd ga b s
  | .cinc gd ga b => Sys2Proof.Machine.execCinc gd ga b s
  | .cseta gd ga b => Sys2Proof.Machine.execCseta gd ga b s
  | .cget f gd ga => Sys2Proof.Machine.execCget f gd ga s
  | .cseal gd ga t => Sys2Proof.Machine.execCseal gd ga t s
  | .cunseal gd ga t => Sys2Proof.Machine.execCunseal gd ga t s
  | .cclrt gd ga => Sys2Proof.Machine.execCclrt gd ga s
  | .crel gd ga spec => Sys2Proof.Machine.execCrel gd ga spec s
  | .cabs gd ga => Sys2Proof.Machine.execCabs gd ga s
  | .ctest t qd ga gb => Sys2Proof.Machine.execCtest t qd ga gb s
  | .fadd fmt rtz gd ga gb => Sys2Proof.Machine.execFadd fmt rtz gd ga gb s
  | .fsub fmt rtz gd ga gb => Sys2Proof.Machine.execFsub fmt rtz gd ga gb s
  | .fmul fmt rtz gd ga gb => Sys2Proof.Machine.execFmul fmt rtz gd ga gb s
  | .ffma fmt rtz gd ga gb => Sys2Proof.Machine.execFfma fmt rtz gd ga gb s
  | .fdiv fmt rtz gd ga gb => Sys2Proof.Machine.execFdiv fmt rtz gd ga gb s
  | .fsqrt fmt rtz gd ga => Sys2Proof.Machine.execFsqrt fmt rtz gd ga s
  | .fmin fmt gd ga gb => Sys2Proof.Machine.execFmin fmt gd ga gb s
  | .fmax fmt gd ga gb => Sys2Proof.Machine.execFmax fmt gd ga gb s
  | .fcmp fmt c qd ga gb => Sys2Proof.Machine.execFcmp fmt c qd ga gb s
  | .fcvt fmt rtz src gd ga => Sys2Proof.Machine.execFcvt fmt rtz src gd ga s
  | .fsgn fmt op gd ga gb => Sys2Proof.Machine.execFsgn fmt op gd ga gb s
  | .fclass fmt gd ga => Sys2Proof.Machine.execFclass fmt gd ga s
  | .mkabs fmt gd => Sys2Proof.Machine.execMkabs fmt gd s
  | .ld sz sx gd m => Sys2Proof.Machine.execLd sz sx gd m s
  | .st sz m a => Sys2Proof.Machine.execSt sz m a s
  | .ldc gd m => Sys2Proof.Machine.execLdc gd m s
  | .stc m ga => Sys2Proof.Machine.execStc m ga s
  | .ldaq sz sx gd m => Sys2Proof.Machine.execLdaq sz sx gd m s
  | .strl sz m a => Sys2Proof.Machine.execStrl sz m a s
  | .acq => Sys2Proof.Machine.execAcq s
  | .rel => Sys2Proof.Machine.execRel s
  | .fenceAll => Sys2Proof.Machine.execFenceAll s
  | .fenceSt => Sys2Proof.Machine.execFenceSt s
  | .fenceEng => Sys2Proof.Machine.execFenceEng s
  | .aadd sz ord gd m gb => Sys2Proof.Machine.execAadd sz ord gd m gb s
  | .amm sz ord op gd m gb => Sys2Proof.Machine.execAmm sz ord op gd m gb s
  | .axchg sz ord gd m gb => Sys2Proof.Machine.execAxchg sz ord gd m gb s
  | .acas sz ord gd m gb => Sys2Proof.Machine.execAcas sz ord gd m gb s
  | .alog sz ord op gd m gb => Sys2Proof.Machine.execAlog sz ord op gd m gb s
  | .afadd sz ord bf gd m gb => Sys2Proof.Machine.execAfadd sz ord bf gd m gb s
  | .vld f vd m pair => Sys2Proof.Machine.execVld f vd m pair s
  | .vst f m va pair => Sys2Proof.Machine.execVst f m va pair s
  | .vlds f vd m b => Sys2Proof.Machine.execVlds f vd m b s
  | .vsts f m va b => Sys2Proof.Machine.execVsts f m va b s
  | .vldx f vd m vi => Sys2Proof.Machine.execVldx f vd m vi s
  | .vstx f m va vi => Sys2Proof.Machine.execVstx f m va vi s
  | .vbcast f vd a => Sys2Proof.Machine.execVbcast f vd a s
  | .vmov f vd va => Sys2Proof.Machine.execVmov f vd va s
  | .vadd f d a b => Sys2Proof.Machine.execVadd f d a b s
  | .vsub f d a b => Sys2Proof.Machine.execVsub f d a b s
  | .vmul f d a b => Sys2Proof.Machine.execVmul f d a b s
  | .vfma f d a b => Sys2Proof.Machine.execVfma f d a b s
  | .vfms f d a b => Sys2Proof.Machine.execVfms f d a b s
  | .vmin f d a b => Sys2Proof.Machine.execVmin f d a b s
  | .vmax f d a b => Sys2Proof.Machine.execVmax f d a b s
  | .vabs f d a => Sys2Proof.Machine.execVabs f d a s
  | .vneg f d a => Sys2Proof.Machine.execVneg f d a s
  | .vand f d a b => Sys2Proof.Machine.execVand f d a b s
  | .vor f d a b => Sys2Proof.Machine.execVor f d a b s
  | .vxor f d a b => Sys2Proof.Machine.execVxor f d a b s
  | .vnot f d a => Sys2Proof.Machine.execVnot f d a s
  | .vshl f d a b => Sys2Proof.Machine.execVshl f d a b s
  | .vshr f d a b => Sys2Proof.Machine.execVshr f d a b s
  | .vsra f d a b => Sys2Proof.Machine.execVsra f d a b s
  | .vcmp f vd a spec => Sys2Proof.Machine.execVcmp f vd a spec s
  | .vsel f d a b => Sys2Proof.Machine.execVsel f d a b s
  | .vpres f vd a => Sys2Proof.Machine.execVpres f vd a s
  | .vmkabs f d a vm => Sys2Proof.Machine.execVmkabs f d a vm s
  | .vcnt f gd a => Sys2Proof.Machine.execVcnt f gd a s
  | .vcvt f vd va spec => Sys2Proof.Machine.execVcvt f vd va spec s
  | .vquant f vd va gb => Sys2Proof.Machine.execVquant f vd va gb s
  | .vzenc f vd va half => Sys2Proof.Machine.execVzenc f vd va half s
  | .vzdec f vd va half => Sys2Proof.Machine.execVzdec f vd va half s
  | .vreds f gd a gc => Sys2Proof.Machine.execVreds f gd a gc s
  | .vredx f gd a gc => Sys2Proof.Machine.execVredx f gd a gc s
  | .vredn f gd a gc => Sys2Proof.Machine.execVredn f gd a gc s
  | .vredm f gd a mode => Sys2Proof.Machine.execVredm f gd a mode s
  | .vredq f ak gn spec => Sys2Proof.Machine.execVredq f ak gn spec s
  | .vredqVector => Sys2Proof.Machine.execVredqVector s
  | .vperm f vd va vi => Sys2Proof.Machine.execVperm f vd va vi s
  | .vslide f vd va b => Sys2Proof.Machine.execVslide f vd va b s
  | .vcmpr f vd va vm => Sys2Proof.Machine.execVcmpr f vd va vm s
  | .vexpd f vd va vm => Sys2Proof.Machine.execVexpd f vd va vm s
  | .vmlog f vd va spec => Sys2Proof.Machine.execVmlog f vd va spec s
  | .vmpop f gd vm => Sys2Proof.Machine.execVmpop f gd vm s
  | .viota f vd => Sys2Proof.Machine.execViota f vd s
  | .vextr f gd va b => Sys2Proof.Machine.execVextr f gd va b s
  | .vins f vd ga b => Sys2Proof.Machine.execVins f vd ga b s
  | .vretag f vd va => Sys2Proof.Machine.execVretag f vd va s
  | .scfg f sk ga m => Sys2Proof.Machine.execScfg f sk ga m s
  | .sstat f gd sk => Sys2Proof.Machine.execSstat f gd sk s
  | .srst f sk => Sys2Proof.Machine.execSrst f sk s
  | .vbaddq f vd va vb => Sys2Proof.Machine.execVbaddq f vd va vb s
  | .vrng f vd ga gb => Sys2Proof.Machine.execVrng f vd ga gb s
  | .vtolog f vd va p => Sys2Proof.Machine.execVtolog f vd va p s
  | .vfrlog f vd va p => Sys2Proof.Machine.execVfrlog f vd va p s
  | .vladd f d a b => Sys2Proof.Machine.execVladd f d a b s
  | .vexp2 f d a => Sys2Proof.Machine.execVexp2 f d a s
  | .vlog2 f d a => Sys2Proof.Machine.execVlog2 f d a s
  | .vrsq f d a => Sys2Proof.Machine.execVrsq f d a s
  | .vrcp f d a => Sys2Proof.Machine.execVrcp f d a s
  | .vact f d a fn => Sys2Proof.Machine.execVact f d a fn s
  | .mcfg f ga gb => Sys2Proof.Machine.execMcfg f ga gb s
  | .mzero f ak => Sys2Proof.Machine.execMzero f ak s
  | .mldb f m => Sys2Proof.Machine.execMldb f m s
  | .mma f ak m => Sys2Proof.Machine.execMma f ak m s
  | .chunkLand => Sys2Proof.Machine.execChunkLand s
  | .gmma f ak m => Sys2Proof.Machine.execGmma f ak m s
  | .gmmaJoin => Sys2Proof.Machine.execGmmaJoin s
  | .mdrn f vd ak spec => Sys2Proof.Machine.execMdrn f vd ak spec s
  | .mrdr f vd ak row => Sys2Proof.Machine.execMrdr f vd ak row s
  | .mwrr f ak va row => Sys2Proof.Machine.execMwrr f ak va row s
  | .mstat f gd => Sys2Proof.Machine.execMstat f gd s
  | .mrst f mask => Sys2Proof.Machine.execMrst f mask s
  | .cpyIn grp m gh len => Sys2Proof.Machine.execCpyIn grp m gh len s
  | .cpyOut grp m gh len => Sys2Proof.Machine.execCpyOut grp m gh len s
  | .cpyLl grp m gc len => Sys2Proof.Machine.execCpyLl grp m gc len s
  | .cpysIn grp m gh gb => Sys2Proof.Machine.execCpysIn grp m gh gb s
  | .cpysOut grp m gh gb => Sys2Proof.Machine.execCpysOut grp m gh gb s
  | .cpyf grp fmt m len => Sys2Proof.Machine.execCpyf grp fmt m len s
  | .cpyfPat grp m ga len => Sys2Proof.Machine.execCpyfPat grp m ga len s
  | .cpyw mask => Sys2Proof.Machine.execCpyw mask s
  | .cpyq grp gd => Sys2Proof.Machine.execCpyq grp gd s
  | .cpyqC grp gd => Sys2Proof.Machine.execCpyqC grp gd s
  | .cmut grp lay m gh gp => Sys2Proof.Machine.execCmut grp lay m gh gp s
  | .mcast grp gr m len => Sys2Proof.Machine.execMcast grp gr m len s
  | .send grp dst src len => Sys2Proof.Machine.execSend grp dst src len s
  | .sendQ grp k dst src len => Sys2Proof.Machine.execSendQ grp k dst src len s
  | .receiveQueuePush => Sys2Proof.Machine.execReceiveQueuePush s
  | .recv fmt vd k => Sys2Proof.Machine.execRecv fmt vd k s
  | .sqtag m len => Sys2Proof.Machine.execSqtag m len s
  | .sqtagClr m len => Sys2Proof.Machine.execSqtagClr m len s
  | .copyBeatWrite => Sys2Proof.Machine.execCopyBeatWrite s
  | .copyComplete => Sys2Proof.Machine.execCopyComplete s
  | .fitset ga => Sys2Proof.Machine.execFitset ga s
  | .fitsetClr => Sys2Proof.Machine.execFitsetClr s
  | .fitgetRank gd gc => Sys2Proof.Machine.execFitgetRank gd gc s
  | .fitgetSamp gd gc => Sys2Proof.Machine.execFitgetSamp gd gc s
  | .fitgetState gd gc => Sys2Proof.Machine.execFitgetState gd gc s
  | .rank gd p => Sys2Proof.Machine.execRank gd p s
  | .rankComplete => Sys2Proof.Machine.execRankComplete s
  | .popstep gd p => Sys2Proof.Machine.execPopstep gd p s
  | .popstepPairDone => Sys2Proof.Machine.execPopstepPairDone s
  | .pwait gd p => Sys2Proof.Machine.execPwait gd p s
  | .pwaitComplete => Sys2Proof.Machine.execPwaitComplete s
  | .wswap gd => Sys2Proof.Machine.execWswap gd s
  | .wswapAny gd => Sys2Proof.Machine.execWswapAny gd s
  | .wbase gd ga => Sys2Proof.Machine.execWbase gd ga s
  | .wbaseInact gd ga => Sys2Proof.Machine.execWbaseInact gd ga s
  | .migr gd gt => Sys2Proof.Machine.execMigr gd gt s
  | .migrArrival => Sys2Proof.Machine.execMigrArrival s
  | .migrCopyDone => Sys2Proof.Machine.execMigrCopyDone s
  | .migrReply => Sys2Proof.Machine.execMigrReply s
  | .linrdId gd gc => Sys2Proof.Machine.execLinrdId gd gc s
  | .linrdPend gd => Sys2Proof.Machine.execLinrdPend gd s
  | .linrdGen gd p => Sys2Proof.Machine.execLinrdGen gd p s
  | .linrdCnt gd p => Sys2Proof.Machine.execLinrdCnt gd p s
  | .pseed gd p gs => Sys2Proof.Machine.execPseed gd p gs s
  | .pcfgInd gd ga => Sys2Proof.Machine.execPcfgInd gd ga s
  | .pcfgPop gd m => Sys2Proof.Machine.execPcfgPop gd m s
  | .pcfgRet gd => Sys2Proof.Machine.execPcfgRet gd s
  | .tsub gd m gq => Sys2Proof.Machine.execTsub gd m gq s
  | .tnext gd => Sys2Proof.Machine.execTnext gd s
  | .dealRequest => Sys2Proof.Machine.execDealRequest s
  | .tdone => Sys2Proof.Machine.execTdone s
  | .cntadd gc b => Sys2Proof.Machine.execCntadd gc b s
  | .cntwtLe gc b => Sys2Proof.Machine.execCntwtLe gc b s
  | .cntwtGe gc b => Sys2Proof.Machine.execCntwtGe gc b s
  | .cntwtLeA dk gc b => Sys2Proof.Machine.execCntwtLeA dk gc b s
  | .cntwtGeA dk gc b => Sys2Proof.Machine.execCntwtGeA dk gc b s
  | .cancel gc => Sys2Proof.Machine.execCancel gc s
  | .qpush qd gq gv => Sys2Proof.Machine.execQpush qd gq gv s
  | .qpop gd gq => Sys2Proof.Machine.execQpop gd gq s
  | .qpopNb gd gq qk => Sys2Proof.Machine.execQpopNb gd gq qk s
  | .crr gd n => Sys2Proof.Machine.execCrr gd n s
  | .crw n a => Sys2Proof.Machine.execCrw n a s
  | .crset n a => Sys2Proof.Machine.execCrset n a s
  | .crclr n a => Sys2Proof.Machine.execCrclr n a s
  | .tlbinvVa ga b => Sys2Proof.Machine.execTlbinvVa ga b s
  | .tlbinvAll => Sys2Proof.Machine.execTlbinvAll s
  | .tlbinvDrop ga b => Sys2Proof.Machine.execTlbinvDrop ga b s
  | .pghintT ga b => Sys2Proof.Machine.execPghintT ga b s
  | .pghintLock ga b => Sys2Proof.Machine.execPghintLock ga b s
  | .pghintUnlock => Sys2Proof.Machine.execPghintUnlock s
  | .pghintClrw ga b => Sys2Proof.Machine.execPghintClrw ga b s
  | .hndlLen gd gh => Sys2Proof.Machine.execHndlLen gd gh s
  | .hndlBase gd gh => Sys2Proof.Machine.execHndlBase gd gh s
  | .hndlSet gh gb => Sys2Proof.Machine.execHndlSet gh gb s
  | .hndlClr gh => Sys2Proof.Machine.execHndlClr gh s
  | .trace ga tag => Sys2Proof.Machine.execTrace ga tag s
  | .traceSync => Sys2Proof.Machine.execTraceSync s
  | .smpl gd => Sys2Proof.Machine.execSmpl gd s
  | .smplReq => Sys2Proof.Machine.execSmplReq s
  | .resultLands => Sys2Proof.Machine.execResultLands s
  | .operationComplete => Sys2Proof.Machine.execOperationComplete s
  | .instructionCommit => Sys2Proof.Machine.execInstructionCommit s
  | .vrfRefresh => Sys2Proof.Machine.execVrfRefresh s
  | .shortLivedExpiry => Sys2Proof.Machine.execShortLivedExpiry s
  | .remoteLoadAtHome => Sys2Proof.Machine.execRemoteLoadAtHome s
  | .remoteLoadData => Sys2Proof.Machine.execRemoteLoadData s
  | .remoteStoreAtHome => Sys2Proof.Machine.execRemoteStoreAtHome s
  | .revoke => Sys2Proof.Machine.execRevoke s
  | .storeAcknowledgement => Sys2Proof.Machine.execStoreAcknowledgement s
  | .atomicAtHome => Sys2Proof.Machine.execAtomicAtHome s
  | .remoteControlWindowAccess => Sys2Proof.Machine.execRemoteControlWindowAccess s
  | .pageWalkComplete => Sys2Proof.Machine.execPageWalkComplete s
  | .invalidationComplete => Sys2Proof.Machine.execInvalidationComplete s
  | .trapDelivery => Sys2Proof.Machine.execTrapDelivery s
  | .coreSaved => Sys2Proof.Machine.execCoreSaved s
  | .create => Sys2Proof.Machine.execCreate s
  | .commit => Sys2Proof.Machine.execCommit s
  | .preempt => Sys2Proof.Machine.execPreempt s
  | .preemptForce => Sys2Proof.Machine.execPreemptForce s
  | .ctxResume => Sys2Proof.Machine.execCtxResume s
  | .dump => Sys2Proof.Machine.execDump s
  | .dumpComplete => Sys2Proof.Machine.execDumpComplete s
  | .destroy => Sys2Proof.Machine.execDestroy s
  | .ctxReset => Sys2Proof.Machine.execCtxReset s
  | .functionLevelReset => Sys2Proof.Machine.execFunctionLevelReset s
  | .scrubComplete => Sys2Proof.Machine.execScrubComplete s
  | .drainTimeout => Sys2Proof.Machine.execDrainTimeout s
  | .preemptLimitExpiry => Sys2Proof.Machine.execPreemptLimitExpiry s
  | .invRange => Sys2Proof.Machine.execInvRange s
  | .invAll => Sys2Proof.Machine.execInvAll s
  | .invHandles => Sys2Proof.Machine.execInvHandles s
  | .launchBind => Sys2Proof.Machine.execLaunchBind s
  | .loadComplete => Sys2Proof.Machine.execLoadComplete s
  | .startRelease => Sys2Proof.Machine.execStartRelease s
  | .pauseSpread => Sys2Proof.Machine.execPauseSpread s
  | .realignReport => Sys2Proof.Machine.execRealignReport s
  | .realignRelease => Sys2Proof.Machine.execRealignRelease s
  | .blockStartPassed => Sys2Proof.Machine.execBlockStartPassed s
  | .deadlineExpiry => Sys2Proof.Machine.execDeadlineExpiry s
  | .budgetExpiry => Sys2Proof.Machine.execBudgetExpiry s
  | .rollback => Sys2Proof.Machine.execRollback s
  | .queueDoorbell => Sys2Proof.Machine.execQueueDoorbell s
  | .queueEnable => Sys2Proof.Machine.execQueueEnable s
  | .queueDisable => Sys2Proof.Machine.execQueueDisable s
  | .queueDrained => Sys2Proof.Machine.execQueueDrained s
  | .hostConsume => Sys2Proof.Machine.execHostConsume s
  | .packetRead => Sys2Proof.Machine.execPacketRead s
  | .launchPacket => Sys2Proof.Machine.execLaunchPacket s
  | .graphNodePacket => Sys2Proof.Machine.execGraphNodePacket s
  | .jobCardPacket => Sys2Proof.Machine.execJobCardPacket s
  | .ctrlNop => Sys2Proof.Machine.execCtrlNop s
  | .ctrlWait => Sys2Proof.Machine.execCtrlWait s
  | .ctrlCancel => Sys2Proof.Machine.execCtrlCancel s
  | .ctrlAdd => Sys2Proof.Machine.execCtrlAdd s
  | .ctrlFence => Sys2Proof.Machine.execCtrlFence s
  | .launchComplete => Sys2Proof.Machine.execLaunchComplete s
  | .shotClockExpiry => Sys2Proof.Machine.execShotClockExpiry s
  | .shotClockWrite => Sys2Proof.Machine.execShotClockWrite s
  | .counterSelect => Sys2Proof.Machine.execCounterSelect s
  | .budgetPeriod => Sys2Proof.Machine.execBudgetPeriod s
  | .fitnessWrite => Sys2Proof.Machine.execFitnessWrite s
  | .vIslUp => Sys2Proof.Machine.execVIslUp s
  | .vIslRemoved => Sys2Proof.Machine.execVIslRemoved s
  | .go => Sys2Proof.Machine.execGo s
  | .splitReset => Sys2Proof.Machine.execSplitReset s
  | .splitDrainTimeout => Sys2Proof.Machine.execSplitDrainTimeout s
  | .powerOff => Sys2Proof.Machine.execPowerOff s
  | .powerOn => Sys2Proof.Machine.execPowerOn s
  | .islandReset => Sys2Proof.Machine.execIslandReset s
  | .freq => Sys2Proof.Machine.execFreq s
  | .endpointResetRelease => Sys2Proof.Machine.execEndpointResetRelease s
  | .endpointTrainingDone => Sys2Proof.Machine.execEndpointTrainingDone s
  | .endpointTrainingFail => Sys2Proof.Machine.execEndpointTrainingFail s
  | .heartbeatTimeout => Sys2Proof.Machine.execHeartbeatTimeout s
  | .meshLinkFail => Sys2Proof.Machine.execMeshLinkFail s
  | .flitReceived => Sys2Proof.Machine.execFlitReceived s
  | .acknowledgeReceived => Sys2Proof.Machine.execAcknowledgeReceived s
  | .negativeAcknowledge => Sys2Proof.Machine.execNegativeAcknowledge s
  | .portEnable => Sys2Proof.Machine.execPortEnable s
  | .portDisable => Sys2Proof.Machine.execPortDisable s
  | .portWidthRequest => Sys2Proof.Machine.execPortWidthRequest s
  | .portTrainingDone => Sys2Proof.Machine.execPortTrainingDone s
  | .portTrainingFail => Sys2Proof.Machine.execPortTrainingFail s
  | .laneLossOfLock => Sys2Proof.Machine.execLaneLossOfLock s
  | .laneErrorRate => Sys2Proof.Machine.execLaneErrorRate s
  | .retrainDone => Sys2Proof.Machine.execRetrainDone s
  | .retrainFail => Sys2Proof.Machine.execRetrainFail s
  | .widthChangeDone => Sys2Proof.Machine.execWidthChangeDone s
  | .linjArm => Sys2Proof.Machine.execLinjArm s
  | .collectiveEnable => Sys2Proof.Machine.execCollectiveEnable s
  | .collectiveAbandon => Sys2Proof.Machine.execCollectiveAbandon s
  | .contributionWrite => Sys2Proof.Machine.execContributionWrite s
  | .shardArrival => Sys2Proof.Machine.execShardArrival s
  | .shardDelivery => Sys2Proof.Machine.execShardDelivery s
  | .passThroughShard => Sys2Proof.Machine.execPassThroughShard s
  | .haltNotice => Sys2Proof.Machine.execHaltNotice s
  | .collectiveShotExpiry => Sys2Proof.Machine.execCollectiveShotExpiry s
  | .scrub => Sys2Proof.Machine.execScrub s
  | .errinjArm => Sys2Proof.Machine.execErrinjArm s
  | .dbgHalt => Sys2Proof.Machine.execDbgHalt s
  | .dbgResume => Sys2Proof.Machine.execDbgResume s
  | .dbgStep => Sys2Proof.Machine.execDbgStep s
  | .whistleTick => Sys2Proof.Machine.execWhistleTick s
  | .whistleReq => Sys2Proof.Machine.execWhistleReq s
  | .attCmd => Sys2Proof.Machine.execAttCmd s
  | .qownWrite => Sys2Proof.Machine.execQownWrite s
  | .cownWrite => Sys2Proof.Machine.execCownWrite s
  | .hostWindowTimeout => Sys2Proof.Machine.execHostWindowTimeout s
  | .thermalThrottle => Sys2Proof.Machine.execThermalThrottle s
  | .overtempPowerOff => Sys2Proof.Machine.execOvertempPowerOff s
  | .registerWrite => Sys2Proof.Machine.execRegisterWrite s
  | .columnIssue => Sys2Proof.Machine.execColumnIssue s
  | .sleepEnd => Sys2Proof.Machine.execSleepEnd s
  | .freqComplete => Sys2Proof.Machine.execFreqComplete s
  | .reservedOpcode => Sys2Proof.Machine.execReservedOpcode s
  | .fetchOutsideInstructionWords => Sys2Proof.Machine.execFetchOutsideInstructionWords s

end Sys2Proof.Machine
end

