-- ==== Sys2Proof/Machine/Plan.lean ====
section
/-! DEFINITION. What a step does. A clk is a series of small steps: the first of the list of `plan` that has something to do
acts, and when none has, the clk ends. The order within a clk is: what comes from outside; messages; clocks that expire;
the island, contexts, launches and queues; operations that complete; results that land and commits, core by core; barriers;
then, core by core, delivery, the sequencer and the columns; the draft units; the copy engines and the load pipes, which
give way to the columns; and, as the clk ends, members of timed blocks that are late (log entry 14). -/

namespace Sys2Proof.Machine

/-- The first agenda among the cores, in the order of their numbers. -/
def eachCore (f : State → Nat → Agenda) (s : State) : Agenda := s.cores.findSome? (fun p => f s p.1)

/-- An event at something that a number names. -/
def State.event (s : State) (ix : Nat) (i : Instr) : Agenda :=
  some ({ s with hand := { Hand.empty with arg := argIx ix } }, [i])

/-! ## What comes from outside, and messages -/

/-- Is an arrival from outside the package held back: the end of an operation of a frozen core (R338), an access to a core's
memory or control registers, which comes after the core's own (R40, R71), or a MIGR, which the draft unit takes in its turn
(R421)? -/
def State.inputHeld (s : State) (i : Input) : Bool :=
  match i.event with
  | .remoteLoadData => decide (i.arg.ix < 4144) && s.asyncFrozen i.arg.ix
  | .remoteLoadAtHome => true
  | .remoteStoreAtHome => true
  | .atomicAtHome => true
  | .remoteControlWindowAccess => true
  | .migrReply => s.asyncFrozen i.arg.ix
  | .migrArrival => true
  | _ => false

/-- What is not the work of a launch that has the package to itself ends that (R351). -/
def crowded (a : Agenda) : Agenda := a.map (fun p => ({ p.1 with lone := none }, p.2))

/-- An event from outside whose clk has come (log entry 4). -/
def inputStep (s : State) : Agenda :=
  match s.inputs.find? (fun i => decide (i.clk ≤ s.clk) && !s.inputHeld i) with
  | none => none
  | some i => some ({ s with inputs := s.inputs.erase i }.onEvent i.arg.ix i.arg none, [i.event])

/-- Does a core's context dump (R465)? -/
def State.dumps (s : State) (c : Nat) : Bool :=
  match (s.core c).ctx with
  | some x => decide (c < 4144) && (s.ctx x).st == .dumping
  | none => false

/-- Does a message carry an access to a core's memory or control registers? -/
def Msg.toHome (m : Msg) : Bool := m.body.req.isSome && decide (m.dst < 4144)

/-- Is a request held back: its store has not committed (R7), its context dumps (R465), or an older request that it must stay
behind is still on its way? -/
def State.requestHeld (s : State) (m : Msg) (r : MemReq) : Bool :=
  s.unsettled m.body ||
    (s.dumps m.src && (match m.body with
      | .store .. => true
      | .wcLine .. => true
      | .atomic .. => true
      | _ => false)) ||
    (decide (r.src < 8192) && (s.msgs.takeWhile (· != m)).any (fun x =>
      x.src == m.src && x.dst != toChip && x.dst != toHost && (match x.body.req with
        | some q => r.behind q
        | none => false)))

/-- Is a message held back: the end of an operation of a frozen core (R338), a dealer's reply its core is not ready for, a
request that is held, a write of a context that dumps (R465), or a MIGR (R421)? -/
def State.msgHeld (s : State) (m : Msg) : Bool :=
  match m.body.req with
  | some r => s.requestHeld m r
  | none =>
  match m.body with
  | .data .. => s.asyncFrozen m.dst
  | .ack .. => s.asyncFrozen m.dst
  | .atomicOld .. => s.asyncFrozen m.dst
  | .migrReply .. => s.asyncFrozen m.dst
  | .dealt .. => s.asyncFrozen m.dst || (s.core m.dst).atTnext.isNone
  | .vector .. => s.dumps m.src
  | .migr .. => true
  | _ => false

/-- Of the messages a test picks and whose clk has come, the one with the least clk, then the lowest sender. -/
def firstMsg (s : State) (p : Msg → Bool) : Option Msg :=
  s.msgs.foldl (fun b m =>
    if s.clk < m.due || !p m || s.msgHeld m then b
    else match b with
      | none => some m
      | some x => if m.due < x.due ∨ (m.due = x.due ∧ m.src < x.src) then some m else b) none

/-- The event a message brings to its core. -/
def msgEvent : MsgBody → Option Instr
  | .load _ => some .remoteLoadAtHome
  | .data .. => some .remoteLoadData
  | .store .. => some .remoteStoreAtHome
  | .wcLine .. => some .remoteStoreAtHome
  | .ack .. => some .storeAcknowledgement
  | .revoke _ => some .revoke
  | .atomic .. => some .atomicAtHome
  | .atomicOld .. => some .operationComplete
  | .window .. => some .remoteControlWindowAccess
  | .vector .. => some .receiveQueuePush
  | .followReq => some .followRequest
  | .followReply _ => some .followReply
  | .followGone _ => none
  | .leaderEnd _ => some .leaderEndDetach
  | .deal => some .dealRequest
  | .dealt .. => none
  | .migr .. => some .migrArrival
  | .migrReply .. => some .migrReply
  | .pause .. => some .pauseSpread
  | .realignReport .. => some .realignReport
  | .realignRelease .. => some .realignRelease

/-- Does a message ask a leader for its place (R363)? -/
def Msg.asksFollow (m : Msg) : Bool :=
  match m.body with
  | .followReq => true
  | _ => false

/-- A message arrives: at its core, at the device's registers; or the host has not answered in time (R473). -/
def msgStep (s : State) : Agenda :=
  match firstMsg s (fun m => !m.toHome && !m.asksFollow) with
  | none => none
  | some m =>
    let s := { s with msgs := s.msgs.erase m }
    if m.dst = leaving then m.body.req.map (fun r => ((s.onCore m.src).leave r m.body, []))
    else if m.dst = toHost then some (s.onEvent m.src Arg.empty (some m.body), [.hostWindowTimeout])
    else if m.dst = toDevice then some (s.onEvent m.src Arg.empty (some m.body), [.registerWrite])
    else match m.body with
      | .followGone f => some (s.followerGone m.dst f, [])
      | .dealt first n => some (s.dealt m.dst first n, [])
      | b =>
        match msgEvent b with
        | some e => some (s.onEvent m.dst (argIx m.src) (some b), [e])
        | none => none

/-! ## Clocks of a core (R349, R350, R390) -/

/-- A wall, a budget or a written shot clock of a core. -/
def clockStep (s : State) (c : Nat) : Agenda :=
  let k := s.core c
  let wall := (k.cv crBUDGET_WALL).toNat
  if k.unit == .running && wall != 0 && decide (wall ≤ s.now) then some (s.onCore c, [.deadlineExpiry])
  else if k.unit == .running && k.cv crBUDGET_LEFT == 0x8000000000000000#64 then some (s.onCore c, [.budgetExpiry])
  else if (mapGet k.cr crSHOT).isSome then some (s.onCore c, [.shotClockWrite])
  else none

/-! ## The package (R394, R463, R473) -/

/-- What the island does by itself. -/
def islandStep (s : State) : Agenda :=
  if s.now / 10000 ≠ s.period then s.event 0 .budgetPeriod
  else match s.asks.find? (fun a => decide (a.limit ≤ s.clk)) with
    | some a => some ({ s with hand := { Hand.empty with arg := ⟨0, a.phys, 1, []⟩ } }, [.hostWindowTimeout])
    | none =>
      if s.whistleDue then s.event 0 .whistleTick else s.whistleWrite.map (fun t => (t, []))

/-- The first agenda among some numbers. -/
def eachOf (l : List Nat) (f : State → Nat → Agenda) (s : State) : Agenda := l.findSome? (f s)
/-- The first agenda among the contexts. -/
def eachCtx (f : State → Nat → Agenda) (s : State) : Agenda := s.ctxs.findSome? (fun p => f s p.1)
/-- The first agenda among the launches. -/
def eachLaunch (s : State) : Agenda := s.launches.findSome? (fun p => launchStep s p.1 p.2)

/-- An instance some of whose waiters leave (R369). -/
def barStep (s : State) : Agenda :=
  match s.barriers.find? (fun p => p.2.waiters.any (p.2.wakes s.clk)) with
  | some p => s.event p.1 .barrierRelease
  | none => none

/-! ## Operations of a core -/

/-- Can an operation complete in this clk (R254, R396, R399)? Those without a clk are completed by something else. -/
def opReady (s : State) (c : Nat) (o : AsyncOp) : Bool :=
  let due := match o.due with
    | some t => decide (t ≤ s.clk)
    | none => false
  match o.kind with
  | .cpyw l => l.all (fun d => (mapGet (s.core c).descs d).isNone)
  | .cntwt id b ge => due && s.cntHolds ((s.core c).ctx.getD 0) id b ge
  | .cancel us ns ls => due && s.cancelDone ((s.core c).ctx.getD 0) us ns ls
  | .pwait .. => false
  | _ => due

/-- An operation of a core completes; its write-combining buffer drains; a parked store is written. -/
def engineStep (s : State) (c : Nat) : Agenda :=
  let k := s.core c
  let still := s.asyncFrozen c
  match (if still then none else k.ops.find? (opReady s c)) with
  | some o =>
    some (s.onEvent c (argIx o.id) none, [match o.kind with
      | .walk .. => .pageWalkComplete
      | _ => .operationComplete])
  | none =>
    match (if still then none else k.descs.find? (fun d => s.copyOver c (d.1 + 1) d.2)) with
    | some d => some (s.onEvent c (argIx (d.1 + 1)) none, [.copyComplete])
    | none =>
      let drains := k.draining && (match k.wcb with
        | p :: _ => !p.2.sent && !k.wcOpen p.1
        | [] => true)
      let parked := k.parkedReady && (match k.replay with
        | p :: _ => (match p.st with
          | .resolved _ mt => !(k.draining && mt == 1)
          | _ => false)
        | [] => false)
      if drains then some ((s.onCore c).drainWc, [])
      else if parked && !s.frozen c then some ((s.onCore c).drainParked, [])
      else none

/-! ## The draft units (R411 to R413, R419, R421) -/

/-- The end of an operation of a population: a RANK whose clk has come, or the pair in hand of a POPSTEP. -/
def popStepOf (s : State) (p : Nat × Population) : Agenda :=
  match p.2.op with
  | none => none
  | some o =>
    if o.step then
      match p.2.losers[o.pair]? with
      | none => if o.due ≤ s.clk then s.event p.1 .popstepPairDone else none
      | some l =>
        (match (s.core l).incoming with
          | some x => if !x.op.open_ && decide (x.op.due ≤ s.clk) then s.event p.1 .popstepPairDone else none
          | none => none)
    else if o.due ≤ s.clk then s.event p.1 .rankComplete
    else none

/-- The end of a MIGR's copy at its target. -/
def migrStep (s : State) (c : Nat) : Agenda :=
  match (s.core c).incoming with
  | some x => if x.migr && !x.op.open_ && decide (x.op.due ≤ s.clk) then some (s.onCore c, [.migrCopyDone]) else none
  | none => none

/-- A PWAIT whose members are all scored. -/
def pwaitStep (s : State) (c : Nat) : Agenda :=
  if s.asyncFrozen c then none
  else match (s.core c).ops.find? s.pwaitReady with
    | some o => some (s.onEvent c (argIx o.id) none, [.pwaitComplete])
    | none => none

/-- What a core's P column issues in this clk, under the conditions of its other columns. -/
def draftColumn (s : State) (c : Nat) : Agenda :=
  let k := s.core c
  let may := k.unit == .running && !k.dbg.stopped &&
    (if k.saving = 1 then !s.frozen c
     else k.saving == 0 && (!s.frozen c || k.late.contains colP || k.late.contains 9))
  if may then s.columnStep c [colP] else none

/-- Does a core's P column stand at a POPSTEP, or a RANK? -/
def Core.atPopstep (k : Core) : Bool :=
  match k.queueOf colP with
  | e :: _ => (match e.instr with
    | .popstep .. => true
    | _ => false)
  | [] => false
def Core.atRank (k : Core) : Bool :=
  match k.issuable colP with
  | some e => (match e.instr with
    | .rank .. => true
    | _ => false)
  | none => false

/-- A MIGR reaches its target. -/
def migrArrives (s : State) : Agenda :=
  let is (m : Msg) : Bool := m.dst != toChip && decide (m.due ≤ s.clk) && (match m.body with
    | .migr .. => true
    | _ => false)
  match s.msgs.find? is with
  | some m => some ({ s with msgs := s.msgs.erase m }.onEvent m.dst (argIx m.src) (some m.body), [.migrArrival])
  | none =>
    match s.inputs.find? (fun i => decide (i.clk ≤ s.clk) && i.event == .migrArrival) with
    | some i => crowded (some ({ s with inputs := s.inputs.erase i }.onEvent i.arg.ix i.arg none, [i.event]))
    | none => none

/-- Claims, then arrivals, then the requests of the cores in ascending order (R421). -/
def draftStep (s : State) : Agenda :=
  firstOf [eachCore (fun s c => if (s.core c).atPopstep then draftColumn s c else none), migrArrives, eachCore draftColumn] s

/-! ## Requests at their homes (R40, R71) -/

/-- Must an access wait for its home: the home's columns use the bank in this clk, or its sequencer executes a control-register
instruction in it? -/
def State.homeBusy (s : State) (home phys : Nat) : Bool :=
  let off := offOf phys
  if offKind home off = 3 then (s.core home).crAt == s.clk + 1
  else decide (bankOf off < 4) && s.bankTaken home off

/-- The next request that its home serves: from outside the package, then of this package's cores. -/
def homeStep (s : State) : Agenda :=
  let isHome (i : Input) : Bool := match i.event with
    | .remoteLoadAtHome => true
    | .remoteStoreAtHome => true
    | .atomicAtHome => true
    | .remoteControlWindowAccess => true
    | _ => false
  match s.inputs.find? (fun i => decide (i.clk ≤ s.clk) && isHome i && !s.homeBusy (coreOf i.arg.a) i.arg.a) with
  | some i => crowded (some ({ s with inputs := s.inputs.erase i }.onEvent (coreOf i.arg.a) i.arg none, [i.event]))
  | none =>
    match firstMsg s (fun m => m.toHome && !((m.body.req.map (fun r => s.homeBusy m.dst r.phys)).getD false)) with
    | none => none
    | some m =>
      (msgEvent m.body).map (fun e =>
        ({ s with msgs := s.msgs.erase m }.onEvent m.dst (argIx m.src) (some m.body), [e]))

/-- Is the commit of a core's FITSET a request that comes after a RANK that a lower core issues in this clk (R421)? -/
def State.fitAfterRank (s : State) (c : Nat) : Bool :=
  let k := s.core c
  let fit := match k.robHead with
    | some n => k.wlog.any (fun e => e.serial == n && (match e.wr with
      | .fit _ => true
      | _ => false))
    | none => false
  fit && s.cores.any (fun p => decide (p.1 < c) && p.2.atRank && (draftColumn s p.1).isSome)

/-- Refresh, expiry, landings, commits of a core. -/
def settleCore (s : State) (c : Nat) : Agenda :=
  match s.settleStep c with
  | some (t, [.instructionCommit]) => if s.fitAfterRank c then none else some (t, [.instructionCommit])
  | r => r

/-! ## The end of a clk -/

/-- A member that has not reached the TBLK of an elastic block whose START passes (R344). -/
def blockStep (s : State) (c : Nat) : Agenda :=
  let k := s.core c
  if !k.live ∨ k.late.contains 9 ∨ k.blockNo > 255 then none
  else match s.launch k.launch with
    | none => none
    | some l =>
      match l.image.blocks.find? (fun b => b.start == k.vcc && decide (k.blockNo ≤ b.no) && !b.strict) with
      | some b => if l.image.timed then some (s.onEvent c (argIx b.no) none, [.blockStartPassed]) else none
      | none => none

/-- An instruction of an elastic block that could not issue in its planned vc: the group pauses until it does (R30). -/
def lateStep (s : State) (c : Nat) : Agenda :=
  let k := s.core c
  if !k.live then none
  else
    let begin_ (col : Nat) : Agenda :=
      some ((s.pauseGroup c true true).modCore c (fun k => { k with late := col :: k.late }), [])
    let heldLate := match k.held with
      | some h => (h.entry.block.map (·.2)) == some false && (match h.limit with
        | some p => decide (p ≤ k.vcc)
        | none => false)
      | none => false
    if heldLate && !k.late.contains 8 then begin_ 8
    else
      match (columnOrder ++ [colP]).find? (fun col =>
          !k.late.contains col && !(col == colT && k.gmma.isSome) && (match k.queueOf col with
            | e :: _ => (e.block.map (·.2)) == some false && decide (k.issueLimit col e ≤ k.vcc) &&
                (match k.trapAt with
                  | some n => decide (e.serial ≤ n)
                  | none => true)
            | [] => false)) with
      | some col => begin_ col
      | none => none

/-- Does a core's VCC count (R336, R337)? -/
def Core.counts (k : Core) : Bool :=
  match k.unit with
  | .none | .pending | .loading | .ready => false
  | _ => true

/-- What a member that its own lag holds back in VCC keeps counting in clk: its times move one vc nearer (R344). -/
def Core.shift (k : Core) : Core :=
  let sq (e : QEntry) : QEntry := { e with planned := e.planned - 1 }
  let sh (h : Held) : Held :=
    { h with entry := sq h.entry, limit := h.limit.map (· - 1), mark := if h.stage = 9 then h.mark - 1 else h.mark }
  { k with
    seqAt := k.seqAt - 1
    landings := k.landings.map (fun l => { l with due := l.due - 1 })
    colFree := k.colFree.map (fun p => (p.1, p.2 - 1))
    queues := k.queues.map (fun p => (p.1, p.2.map sq))
    held := k.held.map sh
    qWriters := k.qWriters.map (fun w => (w.1, (w.2.1, if w.2.2 = 0 then 0 else max 1 (w.2.2 - 1))))
    bankUse := k.bankUse.map (fun b => (b.1 - 1, b.2)) }

/-- An armed BUDGET_LEFT after one more clk (R350). -/
def budgetLess (v : Word) : Word := if 2 ^ 63 < v.toNat then v - 1 else v

/-- BUDGET_LEFT counts one clk; the value that an uncommitted BUDG replaced counts with it, since it comes back where the BUDG
is discarded. -/
def Core.budgetTick (k : Core) : Core :=
  let k := if 2 ^ 63 < (k.cv crBUDGET_LEFT).toNat then k.setCv crBUDGET_LEFT (budgetLess (k.cv crBUDGET_LEFT)) else k
  if k.wlog.isEmpty then k
  else { k with wlog := k.wlog.map (fun e => match e.old with
      | .cr n v => if n = crBUDGET_LEFT then { e with old := .cr n (budgetLess v) } else e
      | _ => e) }

/-- One clk of a core whose VCC is not held: VCC, BUDGET_LEFT, and what is past. -/
def Core.advanceVc (k : Core) (clk : Nat) : Core :=
  let vcc := if k.counts then k.vcc + 1 else k.vcc
  let k := if k.unit = .running then k.budgetTick else k
  { k with
    vcc := vcc
    qWriters := k.qWriters.filter (fun w => w.2.2 == 0 || decide (vcc < w.2.2))
    slotLog := k.slotLog.filter (fun e => decide (clk ≤ e.1 + 2))
    bankUse := k.bankUse.filter (fun b => decide (vcc ≤ b.1)) }

/-- One clk of a core: `hold` when its VCC is held back when the clk ends. -/
def Core.tick (k : Core) (clk : Nat) (hold : Bool) : Core :=
  if !hold then k.advanceVc clk
  else
    let k := if k.unit = .running ∧ k.dbg.stopped ∧ k.dbg.reason = 2 then k.budgetTick else k
    let k := { k with slotLog := k.slotLog.filter (fun e => decide (clk ≤ e.1 + 2)) }
    if k.late.contains 9 then k.shift
    else { k with frozenIn := clk + 1, colFree := k.colFree.map (fun p => if k.late.contains p.1 then (p.1, p.2 - 1) else p) }

/-- The clk ends: trace records leave, the time of every core moves on, and the sequencers read their next words (R110). -/
def tick (s : State) : State :=
  let s := s.traceDrains
  let one (p : Nat × Core) : Nat × Core :=
    let k := p.2.tick s.clk (s.holding p.1)
    (p.1, { k with fetched := if k.live then some (k.pc, s.wordAt p.1 k.pc) else none })
  { s with clk := s.clk + 1, cores := s.cores.map one, hand := Hand.empty }

/-- What lands and commits in a core: chunks, then additions of VREDQ, then other results (R240). -/
def landStep (s : State) (c : Nat) : Agenda := firstOf [(tensorLandStep · c), (State.vredqStep · c), (settleCore · c)] s

/-- What a core then does: an event at a delivery point, a gang's join, the sequencer and the columns. -/
def coreStep (s : State) (c : Nat) : Agenda := firstOf [(deliverStep · c), (gmmaStep · c), (State.runStep · c), (State.storeStep · c)] s

/-- The requests to follow that reach their leader in this clk, after what it dispatches in it (R363). -/
def followStep (s : State) : Agenda :=
  (firstMsg s Msg.asksFollow).map (fun m =>
    ({ s with msgs := s.msgs.erase m }.onEvent m.dst (argIx m.src) (some m.body), [.followRequest]))

/-- The small step that comes next, with the instructions and events it executes; at the end of a clk there are none. -/
def plan (s : State) : State × List Instr :=
  (firstOf [(crowded <| inputStep ·), msgStep, eachCore clockStep, islandStep, bootStep, eachOf (List.range 18) epStep,
    eachOf (List.range 6) portStep, eachOf (List.range 16) collStep, eachCtx invalStep, eachCtx ctxStep, eachLaunch, (crowded <| queueStep ·),
    eachCore engineStep, (fun s => s.pops.findSome? (popStepOf s)), eachCore migrStep, eachCore landStep, eachCore pwaitStep,
    barStep, eachCore coreStep, followStep, draftStep, homeStep, copyStep, eachCore tensorReadStep, eachCore blockStep, eachCore lateStep] s).getD
      (tick s, [])

/-- A package whose core 0 runs a unit of context 0 and dispatches word w next: the island and its endpoints are up, as
after a boot, and the unit has been loaded and started, as by a launch (log entry 15). -/
def placeWord (s : State) (w : Nat) : State :=
  let k := s.core 0
  let k := { k with unit := .running, ctx := some 0, held := none, fetched := none, seqAt := k.vcc, refreshed := k.vcc + 1,
                    landings := [], rob := [], queues := [], trapAt := none }
  let s := s.setCore 0 k
  let s := s.modCtx 0 (fun x => { x with st := .running })
  let s := { s with isl := { s.isl with st := .active }, inputs := [], msgs := [],
                    eps := (List.range 18).foldl (fun m d => mapPut m d { Endpoint.reset with st := .active }) s.eps }
  { s with mem := memWrite s.mem (coreKey 0 (0x60000 + 12 * k.pc)) (bytesOfWord 12 w) }

end Sys2Proof.Machine
end

