-- ==== Sys2Proof/Machine/Step.lean ====
section
/-! DEFINITION. One step of the package: the plan's next small step, and what it executes. -/

namespace Sys2Proof.Machine

/-- Executes instructions and events one after another; the first fault or refusal ends it. -/
def runAll : List Instr → State → Host.Outcome State Fault Refusal
  | [], s => .next s
  | i :: l, s =>
    match exec i s with
    | .next t => runAll l t
    | r => r

/-- One step. -/
def step (s : State) : Host.Outcome State Fault Refusal :=
  let (t, l) := plan s
  runAll l t

/-- A state whose next step runs the word w in core 0: see log entry 15. An instruction of the P column issues in the draft
unit's turn, after the sequencer's, so for one of those the word has been dispatched. -/
def State.withFetchWord (s : State) (_nbits w : Nat) : State :=
  let t := placeWord s w
  match plan t with
  | (u, []) => if (u.core 0).queueOf colP = [] then t else u
  | _ => t

end Sys2Proof.Machine
end

