-- ==== Sys2Proof/Safety.lean ====
section
/-! DEFINITION. The terms the statements use: when the instruction in hand has its effect, what a program can see of a
core and of memory, and when a core's next word is dispatched. -/

namespace Sys2Proof.Machine

/-- The guard of the instruction in hand holds, so that it has its effect (R116, R117). -/
def State.Runs (s : State) : Prop := s.me.guardOk s.head.guard = true

/-- What a program sees of a core's registers: general, predicate, vector and tensor registers, streams, control
registers, FLAGS, privilege, loop stack, region, tensor slice, receive queues. -/
structure Core.SameRegs (k k' : Core) : Prop where
  g : ∀ r, k'.rg r = k.rg r
  q : ∀ r, k'.rq r = k.rq r
  v : ∀ r, k'.vraw r = k.vraw r
  acc : ∀ r, k'.ra r = k.ra r
  streams : k'.streams = k.streams
  cr : ∀ n, k'.cv n = k.cv n
  flags : k'.flags = k.flags
  priv : k'.priv = k.priv
  loops : k'.loops = k.loops
  trapLoops : k'.trapLoops = k.trapLoops
  region : k'.region = k.region
  slice : k'.slice = k.slice
  rqs : k'.rqs = k.rqs

/-- What a program sees of memory: every byte, every granule tag, line word and owner. -/
structure State.SameMem (s t : State) : Prop where
  mem : ∀ a, memGet t.mem a = memGet s.mem a
  tags : ∀ a, t.tagAt a = s.tagAt a
  written : ∀ a, t.writtenAt a = s.writtenAt a
  lines : ∀ a, t.lineAt a = s.lineAt a
  owners : ∀ a, t.ownerOf a = s.ownerOf a

/-- Nothing a program can see has changed, but for the PC of the core in hand. -/
structure State.Same (s t : State) : Prop where
  mem : s.SameMem t
  me : s.me.SameRegs t.me
  others : ∀ c, c ≠ s.hand.core → t.core c = s.core c

/-- Every byte outside [a, a + n) is as before. -/
def State.SameOutside (s t : State) (a n : Nat) : Prop := ∀ x, x < a ∨ a + n ≤ x → memGet t.mem x = memGet s.mem x

/-- The registers that a write to one place leaves: every general register but `r`. -/
def Core.SameGBut (k k' : Core) (r : GReg) : Prop := ∀ x, x ≠ r → k'.rg x = k.rg x

/-- A core after a change of its loop stack alone. -/
def Core.withLoops (k : Core) (l : List LoopEntry) : Core := { k with loops := l }

/-- An S instruction has finished (R36, R145, R150): its results land in the next vc, the sequencer goes on by the end test
of R150, and nothing else a program sees has changed. -/
structure State.Finished (s t : State) (wrs : List Wr) : Prop where
  lands : ∀ w, w ∈ wrs → (⟨s.me.vcc + 1, s.ent.serial, w, none, false⟩ : Landing) ∈ t.me.landings
  only : ∀ l, l ∈ t.me.landings → l ∈ s.me.landings ∨ (l.due = s.me.vcc + 1 ∧ l.serial = s.ent.serial ∧ (l.wr ∈ wrs ∨ l.wr = .none))
  held : t.me.held = none
  pc : t.me.pc = (s.me.advance s.ent.pc).pc
  resumes : t.me.seqAt = (s.me.advance s.ent.pc).seqAt
  loops : t.me.loops = (s.me.advance s.ent.pc).loops
  slots : ∀ d, t.me.slot d = s.me.slot d
  mem : s.SameMem t
  regs : (s.me.withLoops t.me.loops).SameRegs t.me
  others : ∀ c, c ≠ s.hand.core → t.core c = s.core c

/-- An S instruction has redirected to a PC (R36, R146): the next word is dispatched after two vc without one, its results
land in the next vc, and nothing else a program sees but the loop stack has changed. -/
structure State.Redirected (s t : State) (target : Nat) (wrs : List Wr) : Prop where
  lands : ∀ w, w ∈ wrs → (⟨s.me.vcc + 1, s.ent.serial, w, none, false⟩ : Landing) ∈ t.me.landings
  held : t.me.held = none
  pc : t.me.pc = target
  resumes : t.me.seqAt = s.me.vcc + 3
  mem : s.SameMem t
  regs : (s.me.withLoops t.me.loops).SameRegs t.me
  others : ∀ c, c ≠ s.hand.core → t.core c = s.core c

/-- The instruction in hand stays in the sequencer until something ends its wait. -/
def State.Waits (s t : State) : Prop := ∃ h, t.me.held = some h ∧ h.entry = s.ent ∧ s.SameMem t ∧ s.me.SameRegs t.me

/-- No word is poisoned and no injection is armed, so that a read meets no error (R449, R452). -/
def State.NoErrors (s : State) : Prop := s.poison = [] ∧ ∀ p, p ∈ s.cores → fld (p.2.cv 0x031).toNat 0 1 = 0

/-- A scalar access of the core in hand, of n bytes at address x through register g, that reaches its own SRAM or
scratchpad, at mesh address r.phys, with every check of R57 passed and nothing that makes it wait (R57, R182, R266, R280,
R282, R458); u is the state after its translation. -/
structure State.OwnAccess (s : State) (g : GReg) (x n : Nat) (need : List Nat) (kind : Access) (bound rd wr : Bool) (va : Nat)
    (r : Reach) (u : State) : Prop where
  cap : capCheck (s.me.rg g) x n n need false = none
  rel : s.relResolve (s.me.rg g) x = some va
  parked : s.me.pageParked va = false
  page : s.translateOne va n rd wr = (u, 0, .ok r)
  own : s.isOwn s.hand.core r.phys = true
  store : offKind s.hand.core (offOf r.phys) ≤ 1
  perms : afterPage true s.me.priv bound (mdPerms (s.me.rg g).md) r.phys kind n = none
  locks : s.me.lockHit (offOf r.phys) n wr = none
  lines : s.armedLines (keyOf r.phys) n = []
  watch : s.me.watchHit r.phys n ((if rd then [20] else []) ++ (if wr then [21] else [])) true = none
  clean : s.NoErrors

/-! ## Vectors -/

/-- A V or X instruction may issue and have its effect: its guard holds, none of its v registers is being refreshed (R41),
its v sources have not expired (R42), and no watch register holds a pass for it (R458). -/
structure State.VReady (s : State) (regs srcs : List VReg) : Prop where
  runs : s.Runs
  refresh : s.refreshBusy regs = false
  fresh : ∀ r, r ∈ srcs → s.me.vExpired r = false
  skips : ∀ i, i < 4 → s.me.cf (0x021 + 2 * i) 61 1 = 0

/-- The element mask of the instruction in hand: a MASK register that has not expired under guard mode 11, or none (R116). -/
def State.Masked (s : State) (m : Option VBits) : Prop :=
  match s.head.guard with
  | .elem v => (s.me.rv v).fmt = .mask ∧ s.me.vExpired v = false ∧ m = some (s.me.rv v).bits
  | _ => m = none

/-- A format with elements that arithmetic reads. -/
def IsElemental (f : Fmt) : Prop := f ≠ .noFmt ∧ f ≠ .mask

/-- Element i of a v register read in a format (R66). -/
def Core.elem (k : Core) (f : Fmt) (r : VReg) (i : Nat) : Nat := elemAt (k.rv r).bits (fmtWidth f) i

/-- The flags of the elements that a mask selects, together. -/
def flagsOn (n : Nat) (m : Option VBits) (g : Nat → Nat) : Nat :=
  (List.range n).foldl (fun a i => if maskOn m i then a ||| g i else a) 0

/-- What a v destination is written with (R102): an element that the mask selects has its result; another is absent under
agnostic policy and keeps what the register holds under undisturbed policy. -/
def State.putV (s : State) (d : VReg) (f : Fmt) (policy : Bool) (m : Option VBits) (val : Nat → Nat) : Wr :=
  let each (g : Nat → Nat) : VBits := packElems (fmtWidth f) ((List.range (fmtCount f)).map g)
  .v d f (each (fun i => if maskOn m i then val i else absentCode f))
    (each (fun i => if maskOn m i ∨ policy then 0 else 2 ^ fmtWidth f - 1)) 0 s.lExpiry

/-- What a MASK destination of n bits is written with (R102, R202): a bit that the mask does not select is 0 under agnostic
policy and stays under undisturbed policy; bits at and above n are 0. -/
def State.putMask (s : State) (d : VReg) (n : Nat) (policy : Bool) (m : Option VBits) (val : Nat → Bool) : Wr :=
  .v d .mask (packElems 1 ((List.range n).map (fun i => if maskOn m i && val i then 1 else 0)))
    (packElems 1 ((List.range n).map (fun i => if maskOn m i ∨ policy then 0 else 1))) 0 s.lExpiry

/-- A vector access of n bytes that lies in one page and one bank of the core's own memory, at mesh key `key`, with every
check of R57 and R192 passed; u is the state after its translation, which adds nothing. -/
structure State.VecAccess (s : State) (cap : GVal) (field : Nat) (g : GReg) (x n align : Nat) (rd wr : Bool) (key : Nat)
    (u : State) : Prop where
  passes : s.vAccess cap field g x n align rd wr = .ok (u, 0, [⟨0, key, n, false⟩])
  bank : bankOfKey key = bankOfKey (key + n - 1)
  lines : u.armedLines key n = []
  clean : u.NoErrors

/-- The writes of the instruction in hand that land n vc after its issue. -/
def State.Lands (s t : State) (n : Nat) (w : Wr) : Prop :=
  (⟨s.me.vcc + n, s.ent.serial, w, none, false⟩ : Landing) ∈ t.me.landings

/-- Nothing a program sees of the core in hand or of memory has changed. -/
def State.Kept (s t : State) : Prop := s.SameMem t ∧ s.me.SameRegs t.me

/-- The instruction in hand has started an operation of a kind: it counts in the set the instruction names, and it
completes at a clk or when something else ends it (R50, R125). -/
def State.Starts (s t : State) (kind : AsyncKind) (due : Option Nat) : Prop :=
  ∃ o, o ∈ t.me.ops ∧ o.kind = kind ∧ o.due = due ∧ o.slot = s.head.set ∧ o.serial = s.ent.serial

/-- An S instruction has gone on (R36, R145, R150): the sequencer stands where the end test of R150 puts it, and nothing
else a program sees of its core or of memory has changed. -/
structure State.GoesOn (s t : State) : Prop where
  held : t.me.held = none
  pc : t.me.pc = (s.me.advance s.ent.pc).pc
  resumes : t.me.seqAt = (s.me.advance s.ent.pc).seqAt
  loops : t.me.loops = (s.me.advance s.ent.pc).loops
  mem : s.SameMem t
  regs : (s.me.withLoops t.me.loops).SameRegs t.me

/-- An S instruction has started an operation and gone on. -/
def State.Begins (s t : State) (kind : AsyncKind) (due : Option Nat) : Prop := s.Starts t kind due ∧ s.GoesOn t

/-- A translation that hits, and a read that meets no error, leave all but the buffer of the core in hand. -/
def State.OnlyTlb (s u : State) : Prop :=
  u.hand = s.hand ∧ u.clk = s.clk ∧ s.SameMem u ∧ u.mem = s.mem ∧ u.tags = s.tags ∧ u.lines = s.lines ∧ u.written = s.written ∧
    u.pops = s.pops ∧ u.queues = s.queues ∧ u.ctxs = s.ctxs ∧ u.launches = s.launches ∧ u.isl = s.isl ∧
    (∀ c, c ≠ s.hand.core → u.core c = s.core c) ∧ ∃ l n, u.me = { s.me with tlb := l, tlbUse := n }

/-! ## The step -/

/-- The step is at core c's sequencer and columns: nothing that comes earlier in the clk has anything to do, no earlier
core has, and the core runs and is neither held back nor late. -/
structure State.Turn (s : State) (c : Nat) : Prop where
  before : firstOf [inputStep, msgStep, eachCore clockStep, islandStep, bootStep, eachOf (List.range 18) epStep,
    eachOf (List.range 6) portStep, eachOf (List.range 16) collStep, eachCtx invalStep, eachCtx ctxStep, eachLaunch, queueStep,
    eachCore engineStep, (fun s => s.pops.findSome? (popStepOf s)), eachCore migrStep, eachCore landStep, eachCore pwaitStep,
    barStep] s = none
  cores : ∃ l k l', s.cores = l ++ (c, k) :: l' ∧ ∀ p, p ∈ l → coreStep s p.1 = none
  events : deliverStep s c = none
  gang : gmmaStep s c = none
  live : (s.core c).live = true
  late : (s.core c).late = []
  frozen : s.frozen c = false

/-- Core c dispatches word w next, read from its own instruction SRAM, and w decodes to an instruction that may be
dispatched (R28, R109, R110, R128). -/
structure State.AtWord (s : State) (c w : Nat) (h : Head) (i : Instr) : Prop where
  turn : s.Turn c
  clear : (s.core c).held = none ∧ (s.core c).trapAt = none ∧ (s.core c).seqAt ≤ (s.core c).vcc
  alone : (s.core c).mode ≤ 1 ∧ (s.core c).fwd = []
  word : s.wordAt c (s.core c).pc = w
  fetched : (s.core c).fetched = none ∨ (s.core c).fetched = some ((s.core c).pc, w)
  inside : (s.core c).pc < 2730
  locks : (s.core c).lockHit (0x60000 + 12 * (s.core c).pc) 12 false = none
  bkpt : (s.core c).bkptHit (s.core c).pc = none
  decodes : decodeWith (s.env c) w = .ok (h, i)
  assigned : reservedOpcode (Raw.ofNat w).op = false
  may : (s.core c).mayDispatch h i = true
  block : s.escapes c = false
  clean : s.NoErrors

/-- Instruction i with head h, dispatched at the PC of core c of s, is in hand in u, and nothing else that a program sees
has changed but SKIP of the breakpoint registers, and, for a column instruction, the PC and the loop stack. -/
structure State.InHand (s u : State) (c : Nat) (h : Head) (i : Instr) : Prop where
  core : u.hand.core = c
  instr : u.ent.instr = i
  head : u.head = h
  pc : u.ent.pc = (s.core c).pc
  held : u.me.held = none
  mem : s.SameMem u
  regs : ((s.core c).clearBkptSkip.withLoops u.me.loops).SameRegs u.me
  others : ∀ x, x ≠ c → u.core x = s.core x

end Sys2Proof.Machine
end

