-- ==== Sys2Proof/Certificates/Slice0/Obligations.lean ====
section
/-! DEFINITION. The statements for the provers. -/

open Sys2Proof Sys2Proof.Machine

/-! ## The integer family -/

/-- R166: the results of the plain integer instructions. Each issues with the latency and occupancy given and writes data
with tag 0; MOV copies the whole register. Counts are said by what they count. -/
def Obligations.IntegerResults : Prop :=
  ∀ (s : State) (gd ga : GReg) (b : GImm), s.Runs →
    let x := s.me.rgv ga
    let y := s.me.gimm b
    let n := y.toNat % 64
    let put (lat : Nat) (v : Word) : State := s.issue colI lat 1 0 [.g gd ⟨v, 0, false⟩]
    exec (.add gd ga b) s = .next (put 1 (x + y)) ∧
    exec (.sub gd ga b) s = .next (put 1 (x - y)) ∧
    exec (.mul gd ga b) s = .next (put 3 (x * y)) ∧
    exec (.mulh .ss gd ga b) s = .next (put 3 (BitVec.ofInt 64 (x.toInt * y.toInt / 2 ^ 64))) ∧
    exec (.mulh .uu gd ga b) s = .next (put 3 (BitVec.ofNat 64 (x.toNat * y.toNat / 2 ^ 64))) ∧
    exec (.mulh .su gd ga b) s = .next (put 3 (BitVec.ofInt 64 (x.toInt * y.toNat / 2 ^ 64))) ∧
    exec (.and gd ga b) s = .next (put 1 (x &&& y)) ∧
    exec (.or gd ga b) s = .next (put 1 (x ||| y)) ∧
    exec (.xor gd ga b) s = .next (put 1 (x ^^^ y)) ∧
    exec (.andn gd ga b) s = .next (put 1 (x &&& ~~~y)) ∧
    exec (.shl gd ga b) s = .next (put 1 (x <<< n)) ∧
    exec (.shr gd ga b) s = .next (put 1 (x >>> n)) ∧
    exec (.sra gd ga b) s = .next (put 1 (x.sshiftRight n)) ∧
    exec (.rot gd ga b) s = .next (put 1 ((x >>> n) ||| (x <<< (64 - n)))) ∧
    exec (.min false gd ga b) s = .next (put 1 (if y.slt x then y else x)) ∧
    exec (.min true gd ga b) s = .next (put 1 (if y.ult x then y else x)) ∧
    exec (.max false gd ga b) s = .next (put 1 (if x.slt y then y else x)) ∧
    exec (.max true gd ga b) s = .next (put 1 (if x.ult y then y else x)) ∧
    (∃ k, k ≤ 64 ∧ x.toNat < 2 ^ (64 - k) ∧ (k < 64 → 2 ^ (63 - k) ≤ x.toNat) ∧
      exec (.clz gd ga) s = .next (put 1 (BitVec.ofNat 64 k))) ∧
    (∃ k, k ≤ 64 ∧ (∀ i, i < k → x.getLsbD i = false) ∧ (k < 64 → x.getLsbD k = true) ∧
      exec (.ctz gd ga) s = .next (put 1 (BitVec.ofNat 64 k))) ∧
    exec (.popc gd ga) s = .next (put 1 (BitVec.ofNat 64 ((List.range 64).countP (fun i => x.getLsbD i)))) ∧
    (∀ v : Int, exec (.movi gd (.imm v)) s = .next (put 1 (BitVec.ofInt 64 v))) ∧
    (∀ v : BitVec 32, exec (.movi gd (.joined v.toNat)) s = .next (put 1 (v.signExtend 64))) ∧
    (∀ v : BitVec 14, exec (.movhi gd (.imm v.toInt)) s =
      .next (put 1 (v.signExtend 32 ++ (s.me.rgv gd).extractLsb' 0 32))) ∧
    (∀ v : BitVec 32, exec (.movhi gd (.joined v.toNat)) s = .next (put 1 (v ++ (s.me.rgv gd).extractLsb' 0 32))) ∧
    exec (.mov gd ga) s = .next (s.issue colI 1 1 0 [.g gd (s.me.rg ga)])

/-- R167: DIV and REM at their corners and elsewhere, with latency and occupancy 18. -/
def Obligations.DivisionResults : Prop :=
  ∀ (s : State) (u : Bool) (gd ga : GReg) (b : GImm), s.Runs →
    let x := s.me.rgv ga
    let y := s.me.gimm b
    ∃ q r : Word,
      exec (.div u gd ga b) s = .next (s.issue colI 18 18 0 [.g gd ⟨q, 0, false⟩]) ∧
      exec (.rem u gd ga b) s = .next (s.issue colI 18 18 0 [.g gd ⟨r, 0, false⟩]) ∧
      (y = 0 → q = 0xFFFFFFFFFFFFFFFF#64 ∧ r = x) ∧
      (u = false ∧ x = 0x8000000000000000#64 ∧ y = 0xFFFFFFFFFFFFFFFF#64 → q = 0x8000000000000000#64 ∧ r = 0) ∧
      (y ≠ 0 → u = true → q.toNat = x.toNat / y.toNat ∧ r = x - y * q) ∧
      (y ≠ 0 → u = false → ¬(x = 0x8000000000000000#64 ∧ y = 0xFFFFFFFFFFFFFFFF#64) →
        q.toInt = x.toInt.tdiv y.toInt ∧ r.toInt = x.toInt - y.toInt * q.toInt ∧
          (r.toInt = 0 ∨ (r.toInt < 0 ↔ x.toInt < 0)))

/-- R168: BFX and BFI, for every specification the decoder accepts. -/
def Obligations.BitFieldResults : Prop :=
  ∀ (s : State) (gd ga : GReg) (lsb m : Nat), s.Runs → lsb < 64 → m < 64 → lsb + (m + 1) ≤ 64 →
    let x := s.me.rgv ga
    exec (.bfx gd ga (lsb + 64 * m)) s =
      .next (s.issue colI 1 1 0 [.g gd ⟨(x.extractLsb' lsb (m + 1)).setWidth 64, 0, false⟩]) ∧
    exec (.bfx gd ga (lsb + 64 * m + 4096)) s =
      .next (s.issue colI 1 1 0 [.g gd ⟨(x.extractLsb' lsb (m + 1)).signExtend 64, 0, false⟩]) ∧
    ∃ v : Word, exec (.bfi gd ga (lsb + 64 * m)) s = .next (s.issue colI 1 1 0 [.g gd ⟨v, 0, false⟩]) ∧
      ∀ i, i < 64 → v.getLsbD i = if lsb ≤ i ∧ i ≤ lsb + m then x.getLsbD (i - lsb) else (s.me.rgv gd).getLsbD i

/-- R169, R170: CMP writes its condition to a predicate register, and a write of q15 is discarded; SEL copies a whole
register; the selectors of both are those of the tables. -/
def Obligations.CompareSelect : Prop :=
  ∀ (s : State) (c : CmpCond) (qd q : QReg) (gd ga gb : GReg) (b : GImm), s.Runs →
    let x := s.me.rgv ga
    let y := s.me.gimm b
    exec (.cmp c qd ga b) s = .next (s.issue colI 1 1 0 [.q qd (match c with
      | .eq => x == y
      | .ne => !(x == y)
      | .lt => x.slt y
      | .le => x.sle y
      | .gt => y.slt x
      | .ge => y.sle x
      | .ltu => x.ult y
      | .leu => x.ule y
      | .gtu => y.ult x
      | .geu => y.ule x
      | .tst => !((x &&& y) == 0))]) ∧
    exec (.sel q gd ga gb) s = .next (s.issue colI 1 1 0 [.g gd (if s.me.rq q then s.me.rg ga else s.me.rg gb)]) ∧
    (rawOf s.head (.cmp c qd ga b)).map Raw.fn = some (match c with
      | .eq => 0
      | .ne => 1
      | .lt => 2
      | .le => 3
      | .gt => 4
      | .ge => 5
      | .ltu => 6
      | .leu => 7
      | .gtu => 8
      | .geu => 9
      | .tst => 10) ∧
    (rawOf s.head (.sel q gd ga gb)).map Raw.fn = some q.val ∧
    ∀ v, (s.applyWr s.hand.core (.q 15 v)).me.q = s.me.q

/-! ## The capability family -/

/-- R59: derivation is monotone. Every capability instruction that writes a tagged register from a valid source other than
by opening or resolving it writes one whose source was tagged, with no permission and no byte the source lacks. -/
def Obligations.CapabilityMonotone : Prop :=
  ∀ (i : Instr) (s t : State) (gd ga : GReg) (b : GImm) (n : Nat) (k : Int), s.Runs →
    i ∈ [.csetb gd ga b, .csetbx gd ga b, .candp gd ga b, .cinc gd ga b, .cseta gd ga b, .cclrt gd ga, .crel gd ga n,
      .cseal gd ga k, .cunseal gd ga k] →
    (0 ≤ k ∧ k < 32) →
    let c := s.me.rg ga
    (c.tag = true → capValid c.val c.md = true) → exec i s = .next t →
    (∃ cause addr info, t = s.trap cause addr info) ∨
    ∃ r : GVal, t = s.issue colI 1 1 0 [.g gd r] ∧
      (r.tag = true → c.tag = true ∧ capValid r.val r.md = true ∧ (∀ p, mdHas r.md p = true → mdHas c.md p = true) ∧
        capBase c.val c.md ≤ capBase r.val r.md ∧ capTop r.val r.md ≤ capTop c.val c.md)

/-- R172, R173, R174: what the instructions that narrow or move an open capability write. CSETB rounds the range out to the
smallest granules in which it spans fewer than 2^20 of them, and CSETBX asks that nothing is rounded: the tag stays when the
new bounds lie within the old ones. The bounds stay where they were when the address moves inside the window of R56. CABS moves
the bounds with the address that R61 resolves. A source without a tag gives a result without one, and a sealed one raises
CAP_SEAL. -/
def Statements.CapabilityResults : Prop :=
  ∀ (s : State) (gd ga : GReg) (b : GImm) (n : Nat), s.Runs →
    let c := s.me.rg ga
    let y := s.me.gimm b
    let put (r : GVal) : State := s.issue colI 1 1 0 [.g gd r]
    let x := c.val.toNat
    let stop := x + y.toNat
    let lo (g : Nat) : Nat := x / 2 ^ g * 2 ^ g
    let hi (g : Nat) : Nat := (stop + 2 ^ g - 1) / 2 ^ g * 2 ^ g
    let fits (g : Nat) : Prop := hi g - lo g ≤ (2 ^ 20 - 1) * 2 ^ g
    let narrowed (r : GVal) (also : Nat → Prop) : Prop := r.val = c.val ∧ mdPerms r.md = mdPerms c.md ∧ mdSeal r.md = 0 ∧
      ((∀ g, g ≤ 44 → ¬ fits g) → r.tag = false) ∧
      ∀ g, g ≤ 44 → fits g → (∀ f, f < g → ¬ fits f) →
        (r.tag = true ↔ stop ≤ 2 ^ 64 ∧ also g ∧ capBase c.val c.md ≤ lo g ∧ (hi g : Int) ≤ capTop c.val c.md) ∧
        (r.tag = true → capBase r.val r.md = lo g ∧ capTop r.val r.md = hi g)
    let forms : List Instr := [.csetb gd ga b, .csetbx gd ga b, .candp gd ga b, .cinc gd ga b, .cseta gd ga b, .cclrt gd ga, .crel gd ga n]
    (c.tag = true → mdSeal c.md ≠ 0 → (∀ i, i ∈ forms → exec i s = .next (s.trap causeSEAL x (capInfo 4 ga))) ∧
      exec (.cabs gd ga) s = .next (s.trap causeSEAL x (capInfo 4 ga))) ∧
    (c.tag = false → (∀ i, i ∈ forms → ∃ r, exec i s = .next (put r) ∧ r.tag = false) ∧
      (mdHas c.md pREL = false → ∃ r, exec (.cabs gd ga) s = .next (put r) ∧ r.val = c.val ∧ r.md = c.md ∧ r.tag = false)) ∧
    (c.tag = true → mdSeal c.md = 0 → capValid c.val c.md = true →
    (∃ r, exec (.csetb gd ga b) s = .next (put r) ∧ narrowed r (fun _ => True)) ∧
    (∃ r, exec (.csetbx gd ga b) s = .next (put r) ∧ narrowed r (fun g => lo g = x ∧ hi g = stop)) ∧
    (∃ r, exec (.candp gd ga b) s = .next (put r) ∧ r.val = c.val ∧ r.tag = true ∧ mdPerms r.md = mdPerms c.md &&& y.toNat % 4096 ∧
      capBase r.val r.md = capBase c.val c.md ∧ capTop r.val r.md = capTop c.val c.md) ∧
    (∃ r, exec (.cinc gd ga b) s = .next (put r) ∧ r.val = c.val + y ∧ mdPerms r.md = mdPerms c.md ∧
      r.tag = capWindow c.val c.md (c.val + y).toNat ∧
      (r.tag = true → capBase r.val r.md = capBase c.val c.md ∧ capTop r.val r.md = capTop c.val c.md)) ∧
    (∃ r, exec (.cseta gd ga b) s = .next (put r) ∧ r.val = y ∧ mdPerms r.md = mdPerms c.md ∧
      r.tag = capWindow c.val c.md y.toNat ∧
      (r.tag = true → capBase r.val r.md = capBase c.val c.md ∧ capTop r.val r.md = capTop c.val c.md)) ∧
    exec (.cclrt gd ga) s = .next (put { c with tag := false }) ∧
    (∃ r, exec (.crel gd ga n) s = .next (put r) ∧
      r.val.toNat = setFld (setFld c.val.toNat 34 8 (fld n 5 8)) 29 5 (fld n 0 5) ∧
      r.tag = (mdHas c.md pREL && capWindow c.val c.md r.val.toNat)) ∧
    (mdHas c.md pREL = false → exec (.cabs gd ga) s = .next (put c)) ∧
    (mdHas c.md pREL = true → s.relResolve c x = none → exec (.cabs gd ga) s = .next (s.trap causePERM x (capInfo 4 ga))) ∧
    (mdHas c.md pREL = true → ∀ va, s.relResolve c x = some va → va < 2 ^ 64 → ∃ r, exec (.cabs gd ga) s = .next (put r) ∧
      r.val.toNat = va ∧ (∀ p, mdHas r.md p = (mdHas c.md p && p != pREL)) ∧
      (r.tag = true → capBase r.val r.md = capBase c.val c.md + ((va : Int) - x) ∧
        capTop r.val r.md = capTop c.val c.md + ((va : Int) - x)) ∧
      (r.tag = true → mdG c.md = 0 ∨ capWhole c.md = true ∨ ((va : Int) - x) % (2 ^ mdG c.md : Nat) = 0)))

/-- R174, R175: CGET reads any source; CSEAL and CUNSEAL change SEAL alone; CTEST tests. -/
def Statements.CapabilityReads : Prop :=
  ∀ (s : State) (f : CapField) (x : CapTest) (gd ga gb : GReg) (qd : QReg) (k : Int), s.Runs →
    let c := s.me.rg ga
    let d := s.me.rg gb
    let base := capBase c.val c.md
    let top := capTop c.val c.md
    let put (w : Wr) : State := s.issue colI 1 1 0 [w]
    exec (.cget f gd ga) s = .next (put (.g gd ⟨match f with
      | .base => BitVec.ofInt 64 base
      | .top => if 2 ^ 64 ≤ top then 0xFFFFFFFFFFFFFFFF#64 else BitVec.ofInt 64 top
      | .len => if 2 ^ 64 ≤ top - base then 0xFFFFFFFFFFFFFFFF#64 else BitVec.ofInt 64 (top - base)
      | .perm => c.md >>> 52
      | .seal => c.md &&& 31#64
      | .tag => if c.tag then 1 else 0
      | .metaBits => c.md
      | .off => BitVec.ofInt 64 (c.val.toNat - base), 0, false⟩)) ∧
    (c.tag = true → mdSeal c.md = 0 → 2 ≤ k → k < 32 → (k ≤ 15 → s.me.priv = true) → ∃ r : GVal,
      exec (.cseal gd ga k) s = .next (put (.g gd r)) ∧ r.val = c.val ∧ r.tag = true ∧ r.md = (c.md &&& ~~~31#64) ||| BitVec.ofInt 64 k) ∧
    (c.tag = true → (mdSeal c.md : Int) = k → 2 ≤ k → (k ≤ 15 → s.me.priv = true) → ∃ r : GVal,
      exec (.cunseal gd ga k) s = .next (put (.g gd r)) ∧ r.val = c.val ∧ r.tag = true ∧ r.md = c.md &&& ~~~31#64) ∧
    exec (.ctest x qd ga (some gb)) s = .next (put (.q qd (match x with
      | .tag => c.tag
      | .sub => c.tag && d.tag && (mdPerms d.md &&& mdPerms c.md == mdPerms d.md) &&
          decide (base ≤ capBase d.val d.md ∧ capTop d.val d.md ≤ top)
      | .inb => c.tag && decide (base ≤ c.val.toNat ∧ (c.val.toNat : Int) < top)
      | .isSealed => c.tag && decide (mdSeal c.md ≠ 0))))

/-! ## The scalar-float family -/

/-- R177: the arithmetic of the F column: an absent source gives the absent code and no flag; else the exact result is
rounded once, and its flags wait for the commit. -/
def Statements.ScalarFloatArithmetic : Prop :=
  ∀ (s : State) (f : Fmt) (rtz : Bool) (gd ga gb : GReg), s.Runs →
    let e (r : GReg) : Machine.Num := readElem f ((s.me.rgv r).toNat % 2 ^ fmtWidth f)
    let a := e ga
    let b := e gb
    let put (lat occ : Nat) (absent : Bool) (r : Machine.Num × Nat) : State :=
      if absent then s.issue colF lat occ 0 [.g gd ⟨BitVec.ofNat 64 (absentCode f), 0, false⟩]
      else s.issue colF lat occ (r.2 ||| (writeElem f rtz false r.1).2)
        [.g gd ⟨BitVec.ofNat 64 (writeElem f rtz false r.1).1, 0, false⟩]
    exec (.fadd f rtz gd ga gb) s = .next (put 4 1 (a.isAbsent || b.isAbsent) (numAdd a b)) ∧
    exec (.fsub f rtz gd ga gb) s = .next (put 4 1 (a.isAbsent || b.isAbsent) (numSub a b)) ∧
    exec (.fmul f rtz gd ga gb) s = .next (put 4 1 (a.isAbsent || b.isAbsent) (numMul a b)) ∧
    exec (.fdiv f rtz gd ga gb) s = .next (put 12 12 (a.isAbsent || b.isAbsent) (numDiv a b)) ∧
    exec (.fsqrt f rtz gd ga) s = .next (put 12 12 a.isAbsent (numSqrt a)) ∧
    exec (.ffma f rtz gd ga gb) s = .next (put 4 1 (a.isAbsent || b.isAbsent || (e gd).isAbsent) (numFma a b (e gd)))

/-- R178, R179, R180: comparisons, minimum and maximum, sign, conversion, class, and the absent code. -/
def Statements.ScalarFloatOther : Prop :=
  ∀ (s : State) (f : Fmt) (rtz : Bool) (c : FCond) (op : SgnOp) (src : CvtSrc) (qd : QReg) (gd ga gb : GReg), s.Runs →
    let pat (r : GReg) : Nat := (s.me.rgv r).toNat % 2 ^ fmtWidth f
    let a := readElem f (pat ga)
    let b := readElem f (pat gb)
    let none_ := a.isAbsent || b.isAbsent
    let put (lat fl x : Nat) : State :=
      s.issue colF lat 1 fl [.g gd ⟨BitVec.ofNat 64 x, 0, false⟩]
    (none_ = true → exec (.fmin f gd ga gb) s = .next (put 4 0 (absentCode f)) ∧ exec (.fmax f gd ga gb) s = .next (put 4 0 (absentCode f)) ∧
      exec (.fsgn f op gd ga gb) s = .next (put 4 0 (absentCode f))) ∧
    (none_ = false → ∀ hi : Bool, exec (if hi then .fmax f gd ga gb else .fmin f gd ga gb) s =
      .next (put 4 ((numMinMax hi a b).2 ||| (writeElem f false false (numMinMax hi a b).1).2)
        (writeElem f false false (numMinMax hi a b).1).1)) ∧
    (none_ = false → exec (.fsgn f op gd ga gb) s = .next (put 4 0 (writeElem f false false (fsgnOp op a
      ((s.me.rgv gb).getLsbD (fmtWidth f - 1)))).1)) ∧
    exec (.fcmp f c qd ga gb) s = .next (s.issue colF 4 1 (a.sigFlag ||| b.sigFlag) [.q qd (!none_ && (match c with
      | .eq => !a.isNan && !b.isNan && numEq a b
      | .lt => !a.isNan && !b.isNan && numLt a b
      | .le => !a.isNan && !b.isNan && (numLt a b || numEq a b)
      | .un => a.isNan || b.isNan
      | .ne => !a.isNan && !b.isNan && !numEq a b))]) ∧
    exec (.fcvt f rtz src gd ga) s = .next (s.issue colF 2 1 (fcvtResult f rtz src (s.me.rgv ga)).2
      [.g gd ⟨(fcvtResult f rtz src (s.me.rgv ga)).1, 0, false⟩]) ∧
    exec (.fclass f gd ga) s = .next (put 4 0 (2 ^ classBit f (pat ga))) ∧
    exec (.mkabs f gd) s = .next (put 4 0 (absentCode f))

/-! ## The sequencer -/

/-- R146 to R149: branches, calls and returns reach their target after two vc, with the loop entries whose body does not hold
the target of a branch popped, and the link an entry capability for the next PC. -/
def Statements.BranchesAndCalls : Prop :=
  ∀ (s : State) (off : Int) (g : GReg) (n : Nat), s.Runs →
    let near := pcWrap (s.ent.pc + off)
    let link : Wr := .g 1 ⟨BitVec.ofNat 64 (0x60000 + 12 * (s.ent.pc + 1)),
      BitVec.ofNat 64 (0x2000000000100001 + 12 * (s.ent.pc + 1) * 2 ^ 25), true⟩
    (∃ t, exec (.b off) s = .next t ∧ s.Redirected t near [] ∧ t.me.loops = popLoops near s.me.loops) ∧
    (∃ t, exec (.call off) s = .next t ∧ s.Redirected t near [link] ∧ t.me.loops = s.me.loops) ∧
    (codeTarget (s.me.rg g) = .ok n →
      (∃ t, exec (.br g) s = .next t ∧ s.Redirected t n [] ∧ t.me.loops = popLoops n s.me.loops) ∧
      (∃ t, exec (.callr g) s = .next t ∧ s.Redirected t n [link] ∧ t.me.loops = s.me.loops) ∧
      (∃ t, exec (.ret g) s = .next t ∧ s.Redirected t n [] ∧ t.me.loops = s.me.loops))

/-- R147: what makes a register a code target: a tagged capability, open or an entry, with X, whose address is a word of
instruction SRAM inside its bounds; any other raises the trap its first failing check names. -/
def Statements.CodeTargets : Prop :=
  ∀ (s : State) (g : GReg) (n : Nat), s.Runs →
    let c := s.me.rg g
    (codeTarget c = .ok n ↔ c.tag = true ∧ mdSeal c.md ≤ 1 ∧ mdHas c.md pX = true ∧ capBase c.val c.md ≤ c.val.toNat ∧
      (c.val.toNat : Int) + 12 ≤ capTop c.val c.md ∧ n < 2731 ∧ c.val.toNat % 2 ^ 20 = 0x60000 + 12 * n) ∧
    ∀ cause, codeTarget c = .error cause → ∀ i, i ∈ [Instr.br g, Instr.callr g, Instr.ret g] →
      exec i s = .next (s.trap cause c.val.toNat (capInfo 4 g))

/-- R149, R152, R153: LOOP and LOOPX push an entry or skip the body, and BENG branches by the slot or flag it samples. -/
def Statements.LoopsAndEngineTests : Prop :=
  ∀ (s : State) (q : QReg) (d : DReg) (c : GImm) (off : Int) (e : Nat), s.Runs →
    let stop := pcWrap (s.ent.pc + off)
    let near := pcWrap (s.ent.pc + off)
    let n := match c with
      | .reg g => (s.me.rgv g).toNat % 2 ^ 32
      | .imm v => v.toNat
    let fits := s.me.loops.length < 4 ∧ (∀ top, s.me.loops.head? = some top → stop ≤ top.stop)
    let pushed (xq : Option QReg) : State := s.modMe (fun k => k.withLoops (⟨s.ent.pc + 1, stop, n, xq⟩ :: s.me.loops))
    (fits → n ≠ 0 →
      (∃ t, exec (.loop c off) s = .next t ∧ (pushed none).Finished t []) ∧
      (∃ t, exec (.loopx q c off) s = .next t ∧ (pushed (some q)).Finished t [])) ∧
    (fits → n = 0 →
      (∃ t, exec (.loop c off) s = .next t ∧ s.Redirected t (stop + 1) [] ∧ t.me.loops = s.me.loops) ∧
      (∃ t, exec (.loopx q c off) s = .next t ∧ s.Redirected t (stop + 1) [] ∧ t.me.loops = s.me.loops)) ∧
    (∃ t, exec (.bengZ d off) s = .next t ∧ (if s.me.sampled s.clk d = 0 then s.Redirected t near [] else s.Finished t [])) ∧
    (∃ t, exec (.bengNz d off) s = .next t ∧ (if s.me.sampled s.clk d = 0 then s.Finished t [] else s.Redirected t near [])) ∧
    (∃ t, exec (.bengF e off) s = .next t ∧
      (if s.me.sampledFlag s.clk e then s.Redirected t near [] else s.Finished t [])) ∧
    (∃ t, exec (.bengFc e off) s = .next t ∧ (if s.me.sampledFlag s.clk e then
      s.Redirected t near [] ∧ t.me.sampledFlag s.clk e = false else s.Finished t []))

/-- R150: the end test at the word the sequencer has just dispatched: past the end of no loop the next word follows; at the
end of the innermost one a count above 1 goes back, with a redirect, and an exit predicate or a last count falls out. -/
def Statements.EndTest : Prop :=
  ∀ (k : Core) (pc : Nat) (e : LoopEntry) (l : List LoopEntry),
    (k.loops = [] → (k.advance pc).pc = pc + 1 ∧ (k.advance pc).seqAt = k.vcc + 1 ∧ (k.advance pc).loops = []) ∧
    (k.loops = e :: l → e.stop ≠ pc →
      (k.advance pc).pc = pc + 1 ∧ (k.advance pc).seqAt = k.vcc + 1 ∧ (k.advance pc).loops = e :: l) ∧
    (k.loops = e :: l → e.stop = pc → (∀ q, e.xq = some q → k.rq q = false) → 1 < e.cnt →
      (k.advance pc).pc = e.start ∧ (k.advance pc).seqAt = k.vcc + 3 ∧
        (k.advance pc).loops = { e with cnt := e.cnt - 1 } :: l) ∧
    (k.loops = e :: l → e.stop = pc → ((∃ q, e.xq = some q ∧ k.rq q = true) ∨ e.cnt ≤ 1) →
      k.advance pc = (k.withLoops l).advance pc)

/-- R154, R157 to R162: the plain S instructions: NOP, a WAIT whose condition holds, predicate operations, SLEEP. -/
def Statements.PlainSequencer : Prop :=
  ∀ (s : State) (f : QFn) (qd qa qb : QReg) (g : GReg) (v : Int) (c : GImm), s.Runs →
    let len := match c with
      | .reg r => (s.me.rgv r).toNat % 2 ^ 32
      | .imm x => x.toNat
    let bool (x y : Bool) : Bool := match f with
      | .and => x && y
      | .or => x || y
      | .xor => x ^^ y
      | .andn => x && !y
      | .orn => x || !y
      | .xnor => !(x ^^ y)
      | .nand => !(x && y)
      | .nor => !(x || y)
    (∃ t, exec .nop s = .next t ∧ s.Finished t []) ∧
    (∃ t, exec (.wait none) s = .next t ∧ s.Finished t []) ∧
    (∀ d, s.me.slot d = 0 → (∀ p, p ∈ s.me.queues → ∀ e, e ∈ p.2 → s.ent.serial ≤ e.serial) →
      ∃ t, exec (.wait (some d)) s = .next t ∧ s.Finished t []) ∧
    (s.me.allQuiet = true → ∃ t, exec .waitAll s = .next t ∧ s.Finished t []) ∧
    (∃ t, exec (.qop f qd qa qb) s = .next t ∧ s.Finished t [.q qd (bool (s.me.rq qa) (s.me.rq qb))]) ∧
    (∃ t, exec (.qmov qd qa) s = .next t ∧ s.Finished t [.q qd (s.me.rq qa)]) ∧
    (∃ t, exec (.qmovG qd g) s = .next t ∧ s.Finished t [.q qd (decide (s.me.rgv g ≠ 0))]) ∧
    (∃ t, exec (.qmovI qd v) s = .next t ∧ s.Finished t [.q qd (decide (v ≠ 0))]) ∧
    (∀ n : Nat, n ≤ 16 → qa.val + n ≤ 16 → ∃ x : Word,
      (∀ i, i < 64 → x.getLsbD i = (decide (i < n) && s.me.rq (Fin.ofNat 16 (qa.val + i)))) ∧
      ∃ t, exec (.qrd g qa n) s = .next t ∧ s.Finished t [.g g ⟨x, 0, false⟩]) ∧
    (len = 0 → ∃ t, exec (.sleep c) s = .next t ∧ s.Finished t []) ∧
    (len ≠ 0 → ∃ t h, exec (.sleep c) s = .next t ∧ t.me.held = some h ∧ h.entry = s.ent ∧
      h.stage = 9 ∧ h.mark = s.me.vcc + len ∧ s.Same t)

/-- R155, R156, R295, R460: what ends or stops a unit does so once its waits are over: EXIT outside a timed block, HALT, TRAP,
TRAP.ESC at S privilege, BKPT with and without a debugger. -/
def Statements.EndsAndStops : Prop :=
  ∀ (s : State) (v : GImm) (n : Int), s.Runs →
    let c := s.hand.core
    (s.me.block = none → s.me.exitReady s.ent.serial = true →
      exec (.exit v) s = .next ((s.sFinish []).endUnit c .done ((s.me.gimm v).toNat % 65536) true)) ∧
    (s.me.block = none → s.me.allQuiet = true →
      exec .halt s = .next (((s.sDone []).stopCore c 2 (s.sDone []).me.pc).stopRecord c 2)) ∧
    (s.me.block.isSome = true → exec .halt s = .next (s.timing 0 4) ∧ exec (.exit v) s = .next (s.timing 0 4)) ∧
    (s.me.allQuiet = true → s.me.released s.ent.serial = true →
      exec (.trap n) s = .next (s.raise { cause := 0x20, addr := 0, info := n.toNat, resume := 2, imprecise := false })) ∧
    (s.me.priv = true → exec .trapEsc s = .next
      ((((s.sFinish []).modMe (fun k => { k.diverge with block := none }))).escalate c s.me.standingTrap
        (s.me.cf crTRAP_PC 0 12) false)) ∧
    (s.me.priv = false → exec .trapEsc s = .next (s.trap causePRIV 0 0)) ∧
    (s.me.allQuiet = true → fld s.me.dbg.ctl.toNat 3 2 = 3 →
      exec (.bkpt n) s = .next ((s.sDone []).stopCore c 3 (s.sDone []).me.pc)) ∧
    (s.me.allQuiet = true → fld s.me.dbg.ctl.toNat 3 2 ≠ 3 → exec (.bkpt n) s = .next (s.raise
      { cause := 0x21, addr := 0, info := 4 + n.toNat % 256 * 256, resume := 2, imprecise := false }))

/-- R296: the return from a handler, by the RESUME kind that stands: the privilege before the trap, ACTIVE 0, and the region
from its start, the instruction again, or what follows it; PRIV at user level, ILLEGAL with ACTIVE 0. -/
def Statements.TrapReturn : Prop :=
  ∀ (s : State) (rgn : Bool), s.Runs →
    let i : Instr := if rgn then .eretRgn else .eret
    let k := s.me
    let kind := k.cf crTRAP_CAUSE 10 2
    let pc := k.cf crTRAP_PC 0 12
    (k.priv = false → exec i s = .next (s.trap causePRIV 0 0)) ∧
    (k.priv = true → k.active = false → exec i s = .next (s.trap causeILLEGAL 0 0)) ∧
    (k.priv = true → k.active = true → k.allQuiet = true → kind = 3 → exec i s = .next ((s.sFinish []).endByTrap s.hand.core)) ∧
    (k.priv = true → k.active = true → k.allQuiet = true → kind ≠ 3 → ∃ t, exec i s = .next t ∧
      t.me.priv = (k.cf crTRAP_CAUSE 14 1 == 1) ∧ t.me.active = false ∧ (∀ r, t.me.rg r = k.rg r) ∧ (∀ r, t.me.rq r = k.rq r) ∧
      s.SameMem t ∧ (∀ c, c ≠ s.hand.core → t.core c = s.core c) ∧
      ((rgn = true ∨ kind = 0) → t.me.loops = k.region.loops ∧ t.me.pc = k.cf crREGION 0 12 ∧ t.me.seqAt = k.vcc + 3 ∧
        ∀ p, p ∈ t.me.rqs → p.2.popped = 0) ∧
      (rgn = false → kind = 1 → t.me.loops = k.trapLoops ∧ t.me.pc = pc ∧ t.me.seqAt = k.vcc + 3) ∧
      (rgn = false → kind = 2 → t.me.pc = ((k.withLoops k.trapLoops).advance pc).pc ∧ t.me.seqAt = k.vcc + 3))

/-- R298, R342, R344, R345, R350: TBLK waits for its block's START and opens it there, TEND closes it, and each is ILLEGAL where
it has no place; REALIGN has no effect in a group on one die, and else reports its die's VCC to the master and waits; BUDG arms a
budget, which lasts at most until the wall (a budget of 0 is over in the same clk, by BUDGET_EXPIRY), and BUDG.OFF takes it
away; RGN with a descriptor that R298 accepts records the region. -/
def Statements.BlocksAndBudgets : Prop :=
  ∀ (s : State) (v : GImm) (b : Block) (n : GImmJ) (d : Fin 2048), s.Runs →
    let c := s.hand.core
    let no := (s.me.gimm v).toNat % 256
    let wall := (s.me.cv crBUDGET_WALL).toNat
    let ask := match n with
      | .reg g => (s.me.rgv g).toNat
      | .imm x => x.toNat
      | .joined x => x % 2 ^ 32
    let left := if wall = 0 then ask else min ask (wall - s.now)
    let u := s.coreRead c (coreKey c (0x60000 + 16 * d)) 16 (0x60000 + 16 * d) 3
    let field (at_ m : Nat) : Nat := leNat ((u.memLoad (coreKey c (0x60000 + 16 * d)) 16).drop at_ |>.take m)
    let armed (t : State) (x : Word) : Prop := t.me.cv crBUDGET_LEFT = x ∧ (∀ m, m ≠ crBUDGET_LEFT → t.me.cv m = s.me.cv m) ∧
      (∀ r, t.me.rg r = s.me.rg r) ∧ (∀ r, t.me.rq r = s.me.rq r) ∧ (∀ r, t.me.vraw r = s.me.vraw r) ∧ t.me.flags = s.me.flags ∧
      t.me.held = none ∧ t.me.pc = (s.me.advance s.ent.pc).pc ∧ s.SameMem t ∧ ∀ x, x ≠ c → t.core x = s.core x
    (s.me.block = none → s.timedLaunch c = true → s.blockOf c no = some b → b.tblk = s.ent.pc → b.start = s.me.vcc →
      ∃ t, exec (.tblk v) s = .next t ∧ t.me.block = some (no, b.strict) ∧ t.me.pc = (s.me.advance s.ent.pc).pc ∧ s.SameMem t ∧
        (s.me.withLoops t.me.loops).SameRegs t.me) ∧
    (s.me.block = none → s.timedLaunch c = true → s.blockOf c no = some b → b.tblk = s.ent.pc → s.me.vcc < b.start →
      ∃ t, exec (.tblk v) s = .next t ∧ s.Waits t ∧ t.me.block = none) ∧
    (s.me.block = none → s.timedLaunch c = true → s.blockOf c no = some b → b.tblk = s.ent.pc → b.start < s.me.vcc →
      exec (.tblk v) s = .next (s.trap causeTIMING 0 (timingInfo (s.me.vcc - b.start) no 2))) ∧
    (s.me.block = none → s.timedLaunch c = true → (∀ y, s.blockOf c no = some y → y.tblk ≠ s.ent.pc) →
      exec (.tblk v) s = .next (s.trap causeILLEGAL 0 4)) ∧
    (s.me.block.isSome = true ∨ s.timedLaunch c = false → exec (.tblk v) s = .next (s.trap causeILLEGAL 0 0)) ∧
    (∀ m, s.me.block = some m → s.blockOf c m.1 = some b → b.tend = s.ent.pc →
      ∃ t, exec .tend s = .next t ∧ t.me.block = none ∧ t.me.pc = (s.me.advance s.ent.pc).pc ∧ s.SameMem t ∧
        (s.me.withLoops t.me.loops).SameRegs t.me) ∧
    (∀ m, s.me.block = some m → (∀ y, s.blockOf c m.1 = some y → y.tend ≠ s.ent.pc) →
      exec .tend s = .next (s.trap causeILLEGAL 0 0)) ∧
    (s.me.block = none → exec .tend s = .next (s.trap causeILLEGAL 0 0)) ∧
    ((∀ l, s.launch s.me.launch = some l → l.image.timed = false ∨ l.dies.length < 2) →
      ∃ t, exec .realign s = .next t ∧ s.Finished t []) ∧
    (∀ l, s.launch s.me.launch = some l → l.image.timed = true → 2 ≤ l.dies.length → (mapGet l.realign (dieOf c)).isSome = true →
      ∃ t, exec .realign s = .next t ∧ s.Waits t ∧ t.msgs = s.msgs) ∧
    (∀ l, s.launch s.me.launch = some l → l.image.timed = true → 2 ≤ l.dies.length → mapGet l.realign (dieOf c) = none →
      ∃ t m, exec .realign s = .next t ∧ s.Waits t ∧ m ∈ t.msgs ∧ m.dst = l.master ∧
        m.body = .realignReport s.me.launch (dieOf c) s.me.vcc) ∧
    (∃ t, exec (.budg n) s = .next t ∧ armed t (BitVec.ofNat 64 (2 ^ 63 + left % 2 ^ 63))) ∧
    (∃ t, exec .budgOff s = .next t ∧ armed t 0) ∧
    (s.me.block = none → field 14 2 = 0 → field 12 1 < 16 → field 13 1 < 4 →
      (∀ p, p ∈ s.me.streams → (field 8 4).testBit (24 + p.1) = false) →
      exec (.rgn (d : Nat)) s = .next ((u.modMe (fun k => k.modRob s.ent.serial (fun r =>
        { r with region := some ⟨d, s.ent.pc, field 13 1, s.me.loops, []⟩ }))).sDone []))

/-- R305, R460: control registers are read, written, set and cleared as their fields allow (R5, R72), FLAGS losing its bits at the
instruction's commit (R75); and the debug instructions read the Whistle latch, request a Whistle, as a write of WHISTLE_CTL does,
and write trace records. -/
def Statements.ControlRegisterInstructions : Prop :=
  ∀ (s : State) (g : GReg) (n : CReg) (a : GImmJ) (tag : Int), s.Runs →
    let c := s.hand.core
    let m := (s.me.gimmj a).toNat
    let old := (s.crRead c n.val).toNat
    let may := s.me.priv = true ∨ n.val ∈ [0x010, 0x013]
    let d := s.me.dbg
    let clears (i : Instr) (x : Nat) : Prop := ∃ t, exec i s = .next t ∧ s.Finished t [] ∧
      ∀ r, r ∈ t.me.rob → r.serial = s.ent.serial → ∃ q, q ∈ s.me.rob ∧ r.clear = q.clear ||| (x &&& 0x7F)
    (∃ t, exec (.crr g n) s = .next t ∧ s.Finished t [.g g ⟨s.crRead c n.val, 0, false⟩]) ∧
    (n.val = 0x00D → clears (.crw n a) m ∧ clears (.crset n a) 0 ∧ clears (.crclr n a) m) ∧
    (n.val ≠ 0x00D → may → (∃ t, exec (.crw n a) s = .next t ∧ s.Finished t [s.crWr c n.val m m]) ∧
      (∃ t, exec (.crset n a) s = .next t ∧ s.Finished t [s.crWr c n.val (old ||| m) 0]) ∧
      (∃ t, exec (.crclr n a) s = .next t ∧ s.Finished t [s.crWr c n.val (old ^^^ (old &&& m)) m])) ∧
    (n.val ≠ 0x00D → ¬may → ∀ i, i ∈ [Instr.crw n a, Instr.crset n a, Instr.crclr n a] → ∃ t, exec i s = .next t ∧ s.Finished t []) ∧
    (∃ t, exec (.smpl g) s = .next t ∧ s.Finished t [.g g ⟨BitVec.ofNat 64
      (d.latchPc % 4096 + d.latchSt % 16 * 4096 + d.latchSeq % 2 ^ 48 * 65536), 0, false⟩]) ∧
    (∃ t, exec .whistleReq s = .next t ∧ t.cores = s.cores ∧ t.mem = s.mem ∧
      (fld s.isl.whCtl.toNat 0 1 = 1 → s.isl.whReq = none → t.isl.whReq = some s.ns) ∧ (fld s.isl.whCtl.toNat 0 1 = 0 → t = s)) ∧
    (s.me.priv = true → exec .smplReq s = .next (s.whistleReq.sDone [])) ∧
    (s.me.priv = false → exec .smplReq s = .next (s.trap causePRIV 0 0)) ∧
    (∃ t, exec (.trace g tag) s = .next t ∧ s.Finished t [] ∧ (traceOn s.me = true → ∀ r, r ∈ t.me.rob →
      r.serial = s.ent.serial → r.trace = some (traceRec 6 (tag.toNat % 256) (s.ent.pc % 65536) 0 (s.me.rgv g).toNat))) ∧
    (∃ t, exec .traceSync s = .next t ∧ s.Finished t [] ∧ (traceOn s.me = true → ∀ r, r ∈ t.me.rob →
      r.serial = s.ent.serial → r.trace = some (syncRec s.now s.me)))

/-- R5, R72: what a write of a control register keeps: every bit outside its RW and W1C fields. -/
def Statements.ControlRegisterWrites : Prop :=
  ∀ (s t : State) (c n rw clr : Nat) (i : Nat), n < 64 → n ≠ 0x00D → n ≠ 0x014 → n ≠ 0x031 → i < 64 →
    t = s.applyWr c (s.crWr c n rw clr) →
    ((t.core c).cv n).getLsbD i =
      if (crRw n).testBit i ∧ (n = 0x010 → i < 32) then rw.testBit i else (n = 0x010 → i < 32) && ((s.core c).cv n).getLsbD i

/-! ## Followers and barriers -/

/-- R363, R364: FOLLOW sends its request and waits, and then writes the status it was answered; DETACH ends a following. -/
def Statements.Following : Prop :=
  ∀ (s : State) (g : GReg) (l : GJ) (spec : Int) (m : Nat), s.Runs → s.me.block = none →
    let c := s.hand.core
    let k := s.me
    let far := match l with
      | .reg r => (k.rgv r).toNat
      | .joined v => v
    let near := relCore (k.cv crRECT).toNat (fld spec.toNat 5 8 * 2 ^ 34 + fld spec.toNat 0 5 * 2 ^ 29)
    let asks (i : Instr) (to_ : Nat) : Prop :=
      s.hand.stage = 0 → k.mode = 0 → k.pendFol = false → to_ ≠ c → s.peerOk c to_ = true →
        ∃ t, exec i s = .next t ∧ t.me.pendFol = true ∧ t.msgs = s.msgs ++ [⟨s.clk + 2, c, to_, .followReq⟩] ∧ s.Waits t
    let answered (i : Instr) : Prop :=
      s.hand.stage ≠ 0 → s.hand.mark = m + 1 →
        ∃ t, exec i s = .next t ∧ t.me.held = none ∧ t.me.mode = (if m = 0 then 3 else k.mode) ∧
          (⟨k.vcc + 1, s.ent.serial, .g g ⟨BitVec.ofNat 64 m, 0, false⟩, none, false⟩ : Landing) ∈ t.me.landings ∧ s.SameMem t
    asks (.follow g l) far ∧ answered (.follow g l) ∧
    (∀ x, near = some x → asks (.followRel g spec) x) ∧ answered (.followRel g spec) ∧
    (k.mode = 0 → ∃ t, exec .detach s = .next t ∧ s.Finished t []) ∧
    (k.mode = 1 → c ∉ k.followers → ∃ t, exec .detach s = .next t ∧ t.me.mode = 0 ∧ t.me.followers = [] ∧
      (∀ f, f ∈ k.followers → (t.core f).mode = 0) ∧ s.SameMem t) ∧
    (2 ≤ k.mode → ∃ t, exec .detach s = .next t ∧ t.me.mode = 0 ∧ t.me.fwd = [] ∧ s.SameMem t ∧
      (k.mode ≤ 3 → t.msgs = s.msgs ++ [⟨s.clk + 2, c, k.peer, .followGone c⟩]))

/-- R363 to R365: the leader's side of FOLLOW, the reply, a forwarded word that leaves the buffer, and the end of a leader. -/
def Statements.FollowingEvents : Prop :=
  ∀ (s : State) (n : Nat),
    let c := s.hand.core
    let f := s.hand.arg.ix
    let k := s.me
    (k.mode ≤ 1 → k.pendFol = false → k.followers.length < 15 → f ≠ c → ∃ t, exec .followRequest s = .next t ∧
      t.me.mode = 1 ∧ t.me.followers = k.followers ++ [f] ∧ (t.core f).peer = c ∧ (t.core f).fwd = [] ∧
      t.msgs = s.msgs ++ [⟨s.clk + 3, c, f, .followReply 0⟩]) ∧
    ((k.mode = 2 ∨ k.mode = 3 ∨ k.pendFol = true ∨ 15 ≤ k.followers.length) → ∃ t, exec .followRequest s = .next t ∧
      t.msgs = s.msgs ++ [⟨s.clk + 3, c, f, .followReply 3⟩] ∧ t.cores = s.cores) ∧
    (∀ h, k.held = some h → s.hand.msg = some (.followReply n) → ∃ t, exec .followReply s = .next t ∧
      t.me.held = some { h with mark := n + 1 } ∧ s.Same t) ∧
    (∀ w l, k.fwd = w :: l → ∃ t, exec .forwardedWordDispatch s = .next t ∧ t.me.fwd = l ∧ s.Same t) ∧
    ((k.mode = 2 ∨ k.mode = 3) → exec .leaderEndDetach s = .next (s.followDetach c 2)) ∧
    ((k.mode = 2 ∨ k.mode = 3) → k.ctx = none → ∃ t, exec .leaderEndDetach s = .next t ∧
      t.me.mode = 0 ∧ t.me.detached = true ∧ t.me.fwd = [] ∧ s.SameMem t)

/-- R367 to R373: arming and freeing a die's or the package's barrier, arriving at it, waiting for its release, passing a
released one; the last arrival releases the episode, and a release lets each waiter go. -/
def Statements.Barriers : Prop :=
  ∀ (s : State) (ga gb gd : GReg) (once : Bool), s.Runs →
    let c := s.hand.core
    let id := (s.me.rgv ga).toNat
    let par := (s.me.rgv gb).toNat
    let key := s.barOf c id
    let b := s.bar key
    let arm : Instr := if once then .bararmOnce ga (some gb) else .bararmRep ga (some gb)
    let ready := s.barBad c id = false ∧ s.me.arrivalReady s.ent.serial = true ∧ (b.st = .armed ∨ b.st = .collecting)
    (s.barBad c id = false → barParBad id par = false → barKind id ≠ 0 → b.st = .free → ∃ t, exec arm s = .next t ∧
      (t.bar key).st = .armed ∧ (t.bar key).once = once ∧ (t.bar key).n = s.barSize c id (fld par 32 20) ∧
      (t.bar key).tag = fld par 0 32 ∧ (t.bar key).episode = 0 ∧ t.me.pc = (s.me.advance s.ent.pc).pc ∧ s.SameMem t ∧
      (s.me.withLoops t.me.loops).SameRegs t.me) ∧
    ((s.barBad c id = true ∨ barParBad id par = true) → exec arm s = .next (s.trap 0x11 0 (id % 256 * 256 + 4))) ∧
    (s.me.block = none → s.barBad c id = false → barKind id ≠ 0 → b.waiters = [] → ∃ t, exec (.bararmFree ga) s = .next t ∧
      (t.bar key).st = .free ∧ t.me.pc = (s.me.advance s.ent.pc).pc ∧ s.SameMem t ∧
      (s.me.withLoops t.me.loops).SameRegs t.me) ∧
    (ready → exec (.bararv gd ga) s = .next ((s.barJoin key).sDone [.g gd ⟨BitVec.ofNat 64 (b.episode + id * 65536), 0, false⟩])) ∧
    (ready → exec (.baraw ga) s = .next ((s.barJoin key).barHold key b.episode)) ∧
    (s.barBad c id = false → fld par 16 8 = id → b.st = .armed ∨ b.st = .collecting → b.episode = fld par 0 16 →
      exec (.barwt ga gb) s = .next (s.barHold key (fld par 0 16))) ∧
    (s.barBad c id = false → fld par 16 8 = id → b.st ≠ .free → b.episode ≠ fld par 0 16 → s.ent.block = none →
      b.releaseOf (fld par 0 16) = none → exec (.barwt ga gb) s = .next ((s.modMe Core.acquire).sDone [])) ∧
    (b.st = .armed ∨ b.st = .collecting → b.count + 1 < b.n → ((s.barCount key).bar key).count = b.count + 1 ∧
      ((s.barCount key).bar key).st = .collecting) ∧
    (b.kind < 3 → ((s.barComplete key).bar key).episode = (b.episode + 1) % 65536 ∧
      ((s.barComplete key).bar key).st = (if b.once then .released else .armed) ∧
      ((∀ p, p ∈ b.last → p.1 ≠ b.episode) →
        ((s.barComplete key).bar key).releaseOf b.episode = some (s.clk + [3, 6, 24].getD b.kind 0)))

/-- R369: BARRIER_RELEASE takes out the waiters whose time has come, lets each of them go on, and keeps the others;
GLOBAL_BARRIER_ARRIVAL counts an arrival with the instance's TAG, ignores another TAG, and breaks the instance for a
package that is lost. -/
def Statements.BarrierEvents : Prop :=
  ∀ (s : State),
    let key := s.hand.arg.ix
    let b := s.bar key
    let go := b.waiters.filter (b.wakes s.clk)
    exec .barrierRelease s = .next (go.foldl (fun u w => u.barWake b w)
      (s.setBar key { b with waiters := b.waiters.filter (fun w => !b.wakes s.clk w) })) ∧
    (b.kind = 3 → s.hand.arg.b = 0 → b.tag = s.hand.arg.a → exec .globalBarrierArrival s = .next (s.barCount key)) ∧
    (b.kind = 3 → s.hand.arg.b = 0 → b.tag ≠ s.hand.arg.a → exec .globalBarrierArrival s = .next s) ∧
    (b.kind = 3 → s.hand.arg.b ≠ 0 → exec .globalBarrierArrival s = .next (s.barBreak key 6))

/-! ## Loads, stores, atomics -/

/-- R182, R183, R185, R271: a load of the core's own memory: what lies there, with this core's own stores that are still to be
written, zero on an absent-fill page where nothing is written (R322); the value lands after three vc, one more where V or X has
the bank (R40), zero- or sign-extended, a capability with its granule's tag; memory and registers are as before until then. -/
def Statements.OwnLoads : Prop :=
  ∀ (s u : State) (sz : Size) (sx : Bool) (gd : GReg) (m : MemOp) (va : Nat) (r : Reach), s.Runs →
    let n := sizeBytes sz
    let key := keyOf r.phys
    let own := s.withStores s.hand.core
    let bytes (k : Nat) : List Byte := if r.af = true ∧ own.writtenAt key = false then List.replicate k 0 else memRead own.mem key k
    let word := leNat (bytes n)
    let v : Word := if sx then BitVec.ofInt 64 (sext (8 * n) word) else BitVec.ofNat 64 word
    let lat := 3 + s.me.bankWait s.me.vcc (offOf r.phys)
    let lands (t : State) (w : Wr) : Prop := (⟨s.me.vcc + lat, s.ent.serial, w, none, false⟩ : Landing) ∈ t.me.landings
    let frame (t : State) : Prop := (∀ a, memGet t.mem a = memGet s.mem a) ∧ (∀ x, t.me.rg x = s.me.rg x) ∧
      (∀ x, t.me.rq x = s.me.rq x) ∧ (∀ x, t.me.vraw x = s.me.vraw x) ∧ t.me.flags = s.me.flags
    let cv := BitVec.ofNat 64 (leNat ((bytes 16).take 8))
    let cm := BitVec.ofNat 64 (leNat ((bytes 16).drop 8))
    (s.OwnAccess m.g (s.me.memAddr m n) n [pR] .load false true false va r u →
      (∃ t, exec (.ld sz sx gd m) s = .next t ∧ lands t (.g gd ⟨v, 0, false⟩) ∧ frame t) ∧
      (∃ t, exec (.ldaq sz sx gd m) s = .next t ∧ lands t (.g gd ⟨v, 0, false⟩) ∧ lands t .acquire ∧ frame t)) ∧
    (s.OwnAccess m.g (s.me.memAddr m 16) 16 [pR] .cap false true false va r u →
      ∃ t, exec (.ldc gd m) s = .next t ∧ frame t ∧
        lands t (.g gd ⟨cv, cm, own.tagAt key && mdHas (s.me.rg m.g).md pLDCAP && capValid cv cm⟩))

/-- R182, R184, R185, R269: a store to the core's own memory: the low bytes of its source, or the sixteen bytes of a
capability with its tag, are due at the address after one vc, where they may still give way once to V and X in their bank (R40), and
the acknowledgement one vc after them; until then memory and registers are as before. STRL waits for the release conditions
first. -/
def Statements.OwnStores : Prop :=
  ∀ (s u : State) (sz : Size) (m : MemOp) (a : GImm) (ga : GReg) (va : Nat) (r : Reach), s.Runs →
    let n := sizeBytes sz
    let key := keyOf r.phys
    let c := s.me.rg ga
    let stores (t : State) (bytes : List Byte) (tag : Option Bool) : Prop :=
      (⟨s.me.vcc + 1, s.ent.serial, .st key bytes tag true, none, false⟩ : Landing) ∈ t.me.landings ∧
        (⟨s.me.vcc + 2, s.ent.serial, .ack s.me.opId, none, false⟩ : Landing) ∈ t.me.landings ∧
        (∀ x, memGet t.mem x = memGet s.mem x) ∧ (∀ x, t.me.rg x = s.me.rg x) ∧ (∀ x, t.me.rq x = s.me.rq x) ∧
        (∀ x, t.me.vraw x = s.me.vraw x) ∧ t.me.flags = s.me.flags
    (s.OwnAccess m.g (s.me.memAddr m n) n [pW] .store false false true va r u →
      (∃ t, exec (.st sz m a) s = .next t ∧ stores t (leBytes n (s.me.gimm a).toNat) none) ∧
      (s.me.released s.ent.serial = true →
        ∃ t, exec (.strl sz m a) s = .next t ∧ stores t (leBytes n (s.me.gimm a).toNat) none)) ∧
    (s.OwnAccess m.g (s.me.memAddr m 16) 16 [pW, pSTCAP] .cap (c.tag && !mdHas c.md pGLOBAL) false true va r u →
      ∃ t, exec (.stc m ga) s = .next t ∧ stores t (leBytes 8 c.val.toNat ++ leBytes 8 c.md.toNat) (some c.tag))

/-- R187, R188: an atomic on the core's own memory, of words that no other core owns: it changes its own bytes at once, as this
core's older stores have left them, and its old value is the result of an operation that completes four clk later, one more
where V or X has the bank. -/
def Statements.OwnAtomics : Prop :=
  ∀ (s u : State) (i : Instr) (kind : AtomKind) (sz : Size) (ord : Sys2Proof.Ordering) (x : AmmOp) (y : AlogOp) (bf : Bool) (gd gb : GReg)
    (m : MemOp) (va : Nat) (r : Reach), s.Runs →
    (i, kind) ∈ [(Instr.aadd sz ord gd m gb, AtomKind.add), (.amm sz ord x gd m gb, .minMax x), (.axchg sz ord gd m gb, .xchg),
      (.acas sz ord gd m gb, .cas), (.alog sz ord y gd m gb, .logic y),
      (.afadd sz ord bf gd m gb, .fadd (if sz = .b4 then .f32 else if bf then .bf16 else .f16))] →
    let n := sizeBytes sz
    let key := keyOf r.phys
    let own := s.storesLand s.hand.core
    let old := leNat (own.fillLoad key n r.af)
    let opnd := (s.me.rgv gb).toNat % 2 ^ (8 * n)
    let cmp := (s.me.rgv gd).toNat % 2 ^ (8 * n)
    let new := atomNew kind (8 * n) old opnd cmp
    let acq := decide (ord = .acquire ∨ ord = .both)
    ((ord = .release ∨ ord = .both) → s.me.released s.ent.serial = true) →
    s.OwnAccess m.g (s.me.memAddr m n) n [pATOM, pR, pW] .atomic false true true va r u →
    s.owners = [] →
    ∃ t o, exec i s = .next t ∧ o ∈ t.me.ops ∧ o.kind = .atomic gd ⟨BitVec.ofNat 64 old, 0, false⟩ acq ∧
      o.due = some (s.clk + 4 + s.me.bankWait s.me.vcc (offOf r.phys)) ∧ o.flags = new.2 ∧ o.slot = s.head.set ∧
      memRead t.mem key n = leBytes n new.1 ∧ own.SameOutside t key n ∧ (∀ z, t.me.rg z = s.me.rg z)

/-- R187: the new word of each integer atomic, on words of w bits. -/
def Statements.AtomicValues : Prop :=
  ∀ (w : Nat) (old opnd cmp : BitVec w),
    atomNew .add w old.toNat opnd.toNat cmp.toNat = ((old + opnd).toNat, 0) ∧
    atomNew .xchg w old.toNat opnd.toNat cmp.toNat = (opnd.toNat, 0) ∧
    atomNew .cas w old.toNat opnd.toNat cmp.toNat = ((if old = cmp then opnd else old).toNat, 0) ∧
    atomNew (.logic .and) w old.toNat opnd.toNat cmp.toNat = ((old &&& opnd).toNat, 0) ∧
    atomNew (.logic .or) w old.toNat opnd.toNat cmp.toNat = ((old ||| opnd).toNat, 0) ∧
    atomNew (.logic .xor) w old.toNat opnd.toNat cmp.toNat = ((old ^^^ opnd).toNat, 0) ∧
    atomNew (.minMax .umin) w old.toNat opnd.toNat cmp.toNat = ((if opnd.ult old then opnd else old).toNat, 0) ∧
    atomNew (.minMax .umax) w old.toNat opnd.toNat cmp.toNat = ((if old.ult opnd then opnd else old).toNat, 0) ∧
    (0 < w → atomNew (.minMax .smin) w old.toNat opnd.toNat cmp.toNat = ((if opnd.slt old then opnd else old).toNat, 0)) ∧
    (0 < w → atomNew (.minMax .smax) w old.toNat opnd.toNat cmp.toNat = ((if old.sle opnd then opnd else old).toNat, 0))

/-- R185, R272, R273: ACQ, and REL and the FENCEs once what they wait for is over: one vc, and nothing else. -/
def Statements.OrderingInstructions : Prop :=
  ∀ (s : State), s.Runs →
    let done : State := s.issue colM 1 1 0 []
    exec .acq s = .next ((s.modMe Core.acquire).issue colM 1 1 0 []) ∧
    (s.me.released s.ent.serial = true → exec .rel s = .next done ∧ exec .fenceAll s = .next (done)) ∧
    (s.me.storesDone s.ent.serial = true → exec .fenceSt s = .next done) ∧
    (s.me.enginesDone s.ent.serial = true → exec .fenceEng s = .next done) ∧
    (s.me.released s.ent.serial = false → ∃ t, exec .fenceAll s = .next t ∧
      (t.me.queueOf colM).head? = some s.ent ∧ t.mem = s.mem)

/-- R71, R187, R269 to R271, R316: what a home does with a request that its die accepts: it reads, writes, performs an atomic or
accesses a control register, and answers; a request that names a missing core is refused. -/
def Statements.HomeEvents : Prop :=
  ∀ (s : State) (m : MemReq) (bytes : List Byte) (tag : Option Bool) (kind : AtomKind) (x y : Word) (l : List (Nat × Byte))
      (gs : List Nat),
    let key := keyOf m.phys
    let reg := (offOf m.phys - 0x70000) / 8
    let ctx := if m.src < 8192 then (s.core m.src).ctx else none
    let words := if m.fill then (wordsOf m.phys m.size).map (fun w =>
      (w, BitVec.ofNat 64 (leNat (s.fillLoad (keyOf (8 * w)) 8 m.af)))) else []
    let put (acc : State × Nat) (b : Nat × Byte) : State × Nat :=
      ((acc.1.writeHome m.src (key + b.1) [b.2] none none).1, max acc.2 (acc.1.writeHome m.src (key + b.1) [b.2] none none).2)
    let wrote := s.writeHome m.src key bytes tag (if m.mt = 0 then some m.src else none)
    let did := s.atomPerform m.src key m.size m.af kind x.toNat y.toNat
    let line := (l.foldl put (s, 0)).1
    let tagged : State := { line with
      tags := gs.foldl (fun t g => if offKind line.hand.core (offOf m.phys) ≤ 1 then setAdd t (key / 16 + g) else t) line.tags }
    (coreExists s.hand.core = false →
      (s.hand.msg = some (.load m) → exec .remoteLoadAtHome s = .next (s.answer m 0 (.data m [] false [] 1))) ∧
      (s.hand.msg = some (.store m bytes tag) → exec .remoteStoreAtHome s = .next (s.answer m 0 (.ack m false true))) ∧
      (s.hand.msg = some (.atomic m kind x y) → exec .atomicAtHome s = .next (s.answer m 0 (.atomicOld m 0 0 1)))) ∧
    (coreExists s.hand.core = true → s.gate s.hand.core m.src = 0 →
    (s.hand.msg = some (.load m) → s.onRead ctx key m.size m.va (s.whois m.src).2 6 0 = (s, none) →
      exec .remoteLoadAtHome s = .next (s.answer m 0 (.data m (s.fillLoad key m.size m.af) (s.tagAt key) words 0))) ∧
    (s.hand.msg = some (.store m bytes tag) →
      exec .remoteStoreAtHome s = .next (wrote.1.answer m wrote.2 (.ack m (decide (m.mt = 0)) false))) ∧
    (s.hand.msg = some (.wcLine m l gs) →
      exec .remoteStoreAtHome s = .next (tagged.answer m (l.foldl put (s, 0)).2 (.ack m false false))) ∧
    (s.hand.msg = some (.atomic m kind x y) → s.onRead ctx key m.size m.va (s.whois m.src).2 6 0 = (s, none) →
      exec .atomicAtHome s = .next
        (did.1.answer m did.2.2.2 (.atomicOld m (BitVec.ofNat 64 did.2.1) did.2.2.1 0))) ∧
    (s.hand.msg = some (.window m true x) → offOf m.phys < 0x70200 →
      exec .remoteControlWindowAccess s = .next ((s.crWindowWrite s.hand.core reg x.toNat).answer m 0 (.ack m false false))) ∧
    (s.hand.msg = some (.window m false x) → offOf m.phys < 0x70200 →
      exec .remoteControlWindowAccess s = .next (s.answer m 0 (.data m (leBytes 8 (s.crRead s.hand.core reg).toNat) false [] 0))))

/-- R34, R269 to R272: what a core does with an answer: a load's data ends the operation and lands in its register in this vc, with
the other results of the vc in program order; an acknowledgement ends the store, a revoke takes the OWN bit of a word. -/
def Statements.RequesterEvents : Prop :=
  ∀ (s : State) (m : MemReq) (o : AsyncOp) (bytes : List Byte) (own : Bool) (p : Nat),
    (s.hand.msg = some (.data m bytes false [] 0) → s.me.ops.find? (fun q => q.id == m.id) = some o → m.wcHeld = [] →
      m.cap = false → m.acq = false → ∃ t, exec .remoteLoadData s = .next t ∧
        (⟨s.me.vcc, m.serial, .g (Fin.ofNat 64 m.reg) ⟨if m.sx then BitVec.ofInt 64 (sext (8 * m.size) (leNat bytes)) else
          BitVec.ofNat 64 (leNat bytes), 0, false⟩, none, false⟩ : Landing) ∈ t.me.landings ∧
        (∀ z, t.me.rg z = s.me.rg z) ∧ (∀ q, q ∈ t.me.ops → q.id ≠ m.id) ∧
        (∀ d, o.slot = some d → t.me.slot d = s.me.slot d - 1) ∧ s.SameMem t) ∧
    (s.hand.msg = some (.data m bytes false [] 1) → s.me.ops.find? (fun q => q.id == m.id) = some o →
      exec .remoteLoadData s = .next (s.failOp s.hand.core m.id 3 m.va 3)) ∧
    (s.hand.msg = some (.ack m own false) → ¬(m.mt = 1 ∧ m.size = 128) → ∃ t, exec .storeAcknowledgement s = .next t ∧
      (∀ q, q ∈ t.me.stores ↔ q ∈ s.me.stores ∧ q.id ≠ m.id) ∧ s.SameMem t ∧ (∀ z, t.me.rg z = s.me.rg z)) ∧
    (s.hand.msg = some (.revoke p) → ∃ t, exec .revoke s = .next t ∧
      t.me.cacheWord (p / 8) = (s.me.cacheWord (p / 8)).map (fun x => (x.1, false)) ∧ s.Same t)

/-! ## The vector family -/

/-- R99, R199, R200: element-wise arithmetic between v registers. A present pair gives the exact result rounded once; an
absent source gives the absent code, or under PASS what is left of the operation; a signalling NaN sets INV, beside an absent
source too (R81). -/
def Obligations.VectorArithmetic : Prop :=
  ∀ (s : State) (f : VFn) (d a b : VReg) (m : Option VBits), s.VReady [d, a, b] [d, a, b] → s.Masked m → f.stream = false →
    IsElemental f.fmt → (s.me.rv d).fmt = f.fmt → (s.me.rv a).fmt = f.fmt → (s.me.rv b).fmt = f.fmt →
    let none_ := absentCode f.fmt
    let e (r : VReg) (i : Nat) : Nat := s.me.elem f.fmt r i
    let round (r : Machine.Num × Nat) : Nat × Nat :=
      ((writeElem f.fmt false f.sat r.1).1, r.2 ||| (writeElem f.fmt false f.sat r.1).2)
    let two (op : Machine.Num → Machine.Num → Machine.Num × Nat) (i : Nat) : Nat × Nat :=
      if e a i = none_ ∧ e b i = none_ then (none_, 0)
      else if e a i = none_ then (if f.pass then e b i else none_, (readElem f.fmt (e b i)).sigFlag)
      else if e b i = none_ then (if f.pass then e a i else none_, (readElem f.fmt (e a i)).sigFlag)
      else round (op (readElem f.fmt (e a i)) (readElem f.fmt (e b i)))
    let sign (g : Machine.Num → Machine.Num) (x : Nat) : Nat × Nat :=
      if x = none_ then (none_, 0) else ((writeElem f.fmt false false (g (readElem f.fmt x))).1, (readElem f.fmt x).sigFlag)
    let fused (neg : Bool) (i : Nat) : Nat × Nat :=
      let c := if neg then sign Machine.Num.negate (e d i) else (e d i, 0)
      let r : Nat × Nat :=
        if e a i ≠ none_ ∧ e b i ≠ none_ then
          if c.1 ≠ none_ then round (numFma (readElem f.fmt (e a i)) (readElem f.fmt (e b i)) (readElem f.fmt c.1))
          else if f.pass then round (numMul (readElem f.fmt (e a i)) (readElem f.fmt (e b i))) else (none_, 0)
        else (if f.pass then c.1 else none_, 0)
      (r.1, r.2 ||| (c.2 ||| (readElem f.fmt (e a i)).sigFlag ||| (readElem f.fmt (e b i)).sigFlag |||
        (readElem f.fmt c.1).sigFlag))
    let magnitude (x : Machine.Num) : Machine.Num := match x with
      | .inf _ => .inf false
      | .fin _ n k => .fin false n k
      | y => y
    let put (r : Nat → Nat × Nat) : State :=
      s.issue colV 4 1 (flagsOn (fmtCount f.fmt) m (fun i => (r i).2))
        [s.putV d f.fmt f.policy m (fun i => (r i).1)]
    exec (.vadd f (.v d) (.v a) (.v b)) s = .next (put (two numAdd)) ∧
    exec (.vsub f (.v d) (.v a) (.v b)) s = .next (put (two numSub)) ∧
    exec (.vmul f (.v d) (.v a) (.v b)) s = .next (put (two numMul)) ∧
    exec (.vmin f (.v d) (.v a) (.v b)) s = .next (put (two (numMinMax false))) ∧
    exec (.vmax f (.v d) (.v a) (.v b)) s = .next (put (two (numMinMax true))) ∧
    exec (.vfma f (.v d) (.v a) (.v b)) s = .next (put (fused false)) ∧
    exec (.vfms f (.v d) (.v a) (.v b)) s = .next (put (fused true)) ∧
    exec (.vabs f (.v d) (.v a)) s = .next (put (fun i => sign magnitude (e a i))) ∧
    exec (.vneg f (.v d) (.v a)) s = .next (put (fun i => sign Machine.Num.negate (e a i)))

/-- R100, R201: the bitwise operations and shifts act on patterns, set no flag, and give absent no special meaning. -/
def Statements.VectorBits : Prop :=
  ∀ (s : State) (f : VFn) (d a b : VReg) (m : Option VBits) (k : Nat), s.VReady [d, a, b] [a, b] → s.Masked m →
    f.stream = false → IsElemental f.fmt → (s.me.rv a).fmt = f.fmt → (s.me.rv b).fmt = f.fmt → k < fmtWidth f.fmt →
    let w := fmtWidth f.fmt
    let x (i : Nat) : BitVec w := BitVec.ofNat w (s.me.elem f.fmt a i)
    let y (i : Nat) : BitVec w := BitVec.ofNat w (s.me.elem f.fmt b i)
    let put (r : Nat → BitVec w) : State :=
      s.issue colV 1 1 0 [s.putV d f.fmt f.policy m (fun i => (r i).toNat)]
    exec (.vand f (.v d) (.v a) (.v b)) s = .next (put (fun i => x i &&& y i)) ∧
    exec (.vor f (.v d) (.v a) (.v b)) s = .next (put (fun i => x i ||| y i)) ∧
    exec (.vxor f (.v d) (.v a) (.v b)) s = .next (put (fun i => x i ^^^ y i)) ∧
    exec (.vnot f (.v d) (.v a)) s = .next (put (fun i => ~~~x i)) ∧
    exec (.vshl f (.v d) (.v a) (.v b)) s = .next (put (fun i => x i <<< ((y i).toNat % w))) ∧
    exec (.vshr f (.v d) (.v a) (.v b)) s = .next (put (fun i => x i >>> ((y i).toNat % w))) ∧
    exec (.vsra f (.v d) (.v a) (.v b)) s = .next (put (fun i => (x i).sshiftRight ((y i).toNat % w))) ∧
    exec (.vshl f (.v d) (.v a) (.imm k)) s = .next (put (fun i => x i <<< k)) ∧
    exec (.vshr f (.v d) (.v a) (.imm k)) s = .next (put (fun i => x i >>> k)) ∧
    exec (.vsra f (.v d) (.v a) (.imm k)) s = .next (put (fun i => (x i).sshiftRight k))

/-- R101, R202 to R204: comparison and presence write MASK registers, VSEL picks an element by its mask bit, VMKABS makes
elements absent, VCNT counts present elements. -/
def Statements.VectorComparePresence : Prop :=
  ∀ (s : State) (f : VFn) (d a b : VReg) (gd : GReg) (m : Option VBits) (c : Nat), s.VReady [d, a, b] [a, b] → s.Masked m →
    f.stream = false → IsElemental f.fmt → (s.me.rv a).fmt = f.fmt → c < 7 →
    let n := fmtCount f.fmt
    let p (r : VReg) (i : Nat) : Bool := s.me.elem f.fmt r i != absentCode f.fmt
    let x (r : VReg) (i : Nat) : Machine.Num := readElem f.fmt (s.me.elem f.fmt r i)
    let test (i : Nat) : Bool :=
      let u := (x a i).isNan || (x b i).isNan
      match c with
      | 0 => !u && numEq (x a i) (x b i)
      | 1 => !u && numLt (x a i) (x b i)
      | 2 => !u && (numLt (x a i) (x b i) || numEq (x a i) (x b i))
      | 3 => u
      | 4 => !u && !numEq (x a i) (x b i)
      | 5 => !u && numLt (x b i) (x a i)
      | _ => !u && (numLt (x b i) (x a i) || numEq (x b i) (x a i))
    ((s.me.rv b).fmt = f.fmt →
      exec (.vcmp f d (.v a) (c + 16 * b.val)) s = .next (s.issue colV 4 1
        (flagsOn n m (fun i => (x a i).sigFlag ||| (x b i).sigFlag))
        [s.putMask d n f.policy m (fun i => p a i && p b i && test i)]) ∧
      exec (.vsel f (.v d) (.v a) (.v b)) s = .next (s.issue colV 1 1 0
        [s.putV d f.fmt false none (fun i => if maskOn m i then s.me.elem f.fmt a i else s.me.elem f.fmt b i)])) ∧
    exec (.vpres f d (.v a)) s = .next (s.issue colV 1 1 0 [s.putMask d n f.policy m (p a)]) ∧
    ((s.me.rv b).fmt = .mask → exec (.vmkabs f (.v d) (.v a) b) s = .next (s.issue colV 1 1 0
      [s.putV d f.fmt f.policy m (fun i => if (s.me.rv b).bits.getLsbD i then absentCode f.fmt else s.me.elem f.fmt a i)])) ∧
    exec (.vcnt f gd (.v a)) s = .next (s.issue colV 4 1 0 [.g gd
      ⟨BitVec.ofNat 64 ((List.range n).countP (fun i => maskOn m i && p a i)), 0, false⟩])

/-- R198, R220: moves between registers, broadcast, retagging, and hash values. -/
def Statements.VectorMoves : Prop :=
  ∀ (s : State) (f : VFn) (d a : VReg) (ga gb : GReg) (x : GImmJ) (m : Option VBits), s.VReady [d, a] [a] → s.Masked m →
    let v := (s.me.gimmj x).toNat
    let one (w : Wr) : State := s.issue colV 1 1 0 [w]
    (f.fmt ≠ .noFmt → f.fmt ≠ .mask → exec (.vbcast f d x) s =
      .next (one (s.putV d f.fmt f.policy m (fun _ => v % 2 ^ fmtWidth f.fmt)))) ∧
    (f.fmt = .mask → exec (.vbcast f d x) s = .next (one (s.putMask d 128 f.policy m (fun _ => v % 2 == 1)))) ∧
    ((s.me.vraw a).expiry = none → exec (.vmov f d a) s = .next (one (.v d (s.me.rv a).fmt (s.me.rv a).bits 0 0 s.lExpiry))) ∧
    (∀ t, (s.me.vraw a).expiry = some t → exec (.vmov f d a) s = .next (one (.v d (s.me.rv a).fmt (s.me.rv a).bits 0 0 (.at t)))) ∧
    exec (.vretag f d a) s = .next (one (.v d f.fmt (s.me.rv a).bits 0 0 s.lExpiry)) ∧
    (IsElemental f.fmt → exec (.vrng f d ga gb) s = .next (s.issue colV 4 1 0 [s.putV d f.fmt f.policy m
      (fun i => hashElem f.fmt (mix64 ((s.me.rgv ga).toNat ^^^ mix64 (((s.me.rgv gb).toNat * 128 + i) % 2 ^ 64))))]))

/-- R205, R206, R224: the conversions between formats of different widths go by parts: part p of the wider side. An element
outside the part is kept when the destination's tag is its format and is absent otherwise. -/
def Statements.VectorConversions : Prop :=
  ∀ (s : State) (f : VFn) (src : Fmt) (d a : VReg) (gb : GReg) (m : Option VBits) (rtz : Bool) (p : Nat), s.VReady [a] [a] →
    s.Masked m → IsElemental f.fmt → IsElemental src → (s.me.rv a).fmt = src →
    let put (col lat : Nat) (dst : Fmt) (p : Nat) (fn : Nat → Nat × Nat) : State :=
      let ws := fmtWidth src
      let wd := fmtWidth dst
      let n := 1024 / max ws wd
      let lo := if wd < ws then p * n else 0
      let x (i : Nat) : Nat × Nat := fn (s.me.elem src a ((if ws < wd then p * n else 0) + i))
      let part (i : Nat) : Bool := decide (lo ≤ i) && decide (i < lo + n)
      let each (g : Nat → Nat) : VBits := packElems wd ((List.range (fmtCount dst)).map g)
      s.issue col lat 1 ((List.range n).foldl (fun g i => if maskOn m (lo + i) then g ||| (x i).2 else g) 0)
        [.v d dst (each (fun i => if part i && maskOn m i then (x (i - lo)).1 else absentCode dst))
          (each (fun i => if part i && !maskOn m i && !f.policy then 2 ^ wd - 1 else 0))
          (each (fun i => if part i then 0 else 2 ^ wd - 1)) s.lExpiry]
    let b := (s.me.rgv gb).toNat
    let scale := readElem .f32 (b % 2 ^ 32)
    (p * min (fmtWidth src) (fmtWidth f.fmt) < max (fmtWidth src) (fmtWidth f.fmt) →
      exec (.vcvt f d a (fmtCode src + (if rtz then 16 else 0) + 32 * p)) s = .next (put colV 3 f.fmt p (fun x =>
        if x = absentCode src then (absentCode f.fmt, 0)
        else ((writeElem f.fmt rtz f.sat (readElem src x)).1, (writeElem f.fmt rtz f.sat (readElem src x)).2 |||
          (if isFloatFmt f.fmt then (readElem src x).sigFlag else 0))))) ∧
    (src = .f32 ∨ src = .bf16 ∨ src = .f16 → fmtWidth f.fmt ≤ fmtWidth src →
      exec (.vquant f d a gb) s = .next (put colV 4 f.fmt (fld b 32 3 % (fmtWidth src / fmtWidth f.fmt)) (fun x =>
        if x = absentCode src ∨ b % 2 ^ 32 = absentCode .f32 then (absentCode f.fmt, 0)
        else
          let r := numMul (readElem src x) scale
          ((writeElem f.fmt false f.sat r.1).1, r.2 ||| (writeElem f.fmt false f.sat r.1).2)))) ∧
    (src = f.fmt → p * 16 < max (fmtWidth src) 16 ∨ p * fmtWidth src < 16 → exec (.vtolog f d a p) s = .next (put colX 8 .l16 p (fun x =>
      if x = absentCode src then (absentCode .l16, 0)
      else ((l16Write (readElem src x)).1, (l16Write (readElem src x)).2 ||| (readElem src x).sigFlag)))) ∧
    (src = .l16 → p * 16 < fmtWidth f.fmt ∨ p * fmtWidth f.fmt < 16 → exec (.vfrlog f d a p) s = .next (put colX 8 f.fmt p (fun x =>
      if x = absentCode .l16 then (absentCode f.fmt, 0) else writeElem f.fmt false f.sat (l16Read x))))

/-- R211 to R214, R219: permutation, slide, compression and expansion by a mask, mask logic and counting, index vectors,
single elements, and the block add. -/
def Statements.VectorPermutation : Prop :=
  ∀ (s : State) (f : VFn) (d a b : VReg) (gd ga : GReg) (x : GImm) (m : Option VBits) (o : Nat), s.VReady [d, a, b] [d, a, b] →
    s.Masked m → IsElemental f.fmt → o < 8 → (∀ v, x = .imm v → -8192 ≤ v ∧ v < 8192) →
    let n := fmtCount f.fmt
    let w := fmtWidth f.fmt
    let none_ := absentCode f.fmt
    let e (i : Nat) : Nat := s.me.elem f.fmt a i
    let at_ (i : Int) : Nat := if 0 ≤ i ∧ i < n then e i.toNat else none_
    let put (lat : Nat) (g : Nat → Nat) : State :=
      s.issue colV lat 1 0 [s.putV d f.fmt f.policy m g]
    let gets (lat v : Nat) : State := s.issue colV lat 1 0 [.g gd ⟨BitVec.ofNat 64 v, 0, false⟩]
    let bits (r : VReg) (i : Nat) : Bool := (s.me.rv r).bits.getLsbD i
    let before (i : Nat) : Nat := (List.range i).countP (bits b)
    let ixf : Fmt := if w = 8 then .i8 else if w = 16 then .i16 else if w = 32 then .i32 else .i64
    let k : Int := (s.me.gimm x).toInt
    ((s.me.rv a).fmt = f.fmt →
      ((s.me.rv b).fmt = ixf → exec (.vperm f d a b) s = .next (put 4 (fun i =>
        let j := s.me.elem ixf b i
        if j = absentCode ixf then none_ else at_ (sext w j)))) ∧
      exec (.vslide f d a x) s = .next (put 4 (fun i => at_ (i + k))) ∧
      ((s.me.rv b).fmt = .mask →
        (∃ g : Nat → Nat, exec (.vcmpr f d a b) s = .next (s.issue colV 4 1 0 [s.putV d f.fmt false none g]) ∧
          (∀ i, i < n → bits b i = true → g (before i) = e i) ∧ ∀ i, i < n → before n ≤ i → g i = none_) ∧
        exec (.vexpd f d a b) s = .next (s.issue colV 4 1 0
          [s.putV d f.fmt false none (fun i => if bits b i then e (before i) else none_)])) ∧
      (0 ≤ k ∧ k < n → exec (.vextr f gd a x) s = .next (gets 3 (e k.toNat))) ∧
      (∀ r, x = .reg r → ¬(0 ≤ k ∧ k < n) → exec (.vextr f gd a x) s = .next (gets 3 none_))) ∧
    ((s.me.rv a).fmt = .mask → (s.me.rv b).fmt = .mask → exec (.vmlog f d a (o + 16 * b.val)) s =
      .next (s.issue colV 1 1 0 [s.putMask d 128 false none (fun i =>
        let p := bits a i
        let q := bits b i
        match o with
        | 0 => p && q
        | 1 => p || q
        | 2 => p ^^ q
        | 3 => p && !q
        | 4 => p || !q
        | 5 => !(p ^^ q)
        | 6 => !(p && q)
        | _ => !(p || q))])) ∧
    ((s.me.rv b).fmt = .mask → exec (.vmpop f gd b) s = .next (gets 4 (before n))) ∧
    exec (.viota f d) s = .next (put 1 id) ∧
    ((s.me.rv d).fmt = f.fmt →
      (0 ≤ k ∧ k < n → exec (.vins f d ga x) s = .next (s.issue colV 1 1 0 [.v d f.fmt
        (packElems w ((List.range n).map (fun i => if i = k then (s.me.rgv ga).toNat % 2 ^ w else 0)))
        (packElems w ((List.range n).map (fun i => if i = k then 0 else 2 ^ w - 1))) 0 s.lExpiry])) ∧
      (∀ r, x = .reg r → ¬(0 ≤ k ∧ k < n) → exec (.vins f d ga x) s = .next (s.issue colV 1 1 0 [])))

/-- R108, R219: VBADDQ adds two blocks that carry counts, element by element, into a register pair. -/
def Statements.BlockAdd : Prop :=
  ∀ (s : State) (f : VFn) (d a b : VReg) (m : Option VBits), d.val < 31 → a.val < 31 → b.val < 31 →
    let two (r : VReg) : VReg := Fin.ofNat 32 (r.val + 1)
    s.VReady [a, two a, b, two b] [a, two a, b, two b] → s.Masked m → isFloatFmt f.fmt = true →
    (s.me.rv a).fmt = f.fmt → (s.me.rv (two a)).fmt = .i16 → (s.me.rv b).fmt = f.fmt → (s.me.rv (two b)).fmt = .i16 →
    let n := fmtCount f.fmt
    let cnt (r : VReg) (i : Nat) : Nat := let c := s.me.elem .i16 (two r) i; if c < 32768 ∧ s.me.elem f.fmt r i ≠ absentCode f.fmt then c else 0
    let x (r : VReg) (i : Nat) : Machine.Num := readElem f.fmt (s.me.elem f.fmt r i)
    ∃ (v c : Nat → Nat) (fl : Nat), exec (.vbaddq f d a b) s = .next (s.issue colV 5 2 fl [s.putV d f.fmt f.policy m v,
        .v (two d) .i16 (packElems 16 ((List.range 64).map (fun i =>
            if i < n ∧ !maskOn m i then absentCode .i16 else if i < n then c i else 0)))
          (packElems 16 ((List.range n).map (fun i => if maskOn m i ∨ f.policy then 0 else 65535))) 0 s.lExpiry]) ∧
      ∀ i, i < n → c i = min 32767 (cnt a i + cnt b i) ∧
        (c i = 0 → v i = absentCode f.fmt) ∧
        (0 < cnt a i → cnt b i = 0 → v i = (writeElem f.fmt false f.sat (x a i)).1) ∧
        (cnt a i = 0 → 0 < cnt b i → v i = (writeElem f.fmt false f.sat (x b i)).1) ∧
        (0 < cnt a i → 0 < cnt b i → v i = (writeElem f.fmt false f.sat (roundF32 (numAdd (x a i) (x b i)).1).1).1)

/-- R103, R107, R208: the reductions of one register. The count is that of the present elements that the mask selects;
integer sums, maxima and minima are exact; VREDM gives the mean rounded to nearest, the sum, or the count. -/
def Statements.VectorReductions : Prop :=
  ∀ (s : State) (f : VFn) (gd gc : GReg) (a : VReg) (m : Option VBits), s.VReady [a] [a] → s.Masked m → f.stream = false →
    IsElemental f.fmt → f.fmt ≠ .l16 → (s.me.rv a).fmt = f.fmt →
    let n := fmtCount f.fmt
    let isInt := isFloatFmt f.fmt = false
    let lat := 6 + n.log2
    let on (i : Nat) : Bool := maskOn m i && s.me.elem f.fmt a i != absentCode f.fmt
    let k := (List.range n).countP on
    let x (i : Nat) : Int := sext (fmtWidth f.fmt) (s.me.elem f.fmt a i)
    let sum : Int := (((List.range n).filter on).map x).sum
    let top : Int := 2 ^ 63 - 1
    let put (fl : Nat) (v : Word) : State :=
      s.issue colV lat 1 fl [.g gd ⟨v, 0, false⟩, .g gc ⟨BitVec.ofNat 64 k, 0, false⟩]
    let one (fl : Nat) (v : Word) : State := s.issue colV lat 1 fl [.g gd ⟨v, 0, false⟩]
    let none_ : Word := if isFloatFmt f.fmt then 0xFF800001#64 else 0x8000000000000000#64
    (∃ v fl, exec (.vreds f gd (.v a) (some gc)) s = .next (put fl v) ∧ exec (.vreds f gd (.v a) none) s = .next (one fl v) ∧
      (k = 0 → v = none_) ∧ (isInt → 0 < k → v.toInt = max (-top) (min top sum) ∧ fl = if sum < -top ∨ top < sum then flagSAT else 0)) ∧
    (∃ v fl, exec (.vredx f gd (.v a) (some gc)) s = .next (put fl v) ∧ exec (.vredx f gd (.v a) none) s = .next (one fl v) ∧
      (k = 0 → v = none_) ∧ (isInt → 0 < k → fl = 0 ∧ (∃ i, i < n ∧ on i = true ∧ v.toInt = x i) ∧
        ∀ i, i < n → on i = true → x i ≤ v.toInt)) ∧
    (∃ v fl, exec (.vredn f gd (.v a) (some gc)) s = .next (put fl v) ∧ exec (.vredn f gd (.v a) none) s = .next (one fl v) ∧
      (k = 0 → v = none_) ∧ (isInt → 0 < k → fl = 0 ∧ (∃ i, i < n ∧ on i = true ∧ v.toInt = x i) ∧
        ∀ i, i < n → on i = true → v.toInt ≤ x i)) ∧
    (∃ v fl, exec (.vredm f gd (.v a) 0) s = .next (one fl v) ∧ (k = 0 → v = none_) ∧
      (isInt → 0 < k → fmtWidth f.fmt < 64 → 2 * (v.toInt * k - sum) ≤ k ∧ -(k : Int) ≤ 2 * (v.toInt * k - sum))) ∧
    (∃ v fl, exec (.vredm f gd (.v a) 1) s = .next (one fl v) ∧ (k = 0 → v = 0)) ∧
    (∃ fl, exec (.vredm f gd (.v a) 2) s = .next (one fl (BitVec.ofNat 64 k)))

/-- R209, R240: VREDQ with nothing left changes nothing and completes 4 clk later; with something left it holds the V column and
takes the vectors of its queue one per clk, each added to its row 4 clk later. -/
def Statements.QueueReduction : Prop :=
  ∀ (s : State) (f : VFn) (ak : AReg) (gn : GReg) (spec : Nat) (v : VredqOp) (q : RecvQ), s.Runs →
    let tag := (s.me.ra ak).tag
    let n := (s.me.rgv gn).toNat
    (tag = .f32 ∨ tag = .noFmt → ∃ t w, exec (.vredq f ak gn spec) s = .next t ∧ s.SameMem t ∧ (∀ r, t.me.rg r = s.me.rg r) ∧
      (tag = .f32 ∨ fld n 16 16 ≤ fld n 0 16 → s.Same t) ∧ mapGet t.me.colHold colV = some vredqHold ∧ t.me.vredq = some w ∧
      w.serial = s.ent.serial ∧ w.acc = ak ∧ w.g = gn ∧ w.q = spec % 8 ∧ w.row = fld spec 3 5 ∧ w.total = fld n 16 16 ∧
      w.prog = fld n 0 16 ∧ w.taken = [] ∧ (fld n 16 16 ≤ fld n 0 16 → w.lastVc = s.me.vcc + 4) ∧
      (tag = .noFmt → fld n 0 16 < fld n 16 16 → (t.me.ra ak).tag = .f32 ∧
        ∀ r i, r < 32 → i < 64 → (t.me.ra ak).at r i = (0xFF800001#32, 0))) ∧
    (tag ≠ .noFmt → tag ≠ .f32 → exec (.vredq f ak gn spec) s = .next (s.trap causeFORMAT 0 (3 + 16 * fmtCode tag + 256))) ∧
    (s.me.vredq = some v → v.prog < v.total → v.lastVc ≤ s.me.vcc → mapGet s.me.rqs v.q = some q → q.popped < q.vecs.length →
      ∃ t w, exec .vredqVector s = .next t ∧ t.me.vredq = some w ∧ w.prog = v.prog + 1 ∧ w.lastVc = s.me.vcc + 1 ∧
        w.taken = v.taken ++ [(s.me.vcc + 4, q.vecs.getD q.popped 0)] ∧ s.SameMem t ∧ (∀ r, t.me.rg r = s.me.rg r))

/-- R207: VZENC builds one block from half an F8 register, and VZDEC gives the elements of a block in half a register; the
decoding of an encoded half is that half again. -/
def Statements.VectorBlocks : Prop :=
  ∀ (s : State) (f : VFn) (d a : VReg) (h : Nat), s.VReady [a] [a] → h < 2 →
    let half : List Nat := (List.range 64).map (fun i => s.me.elem .f8 a (64 * h + i))
    let block := f8zDecode (bytesOfV (s.me.rv a).bits)
    let inside (i : Nat) : Bool := i / 64 == h
    ((s.me.rv a).fmt = .f8 → exec (.vzenc f d a h) s =
      .next (s.issue colV 6 1 0 [.v d .noFmt (vOfBytes (f8zEncode half)) 0 0 s.lExpiry]) ∧
      f8zDecode (f8zEncode half) = (half, 0) ∧ (f8zEncode half).length ≤ 72) ∧
    exec (.vzdec f d a h) s = .next (s.issue colV 6 1 block.2 [.v d .f8
      (packElems 8 ((List.range 128).map (fun i => if inside i then block.1.getD (i % 64) 0 else 0))) 0
      (packElems 8 ((List.range 128).map (fun i => if inside i then 0 else 255))) s.lExpiry])

/-! ## The X column -/

/-- R225 to R227: the element-wise instructions of the X column: an absent source gives absent, unless VLADD passes the
other one; the corners of R226 and R227 are those of the tables. -/
def Obligations.SpecialColumn : Prop :=
  ∀ (s : State) (f : VFn) (d a b : VReg) (m : Option VBits) (fn : Nat), s.VReady [d, a, b] [a, b] → s.Masked m →
    f.stream = false → IsElemental f.fmt → (s.me.rv a).fmt = f.fmt → (s.me.rv b).fmt = f.fmt →
    let none_ := absentCode f.fmt
    let e (r : VReg) (i : Nat) : Nat := s.me.elem f.fmt r i
    let inf (neg : Bool) : Nat := (writeElem f.fmt false false (.inf neg)).1
    let put (g : Nat → Nat × Nat) : State :=
      s.issue colX 8 1 (flagsOn (fmtCount f.fmt) m (fun i => (g i).2)) [s.putV d f.fmt f.policy m (fun i => (g i).1)]
    let each (i : Instr) (corner : Machine.Num → Nat × Nat → Prop) : Prop :=
      ∃ g : Nat → Nat × Nat, exec i s = .next (put g) ∧ ∀ j, j < fmtCount f.fmt →
        (e a j = none_ → g j = (none_, 0)) ∧ (e a j ≠ none_ → corner (readElem f.fmt (e a j)) (g j))
    let nan := (writeElem f.fmt false f.sat (.nan false)).1
    let w (x : Machine.Num) : Nat := (writeElem f.fmt false f.sat x).1
    (f.fmt = .l16 → ∃ g : Nat → Nat × Nat, exec (.vladd f (.v d) (.v a) (.v b)) s = .next (put g) ∧ ∀ j, j < 64 →
      (e a j = 0xC000 → e b j = 0xC000 → g j = (0xC000, 0)) ∧
      (e a j = 0xC000 → e b j ≠ 0xC000 → g j = (if f.pass then e b j else 0xC000, 0)) ∧
      (e a j ≠ 0xC000 → e b j = 0xC000 → g j = (if f.pass then e a j else 0xC000, 0)) ∧
      (e a j = 0x4000 → e b j ≠ 0xC000 → g j = (e b j, 0)) ∧
      (e b j = 0x4000 → e a j ≠ 0xC000 → e a j ≠ 0x4000 → g j = (e a j, 0))) ∧
    each (.vexp2 f (.v d) (.v a)) (fun x r => (x = .inf true → r.1 = w (.zero false)) ∧ (x = .inf false → r = (inf false, 0)) ∧
      (∀ k : Int, -100 ≤ k → k ≤ 100 → x.isNan = false → x.isAbsent = false → (∀ n, x ≠ .inf n) → x.frac = .ofInt k →
        r.1 = w (.ofFrac false (if 0 ≤ k then ⟨2 ^ k.toNat, 1⟩ else ⟨1, 2 ^ (-k).toNat⟩)))) ∧
    each (.vlog2 f (.v d) (.v a)) (fun x r => (x.isZero = true → r = (inf true, flagDZ)) ∧ (x = .inf true → r.1 = nan) ∧
      (x = .inf false → r = (inf false, 0)) ∧ (x.isZero = false → x.isNan = false → x.sign = true → r.1 = nan)) ∧
    each (.vrcp f (.v d) (.v a)) (fun x r => (x.isZero = true → r = (inf x.sign, flagDZ)) ∧ (∀ n, x = .inf n → r.1 = w (.zero n))) ∧
    each (.vrsq f (.v d) (.v a)) (fun x r => (x.isZero = true → r = (inf x.sign, flagDZ)) ∧ (x = .inf false → r.1 = w (.zero false)) ∧
      (x.isZero = false → x.isNan = false → x.sign = true → r.1 = nan)) ∧
    (fn < 4 → each (.vact f (.v d) (.v a) fn) (fun x r =>
      (x.isZero = true → r.1 = w (match fn with
        | 0 => .fin false 1 2
        | 3 => .ofFrac false cLN2
        | _ => x)) ∧
      (x = .inf true → r.1 = w (match fn with
        | 1 => .fin true 1 1
        | 2 => .zero true
        | _ => .zero false)) ∧
      (x = .inf false → fn < 2 → r.1 = w (.fin false 1 1)) ∧
      (x = .inf false → 2 ≤ fn → r = (inf false, 0))))

/-! ## Vector memory and streams -/

/-- R191 to R196: vector loads and stores of the core's own memory, and memory operands of arithmetic: 128 bytes, element 0
at the lowest address; a post-incremented register is written in the next vc. -/
def Statements.VectorMemory : Prop :=
  ∀ (s u : State) (f : VFn) (d a : VReg) (mo : MemOp) (m : Option VBits) (key : Nat), s.VReady [d, a] [d, a] → s.Masked m →
    let x := s.me.memAddr mo 128
    let cap := s.me.rg mo.g
    let wb := fmtWidth f.fmt / 8
    let plain := f.fmt = .noFmt ∨ f.fmt = .mask
    let align := if f.fmt = .noFmt then 8 else if f.fmt = .mask then 16 else wb
    let el (k i : Nat) : Nat := leNat (memRead s.mem (k + i * wb) wb)
    let loaded (r : VReg) (k : Nat) : Wr :=
      .v r f.fmt (vOfBytes (memRead s.mem k 128)) 0 0 s.lExpiry
    let after (t : State) : Prop := s.Kept t ∧ (mo.post = true → s.Lands t 1 (.g mo.g (cap.inc (mo.count * 128))))
    let d2 : VReg := Fin.ofNat 32 (d.val + 1)
    let a2 : VReg := Fin.ofNat 32 (a.val + 1)
    (s.VecAccess cap 4 mo.g x 128 align true false key u →
      ∃ t, exec (.vld f d mo false) s = .next t ∧ after t ∧ (plain → s.Lands t 3 (loaded d key)) ∧
        (¬plain → s.Lands t 3 (s.putV d f.fmt f.policy m (el key)))) ∧
    (s.VecAccess cap 4 mo.g x 256 align true false key u →
      ∃ t, exec (.vld f d mo true) s = .next t ∧ after t ∧
        (plain → s.Lands t 4 (loaded d key) ∧ s.Lands t 4 (loaded d2 (key + 128))) ∧
        (¬plain → s.Lands t 4 (s.putV d f.fmt f.policy m (el key)) ∧
          s.Lands t 4 (s.putV d2 f.fmt f.policy m (el (key + 128))))) ∧
    (s.VecAccess cap 3 mo.g x 128 align false true key u → (f.fmt = .noFmt ∨ (s.me.rv a).fmt = f.fmt) →
      ∃ t, exec (.vst f mo a false) s = .next t ∧ after t ∧
        (m = none → s.Lands t 1 (.mem key (bytesOfV (s.me.rv a).bits) none)) ∧
        (¬plain → ∀ b i, m = some b → i < fmtCount f.fmt → b.getLsbD i = true →
          s.Lands t 1 (.mem (key + i * wb) (leBytes wb (s.me.elem f.fmt a i)) none))) ∧
    (s.VReady [a2] [a2] → s.VecAccess cap 3 mo.g x 256 align false true key u →
      (f.fmt = .noFmt ∨ (s.me.rv a).fmt = f.fmt ∧ (s.me.rv a2).fmt = f.fmt) → m = none →
      ∃ t, exec (.vst f mo a true) s = .next t ∧ after t ∧
        s.Lands t 1 (.mem key (bytesOfV (s.me.rv a).bits ++ bytesOfV (s.me.rv a2).bits) none)) ∧
    (¬plain → f.stream = false → (s.me.rv a).fmt = f.fmt →
      (s.VecAccess cap 5 mo.g x 128 wb true false key u →
        ∃ t, exec (.vand f (.v d) (.v a) (.m mo)) s = .next t ∧ after t ∧
          s.Lands t 1 (s.putV d f.fmt f.policy m (fun i => s.me.elem f.fmt a i &&& el key i))) ∧
      (s.VecAccess cap 3 mo.g x 128 wb false true key u → m = none →
        ∃ t, exec (.vnot f (.m mo) (.v a)) s = .next t ∧ after t ∧
          s.Lands t 1 (.mem key (bytesOfV (~~~(s.me.rv a).bits)) none)))

/-- R197: strided and indexed loads and stores, element by element in ascending order, with max(1, n/16) clk; an absent
index loads absent and stores nothing. The accesses are those that the addresses of R197 give. -/
def Statements.VectorElementMemory : Prop :=
  ∀ (s u : State) (f : VFn) (d a vi : VReg) (mo : MemOp) (st : GImm) (m : Option VBits) (ps : List (Option (List Piece))),
    s.VReady [d, a, vi] [a, vi] → s.Masked m → IsElemental f.fmt →
    let x := s.me.memAddr mo 128
    let w := fmtWidth f.fmt
    let wb := w / 8
    let n := fmtCount f.fmt
    let clk := max 1 (n / 16)
    let ixf : Fmt := if w = 8 then .i8 else if w = 16 then .i16 else if w = 32 then .i32 else .i64
    let stride := (s.me.gimm st).toInt
    let strides : List (Option Nat) := (List.range n).map (fun (i : Nat) => some (wrap 64 ((x : Int) + i * stride)))
    let indices : List (Option Nat) := (List.range n).map (fun (i : Nat) =>
      let j := s.me.elem ixf vi i
      if j = absentCode ixf then none else some (wrap 64 ((x : Int) + sext w j * wb)))
    let got (i : Nat) : Nat := match ps.getD i none with
      | some p => leNat (u.readPieces f.fmt p)
      | none => absentCode f.fmt
    let puts (t : State) : Prop := ∀ i p q, i < n → ps.getD i none = some p → q ∈ p → maskOn m i = true →
      s.Lands t 1 (.mem q.key (((leBytes wb (s.me.elem f.fmt a i)).drop q.at_).take q.len) none)
    let after (t : State) : Prop := s.Kept t ∧ (mo.post = true → s.Lands t 1 (.g mo.g ((s.me.rg mo.g).inc (mo.count * 128))))
    u.NoErrors → u.lines = [] →
    (s.elemAccess mo 4 wb false strides = .ok (u, 0, ps) → ∃ t, exec (.vlds f d mo st) s = .next t ∧ after t ∧
      s.Lands t (2 + clk) (s.putV d f.fmt f.policy m got)) ∧
    ((s.me.rv vi).fmt = ixf → s.elemAccess mo 4 wb false indices = .ok (u, 0, ps) →
      ∃ t, exec (.vldx f d mo vi) s = .next t ∧ after t ∧ s.Lands t (2 + clk) (s.putV d f.fmt f.policy m got)) ∧
    ((s.me.rv a).fmt = f.fmt → s.elemAccess mo 3 wb true strides = .ok (u, 0, ps) →
      ∃ t, exec (.vsts f mo a st) s = .next t ∧ after t ∧ puts t) ∧
    ((s.me.rv a).fmt = f.fmt → (s.me.rv vi).fmt = ixf → s.elemAccess mo 3 wb true indices = .ok (u, 0, ps) →
      ∃ t, exec (.vstx f mo a vi) s = .next t ∧ after t ∧ puts t)

/-- R215, R218: SCFG takes its descriptor, SSTAT gives the indices, exhaustion and direction, SRST releases a stream. -/
def Statements.StreamInstructions : Prop :=
  ∀ (s u u1 u2 : State) (f : VFn) (sk : SReg) (gd ga : GReg) (mo : MemOp) (key lo hi bank : Nat) (t0 : Stream), s.VReady [] [] →
    let x := s.me.memAddr mo 128
    let cap := s.me.rg ga
    let at_ (i n : Nat) : Nat := leNat (memRead s.mem (key + i) n)
    let wr := at_ 6 1 % 2 == 1
    (s.VecAccess (s.me.rg mo.g) 5 mo.g x 32 8 true false key u → cap.tag = true → mdSeal cap.md = 0 → mdHas cap.md pENGINE = true →
      mdHas cap.md (if wr then pW else pR) = true → u.relResolve cap (capBase cap.val cap.md).toNat = some lo →
      u.relResolve cap (capTop cap.val cap.md - 1).toNat = some hi → u.streamEnd lo wr = .ok (u1, 0, bank) →
      u1.streamEnd hi wr = .ok (u2, 0, bank) → bank < 4 → ∃ t, exec (.scfg f sk ga mo) s = .next t ∧ s.Kept t ∧
        s.Lands t 1 (.stream sk (some ⟨cap, wr, f.fmt, at_ 0 2, at_ 2 2, at_ 4 2, sext 32 (at_ 8 4), sext 32 (at_ 12 4),
          sext 32 (at_ 16 4), 0, 0, 0⟩))) ∧
    (mapGet s.me.streams sk.val = some t0 → exec (.sstat f gd sk) s = .next (s.issue colV 1 1 0 [.g gd
      ⟨BitVec.ofNat 64 (t0.i0 + t0.i1 * 2 ^ 16 + t0.i2 * 2 ^ 32 + (if t0.exhausted then 2 ^ 48 else 0) + (if t0.wr then 2 ^ 49 else 0)),
        0, false⟩]) ∧
      exec (.srst f sk) s = .next (s.issue colV 1 1 0 [.stream sk none,
        .vPut (Fin.ofNat 32 (24 + sk.val)) { s.me.vraw (Fin.ofNat 32 (24 + sk.val)) with fmt := .noFmt }])) ∧
    (mapGet s.me.streams sk.val = none → exec (.srst f sk) s = .next (s.issue colV 1 1 0 []))

/-- R216: the elements of a stream in order, i0 fastest, then i1, then i2, until i2 = n2; what is taken is no longer left. -/
def Statements.StreamPositions : Prop :=
  ∀ (t : Stream) (n k : Nat), t.i0 < t.n0 → t.i1 < t.n1 → t.i2 < t.n2 →
    let at_ := t.i0 + t.n0 * (t.i1 + t.n1 * t.i2)
    let j := at_ + k
    t.left = t.n0 * t.n1 * t.n2 - at_ ∧
    (t.take n).1.length = min n t.left ∧
    (k < min n t.left → (t.take n).1[k]? = some (wrap 64 ((t.cap.val.toNat : Int) + (j % t.n0 : Nat) * t.s0 +
      (j / t.n0 % t.n1 : Nat) * t.s1 + (j / t.n0 / t.n1 : Nat) * t.s2))) ∧
    (t.take n).2.left = t.left - min n t.left ∧
    (t.left ≤ n → (t.take n).2.exhausted = true ∧ (t.take n).2.i2 = t.n2)

/-! ## The T column -/

/-- R231, R242, R243: the configuration, MZERO, MSTAT and MRST land one vc after their issue and change nothing else. -/
def Statements.TensorConfiguration : Prop :=
  ∀ (s : State) (f : VFn) (ga gb gd : GReg) (ak : AReg) (mask : Nat), s.Runs →
    let a := (s.me.rgv ga).toNat
    let b := (s.me.rgv gb).toNat
    let kk := a % 2 ^ 11
    let astr := sext 32 b
    let bstr := sext 32 (b / 2 ^ 32)
    let sl := s.me.slice
    let one (i : Instr) (wrs : List Wr) : Prop := ∃ t, exec i s = .next t ∧ s.Kept t ∧ ∀ w, w ∈ wrs → s.Lands t 1 w
    let busy (i : Nat) : Prop := (∃ o, o ∈ s.me.tops ∧ o.load = false ∧ o.acc.val = i) ∨ ∃ v, s.me.vredq = some v ∧ v.acc.val = i
    (0 < kk → kk ≤ 1024 → kk % 8 = 0 → astr % 8 = 0 → bstr % 8 = 0 →
      one (.mcfg f ga gb) [.slice kk (decide (a / 2 ^ 11 % 2 = 1)) astr bstr]) ∧
    (kk = 0 ∨ 1024 < kk ∨ kk % 8 ≠ 0 → exec (.mcfg f ga gb) s = .next (s.trap causeFORMAT 0 4)) ∧
    (0 < kk → kk ≤ 1024 → kk % 8 = 0 → astr % 8 ≠ 0 ∨ bstr % 8 ≠ 0 → exec (.mcfg f ga gb) s = .next (s.trap causeFORMAT 0 5)) ∧
    one (.mzero f ak) [.accPut ak ⟨f.fmt, []⟩] ∧
    (sl.kcfg < 2 ^ 11 → sl.kb < 2 ^ 11 → ∃ x, x < 2 ^ 44 ∧ one (.mstat f gd) [.g gd ⟨BitVec.ofNat 64 x, 0, false⟩] ∧
      fld x 0 5 = 0 ∧ fld x 5 11 = sl.kcfg ∧ fld x 16 11 = sl.kb ∧ fld x 27 1 = (if sl.bz then 1 else 0) ∧
      fld x 28 4 = fmtCode sl.bfmt ∧ ∀ i : Fin 4, fld x (32 + 2 * i) 2 = accCode (s.me.ra i).tag ∧ (fld x (40 + i) 1 = 1 ↔ busy i)) ∧
    (s.me.tops = [] → s.me.vredq = none → s.me.free 8 ≤ s.me.vcc → (∀ l, l ∈ s.me.landings → ∀ x y z, l.wr ≠ .bbuf x y z) →
      one (.mrst f mask) ((List.finRange 4).filterMap (fun (i : AReg) => if mask.testBit i.val then some (Wr.accPut i ⟨.noFmt, []⟩) else none) ++
        (if mask.testBit 4 then [.slice 0 false 0 0, .bbuf .noFmt 0 []] else []) ++
        (if mask.testBit 5 then [Wr.cr 0x00C 0] else [])))

/-- R232, R233, R237, R280: MLDB, of rows or (BZ 1) of the blocks that a table names, and MMA start once their checks pass and the range-lock table has room: their slot counts, a
lock entry covers their local footprint, and their load pipe will read. An accumulator without a tag takes one. -/
def Statements.TensorStarts : Prop :=
  ∀ (s : State) (f : VFn) (ak : AReg) (mo : MemOp) (vs : List Nat) (i : Nat), s.Runs →
    let sl := s.me.slice
    let x := s.me.memAddr mo 128
    let cap := s.me.rg mo.g
    let w := fmtWidth f.fmt
    let acc := if f.fmt = .i8 then Fmt.i32 else .f32
    let bRange : List (Nat × Nat) := (List.range sl.kcfg).map (fun (n : Nat) => (wrap 64 ((x : Int) + n * sl.bstr), 8 * w))
    let aRange : List (Nat × Nat) := (List.range 32).map (fun (n : Nat) => (wrap 64 ((x : Int) + n * sl.astr), sl.kb * (w / 8)))
    let started (t : State) (o : TensorOp) (v : List Nat) : Prop := t.me.tops = s.me.tops ++ [o] ∧ o.serial = s.ent.serial ∧ o.pc = s.ent.pc ∧
      o.fmt = f.fmt ∧ o.start = s.me.vcc ∧ o.vas = v ∧ o.slot = s.head.set ∧ o.data = [] ∧ o.fault = none ∧ s.Kept t ∧
      (∀ d, s.head.set = some d → t.me.slot d = s.me.slot d + 1) ∧
      (mo.post = true → s.Lands t 1 (.g mo.g (cap.inc (mo.count * 128))))
    let chunks := sl.kb / 8
    s.lines = [] → s.me.freeLock = some i →
    (0 < sl.kcfg → sl.kcfg ≤ 512 ∨ w = 8 → sl.bz = false → s.tensorReach cap mo.g x (wrap 64 sl.bstr) bRange = .ok vs →
      s.footTrap (s.footprint (vs.zip (bRange.map (·.2)))) = none → ∃ t o, exec (.mldb f mo) s = .next t ∧ started t o vs ∧
        o.load = true ∧ o.bz = false ∧ o.kb = sl.kcfg ∧ o.count = (sl.kcfg * 8 * w + 127) / 128 ∧ o.next = 0) ∧
    (0 < sl.kcfg → f.fmt = .f8 → sl.bz = true → s.tensorReach cap mo.g x 0 [(x, tableBytes sl.kcfg)] = .ok vs →
      s.footTrap (s.footprint (vs.zip [tableBytes sl.kcfg])) = none → ∃ t o, exec (.mldb f mo) s = .next t ∧ started t o [x] ∧
        o.load = true ∧ o.bz = true ∧ o.kb = sl.kcfg ∧ o.next = 0) ∧
    (sl.kcfg = 0 ∨ (512 < sl.kcfg ∧ w = 16) ∨ (sl.bz = true ∧ f.fmt ≠ .f8) →
      exec (.mldb f mo) s = .next (s.trap causeFORMAT 0 (1 + fmtCode f.fmt * 256))) ∧
    (sl.bfmt = f.fmt → (s.me.ra ak).tag = acc ∨ (s.me.ra ak).tag = .noFmt → fld (s.me.cv 0x00C).toNat 31 1 = 0 → 0 < chunks →
      s.tensorReach cap mo.g x (wrap 64 sl.astr) aRange = .ok vs → s.footTrap (s.footprint (vs.zip (aRange.map (·.2)))) = none →
      ∃ t o, exec (.mma f ak mo) s = .next t ∧ started t o vs ∧ o.load = false ∧ o.gang = false ∧ o.acc = ak ∧ o.rows = sl.rows ∧
        o.count = chunks ∧ o.next = 0 ∧ o.lands = 0 ∧
        ((s.me.ra ak).tag = .noFmt → s.Lands t 1 (.accPut ak ⟨acc, []⟩))) ∧
    (sl.bfmt ≠ f.fmt →
      exec (.mma f ak mo) s = .next (s.trap causeFORMAT 0 (4 + 16 * fmtCode sl.bfmt + 256 * fmtCode f.fmt)))

/-- R106, R233: a chunk that lands adds, for each row and column, the products of its present pairs: their number joins the
count, which stops at 65,535, and for I8 the exact sum joins the value, saturating; an element without a present pair, every
other accumulator and everything else stay. -/
def Statements.ChunkLanding : Prop :=
  ∀ (s : State) (o : TensorOp) (n due : Nat) (bytes : List Byte) (rest : List (Nat × (Nat × List Byte))),
    s.hand.arg.bytes = [] → s.hand.arg.a = 0 → s.me.tops.find? (fun p => p.serial == s.hand.arg.ix) = some o → o.data = (n, (due, bytes)) :: rest →
    due ≤ s.me.vcc → o.fmt = .i8 ∨ isFloatFmt o.fmt = true →
    let w := fmtWidth o.fmt
    let a (i k : Nat) : Nat := leNat ((bytes.drop (w * i + k * (w / 8))).take (w / 8))
    let b (k j : Nat) : Nat := mapGetD o.rows (8 * n + k) 0 / 2 ^ (w * j) % 2 ^ w
    let on (i j k : Nat) : Bool := a i k != absentCode o.fmt && b k j != absentCode o.fmt
    let present (i j : Nat) : Nat := (List.range 8).countP (on i j)
    let sum (i j : Nat) : Int := (((List.range 8).filter (on i j)).map (fun k => sext 8 (a i k) * sext 8 (b k j))).sum
    let old (i j : Nat) : BitVec 32 × Nat := (s.me.ra o.acc).at i j
    let base (i j : Nat) : Int := if (old i j).2 = 0 then 0 else (old i j).1.toInt
    ∃ t, exec .chunkLand s = .next t ∧ (t.me.ra o.acc).tag = (if o.fmt = .i8 then .i32 else .f32) ∧
      (∀ i j, i < 32 → j < 64 →
        let new := (t.me.ra o.acc).at i j
        (present i j = 0 → new = old i j) ∧
        (0 < present i j → new.2 = min 65535 ((old i j).2 + present i j)) ∧
        (0 < present i j → o.fmt = .i8 → (old i j).1 ≠ 0x80000000#32 →
          new.1.toInt = max (-(2 ^ 31 - 1)) (min (2 ^ 31 - 1) (base i j + sum i j)))) ∧
      (∀ k, k ≠ o.acc → t.me.ra k = s.me.ra k) ∧ s.SameMem t ∧ (∀ r, t.me.rg r = s.me.rg r) ∧ (∀ r, t.me.vraw r = s.me.vraw r)

/-- R238, R359, R368: GMMA on a gang that its launch holds only in part or whose barrier is broken raises BARRIER_BROKEN;
otherwise it waits for its gang, with a range-lock entry kept for the part of A it holds (R235); GMMA_JOIN starts the GMMAs of sixteen members that wait for the same operation. -/
def Statements.GangMultiply : Prop :=
  ∀ (s : State) (f : VFn) (ak : AReg) (mo : MemOp),
    let c := s.hand.core
    let b := s.bar (s.gangKey c)
    let gang := gangCores (gangOf c)
    (s.Runs → s.gangWhole c = false → exec (.gmma f ak mo) s = .next (s.raise (brokenTrap 0 4))) ∧
    (s.Runs → s.gangWhole c = true → b.st = .broken → exec (.gmma f ak mo) s = .next (s.raise (brokenTrap 0 b.reason))) ∧
    (s.Runs → s.gangWhole c = true → b.st ≠ .broken → (∀ k j, j ∈ (s.core k).joins → j = 1) →
      (s.gmmaFoot f mo = [] ∨ s.me.freeLock ≠ none) → ∃ t w, exec (.gmma f ak mo) s = .next t ∧ t.me.gmma = some w ∧
      w.serial = s.ent.serial ∧ w.ready = s.clk ∧ t.me.joins = s.me.joins ++ [1] ∧ (t.me.queueOf colT).head? = some s.ent ∧ s.Kept t) ∧
    (s.gangVerdict c = .join → (∀ m, m ∈ gang → ∃ w e rest, (s.core m).gmma = some w ∧ s.gmmaTrap m = none ∧
        s.gmmaKeyOf m = s.gmmaKeyOf c ∧ (s.core m).queueOf colT = e :: rest ∧ e.instr = .gmma f ak mo) → s.lines = [] →
      ∃ t, exec .gmmaJoin s = .next t ∧ ∀ m, m ∈ gang → (t.core m).gmma = none ∧
        ∃ o, o ∈ (t.core m).tops ∧ o.gang = true ∧ o.acc = ak ∧ o.fmt = f.fmt ∧ o.start = (s.core m).vcc)

/-- R104, R241, R242: what MDRN, MRDR and MWRR land: the drained or stored row, with its counts. -/
def Statements.TensorRows : Prop :=
  ∀ (s : State) (f : VFn) (vd : VReg) (ak : AReg) (row mode : Nat) (clr : Bool) (m : Option VBits), s.VReady [] [] → s.Masked m →
    row < 32 → mode < 4 → vd.val < 29 →
    let a := s.me.ra ak
    let cell (j : Nat) : BitVec 32 × Nat := if a.tag = .noFmt then (0, 0) else a.at row j
    let v (j : Nat) : Machine.Num := tRead a.tag (cell j).1.toNat
    let count (j : Nat) : Nat := min 32767 (cell j).2
    let drain (j : Nat) : Nat :=
      if (cell j).2 = 0 then (if mode = 2 then 0 else absentCode f.fmt)
      else (tWrite f.fmt f.sat (if mode = 1 then (numDiv (v j) (.fin false (cell j).2 1)).1 else v j)).1
    let reg (i : Nat) : VReg := Fin.ofNat 32 (vd.val + i)
    let spec := row + 32 * mode + (if clr then 128 else 0)
    let each (w n : Nat) (g : Nat → Nat) : VBits := packElems w ((List.range n).map g)
    let goes (t : State) : Prop := s.Kept t ∧ (clr = true → s.Lands t 1 (.accClearRow ak row))
    (mode = 3 → f.fmt = .i16 → ∃ t, exec (.mdrn f vd ak spec) s = .next t ∧ goes t ∧
      s.Lands t 4 (s.putV vd .i16 f.policy m count)) ∧
    (mode ≠ 3 → a.tag = (if isFloatFmt f.fmt then .f32 else .i32) → ∃ t, exec (.mdrn f vd ak spec) s = .next t ∧ goes t ∧
      (fmtWidth f.fmt = 16 → s.Lands t 4 (s.putV vd f.fmt f.policy m drain) ∧
        (mode = 0 → s.Lands t 4 (s.putV (reg 1) .i16 f.policy m count))) ∧
      (fmtWidth f.fmt = 32 → s.Lands t 4 (s.putV vd f.fmt f.policy m drain) ∧
        s.Lands t 4 (s.putV (reg 1) f.fmt f.policy (m.map (fun (b : VBits) => b >>> (32 : Nat))) (fun j => drain (32 + j))) ∧
        (mode = 0 → s.Lands t 4 (s.putV (reg 2) .i16 f.policy m count))) ∧
      (fmtWidth f.fmt = 8 → s.Lands t 4 (.v vd f.fmt (each 8 64 (fun j => if maskOn m j then drain j else absentCode f.fmt))
        (each 8 64 (fun j => if maskOn m j ∨ f.policy then 0 else 255)) (each 8 128 (fun j => if j < 64 then 0 else 255)) s.lExpiry))) ∧
    (mode ≠ 3 → a.tag ≠ (if isFloatFmt f.fmt then .f32 else .i32) →
      exec (.mdrn f vd ak spec) s = .next (s.trap causeFORMAT 0 (4 + 16 * fmtCode a.tag + 256 * fmtCode f.fmt))) ∧
    (∃ t, exec (.mrdr f vd ak row) s = .next t ∧ s.Kept t ∧
      s.Lands t 3 (.v vd a.tag (each 32 32 (fun j => (cell j).1.toNat)) 0 0 s.lExpiry) ∧
      s.Lands t 3 (.v (reg 1) a.tag (each 32 32 (fun j => (cell (32 + j)).1.toNat)) 0 0 s.lExpiry) ∧
      s.Lands t 3 (.v (reg 2) .i16 (each 16 64 (fun j => (cell j).2)) 0 0 s.lExpiry)) ∧
    (s.VReady [vd, reg 1, reg 2] [vd, reg 1, reg 2] → (s.me.rv (reg 1)).fmt = (s.me.rv vd).fmt → (s.me.rv (reg 2)).fmt = .i16 →
      let val (j : Nat) : BitVec 32 := BitVec.ofNat 32 (if j < 32 then s.me.elem .i32 vd j else s.me.elem .i32 (reg 1) (j - 32))
      let cnt (j : Nat) : Nat := let c := s.me.elem .i16 (reg 2) j; if c < 32768 then c else 0
      let cells : List (Nat × (BitVec 32 × Nat)) := (List.range 64).map (fun j => (64 * row + j, (val j, cnt j)))
      ((s.me.rv vd).fmt = .noFmt → a.tag = .noFmt → ∃ t, exec (.mwrr f ak vd row) s = .next t ∧ s.Kept t) ∧
      ((s.me.rv vd).fmt = .f32 ∨ (s.me.rv vd).fmt = .i32 → a.tag = (s.me.rv vd).fmt → ∃ t, exec (.mwrr f ak vd row) s = .next t ∧
        s.Kept t ∧ s.Lands t 1 (.acc ak a.tag cells)) ∧
      ((s.me.rv vd).fmt = .f32 ∨ (s.me.rv vd).fmt = .i32 → a.tag = .noFmt → ∃ t x, exec (.mwrr f ak vd row) s = .next t ∧
        s.Kept t ∧ s.Lands t 1 (.accPut ak x) ∧ x.tag = (s.me.rv vd).fmt ∧
        ∀ i j, i < 32 → j < 64 → x.at i j = if i = row then (val j, cnt j) else (0, 0)))

/-! ## The C column -/

/-- R245, R246, R247, R251 to R253, R256 to R259: a copy operation that passes its checks takes a descriptor and joins its
group in the clk it issues; what it will read and write, and its beats, are those of its sides, and nothing a program sees has
changed yet. CPY.IN, CPY.OUT, CPY.LL, CPYF, CPYF.PAT, CMUT, SEND and SEND.Q with one local side or two. -/
def Statements.CopyIssue : Prop :=
  ∀ (s u v : State) (grp : Fin 16) (mo so : MemOp) (gh gc : GReg) (len : GImm) (fmt : Fmt) (lay : Layout) (k : Fin 8)
    (dst src : List CPiece) (q : CPiece) (phys ty : Nat), s.Runs →
    let n := s.me.copyLen len
    let x := s.me.memAddr mo 128
    let y := s.me.memAddr so 128
    let hw := s.me.rgv gh
    let side : List CPiece := if n = 0 then [] else [⟨phys, none, n, false, ty⟩]
    let took (i : Instr) (cls : Nat) (P : CopyOp → Prop) : Prop := ∃ t o, exec i s = .next t ∧
      mapGet t.me.descs s.me.opId = some o ∧ t.me.opId = s.me.opId + 1 ∧ o.group = grp.val ∧ o.cls = cls ∧
      o.serial = s.ent.serial ∧ o.slot = s.head.set ∧ P o ∧
      (mapGetD t.me.groups grp.val ⟨0, none⟩).count = (mapGetD s.me.groups grp.val ⟨0, none⟩).count + 1 ∧
      (∀ d, s.head.set = some d → t.me.slot d = s.me.slot d + 1) ∧ s.Kept t ∧
      (mo.post = true → s.Lands t 1 (.g mo.g ((s.me.rg mo.g).inc (mo.count * 128))))
    let wb := fmtWidth fmt / 8
    let r (i : Nat) : Nat := (s.me.rgv (Fin.ofNat 64 (gc.val + i))).toNat
    s.me.descs.length < 1024 → s.me.locks = [] → s.lines = [] →
    (s.copyLocal (s.me.rg mo.g) 3 mo.g x n 0 true [] true = .ok (u, 0, dst) →
      (u.handleSide (u.me.ctx.getD 0) hw n false = .ok (phys, ty) → took (.cpyIn grp mo gh len) 0 (fun o =>
        o.kind = .move ∧ o.reads = cranges side ∧ o.writes = cranges dst ∧ o.streams = [beatsOf side dst 0])) ∧
      (u.copyLocal (s.me.rg gc) 4 gc (s.me.rgv gc).toNat n 0 false [] true = .ok (v, 0, src) →
        took (.cpyLl grp mo gc len) 0 (fun o => o.kind = .move ∧ o.reads = cranges src ∧ o.writes = cranges dst ∧
          o.streams = [beatsOf src dst 0] ∧ o.whole = rangesMeet (cranges src) (cranges dst) ∧ o.srcs = src))) ∧
    (s.copyLocal (s.me.rg mo.g) 3 mo.g x n 0 false [] true = .ok (u, 0, src) →
      u.handleSide (u.me.ctx.getD 0) hw n true = .ok (phys, ty) → took (.cpyOut grp mo gh len) 0 (fun o =>
        o.kind = .move ∧ o.reads = cranges src ∧ o.writes = cranges side ∧ o.streams = [beatsOf src side 0])) ∧
    (s.copyLocal (s.me.rg mo.g) 3 mo.g x n wb true [] false = .ok (u, 0, dst) → wb ∈ [1, 2, 4, 8] → n % wb = 0 →
      took (.cpyf grp fmt mo len) 0 (fun o => o.writes = cranges dst ∧ o.streams = [beatsOf [] dst 0] ∧
        o.kind = .fill ((List.replicate (8 / wb) (leBytes wb (absentCode fmt))).flatten))) ∧
    (s.copyLocal (s.me.rg mo.g) 3 mo.g x n 0 true [] false = .ok (u, 0, dst) →
      took (.cpyfPat grp mo gc len) 0 (fun o => o.writes = cranges dst ∧ o.streams = [beatsOf [] dst 0] ∧
        o.kind = .fill (leBytes 8 (s.me.rgv gc).toNat))) ∧
    (let m := r 0 % 2 ^ 32
      let table := 8 * ((m + 127) / 128)
      let bytes := if lay = .f8z then table else m * (fmtWidth (layoutFmt lay) / 8)
      let room := if lay = .f8z then table + 72 * (m / 64) else bytes
      (lay = .f8z → m % 64 = 0) → s.copyLocal (s.me.rg mo.g) 3 mo.g x room 0 true [] false = .ok (u, 0, dst) →
      u.handleSide (u.me.ctx.getD 0) hw bytes false = .ok (phys, ty) → took (.cmut grp lay mo gh gc) 1 (fun o =>
        o.dsts = dst ∧ o.writes = cranges dst ∧ (lay ≠ .f8z → 0 < bytes → o.reads = [(phys, bytes)]) ∧
          o.kind = (if m = 0 then .move else
            .cmut ⟨m, fld (r 0) 32 24, r 1, r 2, fld (r 3) 0 32, fld (r 3) 32 16, lay⟩))) ∧
    (s.sendDst (s.me.rg mo.g) mo.g x n false = .ok (u, 0, dst) →
      u.copyLocal (s.me.rg so.g) 4 so.g y n 0 false [] false = .ok (v, 0, src) → took (.send grp mo so len) 3 (fun o =>
        o.kind = .move ∧ o.reads = cranges src ∧ o.writes = cranges dst ∧ o.streams = [beatsOf src dst 0])) ∧
    (s.sendDst (s.me.rg mo.g) mo.g x 1 true = .ok (u, 0, [q]) → n % 128 = 0 →
      u.copyLocal (s.me.rg so.g) 4 so.g y n 0 false [] false = .ok (v, 0, src) → took (.sendQ grp k mo so len) 3 (fun o =>
        o.kind = .sendq (q.phys / 2 ^ 29) k.val ∧ o.reads = cranges src ∧ o.writes = [] ∧
          o.streams.map List.length = [n / 128]))

/-- R252, R257: rows and multicast: CPYS checks its rows in turn, each at its stride from the one before, and moves the bytes of
each (no row: nothing); MCAST writes the same offset of every core of its rectangle. -/
def Statements.CopyRowsAndMulticast : Prop :=
  ∀ (s v : State) (grp : Fin 16) (mo : MemOp) (gh gb gr : GReg) (len : GImm) (src : List CPiece) (st : Nat → State)
    (part : Nat → List CPiece) (phys ty : Nat → Nat), s.Runs →
    let a := (s.me.rgv gb).toNat
    let b := (s.me.rgv (Fin.ofNat 64 (gb.val + 1))).toNat
    let n := a % 2 ^ 32
    let rows := fld a 32 16
    let x := s.me.memAddr mo 128
    let h := (s.me.rgv gh).toNat
    let at_ (i : Nat) : Nat := wrap 64 ((x : Int) + (i : Int) * sext 32 (fld b 0 32))
    let far (i : Nat) : Word := BitVec.ofNat 64 (setFld h 0 48 (wrap 48 ((fld h 0 48 : Nat) + (i : Int) * sext 32 (fld b 32 32))))
    let side (i : Nat) : List CPiece := if n = 0 then [] else [⟨phys i, none, n, false, ty i⟩]
    let checked (wr : Bool) : Prop := st 0 = s ∧ ∀ i, i < rows →
      (st i).copyLocal (s.me.rg mo.g) 3 mo.g (at_ i) n 0 wr [] true = .ok (st (i + 1), 0, part i) ∧
      (st (i + 1)).handleSide ((st (i + 1)).me.ctx.getD 0) (far i) n (!wr) = .ok (phys i, ty i)
    let all (f : Nat → List CPiece) : List (Nat × Nat) := (List.range rows).flatMap (fun i => cranges (f i))
    let took (i : Instr) (cls : Nat) (P : CopyOp → Prop) : Prop := ∃ t o, exec i s = .next t ∧
      mapGet t.me.descs s.me.opId = some o ∧ o.group = grp.val ∧ o.cls = cls ∧ o.serial = s.ent.serial ∧ o.slot = s.head.set ∧
      P o ∧ (mapGetD t.me.groups grp.val ⟨0, none⟩).count = (mapGetD s.me.groups grp.val ⟨0, none⟩).count + 1 ∧ s.Kept t ∧
      (mo.post = true → s.Lands t 1 (.g mo.g ((s.me.rg mo.g).inc (mo.count * 128))))
    let m := s.me.copyLen len
    let d := (s.me.rgv gr).toNat
    let rect := (s.me.cv 0x014).toNat
    let off := fld d 24 20
    let inside := off + m ≤ (if fld rect 26 1 = 1 then 0x10000 else 0x40000) ∨ 0x40000 ≤ off ∧ off + m ≤ 0x58000
    let cores := (List.range (fld d 8 8 + 1)).flatMap (fun i =>
      (List.range (fld d 20 4 + 1)).map (fun j => rectCore rect (fld d 0 8 + i) (fld d 16 4 + j)))
    s.me.descs.length < 1024 → s.me.locks = [] → s.lines = [] →
    (checked true → took (.cpysIn grp mo gh gb) 0 (fun o => o.kind = .move ∧ o.reads = all side ∧ o.writes = all part ∧
      o.streams = [(List.range rows).flatMap (fun i => beatsOf (side i) (part i) 0)])) ∧
    (checked false → took (.cpysOut grp mo gh gb) 0 (fun o => o.kind = .move ∧ o.reads = all part ∧ o.writes = all side ∧
      o.streams = [(List.range rows).flatMap (fun i => beatsOf (part i) (side i) 0)])) ∧
    (0 < fld rect 12 9 → 0 < fld rect 21 5 → fld d 0 8 + fld d 8 8 + 1 ≤ fld rect 12 9 → fld d 16 4 + fld d 20 4 + 1 ≤ fld rect 21 5 →
      inside → s.copyLocal (s.me.rg mo.g) 4 mo.g x m 0 false [pREMOTE] false = .ok (v, 0, src) →
      took (.mcast grp gr mo len) 2 (fun o => o.reads = cranges src ∧
        (0 < m → o.writes = cores.map (fun c => (v.phys (coreKey c off), m))) ∧ o.streams.length = cores.length))

/-- R254, R255, R260, R265: CPYW, CPYQ, RECV and SQTAG, the last with the steps of R57 over its range passed. -/
def Obligations.CopyControl : Prop :=
  ∀ (s : State) (grp : Fin 16) (gd : GReg) (mask : GJ) (vd : VReg) (fmt : Fmt) (q : Fin 8) (x : VBits) (mo : MemOp) (len : GImm)
    (u : State) (ps : List CPiece), s.Runs →
    let k := s.me
    let group : CopyGroup := mapGetD k.groups grp.val ⟨0, none⟩
    let status : Word := BitVec.ofNat 64 ((if group.fault.isSome then 2 ^ 32 else 0) + k.descs.length * 2 ^ 16 + group.count)
    let groups := match mask with
      | .reg g => (k.rgv g).toNat % 65536
      | .joined v => v % 65536
    let named := (k.descs.filter (fun p => fld groups p.2.group 1 == 1)).map (·.1)
    let started (t : State) (kind : AsyncKind) (due : Option Nat) : Prop := s.Kept t ∧
      ∃ o, o ∈ t.me.ops ∧ o.kind = kind ∧ o.due = due ∧ o.slot = s.head.set ∧ o.serial = s.ent.serial
    let rq := k.recvQ q.val
    let n := k.copyLen len
    let a := k.memAddr mo 128
    let lines := (ps.flatMap (fun p => unitsOf 128 (keyOf p.phys) p.len)).map (· * 128)
    let expect := fld s.ent.stamp 8 8
    let tags (t : State) (w : Nat → Nat × Bool) : Prop := s.Lands t 1 (.lines (lines.map (fun l => (l, w l)))) ∧ s.Kept t ∧
      (mo.post = true → s.Lands t 1 (.g mo.g ((k.rg mo.g).inc (mo.count * 128))))
    (named = [] → ∃ t, exec (.cpyw mask) s = .next t ∧ started t .plain (some (s.clk + 1))) ∧
    (named ≠ [] → ∃ t, exec (.cpyw mask) s = .next t ∧ started t (.cpyw named) none) ∧
    exec (.cpyq grp gd) s = .next (s.issue colC 1 1 0 [.g gd ⟨status, 0, false⟩]) ∧
    (∃ t, exec (.cpyqC grp gd) s = .next t ∧ s.Lands t 1 (.g gd ⟨status, 0, false⟩) ∧ s.Kept t ∧
      (group.fault ≠ some s.clk → (mapGetD t.me.groups grp.val ⟨0, none⟩).fault = none) ∧
      (group.fault = some s.clk → (mapGetD t.me.groups grp.val ⟨0, none⟩).fault = group.fault)) ∧
    (rq.popped < 16 → rq.vecs[rq.popped]? = some x → ∃ t, exec (.recv fmt vd q.val) s = .next t ∧
      s.Lands t 3 (.v vd fmt x 0 0 s.lExpiry) ∧ (t.me.recvQ q.val).popped = rq.popped + 1 ∧ (t.me.recvQ q.val).vecs = rq.vecs ∧
      s.SameMem t ∧ ∀ z, t.me.rg z = k.rg z) ∧
    (rq.popped < 16 → rq.vecs[rq.popped]? = none → s.ent.block.map (·.2) ≠ some true →
      exec (.recv fmt vd q.val) s = .next (s.requeue colC)) ∧
    (rq.popped < 16 → rq.vecs[rq.popped]? = none → s.ent.block.map (·.2) = some true →
      exec (.recv fmt vd q.val) s = .next (s.timing (k.vcc - k.issueLimit colC s.ent) 5)) ∧
    (16 ≤ rq.popped → exec (.recv fmt vd q.val) s = .next (s.trap causeSCHEDULE 0 q.val)) ∧
    (s.rangeSide (k.rg mo.g) 3 mo.g a n 0 true false [pR] causePLOAD s.tagRefuses = .ok (u, 0, ps) →
      (∃ t, exec (.sqtag mo len) s = .next t ∧ tags t (fun _ => (expect, true))) ∧
      ∃ t, exec (.sqtagClr mo len) s = .next t ∧ tags t (fun l => ((s.lineAt l).expect, false)))

/-- R245, R250, R259, R262: an engine's beat into the core's own memory writes its source's bytes and no other; an operation
that is over frees its descriptor and its slot; a vector enters a receive queue that has room. -/
def Obligations.CopyEngineEvents : Prop :=
  ∀ (s : State) (d : Nat) (o : CopyOp) (b : Beat) (bs : List Beat) (bytes : List Byte) (src ix q : Nat) (x : VBits),
    let c := s.hand.core
    let k := s.me
    (c < 8192 → s.hand.arg.b = 0 → s.hand.arg.ix = d + 1 → mapGet k.descs d = some o → o.kind = .move → o.whole = false → o.held = none → o.dsts = [] →
      o.streams = [b :: bs] → s.ext = [] → (∀ y, k.ctx = some y → (s.ctx y).budgets = []) →
      s.readParts c o.group b.srcs = (s, .bytes bytes) → bytes.length = b.len → s.isHere b.dst = true → spaceOf b.dst = 0 →
      coreOf b.dst = c → s.bankTaken c (offOf b.dst) = false →
      ∃ t, exec .copyBeatWrite s = .next t ∧ memRead t.mem (keyOf b.dst) b.len = bytes ∧ s.SameOutside t (keyOf b.dst) b.len ∧
        (∃ p, mapGet t.me.descs d = some p ∧ p.streams = [bs]) ∧
        (bankOf (offOf b.dst) < 3 → bs = [] → (t.lineAt (keyOf b.dst)).seq = o.tag) ∧ ∀ z, t.me.rg z = k.rg z) ∧
    (s.hand.arg.ix = d + 1 → mapGet k.descs d = some o → o.err = none → ∃ t, exec .copyComplete s = .next t ∧
      mapGet t.me.descs d = none ∧ (∀ e, e ≠ d → mapGet t.me.descs e = mapGet k.descs e) ∧ t.me.flags = k.flags ||| o.flags ∧
      (mapGetD t.me.groups o.group ⟨0, none⟩).count = (mapGetD k.groups o.group ⟨0, none⟩).count - 1 ∧
      (∀ i, o.slot = some i → t.me.slot i = k.slot i - 1) ∧ s.SameMem t ∧ ∀ z, t.me.rg z = k.rg z) ∧
    (s.hand.msg = some (.vector src ix q x) → (k.recvQ q).vecs.length < 16 → ∃ t, exec .receiveQueuePush s = .next t ∧
      (t.me.recvQ q).vecs = (k.recvQ q).vecs ++ [x] ∧ (∀ j, j ≠ q → t.me.recvQ j = k.recvQ j) ∧ s.SameMem t ∧
      ∀ z, t.me.rg z = k.rg z) ∧
    (s.hand.msg = some (.vector src ix q x) → 16 ≤ (k.recvQ q).vecs.length → ∃ t, exec .receiveQueuePush s = .next t ∧
      t.cores = s.cores ∧ t.mem = s.mem ∧ (⟨s.clk + 1, src, c, .vector src ix q x⟩ : Msg) ∈ t.msgs)

/-! ## The P column -/

/-- R404, R405, R406, R408, R418, R420: FITSET and FITSET.CLR write FITNESS in the next vc; FITGET, WBASE and LINRD complete
in the next clk with the rank, sampled fitness or state of a member, the address of a copy, a lineage, the generation and the
record count, and all ones for what is no member. -/
def Statements.IndividualReads : Prop :=
  ∀ (s : State) (gd ga : GReg) (gc : Option GReg) (p : GImm) (c key : Nat) (r : Population), s.Runs → s.me.ownBusy = false →
    let k := s.me
    let ones : Word := BitVec.ofNat 64 (2 ^ 64 - 1)
    let answers (i : Instr) (v : Word) : Prop := ∃ t, exec i s = .next t ∧
      s.Starts t (.status gd v false) (some (s.clk + 1)) ∧ s.Kept t
    let w := (k.cv 0x012).toNat
    exec (.fitset ga) s = .next (s.issue colP 1 1 0 [.fit (BitVec.ofNat 64 ((k.rgv ga).toNat % 2 ^ 32))]) ∧
    exec .fitsetClr s = .next (s.issue colP 1 1 0 [.fit 0xFF800001]) ∧
    (s.memberOf gc = none → answers (.fitgetRank gd gc) ones ∧ answers (.fitgetSamp gd gc) 0xFF800001 ∧
      answers (.fitgetState gd gc) ones) ∧
    (s.memberOf gc = some c →
      answers (.fitgetRank gd gc) (((s.core c).rank).elim ones (BitVec.ofNat 64)) ∧
      answers (.fitgetSamp gd gc) (((s.core c).samp).elim 0xFF800001 (BitVec.ofNat 64)) ∧
      answers (.fitgetState gd gc) (BitVec.ofNat 64 ((s.core c).copySt.code * 16 + (s.core c).eval.code))) ∧
    (k.configured = true → answers (.wbase gd ga) (k.rgv ga + BitVec.ofNat 64 (fld w 18 18 * fld w 60 1)) ∧
      answers (.wbaseInact gd ga) (k.rgv ga + BitVec.ofNat 64 (fld w 18 18 * (1 - fld w 60 1)))) ∧
    (k.configured = false → answers (.wbase gd ga) (k.rgv ga) ∧ answers (.wbaseInact gd ga) (k.rgv ga)) ∧
    answers (.linrdId gd none) (k.cv 0x011) ∧
    (∀ g n, n = (k.rgv g).toNat → answers (.linrdId gd (some g))
      (if dieOf n = dieOf s.hand.core ∧ (s.core n).ctx = k.ctx ∧ (s.popMine n).isSome = true then (s.core n).cv 0x011 else 0)) ∧
    answers (.linrdPend gd) (if k.copySt = .swapPending then k.pendId else 0) ∧
    ((k.gimm p).toNat < 16 → s.popOf s.hand.core (k.gimm p).toNat = some (key, r) → s.popLaunch r = k.launch →
      answers (.linrdGen gd p) (BitVec.ofNat 64 r.gen) ∧ answers (.linrdCnt gd p) (BitVec.ofNat 64 r.rcount)) ∧
    ((k.gimm p).toNat < 16 → s.popOf s.hand.core (k.gimm p).toNat = some (key, r) → s.popLaunch r ≠ k.launch →
      answers (.linrdGen gd p) 2 ∧ answers (.linrdCnt gd p) 2) ∧
    (15 < (k.gimm p).toNat ∨ s.popOf s.hand.core (k.gimm p).toNat = none →
      answers (.linrdGen gd p) ones ∧ answers (.linrdCnt gd p) ones)

/-- R411, R412, R413, R415: RANK, PWAIT, POPSTEP and PSEED of a population that their core's launch group may use: RANK
samples and orders the members now, best first and equal ones as they stand, and completes 8 + n clk later; POPSTEP claims
the losers; PWAIT lasts until every member is scored; PSEED sets the seed; a number that names no such population is status 2. -/
def Statements.SelectionStarts : Prop :=
  ∀ (s : State) (gd gs : GReg) (p : GImm) (key : Nat) (r : Population), s.Runs →
    let answers (i : Instr) (lat : Nat) (v : Word) (r' : Option Population) : Prop := ∃ t, exec i s = .next t ∧
      s.Starts t (.status gd v false) (some (s.clk + lat)) ∧ s.Kept t ∧ mapGet t.pops key = r'
    let n := r.members.length
    (s.popUse p = none → s.ent.block = none →
      answers (.rank gd p) 8 2 (mapGet s.pops key) ∧ answers (.popstep gd p) 1 2 (mapGet s.pops key) ∧
      answers (.pwait gd p) 1 2 (mapGet s.pops key) ∧ answers (.pseed gd p gs) 1 2 (mapGet s.pops key)) ∧
    (s.popUse p = some (key, r) →
      (r.op = none → r.k ≤ n / 2 → ∃ t o, exec (.rank gd p) s = .next t ∧ s.Starts t (.draft gd) none ∧
        (∃ r', mapGet t.pops key = some r' ∧ r'.op = some o ∧ r'.winners = r.winners ∧ r'.losers = r.losers) ∧
        o.step = false ∧ o.due = s.clk + 8 + n ∧ o.core = s.hand.core ∧
        List.Perm o.order (r.members.map (fun c => (c, (s.core c).fitSample.1))) ∧
        o.order.Pairwise (fun a b => fitBefore b.2 a.2 = false) ∧ s.Kept t) ∧
      (r.op = none → n / 2 < r.k → answers (.rank gd p) (8 + n) 3 (some r)) ∧
      (r.op.isSome = true → answers (.rank gd p) (8 + n) 1 (some r) ∧
        answers (.popstep gd p) 1 1 (some r)) ∧
      (s.ent.block = none → ∃ t, exec (.pwait gd p) s = .next t ∧ s.Starts t (.pwait gd key) (some (s.clk + 1)) ∧ s.Kept t ∧
        t.me.waiting = true) ∧
      (s.ent.block.isSome = true → exec (.pwait gd p) s = .next (s.trap causeILLEGAL 0 0)) ∧
      (r.op = none → answers (.pseed gd p gs) 1 0 (some { r with seed := (s.me.rgv gs).toNat })) ∧
      (r.op = none → r.fresh = true → r.k ≤ n / 2 → r.winners.length = r.losers.length → r.losers.Nodup →
        (∀ q, q ∈ r.winners.zip r.losers → wLay (s.core q.1).wact = wLay (s.core q.2).wact ∧
          wLen (s.core q.1).wact = wLen (s.core q.2).wact ∧ wBlocks (s.core q.1).wact = wBlocks (s.core q.2).wact) →
        (∀ l, l ∈ r.losers → (s.core l).copySt = .none ∧ l < 8192) → ∃ t o, exec (.popstep gd p) s = .next t ∧
          s.Starts t (.draft gd) none ∧ (∀ l, l ∈ r.losers → (t.core l).copySt = .overwriting) ∧
          (∃ r', mapGet t.pops key = some r' ∧ r'.op = some o) ∧ o.step = true ∧ o.gen = (r.gen + 1) % 2 ^ 31 ∧ s.SameMem t) ∧
      (r.op = none → r.fresh = false → answers (.popstep gd p) 1 3 (some r)))

/-- R411, R412: RANK_COMPLETE gives every member its place and its sampled fitness, lists the first K as winners and the last
K as losers, the worst first, and sets FRESH; PWAIT_COMPLETE ends the wait with status 0. -/
def Statements.SelectionEvents : Prop :=
  ∀ (s : State) (r : Population) (o : DraftOp) (i : Nat) (x : Nat × Nat) (a : AsyncOp),
    let key := s.hand.arg.ix
    let n := o.order.length
    (mapGet s.pops key = some r → r.op = some o → o.order[i]? = some x → (o.order.map (·.1)).Nodup → (∀ y, y ∈ o.order → y.1 < 8192) →
      ∃ t r', exec .rankComplete s = .next t ∧ mapGet t.pops key = some r' ∧ r'.op = none ∧ r'.fresh = true ∧
        r'.winners = (o.order.map (·.1)).take r.k ∧ r'.losers = (o.order.map (·.1)).reverse.take r.k ∧
        (t.core x.1).rank = some i ∧ (t.core x.1).samp = some x.2 ∧
        ((s.core x.1).configured = true → (t.core x.1).eval =
          (if i < r.k then .winner else if n ≤ i + r.k then .loser else .ranked)) ∧ s.SameMem t) ∧
    (s.hand.core < 8192 → s.asyncFrozen s.hand.core = false → a ∈ s.me.ops → a.id = s.hand.arg.ix →
      (∀ b, b ∈ s.me.ops → b.id = a.id → b = a) → ∃ t, exec .pwaitComplete s = .next t ∧
        (⟨s.me.vcc, a.serial, .g (s.me.opReg a.id) ⟨0, 0, false⟩, none, false⟩ : Landing) ∈ t.me.landings ∧
        t.me.waiting = false ∧ a ∉ t.me.ops ∧ s.SameMem t ∧ ∀ z, t.me.rg z = s.me.rg z)

/-- R417, R419: WSWAP switches to the copy that is pending and takes its lineage; WSWAP.ANY also switches where no copy is
under way; either waits while one is written; MIGR asks its target and holds its own copy meanwhile. -/
def Statements.SwitchAndMigrate : Prop :=
  ∀ (s : State) (gd gt : GReg), s.Runs → s.hand.core < 8192 → s.me.configured = true → s.stepElsewhere s.hand.core = false →
    let k := s.me
    let tgt := (k.rgv gt).toNat
    let swapped (i : Instr) (lin : Word) : Prop := ∃ t, exec i s = .next t ∧
      s.Starts t (.status gd 0 true) (some (s.clk + 1)) ∧ t.me.eval = .loaded ∧ t.me.copySt = .none ∧
      fld (t.me.cv 0x012).toNat 60 1 = 1 - fld (k.cv 0x012).toNat 60 1 ∧
      fld (t.me.cv 0x012).toNat 0 60 = fld (k.cv 0x012).toNat 0 60 ∧ t.me.cv 0x010 = 0xFF800001 ∧ t.me.cv 0x011 = lin ∧
      (∀ z, t.me.rg z = k.rg z) ∧ s.SameMem t
    let answers (i : Instr) (v : Word) : Prop := ∃ t, exec i s = .next t ∧
      s.Starts t (.status gd v true) (some (s.clk + 1)) ∧ s.Kept t
    (k.copySt = .swapPending → swapped (.wswap gd) k.pendId ∧ swapped (.wswapAny gd) k.pendId) ∧
    (k.copySt = .none → answers (.wswap gd) 3 ∧ swapped (.wswapAny gd) (k.cv 0x011)) ∧
    (k.copySt = .migratingOut → answers (.wswap gd) 1 ∧ answers (.wswapAny gd) 1) ∧
    (k.copySt = .overwriting ∨ k.copySt = .migratingIn →
      (∃ t, exec (.wswap gd) s = .next t ∧ s.Starts t (.wswap gd false) none ∧ s.Kept t) ∧
      ∃ t, exec (.wswapAny gd) s = .next t ∧ s.Starts t (.wswap gd true) none ∧ s.Kept t) ∧
    (fld tgt 33 31 ≠ 0 → answers (.migr gd gt) 2) ∧
    (fld tgt 33 31 = 0 → k.copySt ≠ .none → answers (.migr gd gt) 1) ∧
    (fld tgt 33 31 = 0 → k.copySt = .none → ∃ t, exec (.migr gd gt) s = .next t ∧ s.Starts t (.migr gd) none ∧ s.Kept t ∧
      t.me.copySt = .migratingOut ∧
      (fld tgt 0 20 = s.isl.coord → coreExists (fld tgt 20 13) = true → fld tgt 20 13 < 4144 →
        ∃ m, m ∈ t.msgs ∧ m.dst = fld tgt 20 13 ∧ m.body = .migr s.hand.core k.opId (k.cv 0x012) (k.cv 0x011) none))

/-- R413, R416, R417, R419: the events of the draft unit: a pair of POPSTEP that has been written leaves its loser ready to
switch, and the last one ends the operation with the next generation; a request to migrate is refused, or begins a copy into
the target's other half; the copy's end makes the target ready to switch; the reply releases the source. -/
def Statements.DraftEvents : Prop :=
  ∀ (s : State) (r : Population) (o : DraftOp) (w l asker id st : Nat) (x : Incoming) (wact lin : Word) (a : AsyncOp),
    let key := s.hand.arg.ix
    let k := s.me
    (mapGet s.pops key = some r → r.op = some o → r.winners = [w] → r.losers = [l] → o.pair = 0 → l < 8192 → r.members = [w, l] →
      (s.core l).incoming = some x → x.op.err = none → r.rlog = 0 → (s.core l).configured = true → w ≠ l → (s.core l).ops = [] →
      ∃ t r', exec .popstepPairDone s = .next t ∧ (t.core l).copySt = .swapPending ∧ (t.core l).pendId = x.child ∧
        (t.core l).incoming = none ∧ (t.core l).eval = .loaded ∧ mapGet t.pops key = some r' ∧ r'.op = none ∧ r'.fresh = false ∧
        r'.gen = o.gen ∧ s.SameMem t) ∧
    (s.hand.msg = some (.migr asker id wact lin none) → asker < 8192 → s.hand.core < 8192 → s.gate s.hand.core asker = 0 →
      (k.copySt ≠ .none → ∃ t, exec .migrArrival s = .next t ∧ s.Kept t ∧
        ∃ m, m ∈ t.msgs ∧ m.dst = asker ∧ (m.body = .migrReply id 2 0 ∨ m.body = .migrReply id 4 0)) ∧
      (∀ y, k.ctx = some y → (s.ctx y).st = .running → k.configured = true → wAccept k.wact = true → wLay k.wact = wLay wact.toNat →
        wLen k.wact = wLen wact.toNat → wBlocks k.wact = wBlocks wact.toNat → k.copySt = .none → ∃ t q, exec .migrArrival s = .next t ∧
          s.Kept t ∧ t.me.copySt = .migratingIn ∧ t.me.incoming = some q ∧ q.asker = asker ∧ q.id = id ∧ q.child = lin ∧
          q.op.srcs = [⟨s.phys (coreKey asker (copyAt wact.toNat (wAct wact.toNat))), none, wLen k.wact, false, 0⟩] ∧
          q.op.streams = [beatsOf q.op.srcs
            [⟨s.phys (coreKey s.hand.core (copyAt k.wact (1 - wAct k.wact))), none, wLen k.wact, false, 0⟩] 0])) ∧
    (k.incoming = some x → x.op.err = none → s.hand.core < 8192 → k.ops = [] → x.asker < 8192 → ∃ t, exec .migrCopyDone s = .next t ∧
      t.me.copySt = .swapPending ∧ t.me.pendId = x.child ∧ t.me.incoming = none ∧ s.Kept t ∧
      ∃ m, m ∈ t.msgs ∧ m.dst = x.asker ∧ m.body = .migrReply x.id 0 0) ∧
    (s.hand.msg = some (.migrReply id st 0) → st ≠ 5 → s.hand.core < 8192 → s.asyncFrozen s.hand.core = false → a ∈ k.ops → a.id = id →
      (∀ b, b ∈ k.ops → b.id = id → b = a) → k.copySt = .migratingOut → ∃ t, exec .migrReply s = .next t ∧ t.me.copySt = .none ∧
        a ∉ t.me.ops ∧ (⟨k.vcc, a.serial, .g (k.opReg id) ⟨BitVec.ofNat 64 st, 0, false⟩, none, false⟩ : Landing) ∈ t.me.landings ∧
        s.SameMem t ∧ ∀ z, t.me.rg z = k.rg z)

/-- R403, R409: PCFG.IND makes its core's individual a member of a population, PCFG.RET takes it out, and PCFG.POP makes a
population of a descriptor in the core's own memory; a bad operand is a trap. -/
def Statements.PopulationConfiguration : Prop :=
  ∀ (s u : State) (gd ga : GReg) (m : MemOp) (key : Nat) (r : Population) (d : List Byte), s.Runs → s.hand.core < 8192 →
    s.me.ownBusy = false →
    let c := s.hand.core
    let k := s.me
    let v := (k.rgv ga).toNat
    let x := k.memAddr m 32
    let f (a n : Nat) : Nat := leNat ((d.drop a).take n)
    let answers (t : State) (st : Word) : Prop := s.Starts t (.status gd st true) (some (s.clk + 1)) ∧ (∀ z, t.me.rg z = k.rg z) ∧ s.SameMem t
    (fld v 60 4 ≠ 0 ∨ indBad c v = true → exec (.pcfgInd gd ga) s = .next (s.trap causeBOUNDS v (capInfo 4 ga))) ∧
    (fld v 60 4 = 0 → indBad c v = false → s.popOf c (fld v 40 4) = some (key, r) → r.op = none → k.configured = false →
      (r.members = [] ∨ s.popLaunch r = k.launch) → ∃ t r', exec (.pcfgInd gd ga) s = .next t ∧ answers t 0 ∧
        mapGet t.pops key = some r' ∧ r'.members = setAdd r.members c ∧ t.me.eval = .loaded ∧ t.me.cv 0x012 = BitVec.ofNat 64 v ∧
        t.me.cv 0x010 = 0xFF800001 ∧ t.me.cv 0x011 = lineageId s.isl.coord c r.gen) ∧
    (s.popMine c = some (key, r) → k.configured = true → k.copySt = .none → r.op = none → ∃ t r', exec (.pcfgRet gd) s = .next t ∧
      answers t 0 ∧ mapGet t.pops key = some r' ∧ r'.members = setDel r.members c ∧ t.me.eval = .retired) ∧
    (s.popMine c = none → ∃ t, exec (.pcfgRet gd) s = .next t ∧ answers t 2) ∧
    (s.readOwnAt m.g 4 x 32 8 = .ok (u, 0, d) → s.OnlyTlb u →
      popDescBad d = false → f 10 1 = 0 → u.popOf c (f 0 1) = none → ∃ t r', exec (.pcfgPop gd m) s = .next t ∧ answers t 0 ∧
        mapGet t.pops (popKey (k.ctx.getD 0) (dieOf c) (f 0 1)) = some r' ∧ r'.k = f 2 2 ∧ r'.sigma = f 4 4 ∧ r'.thresh = f 8 2 ∧
        r'.gen = f 24 4 ∧ r'.members = [] ∧ r'.op = none ∧ r'.fresh = false ∧
        (m.post = true → s.Lands t 1 (.g m.g ((k.rg m.g).inc (m.count * 32))))) ∧
    (s.readOwnAt m.g 4 x 32 8 = .ok (u, 0, d) → popDescBad d = true →
      exec (.pcfgPop gd m) s = .next (u.trap causeBOUNDS x (capInfo 4 m.g)))

/-! ## Units, counters and queues -/

/-- R384, R395, R396, R398, R399, R400: the counter and queue instructions of a core whose older stores have been answered:
each starts its operation, or waits until its counter's condition holds or its queue has an item; a bad counter, value or
queue is a trap. -/
def Statements.CountersAndQueues : Prop :=
  ∀ (s u w : State) (gd ga gb : GReg) (b : GImm) (dk : DReg) (qd : QReg) (m : MemOp) (h bytes item : List Byte) (a : Nat),
    s.Runs →
    let k := s.me
    let id := (k.rgv ga).toNat
    let v := k.gimm b
    let x := k.ctx.getD 0
    let holds (ge : Bool) : Prop := if ge then v.toInt ≤ s.counter x id else s.counter x id ≤ v.toInt
    let perm (r : GReg) (f : Nat) : State := s.trap causePERM (k.rgv r).toNat (capInfo f r)
    let q := (k.rgv gb).toNat
    (counterOk id = true → (fld id 13 3 = 5 ∨ (fld id 13 3 = 6 ∧ 0 < v.toNat ∧ v.toNat ≤ 4095)) → k.released s.ent.serial = true →
      ∃ t due, exec (.cntadd ga b) s = .next t ∧ s.clk < due ∧ s.Begins t (.cntadd id v) (some due)) ∧
    (counterOk id = true → fld id 13 3 = 6 → (v.toNat = 0 ∨ 4095 < v.toNat) →
      exec (.cntadd ga b) s = .next (s.trap causeBOUNDS id (capInfo 4 ga))) ∧
    ((counterOk id = false ∨ fld id 13 3 < 5) → exec (.cntadd ga b) s = .next (perm ga 4)) ∧
    (counterOk id = false → exec (.cntwtLeA dk ga b) s = .next (perm ga 4) ∧ exec (.cntwtGeA dk ga b) s = .next (perm ga 4) ∧
      exec (.cancel ga) s = .next (perm ga 4)) ∧
    (counterOk id = true → s.ent.block = none →
      (holds false → exec (.cntwtLe ga b) s = .next ((s.modMe Core.acquire).sDone [])) ∧
      (holds true → exec (.cntwtGe ga b) s = .next ((s.modMe Core.acquire).sDone [])) ∧
      (¬ holds false → ∃ t, exec (.cntwtLe ga b) s = .next t ∧ s.Waits t ∧ t.me.waiting = true) ∧
      (¬ holds true → ∃ t, exec (.cntwtGe ga b) s = .next t ∧ s.Waits t ∧ t.me.waiting = true)) ∧
    (counterOk id = true → ∀ ge, ∃ t o, exec (if ge = true then .cntwtGeA dk ga b else .cntwtLeA dk ga b) s = .next t ∧
      o ∈ t.me.ops ∧ o.kind = .cntwt id v.toInt ge ∧ o.slot = some dk ∧ o.due = some (s.clk + 1) ∧
      t.me.slot dk = k.slot dk + 1 ∧ s.GoesOn t) ∧
    (counterOk id = true → s.cancelTargets x id = ([], [], []) → ∃ t, exec (.cancel ga) s = .next t ∧
      s.Begins t (.cancel [] [] []) (some (s.clk + 1))) ∧
    (s.queueOk q 1 (some 1) none = true → k.released s.ent.serial = true → ∃ t due, exec (.qpush qd gb ga) s = .next t ∧
      s.clk < due ∧ s.Begins t (.qpush q (k.rgv ga) qd) (some due)) ∧
    (s.queueOk q 1 (some 1) none = false → exec (.qpush qd gb ga) s = .next (perm gb 4)) ∧
    (s.queueOk q 1 none (some 0) = false → s.ent.block = none →
      exec (.qpop gd gb) s = .next (perm gb 4) ∧ exec (.qpopNb gd gb qd) s = .next (perm gb 4)) ∧
    (s.queueOk q 1 none (some 0) = true → s.ent.block = none →
      ((s.queue q).hasItem = false → (∃ t, exec (.qpop gd gb) s = .next t ∧ s.Waits t ∧ t.me.waiting = true) ∧
        ∃ t due, exec (.qpopNb gd gb qd) s = .next t ∧ s.clk < due ∧ s.Begins t (.writeGQ gd ⟨0, 0, false⟩ qd false) (some due)) ∧
      ((s.queue q).hasItem = true → s.ringAddr q (s.queue q).cons = some a → s.devFetch a 8 = .here item →
        (∃ t, exec (.qpop gd gb) s = .next t ∧ (t.queue q).cons = ((s.queue q).cons + 8) % 2 ^ 32 ∧
          s.Lands t 1 (.g gd ⟨BitVec.ofNat 64 (leNat item), 0, false⟩) ∧ s.GoesOn t) ∧
        ∃ t due, exec (.qpopNb gd gb qd) s = .next t ∧ s.clk < due ∧
          (t.queue q).cons = ((s.queue q).cons + 8) % 2 ^ 32 ∧
          s.Begins t (.writeGQ gd ⟨BitVec.ofNat 64 (leNat item), 0, false⟩ qd true) (some due))) ∧
    (s.queueOk q 0 (some 1) none = true → k.released s.ent.serial = true → m.post = false →
      s.readOwnAt m.g 4 (k.memAddr m 8) 8 0 = .ok (u, 0, h) → s.OnlyTlb u → headBad (leNat h) = false →
      u.readOwnAt m.g 4 (k.memAddr m 8) (pkLen (leNat h)) 0 = .ok (w, 0, bytes) → u.OnlyTlb w →
      ∃ t due, exec (.tsub gd m gb) s = .next t ∧ s.clk < due ∧ s.Begins t (.tsub q bytes gd false) (some due)) ∧
    (s.queueOk q 0 (some 1) none = false → exec (.tsub gd m gb) s = .next (perm gb 5))

/-- R386, R397: TNEXT of a unit without a job card gives 0; with one, it asks the dealer and waits; the dealer hands out the
next chunk of the card; TDONE and the next TNEXT count the chunk that the unit held. -/
def Statements.JobCards : Prop :=
  ∀ (s : State) (gd : GReg) (l : Launch) (f n : Nat),
    let k := s.me
    (s.Runs → s.ent.block = none → (∀ y, s.launch k.launch = some y → y.card = none) → ∃ t, exec (.tnext gd) s = .next t ∧
      s.Finished t [.g gd ⟨0, 0, false⟩]) ∧
    (s.Runs → s.ent.block = none → s.launch k.launch = some l → l.card.isSome = true → s.dealing s.hand.core = false →
      ∃ t m, exec (.tnext gd) s = .next t ∧ s.Waits t ∧ t.me.waiting = true ∧ m ∈ t.msgs ∧ m.src = s.hand.core ∧ m.body = .deal ∧
        t.me.chunk = none) ∧
    (s.Runs → k.chunk = some (f, n) → s.launch k.launch = some l → ∃ t, exec .tdone s = .next t ∧ t.me.chunk = none ∧
      (t.launch k.launch).map Launch.doneRecs = some (l.doneRecs + n) ∧ s.GoesOn t) ∧
    (s.Runs → k.chunk = none → ∃ t, exec .tdone s = .next t ∧ s.Finished t []) ∧
    (s.launch k.launch = some l → ∃ t m, exec .dealRequest s = .next t ∧ m ∈ t.msgs ∧ m.dst = s.hand.core ∧
      m.body = .dealt l.dealt l.nextChunk ∧ (t.launch k.launch).map Launch.dealt = some (l.dealt + l.nextChunk) ∧
      t.cores = s.cores ∧ t.mem = s.mem) ∧
    (l.dealt < l.count → 0 < l.units → 0 < l.nextChunk ∧ l.dealt + l.nextChunk ≤ l.count ∧
      (l.count - l.dealt ≤ 2 * l.units * l.nextChunk))

/-! ## Translation and the handle table -/

/-- R324 to R329: TLBINV takes every entry over its range out of its core's buffers and begins an invalidation, TLBINV.DROP
takes out its parked stores, PGHINT.UNLOCK its locks; PGHINT.T and PGHINT.LOCK start their walks; PGHINT.CLRW clears WRITTEN;
HNDL.LEN and HNDL.BASE read an entry, and HNDL.SET and HNDL.CLR start its replacement; the forms of the supervisor are PRIV
at user level. -/
def Statements.TranslationControl : Prop :=
  ∀ (s u : State) (gd ga gb : GReg) (b : GImm) (x p w : Nat) (ps : List CPiece), s.Runs →
    let k := s.me
    let a := (k.rgv ga).toNat
    let n := (k.gimm b).toNat
    let lo := if n = 0 then 0 else a / 65536 * 65536
    let hi := if n = 0 then 0 else (a + n + 65535) / 65536 * 65536
    let gone (l h : Nat) (t : List (Nat × TlbEntry)) : Prop := ∀ e, e ∈ t → ¬ (e.2.va < h ∧ l < e.2.va + e.2.size)
    let invalidates (i : Instr) (l h : Nat) : Prop := ∃ t v, exec i s = .next t ∧ s.Begins t .inval none ∧ gone l h t.me.tlb ∧
      gone l h t.me.pipeTlb ∧ v ∈ (t.ctx x).invals ∧ v.lo = l ∧ v.hi = h ∧ v.host = false ∧ v.core = s.hand.core ∧ v.op = k.opId
    let hints (i : Instr) (lock : Bool) : Prop := s.NoErrors → ∃ t due, exec i s = .next t ∧ s.clk < due ∧ s.Begins t .hint (some due) ∧
      (p < hi → (∃ j, j < 8 ∧ p = lo + 65536 * j) → (∃ y, s.walk x p = .ok y) →
        ∃ o, o ∈ t.me.ops ∧ o.kind = .walk p lock false)
    let id := fld (k.rgv ga).toNat 48 16
    let entry (len : Bool) : Word := if (s.handle x id).isSome then
      BitVec.ofNat 64 (if len then (s.handleWords x id).2 else (s.handleWords x id).1) else 0
    let priv (i : Instr) : Prop := exec i s = .next (s.trap causePRIV 0 0)
    let w2 := (k.rgv (Fin.ofNat 64 (gb.val + 1))).toNat
    k.ctx = some x →
    (k.priv = true → invalidates (.tlbinvVa ga b) lo hi ∧ invalidates .tlbinvAll 0 (2 ^ 64) ∧
      (∃ t, exec (.tlbinvDrop ga b) s = .next t ∧ s.Finished t [] ∧
        ∀ e, e ∈ t.me.replay ↔ e ∈ k.replay ∧ ¬ (lo ≤ e.va / 65536 * 65536 ∧ e.va / 65536 * 65536 < hi)) ∧
      (s.hand.stage = 0 → ∃ t, exec (.hndlBase gd ga) s = .next t ∧ s.Waits t) ∧
      (s.hand.stage ≠ 0 → ∃ t, exec (.hndlBase gd ga) s = .next t ∧ s.Finished t [.g gd ⟨entry false, 0, false⟩]) ∧
      (fld w2 40 1 = 0 ∨ (id < (s.ctx x).htCountEff.toNat ∧ s.handleRange (k.rgv gb).toNat (fld w2 0 40) = true) →
        ∃ t due, exec (.hndlSet ga gb) s = .next t ∧ s.clk < due ∧
          s.Begins t (.handle id (some (k.rgv gb, k.rgv (Fin.ofNat 64 (gb.val + 1))))) (some due)) ∧
      (fld w2 40 1 = 1 → (s.ctx x).htCountEff.toNat ≤ id ∨ s.handleRange (k.rgv gb).toNat (fld w2 0 40) = false →
        exec (.hndlSet ga gb) s = .next (s.trap causeBOUNDS (k.rgv ga).toNat (capInfo 4 ga))) ∧
      ∃ t due, exec (.hndlClr ga) s = .next t ∧ s.clk < due ∧ s.Begins t (.handle id none) (some due)) ∧
    (k.priv = false → priv (.tlbinvVa ga b) ∧ priv .tlbinvAll ∧ priv (.tlbinvDrop ga b) ∧ priv (.hndlBase gd ga) ∧
      priv (.hndlSet ga gb) ∧ priv (.hndlClr ga)) ∧
    (s.hand.stage = 0 → ∃ t, exec (.hndlLen gd ga) s = .next t ∧ s.Waits t) ∧
    (s.hand.stage ≠ 0 → ∃ t, exec (.hndlLen gd ga) s = .next t ∧ s.Finished t [.g gd ⟨entry true, 0, false⟩]) ∧
    hints (.pghintT ga b) false ∧ hints (.pghintLock ga b) true ∧
    (∃ t, exec .pghintUnlock s = .next t ∧ s.Finished t [] ∧ t.me.tlb.map (·.1) = k.tlb.map (·.1) ∧ ∀ e, e ∈ t.me.tlb → e.2.lock = false) ∧
    (s.rangeSide (k.rg ga) 4 ga a n 0 false true [pW] causePLOAD (clrwRefuses n) = .ok (u, w, ps) → s.OnlyTlb u →
      u.lockTrap true ps = none → (∀ q, q ∈ ps → s.isHere q.phys = true) → ∃ t due, exec (.pghintClrw ga b) s = .next t ∧
        s.clk < due ∧ s.Starts t .hint (some due) ∧ t.mem = s.mem ∧ t.tags = s.tags ∧ t.lines = s.lines ∧ (∀ z, t.me.rg z = k.rg z) ∧
        ∀ y, t.writtenAt y = (s.writtenAt y && !ps.any (fun q => (unitsOf 128 (keyOf q.phys) q.len).contains (y / 128))))

/-- R374: SNAP, with its area's handle and its barrier good: it is ILLEGAL in a timed block; it waits until the older
instructions have ended and then until its record is complete; then its core keeps the record's place and stands at the
barrier. -/
def Statements.SnapshotInstruction : Prop :=
  ∀ (s : State) (ga gb : GReg) (area ty : Nat), s.Runs →
    let k := s.me
    let c := s.hand.core
    let id := (k.rgv ga).toNat
    let h := k.rgv gb
    let size := (k.rgv (gb + 1)).toNat
    let key := s.barOf c id
    (k.block.isSome = true → exec (.snap ga gb) s = .next (s.trap causeILLEGAL 0 0)) ∧
    (k.block = none → s.barBad c id = false → 2 ≤ barKind id → s.handleSide (k.ctx.getD 0) h (2 * size) true = .ok (area, ty) →
      (size < 0x24000 + (s.rangeSection c).length → exec (.snap ga gb) s = .next (s.trap causeBOUNDS h.toNat (capInfo 5 gb))) ∧
      (0x24000 + (s.rangeSection c).length ≤ size →
        (k.snapReady s.ent.serial = false ∨ s.hand.stage = 0 → ∃ t, exec (.snap ga gb) s = .next t ∧ s.Waits t) ∧
        (k.snapReady s.ent.serial = true → s.hand.stage ≠ 0 → (s.bar key).st = .armed ∨ (s.bar key).st = .collecting →
          (s.savedRanges c = []) → ∃ t w, exec (.snap ga gb) s = .next t ∧ t.me.snapAt.head? = some (key, ((s.bar key).episode, (area, size))) ∧
            (t.bar key).waiters.contains w = true ∧ w = ⟨c, (s.bar key).episode⟩ ∧ t.me.held.isSome = true ∧ ∀ z, t.me.rg z = k.rg z)))

/-! ## The core's own events -/

/-- R29, R33, R34, R41, R42, R48, R51, R65, R75: a result that is due takes its place, g0 and q15 keeping theirs, and frees its
slot; an operation that completes sets its flags and frees its slot, and its result is then due; the oldest instruction that is
done and that the umpire does not hold back (R49) commits, its flags with it; a refresh holds a result of its bank back one vc; an expired register holds the absent code; the head of a queue
issues; a sleep ends. -/
def Obligations.CoreEvents : Prop :=
  ∀ (s : State) (l : Landing) (r : GReg) (q : QReg) (vr : VReg) (x : VVal) (v : GVal) (b : Bool) (w : Word) (bytes : List Byte)
      (o : AsyncOp) (i : Rob) (rs : List Rob) (e : QEntry) (h : Held) (id y key : Nat),
    let k := s.me
    let slots (t : State) (d0 : Option DReg) : Prop := ∀ d, t.me.slot d = if d0 = some d then k.slot d - 1 else k.slot d
    let landed (t : State) : Prop := t.me.landings = k.landings.erase l ∧ slots t l.slot ∧ s.SameMem t
    (s.hand.arg.ix = 0 → k.nextLanding = some l →
      (l.wr = .g r v → ∃ t, exec .resultLands s = .next t ∧ landed t ∧
        (∀ z, t.me.rg z = if z = r ∧ z ≠ 0 then v else k.rg z) ∧ t.me.q = k.q ∧ t.me.v = k.v ∧ t.me.cr = k.cr) ∧
      (l.wr = .q q b → ∃ t, exec .resultLands s = .next t ∧ landed t ∧
        (∀ z, t.me.rq z = if z = q ∧ z ≠ 15 then b else k.rq z) ∧ t.me.g = k.g ∧ t.me.v = k.v ∧ t.me.cr = k.cr) ∧
      (l.wr = .vPut vr x → ∃ t, exec .resultLands s = .next t ∧ landed t ∧
        (∀ z, t.me.vraw z = if z = vr then x else k.vraw z) ∧ t.me.g = k.g ∧ t.me.q = k.q ∧ t.me.cr = k.cr)) ∧
    (s.hand.arg.ix = 1 → k.nextStore = some l → l.wr = .st key bytes none false → s.owners = [] →
      ∃ t, exec .resultLands s = .next t ∧ memRead t.mem key bytes.length = bytes ∧ s.SameOutside t key bytes.length ∧
        t.me.landings = k.landings.erase l ∧ slots t l.slot ∧ (∀ z, t.me.rg z = k.rg z) ∧ t.me.cr = k.cr) ∧
    (s.hand.msg = none → k.ops.find? (fun a => a.id == s.hand.arg.ix) = some o →
      let done (t : State) (wr : Wr) : Prop := t.me.ops = k.ops.filter (fun a => a.id != o.id) ∧ t.me.flags = k.flags ||| o.flags ∧
        slots t o.slot ∧ (∀ z, t.me.rg z = k.rg z) ∧ (∀ z, t.me.rq z = k.rq z) ∧ t.mem = s.mem ∧
        (wr ≠ .none → (⟨k.vcc, o.serial, wr, none, false⟩ : Landing) ∈ t.me.landings)
      ((∃ own, o.kind = .status r w own) → ∃ t, exec .operationComplete s = .next t ∧ done t (.g r ⟨w, 0, false⟩)) ∧
      (o.kind = .writeG r v → ∃ t, exec .operationComplete s = .next t ∧ done t (.g r v)) ∧
      (o.kind = .writeQ q b → ∃ t, exec .operationComplete s = .next t ∧ done t (.q q b)) ∧
      (o.kind = .atomic r v b → ∃ t, exec .operationComplete s = .next t ∧ done t (.g r v)) ∧
      (o.kind = .cntadd id w → fld id 13 3 = 5 → k.ctx = some y → ∃ t, exec .operationComplete s = .next t ∧ done t .none ∧
        ∀ j, mapGetD (t.ctx y).events j 0 = mapGetD (s.ctx y).events j 0 + (if j = fld id 0 13 then w else 0)) ∧
      (o.kind = .qpush id w q → (s.queue id).running = false ∨ (s.queue id).room < 8 →
        ∃ t, exec .operationComplete s = .next t ∧ done t (.q q false))) ∧
    (s.hand.arg.a = 0 → k.rob = i :: rs → k.committable s.clk = true → ∃ t, exec .instructionCommit s = .next t ∧ t.me.rob = rs ∧
      t.me.flags = (k.flags ^^^ (k.flags &&& (if k.flagsSet.1 = s.clk then i.clear ^^^ (i.clear &&& k.flagsSet.2) else i.clear))) ||| i.flags ∧
      t.me.g = k.g ∧ t.me.q = k.q ∧ t.me.v = k.v ∧ t.me.pc = k.pc ∧ s.SameMem t ∧
      (i.phase = true → (∀ a, a ∈ k.wlog → a.isSeq = false) → i.region = none →
        t.me.cv 0x013 = if k.cf 0x013 16 1 = 1 then seqAdvance (k.cv 0x013) else k.cv 0x013) ∧
      (i.phase = false → i.region = none → t.me.cr = k.cr)) ∧
    (∃ t, exec .vrfRefresh s = .next t ∧ t.me.refreshed = k.vcc + 1 ∧ t.me.landings.length = k.landings.length ∧ s.Kept t ∧
      (∀ a, a ∈ t.me.landings → ∀ z f c d p n, a.wr = .v z f c d p n → a.due = k.vcc → k.refreshing z = false)) ∧
    (∃ t, exec .shortLivedExpiry s = .next t ∧ s.SameMem t ∧ t.me.g = k.g ∧ t.me.q = k.q ∧
      ∀ z, t.me.vraw z = if k.vExpired z = true then { k.vraw z with bits := absentBits (k.vraw z).fmt } else k.vraw z) ∧
    (k.issuable s.hand.arg.ix = some e → ∃ t, exec .columnIssue s = .next t ∧ t.hand.entry = e ∧ t.hand.core = s.hand.core ∧
      t.me.queueOf s.hand.arg.ix = (k.queueOf s.hand.arg.ix).drop 1 ∧ s.Kept t) ∧
    (k.held = some h → ∃ t, exec .sleepEnd s = .next t ∧ t.me.held = none ∧ t.me.pc = (k.advance h.entry.pc).pc ∧
      t.me.seqAt = (k.advance h.entry.pc).seqAt ∧ s.SameMem t ∧ (k.withLoops t.me.loops).SameRegs t.me)

/-- R314, R321, R313, R324: a walk that has ended fills its core's buffer with its leaf; an invalidation of the host begins
when none is under way, BUSY then reads 1, and is over when the walks and operations of its context that it found are: the
registers of its kind take effect. -/
def Statements.TranslationEvents : Prop :=
  ∀ (s : State) (o : AsyncOp) (va leaf size x : Nat) (lock pipe : Bool) (v : Inval),
    let k := s.me
    let n := s.hand.arg.ix
    let c := s.ctx n
    (k.ops.find? (fun a => a.id == n) = some o → o.kind = .walk va lock pipe → k.ctx = some x →
      tlbFind (if pipe = true then k.pipeTlb else k.tlb) va = none → s.walk x va = .ok (leaf, size) →
      (tlbVictim (if pipe = true then k.pipeTlb else k.tlb) (if pipe = true then 8 else 32)).isSome = true →
      ∃ t p, exec .pageWalkComplete s = .next t ∧ t.me.ops = k.ops.filter (fun a => a.id != o.id) ∧ s.Kept t ∧
        p ∈ (if pipe = true then t.me.pipeTlb else t.me.tlb) ∧ p.2.va = va / size * size ∧ p.2.size = size ∧
        p.2.leaf = BitVec.ofNat 64 leaf ∧ p.2.lock = (lock && decide (k.locked < 8))) ∧
    (c.invBusy = false → (∃ t w, exec .invRange s = .next t ∧ w ∈ (t.ctx n).invals ∧ w.lo = c.invVa.toNat ∧
        w.hi = c.invVa.toNat + c.invLen.toNat ∧ w.kind = 1 ∧ w.host = true ∧ (t.ctx n).invBusy = true ∧ s.SameMem t) ∧
      (∃ t w, exec .invAll s = .next t ∧ w ∈ (t.ctx n).invals ∧ w.lo = 0 ∧ w.hi = 2 ^ 64 ∧ w.kind = 2 ∧ w.host = true ∧
        (t.ctx n).invBusy = true ∧ s.SameMem t) ∧
      ∃ t w, exec .invHandles s = .next t ∧ w ∈ (t.ctx n).invals ∧ w.kind = 3 ∧ w.host = true ∧ (t.ctx n).invBusy = true ∧
        t.cores = s.cores ∧ s.SameMem t) ∧
    (c.invBusy = true → exec .invRange s = .next s ∧ exec .invAll s = .next s ∧ exec .invHandles s = .next s) ∧
    (c.invals.find? s.invalReady = some v → v.host = true → ∃ t, exec .invalidationComplete s = .next t ∧
      (t.ctx n).invals = c.invals.erase v ∧ (t.ctx n).invBusy = false ∧
      (v.kind = 3 → (t.ctx n).htBaseEff = c.htBase ∧ (t.ctx n).htCountEff = c.htCount ∧ (t.ctx n).ptRootEff = c.ptRootEff) ∧
      (v.kind ≠ 3 → (t.ctx n).ptRootEff = c.ptRoot ∧ (t.ctx n).htBaseEff = c.htBaseEff ∧ (t.ctx n).htCountEff = c.htCountEff))

/-! ## Traps -/

/-- R287, R288, R290, R293: a precise trap of the one instruction in flight, with a handler and outside one: its cause, its PC
and the privilege before it are kept, the loop stack is put aside, and the core goes to its handler at S privilege two vc
later, every other register and memory as they were. -/
def Statements.TrapEntry : Prop :=
  ∀ (s : State) (r : Rob) (cause addr info : Nat),
    let k := s.me
    k.rob = [r] → r.serial = s.ent.serial → k.wlog = [] → k.vredq = none → k.gmma = none → k.active = false → k.cf 0x009 12 1 = 1 →
    fld k.region.flags 1 1 = 0 →
    ∃ t, s.trap cause addr info = t ∧ t.me.active = true ∧ t.me.cf 0x005 0 8 = cause % 256 ∧ t.me.cf 0x005 10 2 = 0 ∧
      t.me.cf 0x005 13 1 = 0 ∧ t.me.cf 0x005 14 1 = (if k.priv = true then 1 else 0) ∧ (t.me.cv 0x006).toNat = s.ent.pc % 4096 ∧
      t.me.cv 0x007 = BitVec.ofNat 64 addr ∧ t.me.cv 0x008 = BitVec.ofNat 64 info ∧ t.me.priv = true ∧ t.me.pc = k.cf 0x009 0 12 ∧
      t.me.seqAt = k.vcc + 3 ∧ t.me.loops = [] ∧ t.me.trapLoops = r.loops ∧ t.me.block = none ∧ t.me.rob = [] ∧
      (∀ n, n < 0x005 ∨ 0x008 < n → t.me.cv n = k.cv n) ∧ (∀ z, t.me.rg z = k.rg z) ∧ (∀ z, t.me.rq z = k.rq z) ∧
      (∀ z, t.me.vraw z = k.vraw z) ∧ (∀ z, t.me.ra z = k.ra z) ∧ t.me.streams = k.streams ∧ t.me.region = k.region ∧
      t.me.flags = k.flags ∧ s.SameMem t

/-- R293: a trap within a handler, or without one, stops its core, and its unit and its context are FAULTED; the handler's
trap fields stay. -/
def Statements.Escalation : Prop :=
  ∀ (s : State) (r : Rob) (cause addr info x : Nat),
    let k := s.me
    k.rob = [r] → r.serial = s.ent.serial → k.wlog = [] → k.vredq = none → k.gmma = none → (k.active = true ∨ k.cf 0x009 12 1 = 0) →
    k.unit = .running → k.dbg.stopped = false → k.ctx = some x → (s.ctx x).st = .running →
    ∃ t, s.trap cause addr info = t ∧ t.me.unit = .faulted ∧ t.me.dbg.stopped = true ∧ t.me.dbg.reason = 6 ∧
      t.me.dbg.pc = s.ent.pc % 4096 ∧ (t.ctx x).st = .faulted ∧ t.me.priv = k.priv ∧
      (k.active = true → ∀ n, t.me.cv n = k.cv n) ∧
      (k.active = false → t.me.active = true ∧ t.me.cf 0x005 0 8 = cause % 256 ∧ (t.me.cv 0x006).toNat = s.ent.pc % 4096) ∧
      (∀ z, t.me.rg z = k.rg z) ∧ (∀ z, t.me.rq z = k.rq z)

/-- R109, R127, R129: a reserved opcode raises ILLEGAL with FIELD 0 and REASON 0, and a fetch outside the words of the image
ILLEGAL with FIELD 7 and REASON 6. -/
def Statements.SequencerFaults : Prop :=
  ∀ (s : State), exec .reservedOpcode s = .next (s.trap 1 0 0) ∧ exec .fetchOutsideInstructionWords s = .next (s.trap 1 0 (6 * 16 + 7))

/-- R291, R292: at a delivery point with nothing in flight the event that is first in the order is taken: an engine's fault,
with the others of its kind still pending; an armed stop, at the next PC. -/
def Statements.TrapDelivery : Prop :=
  ∀ (s : State) (e : Nat) (tr : Trap) (l : List (Nat × Trap)) (n : Nat),
    let k := s.me
    k.rob = [] → k.wlog = [] → k.vredq = none → k.unit = .running → k.dbg.stopped = false → k.saving = 0 → s.frozen s.hand.core = false →
    k.atRealign = none →
    (k.pend = { Pending.empty with engine := (e, tr) :: l } → k.active = false → k.barWait = none → k.replay = [] → tr.resume = 0 →
      k.cf 0x009 12 1 = 1 → fld k.region.flags 1 1 = 0 →
      ∃ t, exec .trapDelivery s = .next t ∧ t.me.pend.engine = l ∧ t.me.active = true ∧ t.me.cf 0x005 0 8 = tr.cause % 256 ∧
        t.me.cf 0x005 13 1 = (if tr.imprecise = true then 1 else 0) ∧ (t.me.cv 0x006).toNat = k.pc % 4096 ∧
        t.me.cv 0x007 = BitVec.ofNat 64 tr.addr ∧ t.me.cv 0x008 = BitVec.ofNat 64 tr.info ∧ t.me.pc = k.cf 0x009 0 12 ∧
        t.me.priv = true ∧ (∀ z, t.me.rg z = k.rg z) ∧ s.SameMem t) ∧
    (k.pend = { Pending.empty with stop := some n } → k.replay = [] → ∃ t, exec .trapDelivery s = .next t ∧ t.me.pend.stop = none ∧
      t.me.dbg.stopped = true ∧ t.me.dbg.reason = n ∧ t.me.dbg.pc = k.pc % 4096 ∧ t.me.unit = .running ∧ s.Kept t)

/-! ## Contexts, stops, timed blocks -/

/-- R285, R293, R306, R307, R310, R312: the commands and events of a context's life: from FREE to BUILDING to READY; a
pre-emption asks every running core; a core that is saved is PREEMPTED with its place kept; the limit stops the cores that are
not; a core of a FAULTED context stands at the wait of its handler's return; a drain ends units and disables queues; the scrub
leaves the cores' memory and registers zero and the context FREE. -/
def Obligations.ContextLife : Prop :=
  ∀ (s : State) (x j : Nat),
    let n := s.hand.arg.ix
    let c := s.ctx n
    let member (i : Nat) : Prop := (s.core i).ctx = some n ∧ (s.core i).launch ≠ 0
    let asks (i : Instr) (f : Bool) : Prop := ∃ t, exec i s = .next t ∧ (t.ctx n).st = .preempting ∧
      (t.ctx n).limitAt = (if c.limit.toNat = 0 then none else some (s.clk + 1250 * c.limit.toNat)) ∧ t.mem = s.mem ∧
      ∀ i, (member i → (s.core i).unit = .running → (t.core i).pend.preempt = true ∧ (t.core i).pend.forced = f) ∧
        (t.core i).g = (s.core i).g ∧ (t.core i).pc = (s.core i).pc
    let drains (i : Instr) : Prop := ∃ t, exec i s = .next t ∧ (t.ctx n).st = .draining ∧
      (t.ctx n).drainAt = some (s.clk + 1250000) ∧ ∀ q, (s.queue q).own = some n → (t.queue q).st = .disabled
    (c.st = .free → ∃ t, exec .create s = .next t ∧ (t.ctx n).st = .building ∧ (t.ctx n).ptRootEff = 0 ∧ (t.ctx n).htCountEff = 0 ∧
      (∀ m, m ≠ n → t.ctx m = s.ctx m) ∧ t.cores = s.cores ∧ t.mem = s.mem) ∧
    (c.st ≠ .free → exec .create s = .next s) ∧
    (c.st = .building → (∀ p, p ∈ s.cores → p.2.ctx = some n →
        p.2.unit = .ready ∨ p.2.unit = .running ∨ p.2.unit = .preempted ∨ p.2.unit = .done) →
      ∃ t, exec .commit s = .next t ∧ (t.ctx n).st = .ready ∧ t.cores = s.cores ∧ t.mem = s.mem) ∧
    (c.st ≠ .building → exec .commit s = .next s) ∧
    (s.hand.arg.b ≠ 1 → (c.st = .running → asks .preempt false ∧ asks .preemptForce true) ∧
      (c.st ≠ .running → exec .preempt s = .next s ∧ exec .preemptForce s = .next s)) ∧
    (s.hand.arg.b = 1 → let i := s.hand.arg.a
      c.st = .running → (s.core i).ctx = some n → (s.core i).unit = .running → (s.core i).pend.preempt = false →
      (s.core i).saving = 0 → ∃ t, exec .preempt s = .next t ∧ (t.core i).pend.preempt = true ∧ (t.core i).pend.forced = false ∧
        (t.core i).g = (s.core i).g ∧ (t.core i).pc = (s.core i).pc ∧ (∀ m, t.ctx m = s.ctx m) ∧ t.mem = s.mem ∧
        ∀ z, z ≠ i → t.core z = s.core z) ∧
    (c.st ≠ .preempting → exec .preemptLimitExpiry s = .next s) ∧
    (c.st = .preempting → ∃ t, exec .preemptLimitExpiry s = .next t ∧ (t.ctx n).st = .faulted ∧ (t.ctx n).limitAt = none ∧
      ∀ i, member i → (s.core i).unit = .running → (t.core i).dbg.stopped = true) ∧
    (s.me.ctx = some x → ∃ t v, exec .coreSaved s = .next t ∧ t.me.unit = .preempted ∧ mapGet (t.ctx x).saved s.hand.core = some v ∧
      v.launch = s.me.launch ∧ v.unitNo = s.me.unitNo ∧ v.vcc = s.me.vcc) ∧
    (s.hand.arg.b ≠ 1 → c.st = .faulted → s.ctxCores n = [j] → (s.core j).unit = .faulted →
      ∃ t h, exec .ctxResume s = .next t ∧ (t.ctx n).st = .running ∧ (t.core j).unit = .running ∧ (t.core j).dbg.stopped = false ∧
        (t.core j).held = some h ∧ h.kind = .waiting false ∧ h.stage = 8 ∧ h.entry.pc = (s.core j).cf 0x006 0 12 ∧
        h.mark = (s.core j).cf 0x005 10 2 ∧ (t.core j).active = (s.core j).active ∧ (t.core j).priv = (s.core j).priv ∧
        (t.core j).g = (s.core j).g ∧ t.mem = s.mem) ∧
    (s.hand.arg.b ≠ 1 → c.st ≠ .faulted → c.st ≠ .suspended → exec .ctxResume s = .next s) ∧
    (c.st = .building ∨ c.st = .ready ∨ c.st = .running ∨ c.st = .preempting ∨ c.st = .faulted ∨ c.st = .suspended →
      drains .destroy ∧ drains .ctxReset ∧
      ∃ t, exec .functionLevelReset s = .next t ∧ (t.ctx n).st = .draining ∧ (t.ctx n).eventQ = 0 ∧ (t.ctx n).ptRoot = 0 ∧
        (t.ctx n).saveBase = 0 ∧ (t.ctx n).budgets = [] ∧ (t.ctx n).htBaseEff = c.htBaseEff ∧ (t.ctx n).htCountEff = c.htCountEff) ∧
    (c.st = .free → exec .destroy s = .next s ∧ exec .ctxReset s = .next s) ∧
    (c.st ≠ .draining → exec .scrubComplete s = .next s ∧ exec .drainTimeout s = .next s) ∧
    (c.st = .draining → memWf s.mem = true → ∃ t, exec .scrubComplete s = .next t ∧ (t.ctx n).st = .free ∧ (t.ctx n).saved = [] ∧ (t.ctx n).nodes = [] ∧
      ∀ i, (s.core i).ctx = some n → (t.core i).ctx = none ∧ (t.core i).unit = .none ∧ (t.core i).tlb = [] ∧
        (∀ z, (t.core i).rg z = ⟨0, 0, false⟩) ∧ ∀ a, coreKey i 0 ≤ a → a < coreKey i 0x68000 → memGet t.mem a = 0) ∧
    (c.st = .draining → ∃ t, exec .drainTimeout s = .next t ∧ (t.ctx n).st = .dead ∧ t.cores = s.cores ∧ t.mem = s.mem)

/-- R454, R455, R465: a halt, a resume and a step of a core's debug module; a dump stops the running cores of a context, and ends
with the context and the cores that it stopped as they were. -/
def Obligations.StopsAndDumps : Prop :=
  ∀ (s : State),
    let n := s.hand.arg.ix
    let k := s.core n
    let c := s.ctx n
    let member (i : Nat) : Prop := (s.core i).ctx = some n ∧ (s.core i).launch ≠ 0
    (k.dbg.stopped = false → k.unit = .running → k.pend.stop = none → ∃ t, exec .dbgHalt s = .next t ∧ (t.core n).pend.stop = some 1 ∧
      (t.core n).dbg = k.dbg ∧ (t.core n).g = k.g ∧ t.mem = s.mem) ∧
    (k.dbg.stopped = false → k.unit ≠ .running → ∃ t, exec .dbgHalt s = .next t ∧ (t.core n).dbg.stopped = true ∧
      (t.core n).dbg.reason = 1 ∧ (t.core n).g = k.g ∧ t.mem = s.mem) ∧
    (k.dbg.stopped = true → exec .dbgHalt s = .next s ∧
      (∃ t, exec .dbgResume s = .next t ∧ (t.core n).dbg.stopped = false ∧ (t.core n).dbg.steps = none ∧ (t.core n).g = k.g ∧
        (t.core n).pc = k.pc ∧ t.mem = s.mem) ∧
      ∃ t, exec .dbgStep s = .next t ∧ (t.core n).dbg.stopped = false ∧ (t.core n).g = k.g ∧ (t.core n).pc = k.pc ∧ t.mem = s.mem ∧
        (t.core n).dbg.steps = some (max 1 (fld k.dbg.ctl.toNat 32 32))) ∧
    (k.dbg.stopped = false → exec .dbgResume s = .next s ∧ exec .dbgStep s = .next s) ∧
    (c.st = .running ∨ c.st = .faulted ∨ c.st = .suspended → ∃ t, exec .dump s = .next t ∧ (t.ctx n).st = .dumping ∧
      (t.ctx n).before = c.st ∧ t.mem = s.mem ∧
      ∀ i, (member i → (s.core i).unit = .running → (s.core i).dbg.stopped = false → (t.core i).pend.stop = some 7) ∧
        (t.core i).g = (s.core i).g) ∧
    (c.st ≠ .dumping → exec .dumpComplete s = .next s) ∧
    (c.st = .dumping → ∃ t, exec .dumpComplete s = .next t ∧ (t.ctx n).st = c.before ∧
      ∀ i, (member i → (s.core i).dbg.reason = 7 → (t.core i).dbg.stopped = false) ∧ (t.core i).g = (s.core i).g)

/-- R341, R342, R344, R349, R350, R390: the events of timed launches and of the clocks of a core: a pause that comes to a die,
REALIGN's report and release, a START that a member has not reached, a wall and a budget that are over, a written shot clock. -/
def Statements.TimedEvents : Prop :=
  ∀ (s : State) (n d v len c : Nat) (l : Launch) (h : Held) (e : Block),
    let k := s.me
    let reports := mapPut l.reports d v
    let all := l.dies.all (fun x => (mapGet reports x).isSome)
    let old := (k.cv 0x00A).toNat
    let shot := (k.cv 0x015).toNat
    (s.launch n = some l → l.cores.Nodup → c ∈ l.cores → dieOf c = d →
      (s.hand.msg = some (.pause n d 1 len) → ∃ t, exec .pauseSpread s = .next t ∧ (t.core c).pauses = (s.core c).pauses + 1 ∧
        (t.core c).g = (s.core c).g ∧ t.mem = s.mem) ∧
      (s.hand.msg = some (.pause n d 0 len) → ∃ t, exec .pauseSpread s = .next t ∧ (t.core c).pauses = (s.core c).pauses - 1 ∧
        (t.core c).g = (s.core c).g ∧ t.mem = s.mem) ∧
      (s.hand.msg = some (.pause n d 2 len) → ∃ t, exec .pauseSpread s = .next t ∧
        (t.core c).frozenTo = max (s.core c).frozenTo (s.clk + len) ∧ (t.core c).g = (s.core c).g ∧ t.mem = s.mem)) ∧
    (s.launch n = some l → s.hand.msg = some (.realignReport n d v) →
      (all = false → ∃ t, exec .realignReport s = .next t ∧ (t.launch n).map Launch.reports = some reports ∧ t.msgs = s.msgs ∧
        t.cores = s.cores ∧ t.mem = s.mem) ∧
      (all = true → ∃ t, exec .realignReport s = .next t ∧ (t.launch n).map Launch.reports = some [] ∧ t.cores = s.cores ∧
        t.mem = s.mem ∧ ∀ x, x ∈ l.dies → ∃ m, m ∈ t.msgs ∧ m.dst = x ∧
          m.body = .realignRelease n x (reports.any (fun p => reports.any (fun q => p.2 != q.2))))) ∧
    (s.launch n = some l → s.hand.msg = some (.realignRelease n d false) → l.cores.filter (fun x => dieOf x == d) = [c] →
      (s.core c).atRealign = some h → ∃ t, exec .realignRelease s = .next t ∧ (t.core c).held = none ∧
        (t.core c).pc = ((s.core c).advance h.entry.pc).pc ∧ (t.core c).g = (s.core c).g ∧ t.mem = s.mem) ∧
    (s.blockOf s.hand.core s.hand.arg.ix = some e →
      (e.strict = false → k.late.contains 9 = false → ∃ t, exec .blockStartPassed s = .next t ∧ t.me.late.contains 9 = true ∧ s.Kept t) ∧
      (e.strict = true → exec .blockStartPassed s = .next s)) ∧
    (∃ t, exec .deadlineExpiry s = .next t ∧ t.me.cv 0x00A = 0 ∧ t.me.pend.deadline = some (k.pend.deadline.getD old) ∧
      (∀ m, m ≠ 0x00A → t.me.cv m = k.cv m) ∧ t.me.g = k.g ∧ t.me.pc = k.pc ∧ t.mem = s.mem) ∧
    (∃ t, exec .budgetExpiry s = .next t ∧ t.me.cv 0x00B = 0 ∧ t.me.pend.budget = true ∧
      (∀ m, m ≠ 0x00B → t.me.cv m = k.cv m) ∧ t.me.g = k.g ∧ t.me.pc = k.pc ∧ t.mem = s.mem) ∧
    (s.launch k.launch = some l → ∃ t, exec .shotClockWrite s = .next t ∧
      (t.launch k.launch).map Launch.shotAt = some (if fld shot 63 1 = 1 then some (s.ns + 1 + fld shot 0 48) else none) ∧
      t.me.cv 0x015 = 0 ∧ t.me.g = k.g ∧ t.mem = s.mem)

/-- R375, R451: a rollback that another package sends takes an instance back to its last snapshot's episode; a core without
one that could be taken escalates. -/
def Statements.Rollback : Prop :=
  ∀ (s : State) (ep x : Nat) (tr : Trap),
    let key := s.hand.arg.ix
    let k := s.me
    (s.hand.arg.a = 1 → (s.bar key).snapEp = some ep → ∃ t, exec .rollback s = .next t ∧ (t.bar key).st = .armed ∧
      (t.bar key).episode = ep ∧ (t.bar key).count = (s.bar key).snapEnd ∧ (t.bar key).rolls = (s.bar key).rolls + 1 ∧
      (t.bar key).waiters = []) ∧
    (s.hand.arg.a ≠ 1 → k.pend.rollback = some tr → s.rollTarget s.hand.core = none → k.unit = .running → k.dbg.stopped = false →
      k.ctx = some x → (s.ctx x).st = .running → ∃ t, exec .rollback s = .next t ∧ t.me.unit = .faulted ∧ t.me.dbg.stopped = true ∧
        t.me.dbg.reason = 6 ∧ t.me.pend.rollback = none ∧ (t.ctx x).st = .faulted)

/-! ## Launches and queues -/

/-- R331, R332, R333, R339, R353, R354, R355, R390: the events of a launch: it takes its cores together when all are free, and
waits when one is not; a core that has loaded is READY; the start gives every unit its PC, privilege and arguments at VCC 0;
the end unbinds the cores; the shot clock marks the launch and, by its flag, makes DEADLINE pending in its units. -/
def Obligations.LaunchEvents : Prop :=
  ∀ (s : State) (l : Launch),
    let n := s.hand.arg.ix
    let cs := rectCores (dRect l.desc)
    (s.launch n = some l →
      (l.st = .reading → s.wordPhys l.ctx l.word.toNat 128 = none → ∃ t, exec .launchBind s = .next t ∧
        (t.launch n).map (fun y => (y.st, y.status, y.units, y.cores)) = some (.started, 2, 0, []) ∧ t.cores = s.cores ∧ t.mem = s.mem) ∧
      (l.st = .pending → s.coresTaken n cs = true → exec .launchBind s = .next s) ∧
      (l.st = .pending → s.coresTaken n cs = false → ∃ t, exec .launchBind s = .next t ∧
        (t.launch n).map (fun y => (y.st, y.cores)) = some (.bound, cs) ∧ t.mem = s.mem ∧
        ∀ c, c ∈ cs → (t.core c).unit = .loading ∧ (t.core c).launch = n ∧ (t.core c).ctx = some l.ctx) ∧
      (∃ t, exec .startRelease s = .next t ∧ (t.launch n).map Launch.st = some .started ∧ t.mem = s.mem ∧
        ∀ c, c ∈ l.cores → (s.core c).unit = .ready → (t.core c).unit = .running ∧ (t.core c).pc = l.image.entry ∧ (t.core c).vcc = 0 ∧
          (t.core c).priv = dFlag l.desc 0 ∧ (t.core c).rq 15 = true ∧ (t.core c).rg 0 = ⟨0, 0, false⟩ ∧ (t.core c).rg 1 = ⟨0, 0, false⟩ ∧
          (t.core c).cv 0x010 = 0xFF800001 ∧
          (l.card = none → ∀ i, i < 8 → (t.core c).rg (Fin.ofNat 64 (4 + i)) = ⟨BitVec.ofNat 64 (byteFld l.desc (64 + 8 * i) 8), 0, false⟩)) ∧
      (l.succ = [] → ∃ t, exec .launchComplete s = .next t ∧ t.launch n = none ∧
        ∀ c, c ∈ l.cores → (s.core c).launch = n → (t.core c).launch = 0 ∧ (t.core c).unit = .none) ∧
      (fld l.pflags 0 1 = 0 → ∃ t, exec .shotClockExpiry s = .next t ∧
        (t.launch n).map (fun y => (y.shotAt, y.shotHit)) = some (none, true) ∧
        ∀ c, c ∈ l.cores → (s.core c).launch = n → (s.core c).unended l.ctx = true →
          (fld l.pflags 1 1 = 1 → (t.core c).pend.deadline = some (2 ^ 64 + l.shotNs)) ∧ (t.core c).g = (s.core c).g)) ∧
    (s.launch (s.core n).launch = some l → (s.core n).unit = .loading → s.imageBroken l = false → dFlag l.desc 2 = false →
      ∃ t, exec .loadComplete s = .next t ∧ (t.core n).unit = .ready ∧ (t.core n).launch = (s.core n).launch ∧
        (t.launch (s.core n).launch).map (fun y => mapGet y.loads n) = some none)

/-- R376, R377, R378, R381, R383, R386, R387, R388, R396: the writes of a queue's registers and the events of the queue
engine: an index that is legal is taken, another is an error; ENABLE and DISABLE; a header or handle that breaks a rule is an
error; a launch, a job card and a graph node make their launch or wait in their slot; a control packet acts when what it waits
for holds, and blocks its queue until then. -/
def Obligations.QueueEvents : Prop :=
  ∀ (s : State) (p : List Byte) (x : Nat) (v : Node),
    let q := s.hand.arg.ix
    let a := s.hand.arg.a
    let u := s.queue q
    let frame (t : State) : Prop := t.cores = s.cores ∧ t.mem = s.mem
    let r := s.setQueue q { u with st := if u.st = .enabled then .running else u.st }
    let slot := fld (byteFld p 32 4) 0 10
    let dep := fld (byteFld p 32 4) 16 12
    let id := byteFld p 16 8
    let taken (t : State) : Prop := (t.queue q).head = none ∧ (t.queue q).cons = (u.cons + pkLen (pkHead p)) % 2 ^ 32
    let acts (i : Instr) (P : State → Prop) : Prop := ∃ t, exec i s = .next t ∧ taken t ∧ P t
    let blocks (i : Instr) : Prop := ∃ t, exec i s = .next t ∧ (t.queue q).st = .blocked ∧ (t.queue q).cons = u.cons ∧ frame t
    (u.feed ≠ 1 → (∀ y, u.own = some y → (s.ctx y).st ≠ .draining) → u.st = .enabled ∨ u.st = .running ∨ u.st = .blocked →
      (u.legal (a % 2 ^ 32) = true → ∃ t, exec .queueDoorbell s = .next t ∧ (t.queue q).prod = a % 2 ^ 32 ∧ (t.queue q).st = u.st ∧ frame t) ∧
      (u.legal (a % 2 ^ 32) = false → ∃ t, exec .queueDoorbell s = .next t ∧ (t.queue q).st = .error ∧ (t.queue q).err = 1 ∧ frame t)) ∧
    (u.st = .disabled → configOk (setFld a 0 1 1) = false → ∃ t, exec .queueEnable s = .next t ∧ (t.queue q).st = .error ∧
      (t.queue q).err = 6 ∧ frame t) ∧
    (u.st = .disabled → configOk (setFld a 0 1 1) = true → fld u.ring.toNat 0 8 = 0 →
      s.ringOk { u with ctl := BitVec.ofNat 64 (setFld a 0 1 1) } = true → ∃ t, exec .queueEnable s = .next t ∧
        (t.queue q).st = .enabled ∧ (t.queue q).prod = 0 ∧ (t.queue q).cons = 0 ∧ frame t) ∧
    (u.st ≠ .disabled → u.st ≠ .draining → ∃ t, exec .queueDisable s = .next t ∧ (t.queue q).st = .draining ∧ frame t) ∧
    (∃ t, exec .queueDrained s = .next t ∧ (t.queue q).st = .disabled ∧ frame t) ∧
    (u.drain = 1 → ∃ t, exec .hostConsume s = .next t ∧ (t.queue q).cons = a % 2 ^ 32 ∧ frame t) ∧
    (u.drain ≠ 1 → exec .hostConsume s = .next s) ∧
    (r.headFetch q = some (.here p, []) → u.own = some x →
      (headBad (pkHead p) = true ∨ packetBad p = true → ∃ t, exec .packetRead s = .next t ∧ (t.queue q).st = .error ∧ (t.queue q).err = 2) ∧
      (headBad (pkHead p) = false → packetBad p = false → pkType (pkHead p) ≠ 3 → r.wordOk x (byteFld p 8 8) 128 false = false →
        ∃ t, exec .packetRead s = .next t ∧ (t.queue q).st = .error ∧ (t.queue q).err = 3) ∧
      (headBad (pkHead p) = false → packetBad p = false → pkType (pkHead p) = 3 → ∃ t, exec .packetRead s = .next t ∧
        (t.queue q).head = some p ∧ (t.queue q).st = (if u.st = .enabled then .running else u.st) ∧ frame t)) ∧
    (u.head = some p → u.own = some x →
      (s.headLaunch q = false → ∀ i, i = .launchPacket ∨ i = .jobCardPacket → ∃ t y, exec i s = .next t ∧
        t.launch s.nextLaunch = some y ∧ t.nextLaunch = s.nextLaunch + 1 ∧ y.st = .reading ∧ y.queue = q ∧ y.ctx = x ∧
        y.work = pkWork (pkHead p) ∧ y.slot = none ∧ frame t) ∧
      (mapGet (s.ctx x).nodes slot = none → 0 < dep → acts .graphNodePacket (fun t => frame t ∧
        mapGet (t.ctx x).nodes slot = some ⟨.waiting, dep, q, p, none⟩)) ∧
      (mapGet (s.ctx x).nodes slot = none → dep = 0 → acts .graphNodePacket (fun t => frame t ∧
        mapGet (t.ctx x).nodes slot = some ⟨.dispatched, 0, q, p, some s.nextLaunch⟩ ∧
        ∃ y, t.launch s.nextLaunch = some y ∧ y.st = .reading ∧ y.slot = some slot)) ∧
      (mapGet (s.ctx x).nodes slot = some v → v.st ≠ .held → ∃ t, exec .graphNodePacket s = .next t ∧ (t.queue q).st = .error ∧
        (t.queue q).err = 5) ∧
      (s.controlMet q p = true → acts .ctrlNop frame ∧ acts .ctrlWait frame ∧ acts .ctrlFence frame ∧
        (s.cancelTargets x id = ([], [], []) → acts .ctrlCancel frame) ∧
        (fld id 13 3 = 5 → acts .ctrlAdd (fun t => frame t ∧
          ∀ j, mapGetD (t.ctx x).events j 0 = mapGetD (s.ctx x).events j 0 + (if j = fld id 0 13 then BitVec.ofNat 64 (byteFld p 24 8) else 0)))) ∧
      (s.controlMet q p = false → blocks .ctrlNop ∧ blocks .ctrlWait ∧ blocks .ctrlFence ∧ blocks .ctrlCancel ∧ blocks .ctrlAdd))

/-- R383, R394, R404, R452, R472: registers that the host and other cores write: the counter selected, the owner of a queue
that is disabled and of a core that is unbound, FITNESS, ERRINJ_CTL; and a new period of the budgets. -/
def Statements.HostRegisters : Prop :=
  ∀ (s : State) (x : Nat) (b : Budget) (fn off v : Nat),
    let n := s.hand.arg.ix
    let a := s.hand.arg.a
    let own := if fld a 8 1 = 1 then some (fld a 0 6) else none
    (∃ t, exec .counterSelect s = .next t ∧ (t.ctx n).cntSel = BitVec.ofNat 64 a ∧ t.cores = s.cores ∧ t.mem = s.mem) ∧
    (n < 16384 → (s.queue n).st = .disabled → ∃ t, exec .qownWrite s = .next t ∧ (t.queue n).own = own ∧
      (∀ m, m ≠ n → t.queue m = s.queue m) ∧ t.cores = s.cores ∧ t.mem = s.mem) ∧
    (n < 4144 → (s.core n).launch = 0 → ∃ t, exec .cownWrite s = .next t ∧ mapGet t.cown n = own ∧
      (∀ m, m ≠ n → mapGet t.cown m = mapGet s.cown m ∧ t.core m = s.core m) ∧ t.mem = s.mem) ∧
    (n < 4144 → (s.core n).launch ≠ 0 → exec .cownWrite s = .next s) ∧
    (∃ t, exec .fitnessWrite s = .next t ∧ t.me.cv 0x010 = BitVec.ofNat 64 (a % 2 ^ 32) ∧
      t.me.eval = s.me.eval.fit (BitVec.ofNat 64 a) ∧ t.me.g = s.me.g ∧ t.mem = s.mem) ∧
    (∃ t, exec .errinjArm s = .next t ∧ t.me.g = s.me.g ∧ t.mem = s.mem ∧
      (s.injectable s.hand.core = true → fld a 9 1 = 0 → (t.me.cv 0x031).toNat = a % 2 ^ 64 &&& 0x1FD ||| (s.me.cv 0x031).toNat &&& (2 ^ 64 - 1 - 0x1FD)) ∧
      (s.injectable s.hand.core = false → s.me.cf 0x031 0 1 = 0 → t.me.cf 0x031 0 1 = 0)) ∧
    (∃ t, exec .budgetPeriod s = .next t ∧ t.period = s.now / 10000 ∧ t.cores = s.cores ∧ t.mem = s.mem ∧
      ((x, b) ∈ (t.ctx n).budgets → b.used = 0)) ∧
    (s.hand.msg = none → n = fn → a = off → s.hand.arg.b = v → off % 8 = 0 → fn < 64 →
      (fn ≠ 0 → off < 0x20000000 + 0x1000 * fn → exec .registerWrite s = .next s) ∧
      (off = 0x20000000 + 0x1000 * fn + 8 * 2 → ∃ t, exec .registerWrite s = .next t ∧ (t.ctx fn).saveBase = BitVec.ofNat 64 v ∧
        t.cores = s.cores ∧ t.mem = s.mem))

/-! ## The island, its links and its collectives -/

/-- R422 to R432, R475 to R482: the island's commands and events, each in the state that accepts it: split reset and what it
drains, power off and on, release from reset, training and its third failure, a lost heartbeat or path, the island's own
reset, its start and removal, boot's GO, throttling and over-temperature; a command in another state writes a log record. -/
def Obligations.IslandEvents : Prop :=
  ∀ (s : State),
    let k := s.hand.arg.ix
    let e := s.ep k
    let logged (t : State) : Prop := t.isl.logCnt = s.isl.logCnt + 1 ∧ t.cores = s.cores ∧ ∀ i, t.ep i = s.ep i
    let goes (i : Instr) (st : EpState) (cause : Nat) : Prop := ∃ t, exec i s = .next t ∧ (t.ep k).st = st ∧ (t.ep k).cause = cause
    let refused (i : Instr) : Prop := ∃ t, exec i s = .next t ∧ logged t
    let quiet : Prop := s.isl.st = .active ∨ s.isl.st = .degraded
    (quiet → k < 8 → e.st = .active → e.step = 0 → ∃ t, exec .splitReset s = .next t ∧ (t.ep k).st = .active ∧ (t.ep k).step = 1 ∧
      (t.ep k).limitAt = some (s.clk + 12500) ∧ t.cores = s.cores ∧ t.mem = s.mem) ∧
    (8 ≤ k ∨ ¬ quiet → refused .splitReset) ∧
    (e.step = 1 → ∃ t, exec .splitDrainTimeout s = .next t ∧ (t.ep k).st = .orphaned ∧ (t.ep k).cause = 1 ∧ (t.ep k).step = 4) ∧
    (e.step ≠ 1 → exec .splitDrainTimeout s = .next s) ∧
    (quiet → e.st = .active ∨ e.st = .orphaned → e.held = [] → goes .powerOff .orphaned 3) ∧
    (e.st ≠ .active → e.st ≠ .orphaned → refused .powerOff) ∧
    (s.isl.st = .active → k < 18 → e.st = .absent → goes .powerOn .reset 0) ∧
    (e.st = .active → refused .powerOn) ∧
    (e.st = .reset → goes .endpointResetRelease .linkup e.cause) ∧
    (e.st = .linkup → e.held = [] → goes .endpointTrainingDone .active 0 ∧ (3 ≤ e.tries + 1 → goes .endpointTrainingFail .orphaned 4) ∧
      (e.tries + 1 < 3 → ∃ t, exec .endpointTrainingFail s = .next t ∧ (t.ep k).st = .linkup ∧ (t.ep k).tries = e.tries + 1)) ∧
    (e.st = .active → e.held = [] → goes .heartbeatTimeout .orphaned 2) ∧
    (e.st ≠ .active → exec .heartbeatTimeout s = .next s) ∧
    (e.st = .active ∨ e.st = .orphaned → e.held = [] → goes .overtempPowerOff .orphaned 3) ∧
    (quiet → ∃ t, exec .meshLinkFail s = .next t ∧ t.isl.st = .degraded ∧ k ∈ t.isl.links ∧ t.cores = s.cores ∧ t.mem = s.mem) ∧
    (s.isl.st = .off → ∃ t, exec .vIslUp s = .next t ∧ t.isl = State.reset.isl ∧ t.cores = [] ∧ t.mem = [] ∧ t.clk = s.clk) ∧
    (s.isl.st ≠ .off → exec .vIslUp s = .next s) ∧
    (∃ t, exec .vIslRemoved s = .next t ∧ t.isl.st = .off ∧ t.cores = [] ∧ t.mem = [] ∧ t.clk = s.clk) ∧
    (quiet → (∀ i, i < 18 → (s.ep i).st = .absent) → ∃ t, exec .islandReset s = .next t ∧ t.isl.st = .boot ∧ t.cores = [] ∧ t.mem = []) ∧
    (quiet → (s.ep 0).st = .active → refused .islandReset) ∧
    (s.isl.st ≠ .boot → exec .go s = .next s) ∧
    (s.isl.st = .boot → s.isl.bootStep = 4 → s.isl.bootErr = 0 → fld s.isl.torus 0 7 ≤ 95 →
      ({ s with free := s.free + 1 }.modIsl (fun i => { i with coord := s.hand.arg.a % 2 ^ 20 })).chipInstalled (chipField s.hand.arg.a) = true →
      ∃ t, exec .go s = .next t ∧ t.isl.coord = s.hand.arg.a % 2 ^ 20 ∧
        (Config.bootFinds s.free ≠ 3 → t.isl.st = .active ∧ t.isl.clkAt = s.clk ∧ t.now = 0) ∧
        (Config.bootFinds s.free = 3 → t.isl.st = .boot ∧ t.isl.bootErr = 3)) ∧
    (∃ t, exec .thermalThrottle s = .next t ∧ t.isl.hot = (s.hand.arg.a != 0) ∧ t.cores = s.cores ∧ t.mem = s.mem)

/-- R435, R436, R437, R438, R439, R446: the ports: EN and WIDTH, training, retraining and their third failures, lanes that are
lost, FREQ, the numbers of the flits that go out and come in, and the injectors. -/
def Obligations.PortEvents : Prop :=
  ∀ (s : State) (v : Nat),
    let p := s.hand.arg.ix
    let a := s.hand.arg.a
    let q := s.port p
    let frame (t : State) : Prop := t.cores = s.cores ∧ t.mem = s.mem
    let goes (i : Instr) (st : PortState) : Prop := ∃ t, exec i s = .next t ∧ (t.port p).st = st
    let op : Prop := q.st = .active ∨ q.st = .degraded
    let full (i : Instr) : Prop := 8 ≤ a → q.widthReq ≠ 2 → q.widthReq ≠ 3 → q.replay = [] → q.freqHeld = none →
      ∃ t, exec i s = .next t ∧ (t.port p).st = .active ∧ (t.port p).lanes = 8
    (p < 6 → q.st = .down → s.isl.st = .active → ∃ t, exec .portEnable s = .next t ∧ (t.port p).st = .training ∧ (t.port p).en = true ∧ frame t) ∧
    (p < 6 → q.st = .training → ∃ t, exec .portDisable s = .next t ∧ (t.port p).st = .down ∧ (t.port p).en = false) ∧
    (p < 6 → op → mapGet s.isl.freq (portSocket p) = none → ∃ t, exec .portWidthRequest s = .next t ∧ (t.port p).st = .widthChange ∧
      (t.port p).widthReq = a % 4 ∧ frame t) ∧
    (q.st = .training → max q.vmin (fld s.hand.arg.b 0 8) ≤ min q.vmax (fld s.hand.arg.b 8 8) →
      8 ≤ a → q.widthReq ≠ 2 → q.widthReq ≠ 3 → q.freqHeld = none → ∃ t, exec .portTrainingDone s = .next t ∧ (t.port p).st = .active ∧
        (t.port p).lanes = 8 ∧ (t.port p).ver = min q.vmax (fld s.hand.arg.b 8 8) ∧ (t.port p).sendSeq = 0 ∧ (t.port p).recvSeq = 0) ∧
    (q.st = .training → min q.vmax (fld s.hand.arg.b 8 8) < max q.vmin (fld s.hand.arg.b 0 8) → q.freqHeld = none →
      ∃ t, exec .portTrainingDone s = .next t ∧ (t.port p).st = .failed ∧ (t.port p).failr = 1) ∧
    (q.st = .training → (3 ≤ q.tries + 1 → q.freqHeld = none → goes .portTrainingFail .failed) ∧
      (q.tries + 1 < 3 → ∃ t, exec .portTrainingFail s = .next t ∧ (t.port p).st = .training ∧ (t.port p).tries = q.tries + 1 ∧ frame t)) ∧
    (op → (∃ t, exec .laneLossOfLock s = .next t ∧ (t.port p).st = .retrain ∧ (t.port p).retrains = q.retrains + 1 ∧ frame t) ∧
      ∃ t, exec .laneErrorRate s = .next t ∧ (t.port p).st = .widthChange ∧ frame t) ∧
    (q.st = .retrain → full .retrainDone ∧ (3 ≤ q.tries + 1 → goes .retrainFail .failed) ∧
      (q.tries + 1 < 3 → ∃ t, exec .retrainFail s = .next t ∧ (t.port p).st = .retrain ∧ (t.port p).tries = q.tries + 1 ∧ frame t)) ∧
    (q.st = .widthChange → full .widthChangeDone) ∧
    (s.isl.st = .active → p < 16 → (∀ c, c ∈ s.socketCores p → (s.core c).launch = 0) → ∃ t, exec .freq s = .next t ∧
      mapGet t.isl.freq p = some (s.clk * 65536 + a % 65536) ∧ frame t) ∧
    (mapGet s.isl.freq p = some v → ∃ t, exec .freqComplete s = .next t ∧ mapGet t.isl.freq p = none ∧
      mapGet t.isl.mhz p = some (v % 65536) ∧ frame t) ∧
    (mapGet s.isl.freq p = none → exec .freqComplete s = .next s) ∧
    (∃ t, exec .acknowledgeReceived s = .next t ∧ frame t ∧ (∀ f, f ∈ (t.port p).replay ↔ f ∈ q.replay ∧ seqBefore a f.seq = true) ∧
      (t.port p).st = q.st) ∧
    (q.replay = [] → q.again.1 ≠ a → ∃ t, exec .negativeAcknowledge s = .next t ∧ (t.port p).again = (a, 1) ∧
      (t.port p).replays = q.replays + 1 ∧ frame t) ∧
    (¬ op → exec .flitReceived s = .next s) ∧
    (op → s.hand.arg.b = 0 → s.hand.arg.bytes.length = 256 → leNat (s.hand.arg.bytes.drop 252) = (q.recvSeq + 2 ^ 32 - 1) % 2 ^ 32 →
      leNat (((s.hand.arg.bytes).drop 248).take 4) = crc32c (s.hand.arg.bytes.take 248) →
      fld (leNat ((s.hand.arg.bytes.take 248).take 8)) 56 8 = 0 → ∃ t, exec .flitReceived s = .next t ∧ frame t ∧
        (t.port p).recvSeq = q.recvSeq ∧ (t.port p).corr = q.corr + a) ∧
    (p < 6 → a < 8 → ∃ t, exec .linjArm s = .next t ∧ (mapGetD (t.port p).linj a 0) = BitVec.ofNat 64 (setFld s.hand.arg.b 48 13 0) ∧ frame t)

/-- R440 to R445: a collective entry: its start with a box that holds this chip, its end, a shard that arrives and is
delivered to its gateway core's queue 7, a block's contribution, the absent shard of a halted package, the notices of
others, and its shot clock. -/
def Obligations.CollectiveEvents : Prop :=
  ∀ (s : State) (x : Shard),
    let c := s.hand.arg.ix
    let a := s.hand.arg.a
    let b := s.hand.arg.b
    let bytes := s.hand.arg.bytes
    let e := s.coll c
    let frame (t : State) : Prop := t.cores = s.cores ∧ t.mem = s.mem
    let w := setFld (setFld (setFld a 0 1 1) 12 20 0) 1 3 0
    let f : Coll := { Coll.reset with ctl := BitVec.ofNat 64 w, box := e.box, shot := e.shot }
    let shard (t : State) (v n : VBits) (src blk : Nat) : Prop := (⟨blk, src, v, n⟩ : Shard) ∈ (t.coll c).shards
    (c < 16 → e.en = false → fld w 4 4 ≤ 5 → fld w 8 4 ≠ 0 → fld w 8 4 ≤ 3 → f.boxOk s.isl.coord = true →
      ∃ t, exec .collectiveEnable s = .next t ∧ (t.coll c).en = true ∧ (t.coll c).shards = [] ∧ (t.coll c).next = 0 ∧ frame t) ∧
    (c < 16 → e.en = true → exec .collectiveEnable s = .next s) ∧
    (e.en = true → ∃ t, exec .collectiveAbandon s = .next t ∧ (t.coll c).en = false ∧ (t.coll c).shards = [] ∧
      (t.coll c).broken = false ∧ frame t) ∧
    (e.en = true → e.broken = false → e.missing = false → a < e.nblk → e.chips.contains b = true → e.lacks a b = true → bytes.length = 256 →
      ∃ t, exec .shardArrival s = .next t ∧ shard t (vOfBytes (bytes.take 128)) (vOfBytes (bytes.drop 128)) b a ∧ frame t) ∧
    (e.en = true → e.broken = false → e.nextShard a = some x → s.shardReady c a = true →
      let g := 4096 + 8 * e.home + a
      ∃ t, exec .shardDelivery s = .next t ∧ t.mem = s.mem ∧ ((t.core g).recvQ 7).vecs =
        ((s.core g).recvQ 7).vecs ++ [if (e.place a).2.2 = true then x.cnts else x.vals]) ∧
    (e.en = true → e.broken = false → e.missing = false → a < e.nblk → e.chips = [s.isl.coord] → e.lacks a s.isl.coord = true →
      bytes.length = 256 → ∃ t, exec .contributionWrite s = .next t ∧ a ∈ (t.coll c).written ∧
        shard t (vOfBytes (bytes.take 128)) (vOfBytes (bytes.drop 128)) s.isl.coord a ∧ frame t) ∧
    (bytes.length ≠ 256 → exec .contributionWrite s = .next s) ∧
    (e.en = true → e.broken = false → e.missing = false → a < e.nblk → e.chips = [s.isl.coord] → e.lacks a s.isl.coord = true →
      ∃ t, exec .passThroughShard s = .next t ∧ a ∈ (t.coll c).written ∧ shard t (absentBits e.fmt) 0 s.isl.coord a ∧ frame t) ∧
    (e.en = true → b ≠ s.isl.coord → ∃ t, exec .haltNotice s = .next t ∧ b ∈ (t.coll c).halts ∧ (t.coll c).shards = e.shards ∧ frame t) ∧
    (∃ t, exec .collectiveShotExpiry s = .next t ∧ (t.coll c).endAt = none)

/-- R448, R449, R450, R463, R464, R473, R480: a scrubber's finding is reported, a Whistle tick latches every core, an
attestation is written where its handle says, and a request that the host has not answered ends in a response error. -/
def Statements.DeviceEvents : Prop :=
  ∀ (s : State) (i ty addr : Nat) (r : MemReq),
    let a := s.hand.arg.a
    let n := poisonUnit a
    let key := a / n * n
    (s.injAt key n = none → s.poisoned key n = none →
      (s.hand.arg.b = 0 → exec .scrub s = .next s) ∧
      (s.hand.arg.b = 1 → ∃ t, exec .scrub s = .next t ∧ t.isl.errCnt = s.isl.errCnt + 1 ∧ t.isl.errId = s.isl.errId + 1 ∧
        t.poison = s.poison ∧ t.cores = s.cores)) ∧
    (∃ t, exec .whistleTick s = .next t ∧ t.isl.whSeq = (s.isl.whSeq + 1) % 2 ^ 64 ∧ t.mem = s.mem ∧ (t.core i).g = (s.core i).g ∧
      (2 ≤ s.isl.whBuf.length → t.isl.whDrops = s.isl.whDrops + 1 ∧ t.isl.whBuf = s.isl.whBuf) ∧
      (s.isl.whBuf.length < 2 → t.isl.whBuf.length = s.isl.whBuf.length + 1)) ∧
    (s.handleSide 0 (BitVec.ofNat 64 a) 320 true = .ok (addr, ty) → s.isHere addr = true → spaceOf addr = 1 →
      ∃ t, exec .attCmd s = .next t ∧ memRead t.mem (keyOf addr) (s.attReport s.free).length = s.attReport s.free ∧
        s.SameOutside t (keyOf addr) (s.attReport s.free).length) ∧
    (s.hand.msg = some (.load r) → s.me.ops.any (fun o => o.id == r.id) = true → ∃ t, exec .hostWindowTimeout s = .next t ∧
      t.me.ops = s.me.ops.filter (fun o => o.id != r.id) ∧ (mapGet t.me.pend.engine 3).isSome = true ∧ t.me.g = s.me.g ∧ t.mem = s.mem) ∧
    (s.hand.msg = none → s.asks.any (fun q => q.phys == a) = true → ∃ t, exec .hostWindowTimeout s = .next t ∧
      t.asks = s.asks.filter (fun q => q.phys != a) ∧ mapGet t.ext a = some none ∧ t.cores = s.cores ∧ t.mem = s.mem)

/-! ## Encoding -/

/-- The words that the spec writes out with their fields, and the two words of R127. -/
def Obligations.DecodeExampleWords : Prop :=
  decode 0x783C_DE08_6045_8208_E005_1048 =
    .ok (⟨.elem 30, 0x05#8, some 1, 4, true, false⟩, .vadd ⟨.f16, true, true, false, false⟩ (.v 3) (.m ⟨5, true, 2⟩) (.v 7)) ∧
  decode 0x3500_0001_40D2_3456_7800_F000 = .ok (⟨.always, 0, none, 0, false, false⟩, .movi 10 (.joined 0x12345678)) ∧
  decode 0x0600_0000_0080_0280_0300_F000 = .ok (⟨.always, 0, none, 0, false, false⟩, .loop (.imm 2) 3) ∧
  decode 0x6E40_0001_2046_0000_E000_2000 =
    .ok (⟨.always, 0, some 2, 0, false, false⟩, .afadd .b4 .plain false 9 ⟨6, false, 0⟩ 7) ∧
  decode 0x7816_0028_2028_0008_4000_0000 =
    .ok (⟨.always, 0, some 0, 0, false, false⟩, .vadd ⟨.f32, false, true, true, false⟩ (.s 1) (.s 0) (.v 2)) ∧
  decode 0xAA94_0008_C008_8008_A000_F070 =
    .ok (⟨.always, 0, none, 7, false, false⟩, .vladd ⟨.l16, false, true, false, false⟩ (.v 6) (.v 4) (.v 5)) ∧
  decode 0xB340_0010_0047_0000_0000_1000 =
    .ok (⟨.always, 0, some 1, 0, false, false⟩, .mma ⟨.f8, false, false, false, false⟩ 0 ⟨7, false, 0⟩) ∧
  decode 0xC700_0048_0046_0081_0000_2000 =
    .ok (⟨.always, 0, some 2, 0, false, false⟩, .send 0 ⟨8, false, 0⟩ ⟨6, false, 0⟩ (.imm 256)) ∧
  decode 0xEC00_0000_0000_8000_A002_0000 = .ok (⟨.always, 0x02#8, some 0, 0, false, false⟩, .tlbinvVa 4 (.reg 5)) ∧
  decode 0x1701_8100_8080_1F00_0000_F000 = .ok (⟨.ifNotQ 1, 0, none, 0, false, false⟩, .followRel 4 31) ∧
  decode 0xD200_0000_8080_0300_0000_2000 = .ok (⟨.always, 0, some 2, 0, false, false⟩, .rank 4 (.imm 3)) ∧
  decode 0 = .ok (⟨.always, 0, some 0, 0, false, false⟩, .nop) ∧
  decode (2 ^ 96 - 1) = .ok (headOf (Raw.ofNat (2 ^ 96 - 1)), .reservedOpcode)

/-- Every well-formed instruction is what its word decodes to, with every operand, guard and hint it has. -/
def Obligations.DecodeOfEncode : Prop :=
  ∀ (h : Head) (i : Instr) (w : Nat), wellFormed h i = true → encode h i = some w → w < 2 ^ 96 ∧ decode w = .ok (h, i)

/-- Every word that decodes to an instruction is the word of that instruction, which is well formed. Left out is the one
second spelling that the encoding tables have: #1 as operand B of VLD and VST, which names the same single form (R196). -/
def Obligations.EncodeOfDecode : Prop :=
  ∀ (h : Head) (i : Instr) (w : Nat), w < 2 ^ 96 → reservedOpcode (Raw.ofNat w).op = false → ¬(((Raw.ofNat w).op = 0x70 ∨ (Raw.ofNat w).op = 0x71) ∧ (Raw.ofNat w).b = 32769) →
    decode w = .ok (h, i) → wellFormed h i = true ∧ encode h i = some w

/-- R127: a word with a reserved opcode raises ILLEGAL with FIELD 0 and REASON 0, whatever its other 88 bits hold: the
sequencer, at such a word, traps with information 0. The word of 96 zeros is NOP in its base form, which leaves d0 as it was. -/
def Obligations.ReservedOpcodes : Prop :=
  (∀ op : Nat, op < 256 → (reservedOpcode op = true ↔
    op = 0x1F ∨ (0x3A ≤ op ∧ op ≤ 0x3F) ∨ (0x4C ≤ op ∧ op ≤ 0x4F) ∨ (0x5D ≤ op ∧ op ≤ 0x5F) ∨ op = 0x6F ∨
    (0xA5 ≤ op ∧ op ≤ 0xA7) ∨ (0xBA ≤ op ∧ op ≤ 0xBF) ∨ (0xCA ≤ op ∧ op ≤ 0xCF) ∨ (0xDB ≤ op ∧ op ≤ 0xDF) ∨
    (0xF1 ≤ op ∧ op ≤ 0xFF))) ∧
  (∀ (e : DecodeEnv) (op rest : Nat), reservedOpcode op = true → op < 256 → rest < 2 ^ 88 →
    ∃ h, decodeWith e (op * 2 ^ 88 + rest) = .ok (h, .reservedOpcode)) ∧
  (∀ s : Machine.State, exec .reservedOpcode s = .next (s.raise ⟨causeILLEGAL, 0, 0, 0, false⟩)) ∧
  (∀ e : DecodeEnv, decodeWith e 0 = .ok (⟨.always, 0, some 0, 0, false, false⟩, .nop)) ∧
  (∀ s : Machine.State, s.head = ⟨.always, 0, some 0, 0, false, false⟩ →
    ∃ t, exec .nop s = .next t ∧ s.Finished t [] ∧ ∀ d, t.me.slot d = s.me.slot d)

/-- R63, R119: at user privilege a word that names g63, as a register or as the capability of a memory operand, raises
PRIV; at S privilege it decodes as any other; and privilege changes nothing else about a word. -/
def Obligations.UserPrivilege : Prop :=
  ∀ (st : Option Nat) (gw : Bool) (w : Nat) (x : Head × Instr), decodeWith ⟨st, false, gw⟩ w = .ok x →
    reservedOpcode (Raw.ofNat w).op = false →
    let r := Raw.ofNat w
    let names (v : Nat) : Prop := v = 63 * 32 ∨ v / 256 = 64 + 63
    (names r.d → decodeWith ⟨st, true, gw⟩ w = .error (.priv 3)) ∧
    (names r.a → ∃ n, decodeWith ⟨st, true, gw⟩ w = .error (.priv n)) ∧
    (names r.b → r.a / 2 ^ 14 ≠ 3 → ∃ n, decodeWith ⟨st, true, gw⟩ w = .error (.priv n)) ∧
    (decodeWith ⟨st, true, gw⟩ w = .ok x ∨ ∃ n, decodeWith ⟨st, true, gw⟩ w = .error (.priv n))

/-! ## The machine -/

/-- R51, R65: g0 reads as data zero and q15 reads 1, and a result that lands in either changes no register of any core. -/
def Obligations.HardwiredRegisters : Prop :=
  (∀ k : Core, k.rg 0 = ⟨0, 0, false⟩ ∧ k.rq 15 = true) ∧
  (∀ (s : Machine.State) (c : Nat) (v : GVal) (b : Bool) (x : Nat),
    (s.core x).SameRegs ((s.applyWr c (.g 0 v)).core x) ∧ (s.core x).SameRegs ((s.applyWr c (.q 15 b)).core x)) ∧
  (∀ (s : Machine.State) (c : Nat) (r : GReg) (v : GVal), r ≠ 0 →
    ((s.applyWr c (.g r v)).core c).rg r = v ∧ (s.core c).SameGBut ((s.applyWr c (.g r v)).core c) r) ∧
  (∀ (s : Machine.State) (c : Nat) (r : QReg) (b : Bool), r ≠ 15 →
    ((s.applyWr c (.q r b)).core c).rq r = b ∧ ∀ x, x ≠ r → ((s.applyWr c (.q r b)).core c).rq x = (s.core c).rq x)

/-- R117: an instruction whose q guard is false only issues: its column is occupied as the instruction would occupy it, a
slot it names counts until the next clk, and it writes nothing; an S instruction lets the sequencer go on. -/
def Obligations.FalseGuard : Prop :=
  ∀ (s : Machine.State) (i : Instr), wellFormed s.head i = true → (opcodeOf i).isSome = true →
    s.me.guardOk s.head.guard = false →
    ∃ t, exec i s = .next t ∧
      (∀ d, t.me.slot d = s.me.slot d + if s.head.set = some d then 1 else 0) ∧
      (∀ d, s.head.set = some d → (⟨s.me.vcc + 1, s.ent.serial, .none, some d, true⟩ : Landing) ∈ t.me.landings) ∧
      (∀ l, l ∈ t.me.landings → l ∈ s.me.landings ∨ l.wr = .none) ∧
      t.me.ops = s.me.ops ∧ t.me.descs = s.me.descs ∧ (∀ c, c ≠ s.hand.core → t.core c = s.core c) ∧
      (∀ col, colOfOp ((opcodeOf i).getD 0) = some col → s.Kept t ∧ ∃ occ, t = s.skip col occ) ∧
      (colOfOp ((opcodeOf i).getD 0) = none → s.GoesOn t)

/-- When a core's next word decodes to an instruction that may be dispatched, the step dispatches it; and when nothing
delays it, the step executes it: the step is exec of the decoded instruction at that state, with the instruction in hand
(R28, R29, R109, R110). An S instruction executes in the sequencer, at once or when its delay and wait mask let it; a
column instruction joins its column's queue, and is executed at its issue. The word is shown to the followers first
(R44). -/
def Obligations.StepRunsDecoded : Prop :=
  (∀ (s : Machine.State) (c w : Nat) (h : Head) (i : Instr), s.AtWord c w h i →
    let s1 := if (s.core c).mode = 1 ∧ i ≠ .detach then s.forward c (s.core c).pc w else s
    let k := s1.core c
    (colOfOp ((opcodeOf i).getD 0) = none → h.delay = 0 → h.wait = 0 →
      (mayRedirect i = true → k.endTestBusy = true → k.redirects s.clk h i = true) → ∃ u, step s = exec i u ∧ s1.InHand u c h i ∧ u.me.loops = k.loops) ∧
    (∀ col, colOfOp ((opcodeOf i).getD 0) = some col → k.queues = [] → k.held = none → k.trapAt = none → k.late = [] →
      (col ≠ colP → h.delay = 0 → h.wait = 0 → k.free col ≤ k.vcc → mapGet k.colHold col = none → k.nextPut = none → k.nextStore = none →
        ∃ u, step s = exec i u ∧ s1.InHand u c h i ∧ u.me.pc = (k.advance (s.core c).pc).pc) ∧
      (col = colP ∨ 0 < h.delay →
        ∃ u e, step s = .next u ∧ (u.core c).queueOf col = [e] ∧ e.instr = i ∧ e.head = h ∧ e.pc = k.pc ∧
          e.planned = k.vcc + h.delay ∧ s1.SameMem u ∧ (u.core c).pc = (k.advance (s.core c).pc).pc))) ∧
  (∀ (s : Machine.State) (c : Nat) (hd : Held), s.Turn c → (s.core c).held = some hd → hd.kind = .ready →
    hd.entry.planned ≤ (s.core c).vcc → (s.core c).waitMet hd.entry.serial hd.entry.head.wait = true →
    (∀ p, hd.limit = some p → (s.core c).vcc ≤ p) →
    (mayRedirect hd.entry.instr = true → (s.core c).endTestBusy = true →
      (s.core c).redirects s.clk hd.entry.head hd.entry.instr = true) →
      ∃ u, step s = exec hd.entry.instr u ∧ u.ent = hd.entry ∧ u.hand.core = c ∧ s.SameMem u ∧
        (s.core c).SameRegs u.me ∧ ∀ x, x ≠ c → u.core x = s.core x) ∧
  (∀ (s : Machine.State) (c col : Nat) (e : QEntry), s.Turn c → s.seqStep c = none → col ∈ columnOrder →
    (∀ x, x ∈ columnOrder → x ≠ col → (s.core c).queueOf x = []) → (s.core c).issuable col = some e →
    (s.core c).vcc ≤ (s.core c).issueLimit col e → (s.core c).nextPut = none → (s.core c).nextStore = none →
      ∃ u, step s = exec e.instr u ∧ u.ent = e ∧ u.hand.core = c ∧ s.SameMem u ∧
        (s.core c).SameRegs u.me ∧ ∀ x, x ≠ c → u.core x = s.core x)

/-- Every step answers a next state: nothing that a program or the outside does makes the machine stop, and no
instruction is refused. -/
def Obligations.EveryStepAnswers : Prop :=
  (∀ (i : Instr) (s : Machine.State), ∃ t, exec i s = .next t) ∧ ∀ s : Machine.State, ∃ t, step s = .next t

/-- R77, with R74, R75, R149, R229 and R336: a core at reset, and the package. Memory that nothing has written reads as
zero (the model's choice, log entry 1). -/
def Obligations.ResetState : Prop :=
  (∀ c : Nat, let k := Machine.State.reset.core c
    (∀ r, k.rg r = ⟨0, 0, false⟩) ∧ (∀ r : QReg, r ≠ 15 → k.rq r = false) ∧ k.rq 15 = true ∧
    (∀ r, k.rv r = ⟨0, .noFmt, none⟩) ∧ (∀ r, mapGet k.streams r = none) ∧ (∀ r, (k.ra r).tag = .noFmt ∧ (k.ra r).cells = []) ∧
    (∀ d, k.slot d = 0) ∧ k.loops = [] ∧ k.flags = 0 ∧ k.priv = true ∧ k.unit = .none ∧ k.ctx = none) ∧
  Machine.State.reset.clk = 0 ∧ Machine.State.reset.isl.st = .boot ∧ (∀ d, (Machine.State.reset.ep d).st = .absent) ∧
  (∀ x, (Machine.State.reset.ctx x).st = .free) ∧ (∀ q, (Machine.State.reset.queue q).st = .disabled) ∧
  ∀ a, memGet Machine.State.reset.mem a = 0 ∧ Machine.State.reset.tagAt a = false ∧ Machine.State.reset.writtenAt a = false

/-- Memory is in its canonical form at reset. -/
def Obligations.MemoryCanonicalAtReset : Prop := memWf Machine.State.reset.mem = true

/-- Every step keeps memory in its canonical form: addresses strictly rising, and no byte listed that reads as an unlisted
one. -/
def Obligations.MemoryStaysCanonical : Prop :=
  ∀ s t : Machine.State, memWf s.mem = true → step s = .next t → memWf t.mem = true

/-! ## The statements made of several -/

/-- Branches, calls and returns (R146 to R148), and what a capability must be for CALLR, BR and RET to go to it. -/
def Obligations.BranchesAndCalls : Prop := Statements.BranchesAndCalls ∧ Statements.CodeTargets

/-- Loops and the branches on engine flags (R149, R151 to R153), and the end test (R150). -/
def Obligations.LoopsAndEngineTests : Prop := Statements.LoopsAndEngineTests ∧ Statements.EndTest

/-- Reading, writing, setting and clearing control registers, and what a write does to each. -/
def Obligations.ControlRegisters : Prop := Statements.ControlRegisterInstructions ∧ Statements.ControlRegisterWrites

/-- FOLLOW and DETACH, and what comes to a leader and to a follower. -/
def Obligations.Following : Prop := Statements.Following ∧ Statements.FollowingEvents

/-- The barrier instructions, and the release of an instance. -/
def Obligations.Barriers : Prop := Statements.Barriers ∧ Statements.BarrierEvents

/-- Atomics on the core's own memory, and the values they store. -/
def Obligations.Atomics : Prop := Statements.OwnAtomics ∧ Statements.AtomicValues

/-- What a request does at the home of an address, and what an answer does at the core that asked. -/
def Obligations.RemoteMemory : Prop := Statements.HomeEvents ∧ Statements.RequesterEvents

/-- What the capability instructions make of a capability, and what they read of one. -/
def Obligations.CapabilityResults : Prop := Statements.CapabilityResults ∧ Statements.CapabilityReads

/-- The scalar floating-point instructions. -/
def Obligations.ScalarFloat : Prop := Statements.ScalarFloatArithmetic ∧ Statements.ScalarFloatOther

/-- Loads and stores of the core's own memory. -/
def Obligations.OwnLoadsAndStores : Prop := Statements.OwnLoads ∧ Statements.OwnStores

/-- The plain instructions of the sequencer, and fences and locks of the memory column. -/
def Obligations.SequencerAndOrdering : Prop := Statements.PlainSequencer ∧ Statements.OrderingInstructions

/-- The instructions that end or stop a unit, and the return from a trap. -/
def Obligations.EndsAndReturns : Prop := Statements.EndsAndStops ∧ Statements.TrapReturn

/-- Timed blocks and waits, and what a clock that runs out does. -/
def Obligations.TimeAndBudgets : Prop := Statements.BlocksAndBudgets ∧ Statements.TimedEvents

/-- Vector logic, comparisons, presence and moves. -/
def Obligations.VectorBitsAndMoves : Prop := Statements.VectorBits ∧ Statements.VectorComparePresence ∧ Statements.VectorMoves

/-- Conversions between element formats, and permutations. -/
def Obligations.VectorConversionsAndPermutation : Prop := Statements.VectorConversions ∧ Statements.VectorPermutation

/-- The vector instructions that work on blocks of a register. -/
def Obligations.VectorBlocks : Prop := Statements.BlockAdd ∧ Statements.VectorBlocks

/-- Reductions of a register, and of the vectors of a receive queue. -/
def Obligations.VectorReductions : Prop := Statements.VectorReductions ∧ Statements.QueueReduction

/-- Vector loads and stores, whole and element by element. -/
def Obligations.VectorMemory : Prop := Statements.VectorMemory ∧ Statements.VectorElementMemory

/-- The stream instructions, and where a stream stands. -/
def Obligations.Streams : Prop := Statements.StreamInstructions ∧ Statements.StreamPositions

/-- The configuration of the tensor slice, and reading accumulator rows. -/
def Obligations.TensorRegisters : Prop := Statements.TensorConfiguration ∧ Statements.TensorRows

/-- The start of a tensor operation, the landing of its chunks, and a gang multiply. -/
def Obligations.TensorOperations : Prop := Statements.TensorStarts ∧ Statements.ChunkLanding ∧ Statements.GangMultiply

/-- The issue of the copy instructions. -/
def Obligations.CopyInstructions : Prop := Statements.CopyIssue ∧ Statements.CopyRowsAndMulticast

/-- RANK, POPSTEP and PWAIT, and their ends. -/
def Obligations.Selection : Prop := Statements.SelectionStarts ∧ Statements.SelectionEvents

/-- WSWAP, MIGR and the events of the draft unit. -/
def Obligations.SwitchAndMigrate : Prop := Statements.SwitchAndMigrate ∧ Statements.DraftEvents

/-- What an individual reads about itself, and the configuration of its population. -/
def Obligations.Populations : Prop := Statements.IndividualReads ∧ Statements.PopulationConfiguration

/-- TLBINV, PGHINT and HNDL, and the events of translation. -/
def Obligations.Translation : Prop := Statements.TranslationControl ∧ Statements.TranslationEvents

/-- Taking a trap, and a trap that no handler takes. -/
def Obligations.TrapsAndEscalation : Prop := Statements.TrapEntry ∧ Statements.Escalation

/-- What the sequencer raises at a word, and the events it takes between two words. -/
def Obligations.FaultsAndDelivery : Prop := Statements.SequencerFaults ∧ Statements.TrapDelivery

/-- Counters, device queues and job cards. -/
def Obligations.CountersQueuesJobs : Prop := Statements.CountersAndQueues ∧ Statements.JobCards

/-- SNAP, and the rollback of a group. -/
def Obligations.SnapshotAndRollback : Prop := Statements.SnapshotInstruction ∧ Statements.Rollback

/-- The host's registers, and the device's own events. -/
def Obligations.HostAndDevice : Prop := Statements.HostRegisters ∧ Statements.DeviceEvents
end

