-- ==== Sys2Proof/Laws/Map.lean ====
section
/-! SUPPORT. Laws of the sparse tables and of memory: a read after a write, and the canonical form kept. -/

namespace Sys2Proof.Machine

variable {α : Type}

@[simp] theorem mapGet_mapPut_same (m : List (Nat × α)) (i : Nat) (x : α) : mapGet (mapPut m i x) i = some x := by
  induction m with
  | nil => simp [mapPut, mapGet]
  | cons p t ih =>
    obtain ⟨k, v⟩ := p
    unfold mapPut
    split
    · simp [mapGet, *]
    · split
      · simp [mapGet]
      · simp [mapGet, *]

theorem mapGet_mapPut_ne (m : List (Nat × α)) {i j : Nat} (x : α) (h : j ≠ i) : mapGet (mapPut m i x) j = mapGet m j := by
  induction m with
  | nil => simp [mapPut, mapGet, h]
  | cons p t ih =>
    obtain ⟨k, v⟩ := p
    unfold mapPut
    split
    · subst_vars; simp [mapGet, h]
    · split
      · simp only [mapGet, h, if_false]
        split
        · rw [if_neg (by omega), if_pos (by omega)]
        · rfl
      · simp only [mapGet, ih]

@[simp] theorem mapGetD_mapPut_same (m : List (Nat × α)) (i : Nat) (x d : α) : mapGetD (mapPut m i x) i d = x := by
  simp [mapGetD]

theorem mapGetD_mapPut_ne (m : List (Nat × α)) {i j : Nat} (x d : α) (h : j ≠ i) :
    mapGetD (mapPut m i x) j d = mapGetD m j d := by
  simp [mapGetD, mapGet_mapPut_ne m x h]

@[simp] theorem mapPut_mapPut_same (m : List (Nat × α)) (i : Nat) (x y : α) : mapPut (mapPut m i x) i y = mapPut m i y := by
  induction m with
  | nil => simp [mapPut]
  | cons p t ih =>
    obtain ⟨k, v⟩ := p
    by_cases h : i = k
    · subst h; simp [mapPut]
    · by_cases h2 : i < k
      · simp [mapPut, h, h2]
      · simp [mapPut, h, h2, ih]

theorem mapGet_dropWhile (t : List (Nat × α)) {i j : Nat} (h : i < j) :
    mapGet (t.dropWhile (fun p => p.1 ≤ i)) j = mapGet t j := by
  induction t with
  | nil => rfl
  | cons p t ih =>
    obtain ⟨k, v⟩ := p
    by_cases hk : k ≤ i
    · simp only [List.dropWhile, hk, decide_true, mapGet]
      rw [ih, if_neg (by omega), if_neg (by omega)]
    · simp [List.dropWhile, hk]

theorem mapGet_dropWhile_le (t : List (Nat × α)) {i j : Nat} (h : j ≤ i) :
    mapGet (t.dropWhile (fun p => p.1 ≤ i)) j = none := by
  induction t with
  | nil => rfl
  | cons p t ih =>
    obtain ⟨k, v⟩ := p
    by_cases hk : k ≤ i
    · simp only [List.dropWhile, hk, decide_true]; exact ih
    · simp only [List.dropWhile, hk, decide_false, mapGet]
      rw [if_neg (by omega), if_pos (by omega)]

@[simp] theorem mapGet_mapDel_same (m : List (Nat × α)) (i : Nat) : mapGet (mapDel m i) i = none := by
  induction m with
  | nil => rfl
  | cons p t ih =>
    obtain ⟨k, v⟩ := p
    unfold mapDel
    split
    · simp only [mapGet]; rw [if_neg (by omega), if_neg (by omega)]; exact ih
    · exact mapGet_dropWhile_le _ (le_refl i)

theorem mapGet_mapDel_ne (m : List (Nat × α)) {i j : Nat} (h : j ≠ i) : mapGet (mapDel m i) j = mapGet m j := by
  induction m with
  | nil => rfl
  | cons p t ih =>
    obtain ⟨k, v⟩ := p
    unfold mapDel
    split
    · simp only [mapGet, ih]
    · by_cases hj : i < j
      · exact mapGet_dropWhile _ hj
      · rw [mapGet_dropWhile_le _ (by omega)]
        simp only [mapGet]; rw [if_neg (by omega), if_pos (by omega)]

theorem rising_cons (p : Nat × α) (t : List (Nat × α)) :
    rising (p :: t) = true ↔ (∀ q, t.head? = some q → p.1 < q.1) ∧ rising t = true := by
  cases t with
  | nil => simp [rising]
  | cons q t => simp [rising]

theorem head_mapPut (t : List (Nat × α)) (i : Nat) (x : α) (q : Nat × α) (h : (mapPut t i x).head? = some q) :
    q.1 = i ∨ t.head? = some q := by
  cases t with
  | nil => simp [mapPut] at h; left; rw [← h]
  | cons p t =>
    obtain ⟨k, v⟩ := p
    unfold mapPut at h
    split at h
    · simp at h; left; rw [← h]; simp_all
    · split at h
      · simp at h; left; rw [← h]
      · simp at h; right; simpa using h

/-- A write keeps the keys rising. -/
theorem rising_mapPut (m : List (Nat × α)) (i : Nat) (x : α) (h : rising m = true) : rising (mapPut m i x) = true := by
  induction m with
  | nil => rfl
  | cons p t ih =>
    obtain ⟨k, v⟩ := p
    rw [rising_cons] at h
    unfold mapPut
    split
    · rw [rising_cons]; exact ⟨by simpa using h.1, h.2⟩
    · split
      · rw [rising_cons, rising_cons]; exact ⟨by simpa, h⟩
      · rw [rising_cons]
        refine ⟨fun q hq => ?_, ih h.2⟩
        rcases head_mapPut t i x q hq with e | e
        · simp only; omega
        · exact h.1 q e

theorem rising_dropWhile (t : List (Nat × α)) (f : Nat × α → Bool) (h : rising t = true) : rising (t.dropWhile f) = true := by
  induction t with
  | nil => rfl
  | cons p t ih =>
    rw [List.dropWhile_cons]
    split
    · exact ih ((rising_cons p t).1 h).2
    · exact h

theorem head_mapDel (t : List (Nat × α)) (i k : Nat) (h : rising t = true) (hk : ∀ q, t.head? = some q → k < q.1) (q : Nat × α)
    (hq : (mapDel t i).head? = some q) : k < q.1 := by
  induction t with
  | nil => simp [mapDel] at hq
  | cons p t ih =>
    have hp := hk p rfl
    rw [rising_cons] at h
    obtain ⟨a, v⟩ := p
    unfold mapDel at hq
    split at hq
    · simp at hq; rw [← hq]; exact hp
    · rw [List.dropWhile_cons] at hq
      split at hq
      · have h2 : ∀ l : List (Nat × α), rising l = true → (∀ q, l.head? = some q → k < q.1) →
            (l.dropWhile (fun p => decide (p.1 ≤ i))).head? = some q → k < q.1 := by
          intro l
          induction l with
          | nil => intro _ _ e; simp at e
          | cons b l il =>
            intro hr hh e
            rw [List.dropWhile_cons] at e
            rw [rising_cons] at hr
            split at e
            · exact il hr.2 (fun q hq => lt_trans (hh b rfl) (hr.1 q hq)) e
            · simp at e; rw [← e]; exact hh b rfl
        exact h2 t h.2 (fun q hq => lt_trans hp (h.1 q hq)) hq
      · simp at hq; rw [← hq]; exact hp

/-- Taking out a key keeps the keys rising. -/
theorem rising_mapDel (m : List (Nat × α)) (i : Nat) (h : rising m = true) : rising (mapDel m i) = true := by
  induction m with
  | nil => rfl
  | cons p t ih =>
    obtain ⟨k, v⟩ := p
    have h' := (rising_cons _ _).1 h
    unfold mapDel
    split
    · rw [rising_cons]; exact ⟨fun q hq => head_mapDel t i k h'.2 h'.1 q hq, ih h'.2⟩
    · exact rising_dropWhile _ _ h

theorem mem_mapPut (m : List (Nat × α)) (i : Nat) (x : α) (p : Nat × α) (h : p ∈ mapPut m i x) : p = (i, x) ∨ p ∈ m := by
  induction m with
  | nil => simpa [mapPut] using h
  | cons q t ih =>
    obtain ⟨k, v⟩ := q
    unfold mapPut at h
    split at h
    · subst_vars; simp at h ⊢; tauto
    · split at h
      · simp at h ⊢; tauto
      · simp at h ⊢
        rcases h with h | h
        · tauto
        · rcases ih h with e | e <;> tauto

theorem mem_mapDel (m : List (Nat × α)) (i : Nat) (p : Nat × α) (h : p ∈ mapDel m i) : p ∈ m := by
  induction m with
  | nil => simp [mapDel] at h
  | cons q t ih =>
    obtain ⟨k, v⟩ := q
    unfold mapDel at h
    split at h
    · simp at h ⊢
      rcases h with h | h
      · tauto
      · exact Or.inr (ih h)
    · exact List.dropWhile_subset _ h

/-! ## Memory -/

/-- A read after a write of a byte. -/
theorem memGet_memSet (m : List Host.Cell) (a b : Nat) (x : Byte) :
    memGet (memSet m a x) b = if b = a then x else memGet m b := by
  unfold memGet memSet mapGetD
  split
  · subst_vars
    by_cases h : b = a
    · subst h; rw [mapGet_mapDel_same]; simp
    · rw [mapGet_mapDel_ne m h]; simp [h]
  · by_cases h : b = a
    · subst h; rw [mapGet_mapPut_same]; simp
    · rw [mapGet_mapPut_ne m x h]; simp [h]

/-- A read after a write of bytes. -/
theorem memGet_memWrite (l : List Byte) : ∀ (m : List Host.Cell) (a b : Nat),
    memGet (memWrite m a l) b = if a ≤ b ∧ b < a + l.length then l.getD (b - a) 0 else memGet m b := by
  induction l with
  | nil => intro m a b; simp [memWrite]
  | cons x l ih =>
    intro m a b
    rw [memWrite, ih, memGet_memSet]
    by_cases h : b = a
    · subst h
      rw [if_neg (by omega), if_pos rfl, if_pos (by simp)]; simp
    · by_cases h2 : a + 1 ≤ b ∧ b < a + 1 + l.length
      · rw [if_pos h2, if_pos (by simp; omega)]
        have : b - a = (b - (a + 1)) + 1 := by omega
        rw [this, List.getD_cons_succ]
      · rw [if_neg h2, if_neg h, if_neg (by simp; omega)]

/-- A write of a byte keeps the canonical form. -/
theorem memWf_memSet (m : List Host.Cell) (a : Nat) (x : Byte) (h : memWf m = true) : memWf (memSet m a x) = true := by
  unfold memWf at h ⊢
  simp only [Bool.and_eq_true, List.all_eq_true] at h ⊢
  unfold memSet
  split
  · exact ⟨rising_mapDel m a h.1, fun p hp => h.2 p (mem_mapDel m a p hp)⟩
  · refine ⟨rising_mapPut m a x h.1, fun p hp => ?_⟩
    rcases mem_mapPut m a x p hp with e | e
    · rw [e]; simpa
    · exact h.2 p e

/-- A write of bytes keeps the canonical form. -/
theorem memWf_memWrite (l : List Byte) : ∀ (m : List Host.Cell) (a : Nat), memWf m = true → memWf (memWrite m a l) = true := by
  induction l with
  | nil => intro m a h; exact h
  | cons x l ih => intro m a h; exact ih _ _ (memWf_memSet m a x h)

theorem length_memRead (m : List Host.Cell) (n : Nat) : ∀ a, (memRead m a n).length = n := by
  induction n with
  | zero => intro a; rfl
  | succ n ih => intro a; simp [memRead, ih]

theorem length_leBytes (n : Nat) : ∀ w, (leBytes n w).length = n := by
  induction n with
  | zero => intro w; rfl
  | succ n ih => intro w; simp [leBytes, ih]

/-- Reading back the bytes of a number. -/
theorem leNat_leBytes (n : Nat) : ∀ w, leNat (leBytes n w) = w % 256 ^ n := by
  induction n with
  | zero => intro w; simp [leBytes, leNat, Nat.mod_one]
  | succ n ih =>
    intro w
    rw [leBytes, leNat, ih, pow_succ, Nat.mul_comm (256 ^ n) 256, Nat.mod_mul]
    simp

end Sys2Proof.Machine
end

