-- ==== Sys2Proof/Laws/State.lean ====
section
/-! SUPPORT. What each update of State and of a core leaves: one lemma per field, and what a table reads after an update of
it. A later proof rewrites with these and unfolds no record update. -/

namespace Sys2Proof.Machine

/-! ## Updates of State -/

@[simp] theorem State.setCore_clk (s : State) (c : Nat) (k : Core) : (s.setCore c k).clk = s.clk := rfl
@[simp] theorem State.setCore_mem (s : State) (c : Nat) (k : Core) : (s.setCore c k).mem = s.mem := rfl
@[simp] theorem State.setCore_tags (s : State) (c : Nat) (k : Core) : (s.setCore c k).tags = s.tags := rfl
@[simp] theorem State.setCore_written (s : State) (c : Nat) (k : Core) : (s.setCore c k).written = s.written := rfl
@[simp] theorem State.setCore_poison (s : State) (c : Nat) (k : Core) : (s.setCore c k).poison = s.poison := rfl
@[simp] theorem State.setCore_lines (s : State) (c : Nat) (k : Core) : (s.setCore c k).lines = s.lines := rfl
@[simp] theorem State.setCore_owners (s : State) (c : Nat) (k : Core) : (s.setCore c k).owners = s.owners := rfl
@[simp] theorem State.setCore_ctxs (s : State) (c : Nat) (k : Core) : (s.setCore c k).ctxs = s.ctxs := rfl
@[simp] theorem State.setCore_barriers (s : State) (c : Nat) (k : Core) : (s.setCore c k).barriers = s.barriers := rfl
@[simp] theorem State.setCore_pops (s : State) (c : Nat) (k : Core) : (s.setCore c k).pops = s.pops := rfl
@[simp] theorem State.setCore_queues (s : State) (c : Nat) (k : Core) : (s.setCore c k).queues = s.queues := rfl
@[simp] theorem State.setCore_launches (s : State) (c : Nat) (k : Core) : (s.setCore c k).launches = s.launches := rfl
@[simp] theorem State.setCore_nextLaunch (s : State) (c : Nat) (k : Core) : (s.setCore c k).nextLaunch = s.nextLaunch := rfl
@[simp] theorem State.setCore_latest (s : State) (c : Nat) (k : Core) : (s.setCore c k).latest = s.latest := rfl
@[simp] theorem State.setCore_cown (s : State) (c : Nat) (k : Core) : (s.setCore c k).cown = s.cown := rfl
@[simp] theorem State.setCore_funcs (s : State) (c : Nat) (k : Core) : (s.setCore c k).funcs = s.funcs := rfl
@[simp] theorem State.setCore_isl (s : State) (c : Nat) (k : Core) : (s.setCore c k).isl = s.isl := rfl
@[simp] theorem State.setCore_eps (s : State) (c : Nat) (k : Core) : (s.setCore c k).eps = s.eps := rfl
@[simp] theorem State.setCore_ports (s : State) (c : Nat) (k : Core) : (s.setCore c k).ports = s.ports := rfl
@[simp] theorem State.setCore_colls (s : State) (c : Nat) (k : Core) : (s.setCore c k).colls = s.colls := rfl
@[simp] theorem State.setCore_msgs (s : State) (c : Nat) (k : Core) : (s.setCore c k).msgs = s.msgs := rfl
@[simp] theorem State.setCore_inputs (s : State) (c : Nat) (k : Core) : (s.setCore c k).inputs = s.inputs := rfl
@[simp] theorem State.setCore_outbox (s : State) (c : Nat) (k : Core) : (s.setCore c k).outbox = s.outbox := rfl
@[simp] theorem State.setCore_asks (s : State) (c : Nat) (k : Core) : (s.setCore c k).asks = s.asks := rfl
@[simp] theorem State.setCore_ext (s : State) (c : Nat) (k : Core) : (s.setCore c k).ext = s.ext := rfl
@[simp] theorem State.setCore_period (s : State) (c : Nat) (k : Core) : (s.setCore c k).period = s.period := rfl
@[simp] theorem State.setCore_lltlb (s : State) (c : Nat) (k : Core) : (s.setCore c k).lltlb = s.lltlb := rfl
@[simp] theorem State.setCore_hand (s : State) (c : Nat) (k : Core) : (s.setCore c k).hand = s.hand := rfl
@[simp] theorem State.setCore_free (s : State) (c : Nat) (k : Core) : (s.setCore c k).free = s.free := rfl
@[simp] theorem State.setCore_lone (s : State) (c : Nat) (k : Core) : (s.setCore c k).lone = s.lone := rfl

@[simp] theorem State.setCtx_clk (s : State) (c : Nat) (x : Ctx) : (s.setCtx c x).clk = s.clk := rfl
@[simp] theorem State.setCtx_cores (s : State) (c : Nat) (x : Ctx) : (s.setCtx c x).cores = s.cores := rfl
@[simp] theorem State.setCtx_mem (s : State) (c : Nat) (x : Ctx) : (s.setCtx c x).mem = s.mem := rfl
@[simp] theorem State.setCtx_tags (s : State) (c : Nat) (x : Ctx) : (s.setCtx c x).tags = s.tags := rfl
@[simp] theorem State.setCtx_written (s : State) (c : Nat) (x : Ctx) : (s.setCtx c x).written = s.written := rfl
@[simp] theorem State.setCtx_poison (s : State) (c : Nat) (x : Ctx) : (s.setCtx c x).poison = s.poison := rfl
@[simp] theorem State.setCtx_lines (s : State) (c : Nat) (x : Ctx) : (s.setCtx c x).lines = s.lines := rfl
@[simp] theorem State.setCtx_owners (s : State) (c : Nat) (x : Ctx) : (s.setCtx c x).owners = s.owners := rfl
@[simp] theorem State.setCtx_barriers (s : State) (c : Nat) (x : Ctx) : (s.setCtx c x).barriers = s.barriers := rfl
@[simp] theorem State.setCtx_pops (s : State) (c : Nat) (x : Ctx) : (s.setCtx c x).pops = s.pops := rfl
@[simp] theorem State.setCtx_queues (s : State) (c : Nat) (x : Ctx) : (s.setCtx c x).queues = s.queues := rfl
@[simp] theorem State.setCtx_launches (s : State) (c : Nat) (x : Ctx) : (s.setCtx c x).launches = s.launches := rfl
@[simp] theorem State.setCtx_nextLaunch (s : State) (c : Nat) (x : Ctx) : (s.setCtx c x).nextLaunch = s.nextLaunch := rfl
@[simp] theorem State.setCtx_latest (s : State) (c : Nat) (x : Ctx) : (s.setCtx c x).latest = s.latest := rfl
@[simp] theorem State.setCtx_cown (s : State) (c : Nat) (x : Ctx) : (s.setCtx c x).cown = s.cown := rfl
@[simp] theorem State.setCtx_funcs (s : State) (c : Nat) (x : Ctx) : (s.setCtx c x).funcs = s.funcs := rfl
@[simp] theorem State.setCtx_isl (s : State) (c : Nat) (x : Ctx) : (s.setCtx c x).isl = s.isl := rfl
@[simp] theorem State.setCtx_eps (s : State) (c : Nat) (x : Ctx) : (s.setCtx c x).eps = s.eps := rfl
@[simp] theorem State.setCtx_ports (s : State) (c : Nat) (x : Ctx) : (s.setCtx c x).ports = s.ports := rfl
@[simp] theorem State.setCtx_colls (s : State) (c : Nat) (x : Ctx) : (s.setCtx c x).colls = s.colls := rfl
@[simp] theorem State.setCtx_msgs (s : State) (c : Nat) (x : Ctx) : (s.setCtx c x).msgs = s.msgs := rfl
@[simp] theorem State.setCtx_inputs (s : State) (c : Nat) (x : Ctx) : (s.setCtx c x).inputs = s.inputs := rfl
@[simp] theorem State.setCtx_outbox (s : State) (c : Nat) (x : Ctx) : (s.setCtx c x).outbox = s.outbox := rfl
@[simp] theorem State.setCtx_asks (s : State) (c : Nat) (x : Ctx) : (s.setCtx c x).asks = s.asks := rfl
@[simp] theorem State.setCtx_ext (s : State) (c : Nat) (x : Ctx) : (s.setCtx c x).ext = s.ext := rfl
@[simp] theorem State.setCtx_period (s : State) (c : Nat) (x : Ctx) : (s.setCtx c x).period = s.period := rfl
@[simp] theorem State.setCtx_lltlb (s : State) (c : Nat) (x : Ctx) : (s.setCtx c x).lltlb = s.lltlb := rfl
@[simp] theorem State.setCtx_hand (s : State) (c : Nat) (x : Ctx) : (s.setCtx c x).hand = s.hand := rfl
@[simp] theorem State.setCtx_free (s : State) (c : Nat) (x : Ctx) : (s.setCtx c x).free = s.free := rfl
@[simp] theorem State.setCtx_lone (s : State) (c : Nat) (x : Ctx) : (s.setCtx c x).lone = s.lone := rfl

@[simp] theorem State.setQueue_clk (s : State) (c : Nat) (x : Queue) : (s.setQueue c x).clk = s.clk := rfl
@[simp] theorem State.setQueue_cores (s : State) (c : Nat) (x : Queue) : (s.setQueue c x).cores = s.cores := rfl
@[simp] theorem State.setQueue_mem (s : State) (c : Nat) (x : Queue) : (s.setQueue c x).mem = s.mem := rfl
@[simp] theorem State.setQueue_tags (s : State) (c : Nat) (x : Queue) : (s.setQueue c x).tags = s.tags := rfl
@[simp] theorem State.setQueue_written (s : State) (c : Nat) (x : Queue) : (s.setQueue c x).written = s.written := rfl
@[simp] theorem State.setQueue_poison (s : State) (c : Nat) (x : Queue) : (s.setQueue c x).poison = s.poison := rfl
@[simp] theorem State.setQueue_lines (s : State) (c : Nat) (x : Queue) : (s.setQueue c x).lines = s.lines := rfl
@[simp] theorem State.setQueue_owners (s : State) (c : Nat) (x : Queue) : (s.setQueue c x).owners = s.owners := rfl
@[simp] theorem State.setQueue_ctxs (s : State) (c : Nat) (x : Queue) : (s.setQueue c x).ctxs = s.ctxs := rfl
@[simp] theorem State.setQueue_barriers (s : State) (c : Nat) (x : Queue) : (s.setQueue c x).barriers = s.barriers := rfl
@[simp] theorem State.setQueue_pops (s : State) (c : Nat) (x : Queue) : (s.setQueue c x).pops = s.pops := rfl
@[simp] theorem State.setQueue_launches (s : State) (c : Nat) (x : Queue) : (s.setQueue c x).launches = s.launches := rfl
@[simp] theorem State.setQueue_nextLaunch (s : State) (c : Nat) (x : Queue) : (s.setQueue c x).nextLaunch = s.nextLaunch := rfl
@[simp] theorem State.setQueue_latest (s : State) (c : Nat) (x : Queue) : (s.setQueue c x).latest = s.latest := rfl
@[simp] theorem State.setQueue_cown (s : State) (c : Nat) (x : Queue) : (s.setQueue c x).cown = s.cown := rfl
@[simp] theorem State.setQueue_funcs (s : State) (c : Nat) (x : Queue) : (s.setQueue c x).funcs = s.funcs := rfl
@[simp] theorem State.setQueue_isl (s : State) (c : Nat) (x : Queue) : (s.setQueue c x).isl = s.isl := rfl
@[simp] theorem State.setQueue_eps (s : State) (c : Nat) (x : Queue) : (s.setQueue c x).eps = s.eps := rfl
@[simp] theorem State.setQueue_ports (s : State) (c : Nat) (x : Queue) : (s.setQueue c x).ports = s.ports := rfl
@[simp] theorem State.setQueue_colls (s : State) (c : Nat) (x : Queue) : (s.setQueue c x).colls = s.colls := rfl
@[simp] theorem State.setQueue_msgs (s : State) (c : Nat) (x : Queue) : (s.setQueue c x).msgs = s.msgs := rfl
@[simp] theorem State.setQueue_inputs (s : State) (c : Nat) (x : Queue) : (s.setQueue c x).inputs = s.inputs := rfl
@[simp] theorem State.setQueue_outbox (s : State) (c : Nat) (x : Queue) : (s.setQueue c x).outbox = s.outbox := rfl
@[simp] theorem State.setQueue_asks (s : State) (c : Nat) (x : Queue) : (s.setQueue c x).asks = s.asks := rfl
@[simp] theorem State.setQueue_ext (s : State) (c : Nat) (x : Queue) : (s.setQueue c x).ext = s.ext := rfl
@[simp] theorem State.setQueue_period (s : State) (c : Nat) (x : Queue) : (s.setQueue c x).period = s.period := rfl
@[simp] theorem State.setQueue_lltlb (s : State) (c : Nat) (x : Queue) : (s.setQueue c x).lltlb = s.lltlb := rfl
@[simp] theorem State.setQueue_hand (s : State) (c : Nat) (x : Queue) : (s.setQueue c x).hand = s.hand := rfl
@[simp] theorem State.setQueue_free (s : State) (c : Nat) (x : Queue) : (s.setQueue c x).free = s.free := rfl
@[simp] theorem State.setQueue_lone (s : State) (c : Nat) (x : Queue) : (s.setQueue c x).lone = s.lone := rfl

@[simp] theorem State.setLaunch_clk (s : State) (c : Nat) (x : Launch) : (s.setLaunch c x).clk = s.clk := rfl
@[simp] theorem State.setLaunch_cores (s : State) (c : Nat) (x : Launch) : (s.setLaunch c x).cores = s.cores := rfl
@[simp] theorem State.setLaunch_mem (s : State) (c : Nat) (x : Launch) : (s.setLaunch c x).mem = s.mem := rfl
@[simp] theorem State.setLaunch_tags (s : State) (c : Nat) (x : Launch) : (s.setLaunch c x).tags = s.tags := rfl
@[simp] theorem State.setLaunch_written (s : State) (c : Nat) (x : Launch) : (s.setLaunch c x).written = s.written := rfl
@[simp] theorem State.setLaunch_poison (s : State) (c : Nat) (x : Launch) : (s.setLaunch c x).poison = s.poison := rfl
@[simp] theorem State.setLaunch_lines (s : State) (c : Nat) (x : Launch) : (s.setLaunch c x).lines = s.lines := rfl
@[simp] theorem State.setLaunch_owners (s : State) (c : Nat) (x : Launch) : (s.setLaunch c x).owners = s.owners := rfl
@[simp] theorem State.setLaunch_ctxs (s : State) (c : Nat) (x : Launch) : (s.setLaunch c x).ctxs = s.ctxs := rfl
@[simp] theorem State.setLaunch_barriers (s : State) (c : Nat) (x : Launch) : (s.setLaunch c x).barriers = s.barriers := rfl
@[simp] theorem State.setLaunch_pops (s : State) (c : Nat) (x : Launch) : (s.setLaunch c x).pops = s.pops := rfl
@[simp] theorem State.setLaunch_queues (s : State) (c : Nat) (x : Launch) : (s.setLaunch c x).queues = s.queues := rfl
@[simp] theorem State.setLaunch_nextLaunch (s : State) (c : Nat) (x : Launch) : (s.setLaunch c x).nextLaunch = s.nextLaunch := rfl
@[simp] theorem State.setLaunch_latest (s : State) (c : Nat) (x : Launch) : (s.setLaunch c x).latest = s.latest := rfl
@[simp] theorem State.setLaunch_cown (s : State) (c : Nat) (x : Launch) : (s.setLaunch c x).cown = s.cown := rfl
@[simp] theorem State.setLaunch_funcs (s : State) (c : Nat) (x : Launch) : (s.setLaunch c x).funcs = s.funcs := rfl
@[simp] theorem State.setLaunch_isl (s : State) (c : Nat) (x : Launch) : (s.setLaunch c x).isl = s.isl := rfl
@[simp] theorem State.setLaunch_eps (s : State) (c : Nat) (x : Launch) : (s.setLaunch c x).eps = s.eps := rfl
@[simp] theorem State.setLaunch_ports (s : State) (c : Nat) (x : Launch) : (s.setLaunch c x).ports = s.ports := rfl
@[simp] theorem State.setLaunch_colls (s : State) (c : Nat) (x : Launch) : (s.setLaunch c x).colls = s.colls := rfl
@[simp] theorem State.setLaunch_msgs (s : State) (c : Nat) (x : Launch) : (s.setLaunch c x).msgs = s.msgs := rfl
@[simp] theorem State.setLaunch_inputs (s : State) (c : Nat) (x : Launch) : (s.setLaunch c x).inputs = s.inputs := rfl
@[simp] theorem State.setLaunch_outbox (s : State) (c : Nat) (x : Launch) : (s.setLaunch c x).outbox = s.outbox := rfl
@[simp] theorem State.setLaunch_asks (s : State) (c : Nat) (x : Launch) : (s.setLaunch c x).asks = s.asks := rfl
@[simp] theorem State.setLaunch_ext (s : State) (c : Nat) (x : Launch) : (s.setLaunch c x).ext = s.ext := rfl
@[simp] theorem State.setLaunch_period (s : State) (c : Nat) (x : Launch) : (s.setLaunch c x).period = s.period := rfl
@[simp] theorem State.setLaunch_lltlb (s : State) (c : Nat) (x : Launch) : (s.setLaunch c x).lltlb = s.lltlb := rfl
@[simp] theorem State.setLaunch_hand (s : State) (c : Nat) (x : Launch) : (s.setLaunch c x).hand = s.hand := rfl
@[simp] theorem State.setLaunch_free (s : State) (c : Nat) (x : Launch) : (s.setLaunch c x).free = s.free := rfl
@[simp] theorem State.setLaunch_lone (s : State) (c : Nat) (x : Launch) : (s.setLaunch c x).lone = s.lone := rfl

@[simp] theorem State.modEp_clk (s : State) (c : Nat) (f : Endpoint → Endpoint) : (s.modEp c f).clk = s.clk := rfl
@[simp] theorem State.modEp_cores (s : State) (c : Nat) (f : Endpoint → Endpoint) : (s.modEp c f).cores = s.cores := rfl
@[simp] theorem State.modEp_mem (s : State) (c : Nat) (f : Endpoint → Endpoint) : (s.modEp c f).mem = s.mem := rfl
@[simp] theorem State.modEp_tags (s : State) (c : Nat) (f : Endpoint → Endpoint) : (s.modEp c f).tags = s.tags := rfl
@[simp] theorem State.modEp_written (s : State) (c : Nat) (f : Endpoint → Endpoint) : (s.modEp c f).written = s.written := rfl
@[simp] theorem State.modEp_poison (s : State) (c : Nat) (f : Endpoint → Endpoint) : (s.modEp c f).poison = s.poison := rfl
@[simp] theorem State.modEp_lines (s : State) (c : Nat) (f : Endpoint → Endpoint) : (s.modEp c f).lines = s.lines := rfl
@[simp] theorem State.modEp_owners (s : State) (c : Nat) (f : Endpoint → Endpoint) : (s.modEp c f).owners = s.owners := rfl
@[simp] theorem State.modEp_ctxs (s : State) (c : Nat) (f : Endpoint → Endpoint) : (s.modEp c f).ctxs = s.ctxs := rfl
@[simp] theorem State.modEp_barriers (s : State) (c : Nat) (f : Endpoint → Endpoint) : (s.modEp c f).barriers = s.barriers := rfl
@[simp] theorem State.modEp_pops (s : State) (c : Nat) (f : Endpoint → Endpoint) : (s.modEp c f).pops = s.pops := rfl
@[simp] theorem State.modEp_queues (s : State) (c : Nat) (f : Endpoint → Endpoint) : (s.modEp c f).queues = s.queues := rfl
@[simp] theorem State.modEp_launches (s : State) (c : Nat) (f : Endpoint → Endpoint) : (s.modEp c f).launches = s.launches := rfl
@[simp] theorem State.modEp_nextLaunch (s : State) (c : Nat) (f : Endpoint → Endpoint) : (s.modEp c f).nextLaunch = s.nextLaunch := rfl
@[simp] theorem State.modEp_latest (s : State) (c : Nat) (f : Endpoint → Endpoint) : (s.modEp c f).latest = s.latest := rfl
@[simp] theorem State.modEp_cown (s : State) (c : Nat) (f : Endpoint → Endpoint) : (s.modEp c f).cown = s.cown := rfl
@[simp] theorem State.modEp_funcs (s : State) (c : Nat) (f : Endpoint → Endpoint) : (s.modEp c f).funcs = s.funcs := rfl
@[simp] theorem State.modEp_isl (s : State) (c : Nat) (f : Endpoint → Endpoint) : (s.modEp c f).isl = s.isl := rfl
@[simp] theorem State.modEp_ports (s : State) (c : Nat) (f : Endpoint → Endpoint) : (s.modEp c f).ports = s.ports := rfl
@[simp] theorem State.modEp_colls (s : State) (c : Nat) (f : Endpoint → Endpoint) : (s.modEp c f).colls = s.colls := rfl
@[simp] theorem State.modEp_msgs (s : State) (c : Nat) (f : Endpoint → Endpoint) : (s.modEp c f).msgs = s.msgs := rfl
@[simp] theorem State.modEp_inputs (s : State) (c : Nat) (f : Endpoint → Endpoint) : (s.modEp c f).inputs = s.inputs := rfl
@[simp] theorem State.modEp_outbox (s : State) (c : Nat) (f : Endpoint → Endpoint) : (s.modEp c f).outbox = s.outbox := rfl
@[simp] theorem State.modEp_asks (s : State) (c : Nat) (f : Endpoint → Endpoint) : (s.modEp c f).asks = s.asks := rfl
@[simp] theorem State.modEp_ext (s : State) (c : Nat) (f : Endpoint → Endpoint) : (s.modEp c f).ext = s.ext := rfl
@[simp] theorem State.modEp_period (s : State) (c : Nat) (f : Endpoint → Endpoint) : (s.modEp c f).period = s.period := rfl
@[simp] theorem State.modEp_lltlb (s : State) (c : Nat) (f : Endpoint → Endpoint) : (s.modEp c f).lltlb = s.lltlb := rfl
@[simp] theorem State.modEp_hand (s : State) (c : Nat) (f : Endpoint → Endpoint) : (s.modEp c f).hand = s.hand := rfl
@[simp] theorem State.modEp_free (s : State) (c : Nat) (f : Endpoint → Endpoint) : (s.modEp c f).free = s.free := rfl
@[simp] theorem State.modEp_lone (s : State) (c : Nat) (f : Endpoint → Endpoint) : (s.modEp c f).lone = s.lone := rfl

@[simp] theorem State.modPort_clk (s : State) (c : Nat) (f : Port → Port) : (s.modPort c f).clk = s.clk := rfl
@[simp] theorem State.modPort_cores (s : State) (c : Nat) (f : Port → Port) : (s.modPort c f).cores = s.cores := rfl
@[simp] theorem State.modPort_mem (s : State) (c : Nat) (f : Port → Port) : (s.modPort c f).mem = s.mem := rfl
@[simp] theorem State.modPort_tags (s : State) (c : Nat) (f : Port → Port) : (s.modPort c f).tags = s.tags := rfl
@[simp] theorem State.modPort_written (s : State) (c : Nat) (f : Port → Port) : (s.modPort c f).written = s.written := rfl
@[simp] theorem State.modPort_poison (s : State) (c : Nat) (f : Port → Port) : (s.modPort c f).poison = s.poison := rfl
@[simp] theorem State.modPort_lines (s : State) (c : Nat) (f : Port → Port) : (s.modPort c f).lines = s.lines := rfl
@[simp] theorem State.modPort_owners (s : State) (c : Nat) (f : Port → Port) : (s.modPort c f).owners = s.owners := rfl
@[simp] theorem State.modPort_ctxs (s : State) (c : Nat) (f : Port → Port) : (s.modPort c f).ctxs = s.ctxs := rfl
@[simp] theorem State.modPort_barriers (s : State) (c : Nat) (f : Port → Port) : (s.modPort c f).barriers = s.barriers := rfl
@[simp] theorem State.modPort_pops (s : State) (c : Nat) (f : Port → Port) : (s.modPort c f).pops = s.pops := rfl
@[simp] theorem State.modPort_queues (s : State) (c : Nat) (f : Port → Port) : (s.modPort c f).queues = s.queues := rfl
@[simp] theorem State.modPort_launches (s : State) (c : Nat) (f : Port → Port) : (s.modPort c f).launches = s.launches := rfl
@[simp] theorem State.modPort_nextLaunch (s : State) (c : Nat) (f : Port → Port) : (s.modPort c f).nextLaunch = s.nextLaunch := rfl
@[simp] theorem State.modPort_latest (s : State) (c : Nat) (f : Port → Port) : (s.modPort c f).latest = s.latest := rfl
@[simp] theorem State.modPort_cown (s : State) (c : Nat) (f : Port → Port) : (s.modPort c f).cown = s.cown := rfl
@[simp] theorem State.modPort_funcs (s : State) (c : Nat) (f : Port → Port) : (s.modPort c f).funcs = s.funcs := rfl
@[simp] theorem State.modPort_isl (s : State) (c : Nat) (f : Port → Port) : (s.modPort c f).isl = s.isl := rfl
@[simp] theorem State.modPort_eps (s : State) (c : Nat) (f : Port → Port) : (s.modPort c f).eps = s.eps := rfl
@[simp] theorem State.modPort_colls (s : State) (c : Nat) (f : Port → Port) : (s.modPort c f).colls = s.colls := rfl
@[simp] theorem State.modPort_msgs (s : State) (c : Nat) (f : Port → Port) : (s.modPort c f).msgs = s.msgs := rfl
@[simp] theorem State.modPort_inputs (s : State) (c : Nat) (f : Port → Port) : (s.modPort c f).inputs = s.inputs := rfl
@[simp] theorem State.modPort_outbox (s : State) (c : Nat) (f : Port → Port) : (s.modPort c f).outbox = s.outbox := rfl
@[simp] theorem State.modPort_asks (s : State) (c : Nat) (f : Port → Port) : (s.modPort c f).asks = s.asks := rfl
@[simp] theorem State.modPort_ext (s : State) (c : Nat) (f : Port → Port) : (s.modPort c f).ext = s.ext := rfl
@[simp] theorem State.modPort_period (s : State) (c : Nat) (f : Port → Port) : (s.modPort c f).period = s.period := rfl
@[simp] theorem State.modPort_lltlb (s : State) (c : Nat) (f : Port → Port) : (s.modPort c f).lltlb = s.lltlb := rfl
@[simp] theorem State.modPort_hand (s : State) (c : Nat) (f : Port → Port) : (s.modPort c f).hand = s.hand := rfl
@[simp] theorem State.modPort_free (s : State) (c : Nat) (f : Port → Port) : (s.modPort c f).free = s.free := rfl
@[simp] theorem State.modPort_lone (s : State) (c : Nat) (f : Port → Port) : (s.modPort c f).lone = s.lone := rfl

@[simp] theorem State.modColl_clk (s : State) (c : Nat) (f : Coll → Coll) : (s.modColl c f).clk = s.clk := rfl
@[simp] theorem State.modColl_cores (s : State) (c : Nat) (f : Coll → Coll) : (s.modColl c f).cores = s.cores := rfl
@[simp] theorem State.modColl_mem (s : State) (c : Nat) (f : Coll → Coll) : (s.modColl c f).mem = s.mem := rfl
@[simp] theorem State.modColl_tags (s : State) (c : Nat) (f : Coll → Coll) : (s.modColl c f).tags = s.tags := rfl
@[simp] theorem State.modColl_written (s : State) (c : Nat) (f : Coll → Coll) : (s.modColl c f).written = s.written := rfl
@[simp] theorem State.modColl_poison (s : State) (c : Nat) (f : Coll → Coll) : (s.modColl c f).poison = s.poison := rfl
@[simp] theorem State.modColl_lines (s : State) (c : Nat) (f : Coll → Coll) : (s.modColl c f).lines = s.lines := rfl
@[simp] theorem State.modColl_owners (s : State) (c : Nat) (f : Coll → Coll) : (s.modColl c f).owners = s.owners := rfl
@[simp] theorem State.modColl_ctxs (s : State) (c : Nat) (f : Coll → Coll) : (s.modColl c f).ctxs = s.ctxs := rfl
@[simp] theorem State.modColl_barriers (s : State) (c : Nat) (f : Coll → Coll) : (s.modColl c f).barriers = s.barriers := rfl
@[simp] theorem State.modColl_pops (s : State) (c : Nat) (f : Coll → Coll) : (s.modColl c f).pops = s.pops := rfl
@[simp] theorem State.modColl_queues (s : State) (c : Nat) (f : Coll → Coll) : (s.modColl c f).queues = s.queues := rfl
@[simp] theorem State.modColl_launches (s : State) (c : Nat) (f : Coll → Coll) : (s.modColl c f).launches = s.launches := rfl
@[simp] theorem State.modColl_nextLaunch (s : State) (c : Nat) (f : Coll → Coll) : (s.modColl c f).nextLaunch = s.nextLaunch := rfl
@[simp] theorem State.modColl_latest (s : State) (c : Nat) (f : Coll → Coll) : (s.modColl c f).latest = s.latest := rfl
@[simp] theorem State.modColl_cown (s : State) (c : Nat) (f : Coll → Coll) : (s.modColl c f).cown = s.cown := rfl
@[simp] theorem State.modColl_funcs (s : State) (c : Nat) (f : Coll → Coll) : (s.modColl c f).funcs = s.funcs := rfl
@[simp] theorem State.modColl_isl (s : State) (c : Nat) (f : Coll → Coll) : (s.modColl c f).isl = s.isl := rfl
@[simp] theorem State.modColl_eps (s : State) (c : Nat) (f : Coll → Coll) : (s.modColl c f).eps = s.eps := rfl
@[simp] theorem State.modColl_ports (s : State) (c : Nat) (f : Coll → Coll) : (s.modColl c f).ports = s.ports := rfl
@[simp] theorem State.modColl_msgs (s : State) (c : Nat) (f : Coll → Coll) : (s.modColl c f).msgs = s.msgs := rfl
@[simp] theorem State.modColl_inputs (s : State) (c : Nat) (f : Coll → Coll) : (s.modColl c f).inputs = s.inputs := rfl
@[simp] theorem State.modColl_outbox (s : State) (c : Nat) (f : Coll → Coll) : (s.modColl c f).outbox = s.outbox := rfl
@[simp] theorem State.modColl_asks (s : State) (c : Nat) (f : Coll → Coll) : (s.modColl c f).asks = s.asks := rfl
@[simp] theorem State.modColl_ext (s : State) (c : Nat) (f : Coll → Coll) : (s.modColl c f).ext = s.ext := rfl
@[simp] theorem State.modColl_period (s : State) (c : Nat) (f : Coll → Coll) : (s.modColl c f).period = s.period := rfl
@[simp] theorem State.modColl_lltlb (s : State) (c : Nat) (f : Coll → Coll) : (s.modColl c f).lltlb = s.lltlb := rfl
@[simp] theorem State.modColl_hand (s : State) (c : Nat) (f : Coll → Coll) : (s.modColl c f).hand = s.hand := rfl
@[simp] theorem State.modColl_free (s : State) (c : Nat) (f : Coll → Coll) : (s.modColl c f).free = s.free := rfl
@[simp] theorem State.modColl_lone (s : State) (c : Nat) (f : Coll → Coll) : (s.modColl c f).lone = s.lone := rfl

@[simp] theorem State.modIsl_clk (s : State) (f : Island → Island) : (s.modIsl f).clk = s.clk := rfl
@[simp] theorem State.modIsl_cores (s : State) (f : Island → Island) : (s.modIsl f).cores = s.cores := rfl
@[simp] theorem State.modIsl_mem (s : State) (f : Island → Island) : (s.modIsl f).mem = s.mem := rfl
@[simp] theorem State.modIsl_tags (s : State) (f : Island → Island) : (s.modIsl f).tags = s.tags := rfl
@[simp] theorem State.modIsl_written (s : State) (f : Island → Island) : (s.modIsl f).written = s.written := rfl
@[simp] theorem State.modIsl_poison (s : State) (f : Island → Island) : (s.modIsl f).poison = s.poison := rfl
@[simp] theorem State.modIsl_lines (s : State) (f : Island → Island) : (s.modIsl f).lines = s.lines := rfl
@[simp] theorem State.modIsl_owners (s : State) (f : Island → Island) : (s.modIsl f).owners = s.owners := rfl
@[simp] theorem State.modIsl_ctxs (s : State) (f : Island → Island) : (s.modIsl f).ctxs = s.ctxs := rfl
@[simp] theorem State.modIsl_barriers (s : State) (f : Island → Island) : (s.modIsl f).barriers = s.barriers := rfl
@[simp] theorem State.modIsl_pops (s : State) (f : Island → Island) : (s.modIsl f).pops = s.pops := rfl
@[simp] theorem State.modIsl_queues (s : State) (f : Island → Island) : (s.modIsl f).queues = s.queues := rfl
@[simp] theorem State.modIsl_launches (s : State) (f : Island → Island) : (s.modIsl f).launches = s.launches := rfl
@[simp] theorem State.modIsl_nextLaunch (s : State) (f : Island → Island) : (s.modIsl f).nextLaunch = s.nextLaunch := rfl
@[simp] theorem State.modIsl_latest (s : State) (f : Island → Island) : (s.modIsl f).latest = s.latest := rfl
@[simp] theorem State.modIsl_cown (s : State) (f : Island → Island) : (s.modIsl f).cown = s.cown := rfl
@[simp] theorem State.modIsl_funcs (s : State) (f : Island → Island) : (s.modIsl f).funcs = s.funcs := rfl
@[simp] theorem State.modIsl_eps (s : State) (f : Island → Island) : (s.modIsl f).eps = s.eps := rfl
@[simp] theorem State.modIsl_ports (s : State) (f : Island → Island) : (s.modIsl f).ports = s.ports := rfl
@[simp] theorem State.modIsl_colls (s : State) (f : Island → Island) : (s.modIsl f).colls = s.colls := rfl
@[simp] theorem State.modIsl_msgs (s : State) (f : Island → Island) : (s.modIsl f).msgs = s.msgs := rfl
@[simp] theorem State.modIsl_inputs (s : State) (f : Island → Island) : (s.modIsl f).inputs = s.inputs := rfl
@[simp] theorem State.modIsl_outbox (s : State) (f : Island → Island) : (s.modIsl f).outbox = s.outbox := rfl
@[simp] theorem State.modIsl_asks (s : State) (f : Island → Island) : (s.modIsl f).asks = s.asks := rfl
@[simp] theorem State.modIsl_ext (s : State) (f : Island → Island) : (s.modIsl f).ext = s.ext := rfl
@[simp] theorem State.modIsl_period (s : State) (f : Island → Island) : (s.modIsl f).period = s.period := rfl
@[simp] theorem State.modIsl_lltlb (s : State) (f : Island → Island) : (s.modIsl f).lltlb = s.lltlb := rfl
@[simp] theorem State.modIsl_hand (s : State) (f : Island → Island) : (s.modIsl f).hand = s.hand := rfl
@[simp] theorem State.modIsl_free (s : State) (f : Island → Island) : (s.modIsl f).free = s.free := rfl
@[simp] theorem State.modIsl_lone (s : State) (f : Island → Island) : (s.modIsl f).lone = s.lone := rfl

@[simp] theorem State.setBar_clk (s : State) (c : Nat) (b : Barrier) : (s.setBar c b).clk = s.clk := rfl
@[simp] theorem State.setBar_cores (s : State) (c : Nat) (b : Barrier) : (s.setBar c b).cores = s.cores := rfl
@[simp] theorem State.setBar_mem (s : State) (c : Nat) (b : Barrier) : (s.setBar c b).mem = s.mem := rfl
@[simp] theorem State.setBar_tags (s : State) (c : Nat) (b : Barrier) : (s.setBar c b).tags = s.tags := rfl
@[simp] theorem State.setBar_written (s : State) (c : Nat) (b : Barrier) : (s.setBar c b).written = s.written := rfl
@[simp] theorem State.setBar_poison (s : State) (c : Nat) (b : Barrier) : (s.setBar c b).poison = s.poison := rfl
@[simp] theorem State.setBar_lines (s : State) (c : Nat) (b : Barrier) : (s.setBar c b).lines = s.lines := rfl
@[simp] theorem State.setBar_owners (s : State) (c : Nat) (b : Barrier) : (s.setBar c b).owners = s.owners := rfl
@[simp] theorem State.setBar_ctxs (s : State) (c : Nat) (b : Barrier) : (s.setBar c b).ctxs = s.ctxs := rfl
@[simp] theorem State.setBar_pops (s : State) (c : Nat) (b : Barrier) : (s.setBar c b).pops = s.pops := rfl
@[simp] theorem State.setBar_queues (s : State) (c : Nat) (b : Barrier) : (s.setBar c b).queues = s.queues := rfl
@[simp] theorem State.setBar_launches (s : State) (c : Nat) (b : Barrier) : (s.setBar c b).launches = s.launches := rfl
@[simp] theorem State.setBar_nextLaunch (s : State) (c : Nat) (b : Barrier) : (s.setBar c b).nextLaunch = s.nextLaunch := rfl
@[simp] theorem State.setBar_latest (s : State) (c : Nat) (b : Barrier) : (s.setBar c b).latest = s.latest := rfl
@[simp] theorem State.setBar_cown (s : State) (c : Nat) (b : Barrier) : (s.setBar c b).cown = s.cown := rfl
@[simp] theorem State.setBar_funcs (s : State) (c : Nat) (b : Barrier) : (s.setBar c b).funcs = s.funcs := rfl
@[simp] theorem State.setBar_isl (s : State) (c : Nat) (b : Barrier) : (s.setBar c b).isl = s.isl := rfl
@[simp] theorem State.setBar_eps (s : State) (c : Nat) (b : Barrier) : (s.setBar c b).eps = s.eps := rfl
@[simp] theorem State.setBar_ports (s : State) (c : Nat) (b : Barrier) : (s.setBar c b).ports = s.ports := rfl
@[simp] theorem State.setBar_colls (s : State) (c : Nat) (b : Barrier) : (s.setBar c b).colls = s.colls := rfl
@[simp] theorem State.setBar_msgs (s : State) (c : Nat) (b : Barrier) : (s.setBar c b).msgs = s.msgs := rfl
@[simp] theorem State.setBar_inputs (s : State) (c : Nat) (b : Barrier) : (s.setBar c b).inputs = s.inputs := rfl
@[simp] theorem State.setBar_outbox (s : State) (c : Nat) (b : Barrier) : (s.setBar c b).outbox = s.outbox := rfl
@[simp] theorem State.setBar_asks (s : State) (c : Nat) (b : Barrier) : (s.setBar c b).asks = s.asks := rfl
@[simp] theorem State.setBar_ext (s : State) (c : Nat) (b : Barrier) : (s.setBar c b).ext = s.ext := rfl
@[simp] theorem State.setBar_period (s : State) (c : Nat) (b : Barrier) : (s.setBar c b).period = s.period := rfl
@[simp] theorem State.setBar_lltlb (s : State) (c : Nat) (b : Barrier) : (s.setBar c b).lltlb = s.lltlb := rfl
@[simp] theorem State.setBar_hand (s : State) (c : Nat) (b : Barrier) : (s.setBar c b).hand = s.hand := rfl
@[simp] theorem State.setBar_free (s : State) (c : Nat) (b : Barrier) : (s.setBar c b).free = s.free := rfl
@[simp] theorem State.setBar_lone (s : State) (c : Nat) (b : Barrier) : (s.setBar c b).lone = s.lone := rfl

@[simp] theorem State.setLine_clk (s : State) (c : Nat) (l : LineWord) : (s.setLine c l).clk = s.clk := rfl
@[simp] theorem State.setLine_cores (s : State) (c : Nat) (l : LineWord) : (s.setLine c l).cores = s.cores := rfl
@[simp] theorem State.setLine_mem (s : State) (c : Nat) (l : LineWord) : (s.setLine c l).mem = s.mem := rfl
@[simp] theorem State.setLine_tags (s : State) (c : Nat) (l : LineWord) : (s.setLine c l).tags = s.tags := rfl
@[simp] theorem State.setLine_written (s : State) (c : Nat) (l : LineWord) : (s.setLine c l).written = s.written := rfl
@[simp] theorem State.setLine_poison (s : State) (c : Nat) (l : LineWord) : (s.setLine c l).poison = s.poison := rfl
@[simp] theorem State.setLine_owners (s : State) (c : Nat) (l : LineWord) : (s.setLine c l).owners = s.owners := rfl
@[simp] theorem State.setLine_ctxs (s : State) (c : Nat) (l : LineWord) : (s.setLine c l).ctxs = s.ctxs := rfl
@[simp] theorem State.setLine_barriers (s : State) (c : Nat) (l : LineWord) : (s.setLine c l).barriers = s.barriers := rfl
@[simp] theorem State.setLine_pops (s : State) (c : Nat) (l : LineWord) : (s.setLine c l).pops = s.pops := rfl
@[simp] theorem State.setLine_queues (s : State) (c : Nat) (l : LineWord) : (s.setLine c l).queues = s.queues := rfl
@[simp] theorem State.setLine_launches (s : State) (c : Nat) (l : LineWord) : (s.setLine c l).launches = s.launches := rfl
@[simp] theorem State.setLine_nextLaunch (s : State) (c : Nat) (l : LineWord) : (s.setLine c l).nextLaunch = s.nextLaunch := rfl
@[simp] theorem State.setLine_latest (s : State) (c : Nat) (l : LineWord) : (s.setLine c l).latest = s.latest := rfl
@[simp] theorem State.setLine_cown (s : State) (c : Nat) (l : LineWord) : (s.setLine c l).cown = s.cown := rfl
@[simp] theorem State.setLine_funcs (s : State) (c : Nat) (l : LineWord) : (s.setLine c l).funcs = s.funcs := rfl
@[simp] theorem State.setLine_isl (s : State) (c : Nat) (l : LineWord) : (s.setLine c l).isl = s.isl := rfl
@[simp] theorem State.setLine_eps (s : State) (c : Nat) (l : LineWord) : (s.setLine c l).eps = s.eps := rfl
@[simp] theorem State.setLine_ports (s : State) (c : Nat) (l : LineWord) : (s.setLine c l).ports = s.ports := rfl
@[simp] theorem State.setLine_colls (s : State) (c : Nat) (l : LineWord) : (s.setLine c l).colls = s.colls := rfl
@[simp] theorem State.setLine_msgs (s : State) (c : Nat) (l : LineWord) : (s.setLine c l).msgs = s.msgs := rfl
@[simp] theorem State.setLine_inputs (s : State) (c : Nat) (l : LineWord) : (s.setLine c l).inputs = s.inputs := rfl
@[simp] theorem State.setLine_outbox (s : State) (c : Nat) (l : LineWord) : (s.setLine c l).outbox = s.outbox := rfl
@[simp] theorem State.setLine_asks (s : State) (c : Nat) (l : LineWord) : (s.setLine c l).asks = s.asks := rfl
@[simp] theorem State.setLine_ext (s : State) (c : Nat) (l : LineWord) : (s.setLine c l).ext = s.ext := rfl
@[simp] theorem State.setLine_period (s : State) (c : Nat) (l : LineWord) : (s.setLine c l).period = s.period := rfl
@[simp] theorem State.setLine_lltlb (s : State) (c : Nat) (l : LineWord) : (s.setLine c l).lltlb = s.lltlb := rfl
@[simp] theorem State.setLine_hand (s : State) (c : Nat) (l : LineWord) : (s.setLine c l).hand = s.hand := rfl
@[simp] theorem State.setLine_free (s : State) (c : Nat) (l : LineWord) : (s.setLine c l).free = s.free := rfl
@[simp] theorem State.setLine_lone (s : State) (c : Nat) (l : LineWord) : (s.setLine c l).lone = s.lone := rfl

@[simp] theorem State.setOwner_clk (s : State) (c : Nat) (o : Option Nat) : (s.setOwner c o).clk = s.clk := rfl
@[simp] theorem State.setOwner_cores (s : State) (c : Nat) (o : Option Nat) : (s.setOwner c o).cores = s.cores := rfl
@[simp] theorem State.setOwner_mem (s : State) (c : Nat) (o : Option Nat) : (s.setOwner c o).mem = s.mem := rfl
@[simp] theorem State.setOwner_tags (s : State) (c : Nat) (o : Option Nat) : (s.setOwner c o).tags = s.tags := rfl
@[simp] theorem State.setOwner_written (s : State) (c : Nat) (o : Option Nat) : (s.setOwner c o).written = s.written := rfl
@[simp] theorem State.setOwner_poison (s : State) (c : Nat) (o : Option Nat) : (s.setOwner c o).poison = s.poison := rfl
@[simp] theorem State.setOwner_lines (s : State) (c : Nat) (o : Option Nat) : (s.setOwner c o).lines = s.lines := rfl
@[simp] theorem State.setOwner_ctxs (s : State) (c : Nat) (o : Option Nat) : (s.setOwner c o).ctxs = s.ctxs := rfl
@[simp] theorem State.setOwner_barriers (s : State) (c : Nat) (o : Option Nat) : (s.setOwner c o).barriers = s.barriers := rfl
@[simp] theorem State.setOwner_pops (s : State) (c : Nat) (o : Option Nat) : (s.setOwner c o).pops = s.pops := rfl
@[simp] theorem State.setOwner_queues (s : State) (c : Nat) (o : Option Nat) : (s.setOwner c o).queues = s.queues := rfl
@[simp] theorem State.setOwner_launches (s : State) (c : Nat) (o : Option Nat) : (s.setOwner c o).launches = s.launches := rfl
@[simp] theorem State.setOwner_nextLaunch (s : State) (c : Nat) (o : Option Nat) : (s.setOwner c o).nextLaunch = s.nextLaunch := rfl
@[simp] theorem State.setOwner_latest (s : State) (c : Nat) (o : Option Nat) : (s.setOwner c o).latest = s.latest := rfl
@[simp] theorem State.setOwner_cown (s : State) (c : Nat) (o : Option Nat) : (s.setOwner c o).cown = s.cown := rfl
@[simp] theorem State.setOwner_funcs (s : State) (c : Nat) (o : Option Nat) : (s.setOwner c o).funcs = s.funcs := rfl
@[simp] theorem State.setOwner_isl (s : State) (c : Nat) (o : Option Nat) : (s.setOwner c o).isl = s.isl := rfl
@[simp] theorem State.setOwner_eps (s : State) (c : Nat) (o : Option Nat) : (s.setOwner c o).eps = s.eps := rfl
@[simp] theorem State.setOwner_ports (s : State) (c : Nat) (o : Option Nat) : (s.setOwner c o).ports = s.ports := rfl
@[simp] theorem State.setOwner_colls (s : State) (c : Nat) (o : Option Nat) : (s.setOwner c o).colls = s.colls := rfl
@[simp] theorem State.setOwner_msgs (s : State) (c : Nat) (o : Option Nat) : (s.setOwner c o).msgs = s.msgs := rfl
@[simp] theorem State.setOwner_inputs (s : State) (c : Nat) (o : Option Nat) : (s.setOwner c o).inputs = s.inputs := rfl
@[simp] theorem State.setOwner_outbox (s : State) (c : Nat) (o : Option Nat) : (s.setOwner c o).outbox = s.outbox := rfl
@[simp] theorem State.setOwner_asks (s : State) (c : Nat) (o : Option Nat) : (s.setOwner c o).asks = s.asks := rfl
@[simp] theorem State.setOwner_ext (s : State) (c : Nat) (o : Option Nat) : (s.setOwner c o).ext = s.ext := rfl
@[simp] theorem State.setOwner_period (s : State) (c : Nat) (o : Option Nat) : (s.setOwner c o).period = s.period := rfl
@[simp] theorem State.setOwner_lltlb (s : State) (c : Nat) (o : Option Nat) : (s.setOwner c o).lltlb = s.lltlb := rfl
@[simp] theorem State.setOwner_hand (s : State) (c : Nat) (o : Option Nat) : (s.setOwner c o).hand = s.hand := rfl
@[simp] theorem State.setOwner_free (s : State) (c : Nat) (o : Option Nat) : (s.setOwner c o).free = s.free := rfl
@[simp] theorem State.setOwner_lone (s : State) (c : Nat) (o : Option Nat) : (s.setOwner c o).lone = s.lone := rfl

/-! The other updates are these. -/

theorem State.modCore_eq (s : State) (c : Nat) (f : Core → Core) : s.modCore c f = s.setCore c (f (s.core c)) := rfl
theorem State.modMe_eq (s : State) (f : Core → Core) : s.modMe f = s.setCore s.hand.core (f s.me) := rfl
theorem State.modCtx_eq (s : State) (i : Nat) (f : Ctx → Ctx) : s.modCtx i f = s.setCtx i (f (s.ctx i)) := rfl
theorem State.modQueue_eq (s : State) (i : Nat) (f : Queue → Queue) : s.modQueue i f = s.setQueue i (f (s.queue i)) := rfl

@[simp] theorem State.modMe_clk (s : State) (f : Core → Core) : (s.modMe f).clk = s.clk := rfl
@[simp] theorem State.modMe_mem (s : State) (f : Core → Core) : (s.modMe f).mem = s.mem := rfl
@[simp] theorem State.modMe_tags (s : State) (f : Core → Core) : (s.modMe f).tags = s.tags := rfl
@[simp] theorem State.modMe_written (s : State) (f : Core → Core) : (s.modMe f).written = s.written := rfl
@[simp] theorem State.modMe_poison (s : State) (f : Core → Core) : (s.modMe f).poison = s.poison := rfl
@[simp] theorem State.modMe_lines (s : State) (f : Core → Core) : (s.modMe f).lines = s.lines := rfl
@[simp] theorem State.modMe_owners (s : State) (f : Core → Core) : (s.modMe f).owners = s.owners := rfl
@[simp] theorem State.modMe_ctxs (s : State) (f : Core → Core) : (s.modMe f).ctxs = s.ctxs := rfl
@[simp] theorem State.modMe_barriers (s : State) (f : Core → Core) : (s.modMe f).barriers = s.barriers := rfl
@[simp] theorem State.modMe_pops (s : State) (f : Core → Core) : (s.modMe f).pops = s.pops := rfl
@[simp] theorem State.modMe_queues (s : State) (f : Core → Core) : (s.modMe f).queues = s.queues := rfl
@[simp] theorem State.modMe_launches (s : State) (f : Core → Core) : (s.modMe f).launches = s.launches := rfl
@[simp] theorem State.modMe_nextLaunch (s : State) (f : Core → Core) : (s.modMe f).nextLaunch = s.nextLaunch := rfl
@[simp] theorem State.modMe_latest (s : State) (f : Core → Core) : (s.modMe f).latest = s.latest := rfl
@[simp] theorem State.modMe_cown (s : State) (f : Core → Core) : (s.modMe f).cown = s.cown := rfl
@[simp] theorem State.modMe_funcs (s : State) (f : Core → Core) : (s.modMe f).funcs = s.funcs := rfl
@[simp] theorem State.modMe_isl (s : State) (f : Core → Core) : (s.modMe f).isl = s.isl := rfl
@[simp] theorem State.modMe_eps (s : State) (f : Core → Core) : (s.modMe f).eps = s.eps := rfl
@[simp] theorem State.modMe_ports (s : State) (f : Core → Core) : (s.modMe f).ports = s.ports := rfl
@[simp] theorem State.modMe_colls (s : State) (f : Core → Core) : (s.modMe f).colls = s.colls := rfl
@[simp] theorem State.modMe_msgs (s : State) (f : Core → Core) : (s.modMe f).msgs = s.msgs := rfl
@[simp] theorem State.modMe_inputs (s : State) (f : Core → Core) : (s.modMe f).inputs = s.inputs := rfl
@[simp] theorem State.modMe_outbox (s : State) (f : Core → Core) : (s.modMe f).outbox = s.outbox := rfl
@[simp] theorem State.modMe_asks (s : State) (f : Core → Core) : (s.modMe f).asks = s.asks := rfl
@[simp] theorem State.modMe_ext (s : State) (f : Core → Core) : (s.modMe f).ext = s.ext := rfl
@[simp] theorem State.modMe_period (s : State) (f : Core → Core) : (s.modMe f).period = s.period := rfl
@[simp] theorem State.modMe_lltlb (s : State) (f : Core → Core) : (s.modMe f).lltlb = s.lltlb := rfl
@[simp] theorem State.modMe_hand (s : State) (f : Core → Core) : (s.modMe f).hand = s.hand := rfl
@[simp] theorem State.modMe_free (s : State) (f : Core → Core) : (s.modMe f).free = s.free := rfl
@[simp] theorem State.modMe_lone (s : State) (f : Core → Core) : (s.modMe f).lone = s.lone := rfl

/-! ## Reading a table after an update of it -/

@[simp] theorem State.core_setCore (s : State) (c : Nat) (k : Core) : (s.setCore c k).core c = k := by
  simp [State.core, State.setCore]
theorem State.core_setCore_ne (s : State) {c d : Nat} (k : Core) (h : d ≠ c) : (s.setCore c k).core d = s.core d := by
  simp only [State.core, State.setCore]; exact mapGetD_mapPut_ne _ _ _ h
@[simp] theorem State.setCore_setCore (s : State) (c : Nat) (k l : Core) : (s.setCore c k).setCore c l = s.setCore c l := by
  simp [State.setCore]
@[simp] theorem State.me_setCore (s : State) (k : Core) : (s.setCore s.hand.core k).me = k := by
  simp [State.me]
@[simp] theorem State.me_modMe (s : State) (f : Core → Core) : (s.modMe f).me = f s.me := by
  simp [State.modMe_eq]
theorem State.core_modMe_ne (s : State) {d : Nat} (f : Core → Core) (h : d ≠ s.hand.core) : (s.modMe f).core d = s.core d := by
  rw [State.modMe_eq, State.core_setCore_ne _ _ h]
theorem State.modMe_modMe (s : State) (f g : Core → Core) : (s.modMe f).modMe g = s.modMe (fun k => g (f k)) := by
  rw [State.modMe_eq (s.modMe f), State.me_modMe, State.modMe_eq, State.modMe_eq]
  simp
@[simp] theorem State.ent_modMe (s : State) (f : Core → Core) : (s.modMe f).ent = s.ent := rfl
@[simp] theorem State.head_modMe (s : State) (f : Core → Core) : (s.modMe f).head = s.head := rfl
@[simp] theorem State.tagAt_modMe (s : State) (f : Core → Core) (a : Nat) : (s.modMe f).tagAt a = s.tagAt a := rfl
@[simp] theorem State.writtenAt_modMe (s : State) (f : Core → Core) (a : Nat) : (s.modMe f).writtenAt a = s.writtenAt a := rfl
@[simp] theorem State.lineAt_modMe (s : State) (f : Core → Core) (a : Nat) : (s.modMe f).lineAt a = s.lineAt a := rfl
@[simp] theorem State.ownerOf_modMe (s : State) (f : Core → Core) (a : Nat) : (s.modMe f).ownerOf a = s.ownerOf a := rfl
@[simp] theorem State.ctx_setCtx (s : State) (i : Nat) (x : Ctx) : (s.setCtx i x).ctx i = x := by
  simp [State.ctx, State.setCtx]
theorem State.ctx_setCtx_ne (s : State) {i j : Nat} (x : Ctx) (h : j ≠ i) : (s.setCtx i x).ctx j = s.ctx j := by
  simp only [State.ctx, State.setCtx]; exact mapGetD_mapPut_ne _ _ _ h
@[simp] theorem State.queue_setQueue (s : State) (i : Nat) (x : Queue) : (s.setQueue i x).queue i = x := by
  simp [State.queue, State.setQueue]
theorem State.queue_setQueue_ne (s : State) {i j : Nat} (x : Queue) (h : j ≠ i) : (s.setQueue i x).queue j = s.queue j := by
  simp only [State.queue, State.setQueue]; exact mapGetD_mapPut_ne _ _ _ h
@[simp] theorem State.launch_setLaunch (s : State) (i : Nat) (x : Launch) : (s.setLaunch i x).launch i = some x := by
  simp [State.launch, State.setLaunch]
theorem State.launch_setLaunch_ne (s : State) {i j : Nat} (x : Launch) (h : j ≠ i) : (s.setLaunch i x).launch j = s.launch j := by
  simp only [State.launch, State.setLaunch]; exact mapGet_mapPut_ne _ _ h

/-! ## Updates of a core -/

@[simp] theorem Core.land_g (k : Core) (n lat : Nat) (d : Option DReg) (l : List Wr) : (k.land n lat d l).g = k.g := rfl
@[simp] theorem Core.land_q (k : Core) (n lat : Nat) (d : Option DReg) (l : List Wr) : (k.land n lat d l).q = k.q := rfl
@[simp] theorem Core.land_v (k : Core) (n lat : Nat) (d : Option DReg) (l : List Wr) : (k.land n lat d l).v = k.v := rfl
@[simp] theorem Core.land_streams (k : Core) (n lat : Nat) (d : Option DReg) (l : List Wr) : (k.land n lat d l).streams = k.streams := rfl
@[simp] theorem Core.land_acc (k : Core) (n lat : Nat) (d : Option DReg) (l : List Wr) : (k.land n lat d l).acc = k.acc := rfl
@[simp] theorem Core.land_slots (k : Core) (n lat : Nat) (d : Option DReg) (l : List Wr) : (k.land n lat d l).slots = k.slots := rfl
@[simp] theorem Core.land_pc (k : Core) (n lat : Nat) (d : Option DReg) (l : List Wr) : (k.land n lat d l).pc = k.pc := rfl
@[simp] theorem Core.land_loops (k : Core) (n lat : Nat) (d : Option DReg) (l : List Wr) : (k.land n lat d l).loops = k.loops := rfl
@[simp] theorem Core.land_trapLoops (k : Core) (n lat : Nat) (d : Option DReg) (l : List Wr) : (k.land n lat d l).trapLoops = k.trapLoops := rfl
@[simp] theorem Core.land_region (k : Core) (n lat : Nat) (d : Option DReg) (l : List Wr) : (k.land n lat d l).region = k.region := rfl
@[simp] theorem Core.land_cr (k : Core) (n lat : Nat) (d : Option DReg) (l : List Wr) : (k.land n lat d l).cr = k.cr := rfl
@[simp] theorem Core.land_priv (k : Core) (n lat : Nat) (d : Option DReg) (l : List Wr) : (k.land n lat d l).priv = k.priv := rfl
@[simp] theorem Core.land_flags (k : Core) (n lat : Nat) (d : Option DReg) (l : List Wr) : (k.land n lat d l).flags = k.flags := rfl
@[simp] theorem Core.land_vcc (k : Core) (n lat : Nat) (d : Option DReg) (l : List Wr) : (k.land n lat d l).vcc = k.vcc := rfl
@[simp] theorem Core.land_seqAt (k : Core) (n lat : Nat) (d : Option DReg) (l : List Wr) : (k.land n lat d l).seqAt = k.seqAt := rfl
@[simp] theorem Core.land_rob (k : Core) (n lat : Nat) (d : Option DReg) (l : List Wr) : (k.land n lat d l).rob = k.rob := rfl
@[simp] theorem Core.land_queues (k : Core) (n lat : Nat) (d : Option DReg) (l : List Wr) : (k.land n lat d l).queues = k.queues := rfl
@[simp] theorem Core.land_colFree (k : Core) (n lat : Nat) (d : Option DReg) (l : List Wr) : (k.land n lat d l).colFree = k.colFree := rfl
@[simp] theorem Core.land_held (k : Core) (n lat : Nat) (d : Option DReg) (l : List Wr) : (k.land n lat d l).held = k.held := rfl
@[simp] theorem Core.land_trapAt (k : Core) (n lat : Nat) (d : Option DReg) (l : List Wr) : (k.land n lat d l).trapAt = k.trapAt := rfl
@[simp] theorem Core.land_descs (k : Core) (n lat : Nat) (d : Option DReg) (l : List Wr) : (k.land n lat d l).descs = k.descs := rfl
@[simp] theorem Core.land_groups (k : Core) (n lat : Nat) (d : Option DReg) (l : List Wr) : (k.land n lat d l).groups = k.groups := rfl
@[simp] theorem Core.land_ops (k : Core) (n lat : Nat) (d : Option DReg) (l : List Wr) : (k.land n lat d l).ops = k.ops := rfl
@[simp] theorem Core.land_stores (k : Core) (n lat : Nat) (d : Option DReg) (l : List Wr) : (k.land n lat d l).stores = k.stores := rfl
@[simp] theorem Core.land_locks (k : Core) (n lat : Nat) (d : Option DReg) (l : List Wr) : (k.land n lat d l).locks = k.locks := rfl
@[simp] theorem Core.land_rqs (k : Core) (n lat : Nat) (d : Option DReg) (l : List Wr) : (k.land n lat d l).rqs = k.rqs := rfl
@[simp] theorem Core.land_slice (k : Core) (n lat : Nat) (d : Option DReg) (l : List Wr) : (k.land n lat d l).slice = k.slice := rfl
@[simp] theorem Core.land_ctx (k : Core) (n lat : Nat) (d : Option DReg) (l : List Wr) : (k.land n lat d l).ctx = k.ctx := rfl
@[simp] theorem Core.land_unit (k : Core) (n lat : Nat) (d : Option DReg) (l : List Wr) : (k.land n lat d l).unit = k.unit := rfl
@[simp] theorem Core.land_dbg (k : Core) (n lat : Nat) (d : Option DReg) (l : List Wr) : (k.land n lat d l).dbg = k.dbg := rfl
@[simp] theorem Core.land_flagsSet (k : Core) (n lat : Nat) (d : Option DReg) (l : List Wr) : (k.land n lat d l).flagsSet = k.flagsSet := rfl
@[simp] theorem Core.land_forced (k : Core) (n lat : Nat) (d : Option DReg) (l : List Wr) : (k.land n lat d l).forced = k.forced := rfl
@[simp] theorem Core.land_seqSpec (k : Core) (n lat : Nat) (d : Option DReg) (l : List Wr) : (k.land n lat d l).seqSpec = k.seqSpec := rfl

@[simp] theorem Core.landAt_g (k : Core) (n lat : Nat) (w : Wr) : (k.landAt n lat w).g = k.g := rfl
@[simp] theorem Core.landAt_q (k : Core) (n lat : Nat) (w : Wr) : (k.landAt n lat w).q = k.q := rfl
@[simp] theorem Core.landAt_v (k : Core) (n lat : Nat) (w : Wr) : (k.landAt n lat w).v = k.v := rfl
@[simp] theorem Core.landAt_streams (k : Core) (n lat : Nat) (w : Wr) : (k.landAt n lat w).streams = k.streams := rfl
@[simp] theorem Core.landAt_acc (k : Core) (n lat : Nat) (w : Wr) : (k.landAt n lat w).acc = k.acc := rfl
@[simp] theorem Core.landAt_slots (k : Core) (n lat : Nat) (w : Wr) : (k.landAt n lat w).slots = k.slots := rfl
@[simp] theorem Core.landAt_pc (k : Core) (n lat : Nat) (w : Wr) : (k.landAt n lat w).pc = k.pc := rfl
@[simp] theorem Core.landAt_loops (k : Core) (n lat : Nat) (w : Wr) : (k.landAt n lat w).loops = k.loops := rfl
@[simp] theorem Core.landAt_trapLoops (k : Core) (n lat : Nat) (w : Wr) : (k.landAt n lat w).trapLoops = k.trapLoops := rfl
@[simp] theorem Core.landAt_region (k : Core) (n lat : Nat) (w : Wr) : (k.landAt n lat w).region = k.region := rfl
@[simp] theorem Core.landAt_cr (k : Core) (n lat : Nat) (w : Wr) : (k.landAt n lat w).cr = k.cr := rfl
@[simp] theorem Core.landAt_priv (k : Core) (n lat : Nat) (w : Wr) : (k.landAt n lat w).priv = k.priv := rfl
@[simp] theorem Core.landAt_flags (k : Core) (n lat : Nat) (w : Wr) : (k.landAt n lat w).flags = k.flags := rfl
@[simp] theorem Core.landAt_vcc (k : Core) (n lat : Nat) (w : Wr) : (k.landAt n lat w).vcc = k.vcc := rfl
@[simp] theorem Core.landAt_seqAt (k : Core) (n lat : Nat) (w : Wr) : (k.landAt n lat w).seqAt = k.seqAt := rfl
@[simp] theorem Core.landAt_rob (k : Core) (n lat : Nat) (w : Wr) : (k.landAt n lat w).rob = k.rob := rfl
@[simp] theorem Core.landAt_queues (k : Core) (n lat : Nat) (w : Wr) : (k.landAt n lat w).queues = k.queues := rfl
@[simp] theorem Core.landAt_colFree (k : Core) (n lat : Nat) (w : Wr) : (k.landAt n lat w).colFree = k.colFree := rfl
@[simp] theorem Core.landAt_held (k : Core) (n lat : Nat) (w : Wr) : (k.landAt n lat w).held = k.held := rfl
@[simp] theorem Core.landAt_trapAt (k : Core) (n lat : Nat) (w : Wr) : (k.landAt n lat w).trapAt = k.trapAt := rfl
@[simp] theorem Core.landAt_descs (k : Core) (n lat : Nat) (w : Wr) : (k.landAt n lat w).descs = k.descs := rfl
@[simp] theorem Core.landAt_groups (k : Core) (n lat : Nat) (w : Wr) : (k.landAt n lat w).groups = k.groups := rfl
@[simp] theorem Core.landAt_ops (k : Core) (n lat : Nat) (w : Wr) : (k.landAt n lat w).ops = k.ops := rfl
@[simp] theorem Core.landAt_stores (k : Core) (n lat : Nat) (w : Wr) : (k.landAt n lat w).stores = k.stores := rfl
@[simp] theorem Core.landAt_locks (k : Core) (n lat : Nat) (w : Wr) : (k.landAt n lat w).locks = k.locks := rfl
@[simp] theorem Core.landAt_rqs (k : Core) (n lat : Nat) (w : Wr) : (k.landAt n lat w).rqs = k.rqs := rfl
@[simp] theorem Core.landAt_slice (k : Core) (n lat : Nat) (w : Wr) : (k.landAt n lat w).slice = k.slice := rfl
@[simp] theorem Core.landAt_ctx (k : Core) (n lat : Nat) (w : Wr) : (k.landAt n lat w).ctx = k.ctx := rfl
@[simp] theorem Core.landAt_unit (k : Core) (n lat : Nat) (w : Wr) : (k.landAt n lat w).unit = k.unit := rfl
@[simp] theorem Core.landAt_dbg (k : Core) (n lat : Nat) (w : Wr) : (k.landAt n lat w).dbg = k.dbg := rfl
@[simp] theorem Core.landAt_flagsSet (k : Core) (n lat : Nat) (w : Wr) : (k.landAt n lat w).flagsSet = k.flagsSet := rfl
@[simp] theorem Core.landAt_forced (k : Core) (n lat : Nat) (w : Wr) : (k.landAt n lat w).forced = k.forced := rfl
@[simp] theorem Core.landAt_seqSpec (k : Core) (n lat : Nat) (w : Wr) : (k.landAt n lat w).seqSpec = k.seqSpec := rfl

@[simp] theorem Core.finish_g (k : Core) (n : Nat) : (k.finish n).g = k.g := rfl
@[simp] theorem Core.finish_q (k : Core) (n : Nat) : (k.finish n).q = k.q := rfl
@[simp] theorem Core.finish_v (k : Core) (n : Nat) : (k.finish n).v = k.v := rfl
@[simp] theorem Core.finish_streams (k : Core) (n : Nat) : (k.finish n).streams = k.streams := rfl
@[simp] theorem Core.finish_acc (k : Core) (n : Nat) : (k.finish n).acc = k.acc := rfl
@[simp] theorem Core.finish_slots (k : Core) (n : Nat) : (k.finish n).slots = k.slots := rfl
@[simp] theorem Core.finish_pc (k : Core) (n : Nat) : (k.finish n).pc = k.pc := rfl
@[simp] theorem Core.finish_loops (k : Core) (n : Nat) : (k.finish n).loops = k.loops := rfl
@[simp] theorem Core.finish_trapLoops (k : Core) (n : Nat) : (k.finish n).trapLoops = k.trapLoops := rfl
@[simp] theorem Core.finish_region (k : Core) (n : Nat) : (k.finish n).region = k.region := rfl
@[simp] theorem Core.finish_cr (k : Core) (n : Nat) : (k.finish n).cr = k.cr := rfl
@[simp] theorem Core.finish_priv (k : Core) (n : Nat) : (k.finish n).priv = k.priv := rfl
@[simp] theorem Core.finish_flags (k : Core) (n : Nat) : (k.finish n).flags = k.flags := rfl
@[simp] theorem Core.finish_vcc (k : Core) (n : Nat) : (k.finish n).vcc = k.vcc := rfl
@[simp] theorem Core.finish_seqAt (k : Core) (n : Nat) : (k.finish n).seqAt = k.seqAt := rfl
@[simp] theorem Core.finish_queues (k : Core) (n : Nat) : (k.finish n).queues = k.queues := rfl
@[simp] theorem Core.finish_colFree (k : Core) (n : Nat) : (k.finish n).colFree = k.colFree := rfl
@[simp] theorem Core.finish_landings (k : Core) (n : Nat) : (k.finish n).landings = k.landings := rfl
@[simp] theorem Core.finish_held (k : Core) (n : Nat) : (k.finish n).held = k.held := rfl
@[simp] theorem Core.finish_trapAt (k : Core) (n : Nat) : (k.finish n).trapAt = k.trapAt := rfl
@[simp] theorem Core.finish_descs (k : Core) (n : Nat) : (k.finish n).descs = k.descs := rfl
@[simp] theorem Core.finish_groups (k : Core) (n : Nat) : (k.finish n).groups = k.groups := rfl
@[simp] theorem Core.finish_ops (k : Core) (n : Nat) : (k.finish n).ops = k.ops := rfl
@[simp] theorem Core.finish_stores (k : Core) (n : Nat) : (k.finish n).stores = k.stores := rfl
@[simp] theorem Core.finish_locks (k : Core) (n : Nat) : (k.finish n).locks = k.locks := rfl
@[simp] theorem Core.finish_rqs (k : Core) (n : Nat) : (k.finish n).rqs = k.rqs := rfl
@[simp] theorem Core.finish_slice (k : Core) (n : Nat) : (k.finish n).slice = k.slice := rfl
@[simp] theorem Core.finish_ctx (k : Core) (n : Nat) : (k.finish n).ctx = k.ctx := rfl
@[simp] theorem Core.finish_unit (k : Core) (n : Nat) : (k.finish n).unit = k.unit := rfl
@[simp] theorem Core.finish_dbg (k : Core) (n : Nat) : (k.finish n).dbg = k.dbg := rfl
@[simp] theorem Core.finish_flagsSet (k : Core) (n : Nat) : (k.finish n).flagsSet = k.flagsSet := rfl
@[simp] theorem Core.finish_forced (k : Core) (n : Nat) : (k.finish n).forced = k.forced := rfl
@[simp] theorem Core.finish_seqSpec (k : Core) (n : Nat) : (k.finish n).seqSpec = k.seqSpec := rfl

@[simp] theorem Core.addFlags_g (k : Core) (n f : Nat) : (k.addFlags n f).g = k.g := by unfold Core.addFlags; split <;> rfl
@[simp] theorem Core.addFlags_q (k : Core) (n f : Nat) : (k.addFlags n f).q = k.q := by unfold Core.addFlags; split <;> rfl
@[simp] theorem Core.addFlags_v (k : Core) (n f : Nat) : (k.addFlags n f).v = k.v := by unfold Core.addFlags; split <;> rfl
@[simp] theorem Core.addFlags_streams (k : Core) (n f : Nat) : (k.addFlags n f).streams = k.streams := by unfold Core.addFlags; split <;> rfl
@[simp] theorem Core.addFlags_acc (k : Core) (n f : Nat) : (k.addFlags n f).acc = k.acc := by unfold Core.addFlags; split <;> rfl
@[simp] theorem Core.addFlags_slots (k : Core) (n f : Nat) : (k.addFlags n f).slots = k.slots := by unfold Core.addFlags; split <;> rfl
@[simp] theorem Core.addFlags_pc (k : Core) (n f : Nat) : (k.addFlags n f).pc = k.pc := by unfold Core.addFlags; split <;> rfl
@[simp] theorem Core.addFlags_loops (k : Core) (n f : Nat) : (k.addFlags n f).loops = k.loops := by unfold Core.addFlags; split <;> rfl
@[simp] theorem Core.addFlags_trapLoops (k : Core) (n f : Nat) : (k.addFlags n f).trapLoops = k.trapLoops := by unfold Core.addFlags; split <;> rfl
@[simp] theorem Core.addFlags_region (k : Core) (n f : Nat) : (k.addFlags n f).region = k.region := by unfold Core.addFlags; split <;> rfl
@[simp] theorem Core.addFlags_cr (k : Core) (n f : Nat) : (k.addFlags n f).cr = k.cr := by unfold Core.addFlags; split <;> rfl
@[simp] theorem Core.addFlags_priv (k : Core) (n f : Nat) : (k.addFlags n f).priv = k.priv := by unfold Core.addFlags; split <;> rfl
@[simp] theorem Core.addFlags_flags (k : Core) (n f : Nat) : (k.addFlags n f).flags = k.flags := by unfold Core.addFlags; split <;> rfl
@[simp] theorem Core.addFlags_vcc (k : Core) (n f : Nat) : (k.addFlags n f).vcc = k.vcc := by unfold Core.addFlags; split <;> rfl
@[simp] theorem Core.addFlags_seqAt (k : Core) (n f : Nat) : (k.addFlags n f).seqAt = k.seqAt := by unfold Core.addFlags; split <;> rfl
@[simp] theorem Core.addFlags_queues (k : Core) (n f : Nat) : (k.addFlags n f).queues = k.queues := by unfold Core.addFlags; split <;> rfl
@[simp] theorem Core.addFlags_colFree (k : Core) (n f : Nat) : (k.addFlags n f).colFree = k.colFree := by unfold Core.addFlags; split <;> rfl
@[simp] theorem Core.addFlags_landings (k : Core) (n f : Nat) : (k.addFlags n f).landings = k.landings := by unfold Core.addFlags; split <;> rfl
@[simp] theorem Core.addFlags_held (k : Core) (n f : Nat) : (k.addFlags n f).held = k.held := by unfold Core.addFlags; split <;> rfl
@[simp] theorem Core.addFlags_trapAt (k : Core) (n f : Nat) : (k.addFlags n f).trapAt = k.trapAt := by unfold Core.addFlags; split <;> rfl
@[simp] theorem Core.addFlags_descs (k : Core) (n f : Nat) : (k.addFlags n f).descs = k.descs := by unfold Core.addFlags; split <;> rfl
@[simp] theorem Core.addFlags_groups (k : Core) (n f : Nat) : (k.addFlags n f).groups = k.groups := by unfold Core.addFlags; split <;> rfl
@[simp] theorem Core.addFlags_ops (k : Core) (n f : Nat) : (k.addFlags n f).ops = k.ops := by unfold Core.addFlags; split <;> rfl
@[simp] theorem Core.addFlags_stores (k : Core) (n f : Nat) : (k.addFlags n f).stores = k.stores := by unfold Core.addFlags; split <;> rfl
@[simp] theorem Core.addFlags_locks (k : Core) (n f : Nat) : (k.addFlags n f).locks = k.locks := by unfold Core.addFlags; split <;> rfl
@[simp] theorem Core.addFlags_rqs (k : Core) (n f : Nat) : (k.addFlags n f).rqs = k.rqs := by unfold Core.addFlags; split <;> rfl
@[simp] theorem Core.addFlags_slice (k : Core) (n f : Nat) : (k.addFlags n f).slice = k.slice := by unfold Core.addFlags; split <;> rfl
@[simp] theorem Core.addFlags_ctx (k : Core) (n f : Nat) : (k.addFlags n f).ctx = k.ctx := by unfold Core.addFlags; split <;> rfl
@[simp] theorem Core.addFlags_unit (k : Core) (n f : Nat) : (k.addFlags n f).unit = k.unit := by unfold Core.addFlags; split <;> rfl
@[simp] theorem Core.addFlags_dbg (k : Core) (n f : Nat) : (k.addFlags n f).dbg = k.dbg := by unfold Core.addFlags; split <;> rfl
@[simp] theorem Core.addFlags_flagsSet (k : Core) (n f : Nat) : (k.addFlags n f).flagsSet = k.flagsSet := by unfold Core.addFlags; split <;> rfl
@[simp] theorem Core.addFlags_forced (k : Core) (n f : Nat) : (k.addFlags n f).forced = k.forced := by unfold Core.addFlags; split <;> rfl
@[simp] theorem Core.addFlags_seqSpec (k : Core) (n f : Nat) : (k.addFlags n f).seqSpec = k.seqSpec := by unfold Core.addFlags; split <;> rfl

@[simp] theorem Core.slotInc_g (k : Core) (clk : Nat) (d : Option DReg) : (k.slotInc clk d).g = k.g := by cases d <;> rfl
@[simp] theorem Core.slotInc_q (k : Core) (clk : Nat) (d : Option DReg) : (k.slotInc clk d).q = k.q := by cases d <;> rfl
@[simp] theorem Core.slotInc_v (k : Core) (clk : Nat) (d : Option DReg) : (k.slotInc clk d).v = k.v := by cases d <;> rfl
@[simp] theorem Core.slotInc_streams (k : Core) (clk : Nat) (d : Option DReg) : (k.slotInc clk d).streams = k.streams := by cases d <;> rfl
@[simp] theorem Core.slotInc_acc (k : Core) (clk : Nat) (d : Option DReg) : (k.slotInc clk d).acc = k.acc := by cases d <;> rfl
@[simp] theorem Core.slotInc_pc (k : Core) (clk : Nat) (d : Option DReg) : (k.slotInc clk d).pc = k.pc := by cases d <;> rfl
@[simp] theorem Core.slotInc_loops (k : Core) (clk : Nat) (d : Option DReg) : (k.slotInc clk d).loops = k.loops := by cases d <;> rfl
@[simp] theorem Core.slotInc_trapLoops (k : Core) (clk : Nat) (d : Option DReg) : (k.slotInc clk d).trapLoops = k.trapLoops := by cases d <;> rfl
@[simp] theorem Core.slotInc_region (k : Core) (clk : Nat) (d : Option DReg) : (k.slotInc clk d).region = k.region := by cases d <;> rfl
@[simp] theorem Core.slotInc_cr (k : Core) (clk : Nat) (d : Option DReg) : (k.slotInc clk d).cr = k.cr := by cases d <;> rfl
@[simp] theorem Core.slotInc_priv (k : Core) (clk : Nat) (d : Option DReg) : (k.slotInc clk d).priv = k.priv := by cases d <;> rfl
@[simp] theorem Core.slotInc_flags (k : Core) (clk : Nat) (d : Option DReg) : (k.slotInc clk d).flags = k.flags := by cases d <;> rfl
@[simp] theorem Core.slotInc_vcc (k : Core) (clk : Nat) (d : Option DReg) : (k.slotInc clk d).vcc = k.vcc := by cases d <;> rfl
@[simp] theorem Core.slotInc_seqAt (k : Core) (clk : Nat) (d : Option DReg) : (k.slotInc clk d).seqAt = k.seqAt := by cases d <;> rfl
@[simp] theorem Core.slotInc_rob (k : Core) (clk : Nat) (d : Option DReg) : (k.slotInc clk d).rob = k.rob := by cases d <;> rfl
@[simp] theorem Core.slotInc_queues (k : Core) (clk : Nat) (d : Option DReg) : (k.slotInc clk d).queues = k.queues := by cases d <;> rfl
@[simp] theorem Core.slotInc_colFree (k : Core) (clk : Nat) (d : Option DReg) : (k.slotInc clk d).colFree = k.colFree := by cases d <;> rfl
@[simp] theorem Core.slotInc_landings (k : Core) (clk : Nat) (d : Option DReg) : (k.slotInc clk d).landings = k.landings := by cases d <;> rfl
@[simp] theorem Core.slotInc_held (k : Core) (clk : Nat) (d : Option DReg) : (k.slotInc clk d).held = k.held := by cases d <;> rfl
@[simp] theorem Core.slotInc_trapAt (k : Core) (clk : Nat) (d : Option DReg) : (k.slotInc clk d).trapAt = k.trapAt := by cases d <;> rfl
@[simp] theorem Core.slotInc_descs (k : Core) (clk : Nat) (d : Option DReg) : (k.slotInc clk d).descs = k.descs := by cases d <;> rfl
@[simp] theorem Core.slotInc_groups (k : Core) (clk : Nat) (d : Option DReg) : (k.slotInc clk d).groups = k.groups := by cases d <;> rfl
@[simp] theorem Core.slotInc_ops (k : Core) (clk : Nat) (d : Option DReg) : (k.slotInc clk d).ops = k.ops := by cases d <;> rfl
@[simp] theorem Core.slotInc_stores (k : Core) (clk : Nat) (d : Option DReg) : (k.slotInc clk d).stores = k.stores := by cases d <;> rfl
@[simp] theorem Core.slotInc_locks (k : Core) (clk : Nat) (d : Option DReg) : (k.slotInc clk d).locks = k.locks := by cases d <;> rfl
@[simp] theorem Core.slotInc_rqs (k : Core) (clk : Nat) (d : Option DReg) : (k.slotInc clk d).rqs = k.rqs := by cases d <;> rfl
@[simp] theorem Core.slotInc_slice (k : Core) (clk : Nat) (d : Option DReg) : (k.slotInc clk d).slice = k.slice := by cases d <;> rfl
@[simp] theorem Core.slotInc_ctx (k : Core) (clk : Nat) (d : Option DReg) : (k.slotInc clk d).ctx = k.ctx := by cases d <;> rfl
@[simp] theorem Core.slotInc_unit (k : Core) (clk : Nat) (d : Option DReg) : (k.slotInc clk d).unit = k.unit := by cases d <;> rfl
@[simp] theorem Core.slotInc_dbg (k : Core) (clk : Nat) (d : Option DReg) : (k.slotInc clk d).dbg = k.dbg := by cases d <;> rfl
@[simp] theorem Core.slotInc_flagsSet (k : Core) (clk : Nat) (d : Option DReg) : (k.slotInc clk d).flagsSet = k.flagsSet := by cases d <;> rfl
@[simp] theorem Core.slotInc_forced (k : Core) (clk : Nat) (d : Option DReg) : (k.slotInc clk d).forced = k.forced := by cases d <;> rfl
@[simp] theorem Core.slotInc_seqSpec (k : Core) (clk : Nat) (d : Option DReg) : (k.slotInc clk d).seqSpec = k.seqSpec := by cases d <;> rfl

@[simp] theorem Core.slotDec_g (k : Core) (clk : Nat) (d : Option DReg) : (k.slotDec clk d).g = k.g := by cases d <;> rfl
@[simp] theorem Core.slotDec_q (k : Core) (clk : Nat) (d : Option DReg) : (k.slotDec clk d).q = k.q := by cases d <;> rfl
@[simp] theorem Core.slotDec_v (k : Core) (clk : Nat) (d : Option DReg) : (k.slotDec clk d).v = k.v := by cases d <;> rfl
@[simp] theorem Core.slotDec_streams (k : Core) (clk : Nat) (d : Option DReg) : (k.slotDec clk d).streams = k.streams := by cases d <;> rfl
@[simp] theorem Core.slotDec_acc (k : Core) (clk : Nat) (d : Option DReg) : (k.slotDec clk d).acc = k.acc := by cases d <;> rfl
@[simp] theorem Core.slotDec_pc (k : Core) (clk : Nat) (d : Option DReg) : (k.slotDec clk d).pc = k.pc := by cases d <;> rfl
@[simp] theorem Core.slotDec_loops (k : Core) (clk : Nat) (d : Option DReg) : (k.slotDec clk d).loops = k.loops := by cases d <;> rfl
@[simp] theorem Core.slotDec_trapLoops (k : Core) (clk : Nat) (d : Option DReg) : (k.slotDec clk d).trapLoops = k.trapLoops := by cases d <;> rfl
@[simp] theorem Core.slotDec_region (k : Core) (clk : Nat) (d : Option DReg) : (k.slotDec clk d).region = k.region := by cases d <;> rfl
@[simp] theorem Core.slotDec_cr (k : Core) (clk : Nat) (d : Option DReg) : (k.slotDec clk d).cr = k.cr := by cases d <;> rfl
@[simp] theorem Core.slotDec_priv (k : Core) (clk : Nat) (d : Option DReg) : (k.slotDec clk d).priv = k.priv := by cases d <;> rfl
@[simp] theorem Core.slotDec_flags (k : Core) (clk : Nat) (d : Option DReg) : (k.slotDec clk d).flags = k.flags := by cases d <;> rfl
@[simp] theorem Core.slotDec_vcc (k : Core) (clk : Nat) (d : Option DReg) : (k.slotDec clk d).vcc = k.vcc := by cases d <;> rfl
@[simp] theorem Core.slotDec_seqAt (k : Core) (clk : Nat) (d : Option DReg) : (k.slotDec clk d).seqAt = k.seqAt := by cases d <;> rfl
@[simp] theorem Core.slotDec_rob (k : Core) (clk : Nat) (d : Option DReg) : (k.slotDec clk d).rob = k.rob := by cases d <;> rfl
@[simp] theorem Core.slotDec_queues (k : Core) (clk : Nat) (d : Option DReg) : (k.slotDec clk d).queues = k.queues := by cases d <;> rfl
@[simp] theorem Core.slotDec_colFree (k : Core) (clk : Nat) (d : Option DReg) : (k.slotDec clk d).colFree = k.colFree := by cases d <;> rfl
@[simp] theorem Core.slotDec_landings (k : Core) (clk : Nat) (d : Option DReg) : (k.slotDec clk d).landings = k.landings := by cases d <;> rfl
@[simp] theorem Core.slotDec_held (k : Core) (clk : Nat) (d : Option DReg) : (k.slotDec clk d).held = k.held := by cases d <;> rfl
@[simp] theorem Core.slotDec_trapAt (k : Core) (clk : Nat) (d : Option DReg) : (k.slotDec clk d).trapAt = k.trapAt := by cases d <;> rfl
@[simp] theorem Core.slotDec_descs (k : Core) (clk : Nat) (d : Option DReg) : (k.slotDec clk d).descs = k.descs := by cases d <;> rfl
@[simp] theorem Core.slotDec_groups (k : Core) (clk : Nat) (d : Option DReg) : (k.slotDec clk d).groups = k.groups := by cases d <;> rfl
@[simp] theorem Core.slotDec_ops (k : Core) (clk : Nat) (d : Option DReg) : (k.slotDec clk d).ops = k.ops := by cases d <;> rfl
@[simp] theorem Core.slotDec_stores (k : Core) (clk : Nat) (d : Option DReg) : (k.slotDec clk d).stores = k.stores := by cases d <;> rfl
@[simp] theorem Core.slotDec_locks (k : Core) (clk : Nat) (d : Option DReg) : (k.slotDec clk d).locks = k.locks := by cases d <;> rfl
@[simp] theorem Core.slotDec_rqs (k : Core) (clk : Nat) (d : Option DReg) : (k.slotDec clk d).rqs = k.rqs := by cases d <;> rfl
@[simp] theorem Core.slotDec_slice (k : Core) (clk : Nat) (d : Option DReg) : (k.slotDec clk d).slice = k.slice := by cases d <;> rfl
@[simp] theorem Core.slotDec_ctx (k : Core) (clk : Nat) (d : Option DReg) : (k.slotDec clk d).ctx = k.ctx := by cases d <;> rfl
@[simp] theorem Core.slotDec_unit (k : Core) (clk : Nat) (d : Option DReg) : (k.slotDec clk d).unit = k.unit := by cases d <;> rfl
@[simp] theorem Core.slotDec_dbg (k : Core) (clk : Nat) (d : Option DReg) : (k.slotDec clk d).dbg = k.dbg := by cases d <;> rfl
@[simp] theorem Core.slotDec_flagsSet (k : Core) (clk : Nat) (d : Option DReg) : (k.slotDec clk d).flagsSet = k.flagsSet := by cases d <;> rfl
@[simp] theorem Core.slotDec_forced (k : Core) (clk : Nat) (d : Option DReg) : (k.slotDec clk d).forced = k.forced := by cases d <;> rfl
@[simp] theorem Core.slotDec_seqSpec (k : Core) (clk : Nat) (d : Option DReg) : (k.slotDec clk d).seqSpec = k.seqSpec := by cases d <;> rfl

@[simp] theorem Core.occupy_g (k : Core) (col n : Nat) : (k.occupy col n).g = k.g := rfl
@[simp] theorem Core.occupy_q (k : Core) (col n : Nat) : (k.occupy col n).q = k.q := rfl
@[simp] theorem Core.occupy_v (k : Core) (col n : Nat) : (k.occupy col n).v = k.v := rfl
@[simp] theorem Core.occupy_streams (k : Core) (col n : Nat) : (k.occupy col n).streams = k.streams := rfl
@[simp] theorem Core.occupy_acc (k : Core) (col n : Nat) : (k.occupy col n).acc = k.acc := rfl
@[simp] theorem Core.occupy_slots (k : Core) (col n : Nat) : (k.occupy col n).slots = k.slots := rfl
@[simp] theorem Core.occupy_pc (k : Core) (col n : Nat) : (k.occupy col n).pc = k.pc := rfl
@[simp] theorem Core.occupy_loops (k : Core) (col n : Nat) : (k.occupy col n).loops = k.loops := rfl
@[simp] theorem Core.occupy_trapLoops (k : Core) (col n : Nat) : (k.occupy col n).trapLoops = k.trapLoops := rfl
@[simp] theorem Core.occupy_region (k : Core) (col n : Nat) : (k.occupy col n).region = k.region := rfl
@[simp] theorem Core.occupy_cr (k : Core) (col n : Nat) : (k.occupy col n).cr = k.cr := rfl
@[simp] theorem Core.occupy_priv (k : Core) (col n : Nat) : (k.occupy col n).priv = k.priv := rfl
@[simp] theorem Core.occupy_flags (k : Core) (col n : Nat) : (k.occupy col n).flags = k.flags := rfl
@[simp] theorem Core.occupy_vcc (k : Core) (col n : Nat) : (k.occupy col n).vcc = k.vcc := rfl
@[simp] theorem Core.occupy_seqAt (k : Core) (col n : Nat) : (k.occupy col n).seqAt = k.seqAt := rfl
@[simp] theorem Core.occupy_rob (k : Core) (col n : Nat) : (k.occupy col n).rob = k.rob := rfl
@[simp] theorem Core.occupy_queues (k : Core) (col n : Nat) : (k.occupy col n).queues = k.queues := rfl
@[simp] theorem Core.occupy_landings (k : Core) (col n : Nat) : (k.occupy col n).landings = k.landings := rfl
@[simp] theorem Core.occupy_held (k : Core) (col n : Nat) : (k.occupy col n).held = k.held := rfl
@[simp] theorem Core.occupy_trapAt (k : Core) (col n : Nat) : (k.occupy col n).trapAt = k.trapAt := rfl
@[simp] theorem Core.occupy_descs (k : Core) (col n : Nat) : (k.occupy col n).descs = k.descs := rfl
@[simp] theorem Core.occupy_groups (k : Core) (col n : Nat) : (k.occupy col n).groups = k.groups := rfl
@[simp] theorem Core.occupy_ops (k : Core) (col n : Nat) : (k.occupy col n).ops = k.ops := rfl
@[simp] theorem Core.occupy_stores (k : Core) (col n : Nat) : (k.occupy col n).stores = k.stores := rfl
@[simp] theorem Core.occupy_locks (k : Core) (col n : Nat) : (k.occupy col n).locks = k.locks := rfl
@[simp] theorem Core.occupy_rqs (k : Core) (col n : Nat) : (k.occupy col n).rqs = k.rqs := rfl
@[simp] theorem Core.occupy_slice (k : Core) (col n : Nat) : (k.occupy col n).slice = k.slice := rfl
@[simp] theorem Core.occupy_ctx (k : Core) (col n : Nat) : (k.occupy col n).ctx = k.ctx := rfl
@[simp] theorem Core.occupy_unit (k : Core) (col n : Nat) : (k.occupy col n).unit = k.unit := rfl
@[simp] theorem Core.occupy_dbg (k : Core) (col n : Nat) : (k.occupy col n).dbg = k.dbg := rfl
@[simp] theorem Core.occupy_flagsSet (k : Core) (col n : Nat) : (k.occupy col n).flagsSet = k.flagsSet := rfl
@[simp] theorem Core.occupy_forced (k : Core) (col n : Nat) : (k.occupy col n).forced = k.forced := rfl
@[simp] theorem Core.occupy_seqSpec (k : Core) (col n : Nat) : (k.occupy col n).seqSpec = k.seqSpec := rfl

@[simp] theorem Core.qVisible_g (k : Core) (n t : Nat) : (k.qVisible n t).g = k.g := rfl
@[simp] theorem Core.qVisible_q (k : Core) (n t : Nat) : (k.qVisible n t).q = k.q := rfl
@[simp] theorem Core.qVisible_v (k : Core) (n t : Nat) : (k.qVisible n t).v = k.v := rfl
@[simp] theorem Core.qVisible_streams (k : Core) (n t : Nat) : (k.qVisible n t).streams = k.streams := rfl
@[simp] theorem Core.qVisible_acc (k : Core) (n t : Nat) : (k.qVisible n t).acc = k.acc := rfl
@[simp] theorem Core.qVisible_slots (k : Core) (n t : Nat) : (k.qVisible n t).slots = k.slots := rfl
@[simp] theorem Core.qVisible_pc (k : Core) (n t : Nat) : (k.qVisible n t).pc = k.pc := rfl
@[simp] theorem Core.qVisible_loops (k : Core) (n t : Nat) : (k.qVisible n t).loops = k.loops := rfl
@[simp] theorem Core.qVisible_trapLoops (k : Core) (n t : Nat) : (k.qVisible n t).trapLoops = k.trapLoops := rfl
@[simp] theorem Core.qVisible_region (k : Core) (n t : Nat) : (k.qVisible n t).region = k.region := rfl
@[simp] theorem Core.qVisible_cr (k : Core) (n t : Nat) : (k.qVisible n t).cr = k.cr := rfl
@[simp] theorem Core.qVisible_priv (k : Core) (n t : Nat) : (k.qVisible n t).priv = k.priv := rfl
@[simp] theorem Core.qVisible_flags (k : Core) (n t : Nat) : (k.qVisible n t).flags = k.flags := rfl
@[simp] theorem Core.qVisible_vcc (k : Core) (n t : Nat) : (k.qVisible n t).vcc = k.vcc := rfl
@[simp] theorem Core.qVisible_seqAt (k : Core) (n t : Nat) : (k.qVisible n t).seqAt = k.seqAt := rfl
@[simp] theorem Core.qVisible_rob (k : Core) (n t : Nat) : (k.qVisible n t).rob = k.rob := rfl
@[simp] theorem Core.qVisible_queues (k : Core) (n t : Nat) : (k.qVisible n t).queues = k.queues := rfl
@[simp] theorem Core.qVisible_colFree (k : Core) (n t : Nat) : (k.qVisible n t).colFree = k.colFree := rfl
@[simp] theorem Core.qVisible_landings (k : Core) (n t : Nat) : (k.qVisible n t).landings = k.landings := rfl
@[simp] theorem Core.qVisible_held (k : Core) (n t : Nat) : (k.qVisible n t).held = k.held := rfl
@[simp] theorem Core.qVisible_trapAt (k : Core) (n t : Nat) : (k.qVisible n t).trapAt = k.trapAt := rfl
@[simp] theorem Core.qVisible_descs (k : Core) (n t : Nat) : (k.qVisible n t).descs = k.descs := rfl
@[simp] theorem Core.qVisible_groups (k : Core) (n t : Nat) : (k.qVisible n t).groups = k.groups := rfl
@[simp] theorem Core.qVisible_ops (k : Core) (n t : Nat) : (k.qVisible n t).ops = k.ops := rfl
@[simp] theorem Core.qVisible_stores (k : Core) (n t : Nat) : (k.qVisible n t).stores = k.stores := rfl
@[simp] theorem Core.qVisible_locks (k : Core) (n t : Nat) : (k.qVisible n t).locks = k.locks := rfl
@[simp] theorem Core.qVisible_rqs (k : Core) (n t : Nat) : (k.qVisible n t).rqs = k.rqs := rfl
@[simp] theorem Core.qVisible_slice (k : Core) (n t : Nat) : (k.qVisible n t).slice = k.slice := rfl
@[simp] theorem Core.qVisible_ctx (k : Core) (n t : Nat) : (k.qVisible n t).ctx = k.ctx := rfl
@[simp] theorem Core.qVisible_unit (k : Core) (n t : Nat) : (k.qVisible n t).unit = k.unit := rfl
@[simp] theorem Core.qVisible_dbg (k : Core) (n t : Nat) : (k.qVisible n t).dbg = k.dbg := rfl
@[simp] theorem Core.qVisible_flagsSet (k : Core) (n t : Nat) : (k.qVisible n t).flagsSet = k.flagsSet := rfl
@[simp] theorem Core.qVisible_forced (k : Core) (n t : Nat) : (k.qVisible n t).forced = k.forced := rfl
@[simp] theorem Core.qVisible_seqSpec (k : Core) (n t : Nat) : (k.qVisible n t).seqSpec = k.seqSpec := rfl

@[simp] theorem Core.redirect_g (k : Core) (t : Nat) : (k.redirect t).g = k.g := rfl
@[simp] theorem Core.redirect_q (k : Core) (t : Nat) : (k.redirect t).q = k.q := rfl
@[simp] theorem Core.redirect_v (k : Core) (t : Nat) : (k.redirect t).v = k.v := rfl
@[simp] theorem Core.redirect_streams (k : Core) (t : Nat) : (k.redirect t).streams = k.streams := rfl
@[simp] theorem Core.redirect_acc (k : Core) (t : Nat) : (k.redirect t).acc = k.acc := rfl
@[simp] theorem Core.redirect_slots (k : Core) (t : Nat) : (k.redirect t).slots = k.slots := rfl
@[simp] theorem Core.redirect_loops (k : Core) (t : Nat) : (k.redirect t).loops = k.loops := rfl
@[simp] theorem Core.redirect_trapLoops (k : Core) (t : Nat) : (k.redirect t).trapLoops = k.trapLoops := rfl
@[simp] theorem Core.redirect_region (k : Core) (t : Nat) : (k.redirect t).region = k.region := rfl
@[simp] theorem Core.redirect_cr (k : Core) (t : Nat) : (k.redirect t).cr = k.cr := rfl
@[simp] theorem Core.redirect_priv (k : Core) (t : Nat) : (k.redirect t).priv = k.priv := rfl
@[simp] theorem Core.redirect_flags (k : Core) (t : Nat) : (k.redirect t).flags = k.flags := rfl
@[simp] theorem Core.redirect_vcc (k : Core) (t : Nat) : (k.redirect t).vcc = k.vcc := rfl
@[simp] theorem Core.redirect_rob (k : Core) (t : Nat) : (k.redirect t).rob = k.rob := rfl
@[simp] theorem Core.redirect_queues (k : Core) (t : Nat) : (k.redirect t).queues = k.queues := rfl
@[simp] theorem Core.redirect_colFree (k : Core) (t : Nat) : (k.redirect t).colFree = k.colFree := rfl
@[simp] theorem Core.redirect_landings (k : Core) (t : Nat) : (k.redirect t).landings = k.landings := rfl
@[simp] theorem Core.redirect_held (k : Core) (t : Nat) : (k.redirect t).held = k.held := rfl
@[simp] theorem Core.redirect_trapAt (k : Core) (t : Nat) : (k.redirect t).trapAt = k.trapAt := rfl
@[simp] theorem Core.redirect_descs (k : Core) (t : Nat) : (k.redirect t).descs = k.descs := rfl
@[simp] theorem Core.redirect_groups (k : Core) (t : Nat) : (k.redirect t).groups = k.groups := rfl
@[simp] theorem Core.redirect_ops (k : Core) (t : Nat) : (k.redirect t).ops = k.ops := rfl
@[simp] theorem Core.redirect_stores (k : Core) (t : Nat) : (k.redirect t).stores = k.stores := rfl
@[simp] theorem Core.redirect_locks (k : Core) (t : Nat) : (k.redirect t).locks = k.locks := rfl
@[simp] theorem Core.redirect_rqs (k : Core) (t : Nat) : (k.redirect t).rqs = k.rqs := rfl
@[simp] theorem Core.redirect_slice (k : Core) (t : Nat) : (k.redirect t).slice = k.slice := rfl
@[simp] theorem Core.redirect_ctx (k : Core) (t : Nat) : (k.redirect t).ctx = k.ctx := rfl
@[simp] theorem Core.redirect_unit (k : Core) (t : Nat) : (k.redirect t).unit = k.unit := rfl
@[simp] theorem Core.redirect_dbg (k : Core) (t : Nat) : (k.redirect t).dbg = k.dbg := rfl
@[simp] theorem Core.redirect_flagsSet (k : Core) (t : Nat) : (k.redirect t).flagsSet = k.flagsSet := rfl
@[simp] theorem Core.redirect_forced (k : Core) (t : Nat) : (k.redirect t).forced = k.forced := rfl
@[simp] theorem Core.redirect_seqSpec (k : Core) (t : Nat) : (k.redirect t).seqSpec = k.seqSpec := rfl

@[simp] theorem Core.setQueueOf_g (k : Core) (col : Nat) (l : List QEntry) : (k.setQueueOf col l).g = k.g := rfl
@[simp] theorem Core.setQueueOf_q (k : Core) (col : Nat) (l : List QEntry) : (k.setQueueOf col l).q = k.q := rfl
@[simp] theorem Core.setQueueOf_v (k : Core) (col : Nat) (l : List QEntry) : (k.setQueueOf col l).v = k.v := rfl
@[simp] theorem Core.setQueueOf_streams (k : Core) (col : Nat) (l : List QEntry) : (k.setQueueOf col l).streams = k.streams := rfl
@[simp] theorem Core.setQueueOf_acc (k : Core) (col : Nat) (l : List QEntry) : (k.setQueueOf col l).acc = k.acc := rfl
@[simp] theorem Core.setQueueOf_slots (k : Core) (col : Nat) (l : List QEntry) : (k.setQueueOf col l).slots = k.slots := rfl
@[simp] theorem Core.setQueueOf_pc (k : Core) (col : Nat) (l : List QEntry) : (k.setQueueOf col l).pc = k.pc := rfl
@[simp] theorem Core.setQueueOf_loops (k : Core) (col : Nat) (l : List QEntry) : (k.setQueueOf col l).loops = k.loops := rfl
@[simp] theorem Core.setQueueOf_trapLoops (k : Core) (col : Nat) (l : List QEntry) : (k.setQueueOf col l).trapLoops = k.trapLoops := rfl
@[simp] theorem Core.setQueueOf_region (k : Core) (col : Nat) (l : List QEntry) : (k.setQueueOf col l).region = k.region := rfl
@[simp] theorem Core.setQueueOf_cr (k : Core) (col : Nat) (l : List QEntry) : (k.setQueueOf col l).cr = k.cr := rfl
@[simp] theorem Core.setQueueOf_priv (k : Core) (col : Nat) (l : List QEntry) : (k.setQueueOf col l).priv = k.priv := rfl
@[simp] theorem Core.setQueueOf_flags (k : Core) (col : Nat) (l : List QEntry) : (k.setQueueOf col l).flags = k.flags := rfl
@[simp] theorem Core.setQueueOf_vcc (k : Core) (col : Nat) (l : List QEntry) : (k.setQueueOf col l).vcc = k.vcc := rfl
@[simp] theorem Core.setQueueOf_seqAt (k : Core) (col : Nat) (l : List QEntry) : (k.setQueueOf col l).seqAt = k.seqAt := rfl
@[simp] theorem Core.setQueueOf_rob (k : Core) (col : Nat) (l : List QEntry) : (k.setQueueOf col l).rob = k.rob := rfl
@[simp] theorem Core.setQueueOf_colFree (k : Core) (col : Nat) (l : List QEntry) : (k.setQueueOf col l).colFree = k.colFree := rfl
@[simp] theorem Core.setQueueOf_landings (k : Core) (col : Nat) (l : List QEntry) : (k.setQueueOf col l).landings = k.landings := rfl
@[simp] theorem Core.setQueueOf_held (k : Core) (col : Nat) (l : List QEntry) : (k.setQueueOf col l).held = k.held := rfl
@[simp] theorem Core.setQueueOf_trapAt (k : Core) (col : Nat) (l : List QEntry) : (k.setQueueOf col l).trapAt = k.trapAt := rfl
@[simp] theorem Core.setQueueOf_descs (k : Core) (col : Nat) (l : List QEntry) : (k.setQueueOf col l).descs = k.descs := rfl
@[simp] theorem Core.setQueueOf_groups (k : Core) (col : Nat) (l : List QEntry) : (k.setQueueOf col l).groups = k.groups := rfl
@[simp] theorem Core.setQueueOf_ops (k : Core) (col : Nat) (l : List QEntry) : (k.setQueueOf col l).ops = k.ops := rfl
@[simp] theorem Core.setQueueOf_stores (k : Core) (col : Nat) (l : List QEntry) : (k.setQueueOf col l).stores = k.stores := rfl
@[simp] theorem Core.setQueueOf_locks (k : Core) (col : Nat) (l : List QEntry) : (k.setQueueOf col l).locks = k.locks := rfl
@[simp] theorem Core.setQueueOf_rqs (k : Core) (col : Nat) (l : List QEntry) : (k.setQueueOf col l).rqs = k.rqs := rfl
@[simp] theorem Core.setQueueOf_slice (k : Core) (col : Nat) (l : List QEntry) : (k.setQueueOf col l).slice = k.slice := rfl
@[simp] theorem Core.setQueueOf_ctx (k : Core) (col : Nat) (l : List QEntry) : (k.setQueueOf col l).ctx = k.ctx := rfl
@[simp] theorem Core.setQueueOf_unit (k : Core) (col : Nat) (l : List QEntry) : (k.setQueueOf col l).unit = k.unit := rfl
@[simp] theorem Core.setQueueOf_dbg (k : Core) (col : Nat) (l : List QEntry) : (k.setQueueOf col l).dbg = k.dbg := rfl
@[simp] theorem Core.setQueueOf_flagsSet (k : Core) (col : Nat) (l : List QEntry) : (k.setQueueOf col l).flagsSet = k.flagsSet := rfl
@[simp] theorem Core.setQueueOf_forced (k : Core) (col : Nat) (l : List QEntry) : (k.setQueueOf col l).forced = k.forced := rfl
@[simp] theorem Core.setQueueOf_seqSpec (k : Core) (col : Nat) (l : List QEntry) : (k.setQueueOf col l).seqSpec = k.seqSpec := rfl

@[simp] theorem Core.allow_g (k : Core) (col n : Nat) : (k.allow col n).g = k.g := by unfold Core.allow; split <;> rfl
@[simp] theorem Core.allow_q (k : Core) (col n : Nat) : (k.allow col n).q = k.q := by unfold Core.allow; split <;> rfl
@[simp] theorem Core.allow_v (k : Core) (col n : Nat) : (k.allow col n).v = k.v := by unfold Core.allow; split <;> rfl
@[simp] theorem Core.allow_streams (k : Core) (col n : Nat) : (k.allow col n).streams = k.streams := by unfold Core.allow; split <;> rfl
@[simp] theorem Core.allow_acc (k : Core) (col n : Nat) : (k.allow col n).acc = k.acc := by unfold Core.allow; split <;> rfl
@[simp] theorem Core.allow_slots (k : Core) (col n : Nat) : (k.allow col n).slots = k.slots := by unfold Core.allow; split <;> rfl
@[simp] theorem Core.allow_pc (k : Core) (col n : Nat) : (k.allow col n).pc = k.pc := by unfold Core.allow; split <;> rfl
@[simp] theorem Core.allow_loops (k : Core) (col n : Nat) : (k.allow col n).loops = k.loops := by unfold Core.allow; split <;> rfl
@[simp] theorem Core.allow_trapLoops (k : Core) (col n : Nat) : (k.allow col n).trapLoops = k.trapLoops := by unfold Core.allow; split <;> rfl
@[simp] theorem Core.allow_region (k : Core) (col n : Nat) : (k.allow col n).region = k.region := by unfold Core.allow; split <;> rfl
@[simp] theorem Core.allow_cr (k : Core) (col n : Nat) : (k.allow col n).cr = k.cr := by unfold Core.allow; split <;> rfl
@[simp] theorem Core.allow_priv (k : Core) (col n : Nat) : (k.allow col n).priv = k.priv := by unfold Core.allow; split <;> rfl
@[simp] theorem Core.allow_flags (k : Core) (col n : Nat) : (k.allow col n).flags = k.flags := by unfold Core.allow; split <;> rfl
@[simp] theorem Core.allow_vcc (k : Core) (col n : Nat) : (k.allow col n).vcc = k.vcc := by unfold Core.allow; split <;> rfl
@[simp] theorem Core.allow_seqAt (k : Core) (col n : Nat) : (k.allow col n).seqAt = k.seqAt := by unfold Core.allow; split <;> rfl
@[simp] theorem Core.allow_rob (k : Core) (col n : Nat) : (k.allow col n).rob = k.rob := by unfold Core.allow; split <;> rfl
@[simp] theorem Core.allow_queues (k : Core) (col n : Nat) : (k.allow col n).queues = k.queues := by unfold Core.allow; split <;> rfl
@[simp] theorem Core.allow_colFree (k : Core) (col n : Nat) : (k.allow col n).colFree = k.colFree := by unfold Core.allow; split <;> rfl
@[simp] theorem Core.allow_landings (k : Core) (col n : Nat) : (k.allow col n).landings = k.landings := by unfold Core.allow; split <;> rfl
@[simp] theorem Core.allow_held (k : Core) (col n : Nat) : (k.allow col n).held = k.held := by unfold Core.allow; split <;> rfl
@[simp] theorem Core.allow_trapAt (k : Core) (col n : Nat) : (k.allow col n).trapAt = k.trapAt := by unfold Core.allow; split <;> rfl
@[simp] theorem Core.allow_descs (k : Core) (col n : Nat) : (k.allow col n).descs = k.descs := by unfold Core.allow; split <;> rfl
@[simp] theorem Core.allow_groups (k : Core) (col n : Nat) : (k.allow col n).groups = k.groups := by unfold Core.allow; split <;> rfl
@[simp] theorem Core.allow_ops (k : Core) (col n : Nat) : (k.allow col n).ops = k.ops := by unfold Core.allow; split <;> rfl
@[simp] theorem Core.allow_stores (k : Core) (col n : Nat) : (k.allow col n).stores = k.stores := by unfold Core.allow; split <;> rfl
@[simp] theorem Core.allow_locks (k : Core) (col n : Nat) : (k.allow col n).locks = k.locks := by unfold Core.allow; split <;> rfl
@[simp] theorem Core.allow_rqs (k : Core) (col n : Nat) : (k.allow col n).rqs = k.rqs := by unfold Core.allow; split <;> rfl
@[simp] theorem Core.allow_slice (k : Core) (col n : Nat) : (k.allow col n).slice = k.slice := by unfold Core.allow; split <;> rfl
@[simp] theorem Core.allow_ctx (k : Core) (col n : Nat) : (k.allow col n).ctx = k.ctx := by unfold Core.allow; split <;> rfl
@[simp] theorem Core.allow_unit (k : Core) (col n : Nat) : (k.allow col n).unit = k.unit := by unfold Core.allow; split <;> rfl
@[simp] theorem Core.allow_dbg (k : Core) (col n : Nat) : (k.allow col n).dbg = k.dbg := by unfold Core.allow; split <;> rfl
@[simp] theorem Core.allow_flagsSet (k : Core) (col n : Nat) : (k.allow col n).flagsSet = k.flagsSet := by unfold Core.allow; split <;> rfl
@[simp] theorem Core.allow_forced (k : Core) (col n : Nat) : (k.allow col n).forced = k.forced := by unfold Core.allow; split <;> rfl
@[simp] theorem Core.allow_seqSpec (k : Core) (col n : Nat) : (k.allow col n).seqSpec = k.seqSpec := by unfold Core.allow; split <;> rfl

@[simp] theorem Core.setCv_g (k : Core) (n : Nat) (x : Word) : (k.setCv n x).g = k.g := rfl
@[simp] theorem Core.setCv_q (k : Core) (n : Nat) (x : Word) : (k.setCv n x).q = k.q := rfl
@[simp] theorem Core.setCv_v (k : Core) (n : Nat) (x : Word) : (k.setCv n x).v = k.v := rfl
@[simp] theorem Core.setCv_streams (k : Core) (n : Nat) (x : Word) : (k.setCv n x).streams = k.streams := rfl
@[simp] theorem Core.setCv_acc (k : Core) (n : Nat) (x : Word) : (k.setCv n x).acc = k.acc := rfl
@[simp] theorem Core.setCv_slots (k : Core) (n : Nat) (x : Word) : (k.setCv n x).slots = k.slots := rfl
@[simp] theorem Core.setCv_pc (k : Core) (n : Nat) (x : Word) : (k.setCv n x).pc = k.pc := rfl
@[simp] theorem Core.setCv_loops (k : Core) (n : Nat) (x : Word) : (k.setCv n x).loops = k.loops := rfl
@[simp] theorem Core.setCv_trapLoops (k : Core) (n : Nat) (x : Word) : (k.setCv n x).trapLoops = k.trapLoops := rfl
@[simp] theorem Core.setCv_region (k : Core) (n : Nat) (x : Word) : (k.setCv n x).region = k.region := rfl
@[simp] theorem Core.setCv_priv (k : Core) (n : Nat) (x : Word) : (k.setCv n x).priv = k.priv := rfl
@[simp] theorem Core.setCv_flags (k : Core) (n : Nat) (x : Word) : (k.setCv n x).flags = k.flags := rfl
@[simp] theorem Core.setCv_vcc (k : Core) (n : Nat) (x : Word) : (k.setCv n x).vcc = k.vcc := rfl
@[simp] theorem Core.setCv_seqAt (k : Core) (n : Nat) (x : Word) : (k.setCv n x).seqAt = k.seqAt := rfl
@[simp] theorem Core.setCv_rob (k : Core) (n : Nat) (x : Word) : (k.setCv n x).rob = k.rob := rfl
@[simp] theorem Core.setCv_queues (k : Core) (n : Nat) (x : Word) : (k.setCv n x).queues = k.queues := rfl
@[simp] theorem Core.setCv_colFree (k : Core) (n : Nat) (x : Word) : (k.setCv n x).colFree = k.colFree := rfl
@[simp] theorem Core.setCv_landings (k : Core) (n : Nat) (x : Word) : (k.setCv n x).landings = k.landings := rfl
@[simp] theorem Core.setCv_held (k : Core) (n : Nat) (x : Word) : (k.setCv n x).held = k.held := rfl
@[simp] theorem Core.setCv_trapAt (k : Core) (n : Nat) (x : Word) : (k.setCv n x).trapAt = k.trapAt := rfl
@[simp] theorem Core.setCv_descs (k : Core) (n : Nat) (x : Word) : (k.setCv n x).descs = k.descs := rfl
@[simp] theorem Core.setCv_groups (k : Core) (n : Nat) (x : Word) : (k.setCv n x).groups = k.groups := rfl
@[simp] theorem Core.setCv_ops (k : Core) (n : Nat) (x : Word) : (k.setCv n x).ops = k.ops := rfl
@[simp] theorem Core.setCv_stores (k : Core) (n : Nat) (x : Word) : (k.setCv n x).stores = k.stores := rfl
@[simp] theorem Core.setCv_locks (k : Core) (n : Nat) (x : Word) : (k.setCv n x).locks = k.locks := rfl
@[simp] theorem Core.setCv_rqs (k : Core) (n : Nat) (x : Word) : (k.setCv n x).rqs = k.rqs := rfl
@[simp] theorem Core.setCv_slice (k : Core) (n : Nat) (x : Word) : (k.setCv n x).slice = k.slice := rfl
@[simp] theorem Core.setCv_ctx (k : Core) (n : Nat) (x : Word) : (k.setCv n x).ctx = k.ctx := rfl
@[simp] theorem Core.setCv_unit (k : Core) (n : Nat) (x : Word) : (k.setCv n x).unit = k.unit := rfl
@[simp] theorem Core.setCv_dbg (k : Core) (n : Nat) (x : Word) : (k.setCv n x).dbg = k.dbg := rfl
@[simp] theorem Core.setCv_flagsSet (k : Core) (n : Nat) (x : Word) : (k.setCv n x).flagsSet = k.flagsSet := rfl
@[simp] theorem Core.setCv_forced (k : Core) (n : Nat) (x : Word) : (k.setCv n x).forced = k.forced := rfl
@[simp] theorem Core.setCv_seqSpec (k : Core) (n : Nat) (x : Word) : (k.setCv n x).seqSpec = k.seqSpec := rfl

@[simp] theorem Core.wv_g (k : Core) (r : VReg) (x : VVal) : (k.wv r x).g = k.g := rfl
@[simp] theorem Core.wv_q (k : Core) (r : VReg) (x : VVal) : (k.wv r x).q = k.q := rfl
@[simp] theorem Core.wv_streams (k : Core) (r : VReg) (x : VVal) : (k.wv r x).streams = k.streams := rfl
@[simp] theorem Core.wv_acc (k : Core) (r : VReg) (x : VVal) : (k.wv r x).acc = k.acc := rfl
@[simp] theorem Core.wv_slots (k : Core) (r : VReg) (x : VVal) : (k.wv r x).slots = k.slots := rfl
@[simp] theorem Core.wv_pc (k : Core) (r : VReg) (x : VVal) : (k.wv r x).pc = k.pc := rfl
@[simp] theorem Core.wv_loops (k : Core) (r : VReg) (x : VVal) : (k.wv r x).loops = k.loops := rfl
@[simp] theorem Core.wv_trapLoops (k : Core) (r : VReg) (x : VVal) : (k.wv r x).trapLoops = k.trapLoops := rfl
@[simp] theorem Core.wv_region (k : Core) (r : VReg) (x : VVal) : (k.wv r x).region = k.region := rfl
@[simp] theorem Core.wv_cr (k : Core) (r : VReg) (x : VVal) : (k.wv r x).cr = k.cr := rfl
@[simp] theorem Core.wv_priv (k : Core) (r : VReg) (x : VVal) : (k.wv r x).priv = k.priv := rfl
@[simp] theorem Core.wv_flags (k : Core) (r : VReg) (x : VVal) : (k.wv r x).flags = k.flags := rfl
@[simp] theorem Core.wv_vcc (k : Core) (r : VReg) (x : VVal) : (k.wv r x).vcc = k.vcc := rfl
@[simp] theorem Core.wv_seqAt (k : Core) (r : VReg) (x : VVal) : (k.wv r x).seqAt = k.seqAt := rfl
@[simp] theorem Core.wv_rob (k : Core) (r : VReg) (x : VVal) : (k.wv r x).rob = k.rob := rfl
@[simp] theorem Core.wv_queues (k : Core) (r : VReg) (x : VVal) : (k.wv r x).queues = k.queues := rfl
@[simp] theorem Core.wv_colFree (k : Core) (r : VReg) (x : VVal) : (k.wv r x).colFree = k.colFree := rfl
@[simp] theorem Core.wv_landings (k : Core) (r : VReg) (x : VVal) : (k.wv r x).landings = k.landings := rfl
@[simp] theorem Core.wv_held (k : Core) (r : VReg) (x : VVal) : (k.wv r x).held = k.held := rfl
@[simp] theorem Core.wv_trapAt (k : Core) (r : VReg) (x : VVal) : (k.wv r x).trapAt = k.trapAt := rfl
@[simp] theorem Core.wv_descs (k : Core) (r : VReg) (x : VVal) : (k.wv r x).descs = k.descs := rfl
@[simp] theorem Core.wv_groups (k : Core) (r : VReg) (x : VVal) : (k.wv r x).groups = k.groups := rfl
@[simp] theorem Core.wv_ops (k : Core) (r : VReg) (x : VVal) : (k.wv r x).ops = k.ops := rfl
@[simp] theorem Core.wv_stores (k : Core) (r : VReg) (x : VVal) : (k.wv r x).stores = k.stores := rfl
@[simp] theorem Core.wv_locks (k : Core) (r : VReg) (x : VVal) : (k.wv r x).locks = k.locks := rfl
@[simp] theorem Core.wv_rqs (k : Core) (r : VReg) (x : VVal) : (k.wv r x).rqs = k.rqs := rfl
@[simp] theorem Core.wv_slice (k : Core) (r : VReg) (x : VVal) : (k.wv r x).slice = k.slice := rfl
@[simp] theorem Core.wv_ctx (k : Core) (r : VReg) (x : VVal) : (k.wv r x).ctx = k.ctx := rfl
@[simp] theorem Core.wv_unit (k : Core) (r : VReg) (x : VVal) : (k.wv r x).unit = k.unit := rfl
@[simp] theorem Core.wv_dbg (k : Core) (r : VReg) (x : VVal) : (k.wv r x).dbg = k.dbg := rfl
@[simp] theorem Core.wv_flagsSet (k : Core) (r : VReg) (x : VVal) : (k.wv r x).flagsSet = k.flagsSet := rfl
@[simp] theorem Core.wv_forced (k : Core) (r : VReg) (x : VVal) : (k.wv r x).forced = k.forced := rfl
@[simp] theorem Core.wv_seqSpec (k : Core) (r : VReg) (x : VVal) : (k.wv r x).seqSpec = k.seqSpec := rfl

@[simp] theorem Core.wa_g (k : Core) (r : AReg) (x : Acc) : (k.wa r x).g = k.g := rfl
@[simp] theorem Core.wa_q (k : Core) (r : AReg) (x : Acc) : (k.wa r x).q = k.q := rfl
@[simp] theorem Core.wa_v (k : Core) (r : AReg) (x : Acc) : (k.wa r x).v = k.v := rfl
@[simp] theorem Core.wa_streams (k : Core) (r : AReg) (x : Acc) : (k.wa r x).streams = k.streams := rfl
@[simp] theorem Core.wa_slots (k : Core) (r : AReg) (x : Acc) : (k.wa r x).slots = k.slots := rfl
@[simp] theorem Core.wa_pc (k : Core) (r : AReg) (x : Acc) : (k.wa r x).pc = k.pc := rfl
@[simp] theorem Core.wa_loops (k : Core) (r : AReg) (x : Acc) : (k.wa r x).loops = k.loops := rfl
@[simp] theorem Core.wa_trapLoops (k : Core) (r : AReg) (x : Acc) : (k.wa r x).trapLoops = k.trapLoops := rfl
@[simp] theorem Core.wa_region (k : Core) (r : AReg) (x : Acc) : (k.wa r x).region = k.region := rfl
@[simp] theorem Core.wa_cr (k : Core) (r : AReg) (x : Acc) : (k.wa r x).cr = k.cr := rfl
@[simp] theorem Core.wa_priv (k : Core) (r : AReg) (x : Acc) : (k.wa r x).priv = k.priv := rfl
@[simp] theorem Core.wa_flags (k : Core) (r : AReg) (x : Acc) : (k.wa r x).flags = k.flags := rfl
@[simp] theorem Core.wa_vcc (k : Core) (r : AReg) (x : Acc) : (k.wa r x).vcc = k.vcc := rfl
@[simp] theorem Core.wa_seqAt (k : Core) (r : AReg) (x : Acc) : (k.wa r x).seqAt = k.seqAt := rfl
@[simp] theorem Core.wa_rob (k : Core) (r : AReg) (x : Acc) : (k.wa r x).rob = k.rob := rfl
@[simp] theorem Core.wa_queues (k : Core) (r : AReg) (x : Acc) : (k.wa r x).queues = k.queues := rfl
@[simp] theorem Core.wa_colFree (k : Core) (r : AReg) (x : Acc) : (k.wa r x).colFree = k.colFree := rfl
@[simp] theorem Core.wa_landings (k : Core) (r : AReg) (x : Acc) : (k.wa r x).landings = k.landings := rfl
@[simp] theorem Core.wa_held (k : Core) (r : AReg) (x : Acc) : (k.wa r x).held = k.held := rfl
@[simp] theorem Core.wa_trapAt (k : Core) (r : AReg) (x : Acc) : (k.wa r x).trapAt = k.trapAt := rfl
@[simp] theorem Core.wa_descs (k : Core) (r : AReg) (x : Acc) : (k.wa r x).descs = k.descs := rfl
@[simp] theorem Core.wa_groups (k : Core) (r : AReg) (x : Acc) : (k.wa r x).groups = k.groups := rfl
@[simp] theorem Core.wa_ops (k : Core) (r : AReg) (x : Acc) : (k.wa r x).ops = k.ops := rfl
@[simp] theorem Core.wa_stores (k : Core) (r : AReg) (x : Acc) : (k.wa r x).stores = k.stores := rfl
@[simp] theorem Core.wa_locks (k : Core) (r : AReg) (x : Acc) : (k.wa r x).locks = k.locks := rfl
@[simp] theorem Core.wa_rqs (k : Core) (r : AReg) (x : Acc) : (k.wa r x).rqs = k.rqs := rfl
@[simp] theorem Core.wa_slice (k : Core) (r : AReg) (x : Acc) : (k.wa r x).slice = k.slice := rfl
@[simp] theorem Core.wa_ctx (k : Core) (r : AReg) (x : Acc) : (k.wa r x).ctx = k.ctx := rfl
@[simp] theorem Core.wa_unit (k : Core) (r : AReg) (x : Acc) : (k.wa r x).unit = k.unit := rfl
@[simp] theorem Core.wa_dbg (k : Core) (r : AReg) (x : Acc) : (k.wa r x).dbg = k.dbg := rfl
@[simp] theorem Core.wa_flagsSet (k : Core) (r : AReg) (x : Acc) : (k.wa r x).flagsSet = k.flagsSet := rfl
@[simp] theorem Core.wa_forced (k : Core) (r : AReg) (x : Acc) : (k.wa r x).forced = k.forced := rfl
@[simp] theorem Core.wa_seqSpec (k : Core) (r : AReg) (x : Acc) : (k.wa r x).seqSpec = k.seqSpec := rfl

@[simp] theorem Core.wg_q (k : Core) (r : GReg) (x : GVal) : (k.wg r x).q = k.q := by unfold Core.wg; split <;> rfl
@[simp] theorem Core.wg_v (k : Core) (r : GReg) (x : GVal) : (k.wg r x).v = k.v := by unfold Core.wg; split <;> rfl
@[simp] theorem Core.wg_streams (k : Core) (r : GReg) (x : GVal) : (k.wg r x).streams = k.streams := by unfold Core.wg; split <;> rfl
@[simp] theorem Core.wg_acc (k : Core) (r : GReg) (x : GVal) : (k.wg r x).acc = k.acc := by unfold Core.wg; split <;> rfl
@[simp] theorem Core.wg_slots (k : Core) (r : GReg) (x : GVal) : (k.wg r x).slots = k.slots := by unfold Core.wg; split <;> rfl
@[simp] theorem Core.wg_pc (k : Core) (r : GReg) (x : GVal) : (k.wg r x).pc = k.pc := by unfold Core.wg; split <;> rfl
@[simp] theorem Core.wg_loops (k : Core) (r : GReg) (x : GVal) : (k.wg r x).loops = k.loops := by unfold Core.wg; split <;> rfl
@[simp] theorem Core.wg_trapLoops (k : Core) (r : GReg) (x : GVal) : (k.wg r x).trapLoops = k.trapLoops := by unfold Core.wg; split <;> rfl
@[simp] theorem Core.wg_region (k : Core) (r : GReg) (x : GVal) : (k.wg r x).region = k.region := by unfold Core.wg; split <;> rfl
@[simp] theorem Core.wg_cr (k : Core) (r : GReg) (x : GVal) : (k.wg r x).cr = k.cr := by unfold Core.wg; split <;> rfl
@[simp] theorem Core.wg_priv (k : Core) (r : GReg) (x : GVal) : (k.wg r x).priv = k.priv := by unfold Core.wg; split <;> rfl
@[simp] theorem Core.wg_flags (k : Core) (r : GReg) (x : GVal) : (k.wg r x).flags = k.flags := by unfold Core.wg; split <;> rfl
@[simp] theorem Core.wg_vcc (k : Core) (r : GReg) (x : GVal) : (k.wg r x).vcc = k.vcc := by unfold Core.wg; split <;> rfl
@[simp] theorem Core.wg_seqAt (k : Core) (r : GReg) (x : GVal) : (k.wg r x).seqAt = k.seqAt := by unfold Core.wg; split <;> rfl
@[simp] theorem Core.wg_rob (k : Core) (r : GReg) (x : GVal) : (k.wg r x).rob = k.rob := by unfold Core.wg; split <;> rfl
@[simp] theorem Core.wg_queues (k : Core) (r : GReg) (x : GVal) : (k.wg r x).queues = k.queues := by unfold Core.wg; split <;> rfl
@[simp] theorem Core.wg_colFree (k : Core) (r : GReg) (x : GVal) : (k.wg r x).colFree = k.colFree := by unfold Core.wg; split <;> rfl
@[simp] theorem Core.wg_landings (k : Core) (r : GReg) (x : GVal) : (k.wg r x).landings = k.landings := by unfold Core.wg; split <;> rfl
@[simp] theorem Core.wg_held (k : Core) (r : GReg) (x : GVal) : (k.wg r x).held = k.held := by unfold Core.wg; split <;> rfl
@[simp] theorem Core.wg_trapAt (k : Core) (r : GReg) (x : GVal) : (k.wg r x).trapAt = k.trapAt := by unfold Core.wg; split <;> rfl
@[simp] theorem Core.wg_descs (k : Core) (r : GReg) (x : GVal) : (k.wg r x).descs = k.descs := by unfold Core.wg; split <;> rfl
@[simp] theorem Core.wg_groups (k : Core) (r : GReg) (x : GVal) : (k.wg r x).groups = k.groups := by unfold Core.wg; split <;> rfl
@[simp] theorem Core.wg_ops (k : Core) (r : GReg) (x : GVal) : (k.wg r x).ops = k.ops := by unfold Core.wg; split <;> rfl
@[simp] theorem Core.wg_stores (k : Core) (r : GReg) (x : GVal) : (k.wg r x).stores = k.stores := by unfold Core.wg; split <;> rfl
@[simp] theorem Core.wg_locks (k : Core) (r : GReg) (x : GVal) : (k.wg r x).locks = k.locks := by unfold Core.wg; split <;> rfl
@[simp] theorem Core.wg_rqs (k : Core) (r : GReg) (x : GVal) : (k.wg r x).rqs = k.rqs := by unfold Core.wg; split <;> rfl
@[simp] theorem Core.wg_slice (k : Core) (r : GReg) (x : GVal) : (k.wg r x).slice = k.slice := by unfold Core.wg; split <;> rfl
@[simp] theorem Core.wg_ctx (k : Core) (r : GReg) (x : GVal) : (k.wg r x).ctx = k.ctx := by unfold Core.wg; split <;> rfl
@[simp] theorem Core.wg_unit (k : Core) (r : GReg) (x : GVal) : (k.wg r x).unit = k.unit := by unfold Core.wg; split <;> rfl
@[simp] theorem Core.wg_dbg (k : Core) (r : GReg) (x : GVal) : (k.wg r x).dbg = k.dbg := by unfold Core.wg; split <;> rfl
@[simp] theorem Core.wg_flagsSet (k : Core) (r : GReg) (x : GVal) : (k.wg r x).flagsSet = k.flagsSet := by unfold Core.wg; split <;> rfl
@[simp] theorem Core.wg_forced (k : Core) (r : GReg) (x : GVal) : (k.wg r x).forced = k.forced := by unfold Core.wg; split <;> rfl
@[simp] theorem Core.wg_seqSpec (k : Core) (r : GReg) (x : GVal) : (k.wg r x).seqSpec = k.seqSpec := by unfold Core.wg; split <;> rfl

@[simp] theorem Core.wq_g (k : Core) (r : QReg) (b : Bool) : (k.wq r b).g = k.g := by unfold Core.wq; split <;> rfl
@[simp] theorem Core.wq_v (k : Core) (r : QReg) (b : Bool) : (k.wq r b).v = k.v := by unfold Core.wq; split <;> rfl
@[simp] theorem Core.wq_streams (k : Core) (r : QReg) (b : Bool) : (k.wq r b).streams = k.streams := by unfold Core.wq; split <;> rfl
@[simp] theorem Core.wq_acc (k : Core) (r : QReg) (b : Bool) : (k.wq r b).acc = k.acc := by unfold Core.wq; split <;> rfl
@[simp] theorem Core.wq_slots (k : Core) (r : QReg) (b : Bool) : (k.wq r b).slots = k.slots := by unfold Core.wq; split <;> rfl
@[simp] theorem Core.wq_pc (k : Core) (r : QReg) (b : Bool) : (k.wq r b).pc = k.pc := by unfold Core.wq; split <;> rfl
@[simp] theorem Core.wq_loops (k : Core) (r : QReg) (b : Bool) : (k.wq r b).loops = k.loops := by unfold Core.wq; split <;> rfl
@[simp] theorem Core.wq_trapLoops (k : Core) (r : QReg) (b : Bool) : (k.wq r b).trapLoops = k.trapLoops := by unfold Core.wq; split <;> rfl
@[simp] theorem Core.wq_region (k : Core) (r : QReg) (b : Bool) : (k.wq r b).region = k.region := by unfold Core.wq; split <;> rfl
@[simp] theorem Core.wq_cr (k : Core) (r : QReg) (b : Bool) : (k.wq r b).cr = k.cr := by unfold Core.wq; split <;> rfl
@[simp] theorem Core.wq_priv (k : Core) (r : QReg) (b : Bool) : (k.wq r b).priv = k.priv := by unfold Core.wq; split <;> rfl
@[simp] theorem Core.wq_flags (k : Core) (r : QReg) (b : Bool) : (k.wq r b).flags = k.flags := by unfold Core.wq; split <;> rfl
@[simp] theorem Core.wq_vcc (k : Core) (r : QReg) (b : Bool) : (k.wq r b).vcc = k.vcc := by unfold Core.wq; split <;> rfl
@[simp] theorem Core.wq_seqAt (k : Core) (r : QReg) (b : Bool) : (k.wq r b).seqAt = k.seqAt := by unfold Core.wq; split <;> rfl
@[simp] theorem Core.wq_rob (k : Core) (r : QReg) (b : Bool) : (k.wq r b).rob = k.rob := by unfold Core.wq; split <;> rfl
@[simp] theorem Core.wq_queues (k : Core) (r : QReg) (b : Bool) : (k.wq r b).queues = k.queues := by unfold Core.wq; split <;> rfl
@[simp] theorem Core.wq_colFree (k : Core) (r : QReg) (b : Bool) : (k.wq r b).colFree = k.colFree := by unfold Core.wq; split <;> rfl
@[simp] theorem Core.wq_landings (k : Core) (r : QReg) (b : Bool) : (k.wq r b).landings = k.landings := by unfold Core.wq; split <;> rfl
@[simp] theorem Core.wq_held (k : Core) (r : QReg) (b : Bool) : (k.wq r b).held = k.held := by unfold Core.wq; split <;> rfl
@[simp] theorem Core.wq_trapAt (k : Core) (r : QReg) (b : Bool) : (k.wq r b).trapAt = k.trapAt := by unfold Core.wq; split <;> rfl
@[simp] theorem Core.wq_descs (k : Core) (r : QReg) (b : Bool) : (k.wq r b).descs = k.descs := by unfold Core.wq; split <;> rfl
@[simp] theorem Core.wq_groups (k : Core) (r : QReg) (b : Bool) : (k.wq r b).groups = k.groups := by unfold Core.wq; split <;> rfl
@[simp] theorem Core.wq_ops (k : Core) (r : QReg) (b : Bool) : (k.wq r b).ops = k.ops := by unfold Core.wq; split <;> rfl
@[simp] theorem Core.wq_stores (k : Core) (r : QReg) (b : Bool) : (k.wq r b).stores = k.stores := by unfold Core.wq; split <;> rfl
@[simp] theorem Core.wq_locks (k : Core) (r : QReg) (b : Bool) : (k.wq r b).locks = k.locks := by unfold Core.wq; split <;> rfl
@[simp] theorem Core.wq_rqs (k : Core) (r : QReg) (b : Bool) : (k.wq r b).rqs = k.rqs := by unfold Core.wq; split <;> rfl
@[simp] theorem Core.wq_slice (k : Core) (r : QReg) (b : Bool) : (k.wq r b).slice = k.slice := by unfold Core.wq; split <;> rfl
@[simp] theorem Core.wq_ctx (k : Core) (r : QReg) (b : Bool) : (k.wq r b).ctx = k.ctx := by unfold Core.wq; split <;> rfl
@[simp] theorem Core.wq_unit (k : Core) (r : QReg) (b : Bool) : (k.wq r b).unit = k.unit := by unfold Core.wq; split <;> rfl
@[simp] theorem Core.wq_dbg (k : Core) (r : QReg) (b : Bool) : (k.wq r b).dbg = k.dbg := by unfold Core.wq; split <;> rfl
@[simp] theorem Core.wq_flagsSet (k : Core) (r : QReg) (b : Bool) : (k.wq r b).flagsSet = k.flagsSet := by unfold Core.wq; split <;> rfl
@[simp] theorem Core.wq_forced (k : Core) (r : QReg) (b : Bool) : (k.wq r b).forced = k.forced := by unfold Core.wq; split <;> rfl
@[simp] theorem Core.wq_seqSpec (k : Core) (r : QReg) (b : Bool) : (k.wq r b).seqSpec = k.seqSpec := by unfold Core.wq; split <;> rfl

@[simp] theorem Core.advance_g (k : Core) (p : Nat) : (k.advance p).g = k.g := by unfold Core.advance; split <;> rfl
@[simp] theorem Core.advance_q (k : Core) (p : Nat) : (k.advance p).q = k.q := by unfold Core.advance; split <;> rfl
@[simp] theorem Core.advance_v (k : Core) (p : Nat) : (k.advance p).v = k.v := by unfold Core.advance; split <;> rfl
@[simp] theorem Core.advance_streams (k : Core) (p : Nat) : (k.advance p).streams = k.streams := by unfold Core.advance; split <;> rfl
@[simp] theorem Core.advance_acc (k : Core) (p : Nat) : (k.advance p).acc = k.acc := by unfold Core.advance; split <;> rfl
@[simp] theorem Core.advance_slots (k : Core) (p : Nat) : (k.advance p).slots = k.slots := by unfold Core.advance; split <;> rfl
@[simp] theorem Core.advance_trapLoops (k : Core) (p : Nat) : (k.advance p).trapLoops = k.trapLoops := by unfold Core.advance; split <;> rfl
@[simp] theorem Core.advance_region (k : Core) (p : Nat) : (k.advance p).region = k.region := by unfold Core.advance; split <;> rfl
@[simp] theorem Core.advance_cr (k : Core) (p : Nat) : (k.advance p).cr = k.cr := by unfold Core.advance; split <;> rfl
@[simp] theorem Core.advance_priv (k : Core) (p : Nat) : (k.advance p).priv = k.priv := by unfold Core.advance; split <;> rfl
@[simp] theorem Core.advance_flags (k : Core) (p : Nat) : (k.advance p).flags = k.flags := by unfold Core.advance; split <;> rfl
@[simp] theorem Core.advance_vcc (k : Core) (p : Nat) : (k.advance p).vcc = k.vcc := by unfold Core.advance; split <;> rfl
@[simp] theorem Core.advance_rob (k : Core) (p : Nat) : (k.advance p).rob = k.rob := by unfold Core.advance; split <;> rfl
@[simp] theorem Core.advance_queues (k : Core) (p : Nat) : (k.advance p).queues = k.queues := by unfold Core.advance; split <;> rfl
@[simp] theorem Core.advance_colFree (k : Core) (p : Nat) : (k.advance p).colFree = k.colFree := by unfold Core.advance; split <;> rfl
@[simp] theorem Core.advance_landings (k : Core) (p : Nat) : (k.advance p).landings = k.landings := by unfold Core.advance; split <;> rfl
@[simp] theorem Core.advance_held (k : Core) (p : Nat) : (k.advance p).held = k.held := by unfold Core.advance; split <;> rfl
@[simp] theorem Core.advance_trapAt (k : Core) (p : Nat) : (k.advance p).trapAt = k.trapAt := by unfold Core.advance; split <;> rfl
@[simp] theorem Core.advance_descs (k : Core) (p : Nat) : (k.advance p).descs = k.descs := by unfold Core.advance; split <;> rfl
@[simp] theorem Core.advance_groups (k : Core) (p : Nat) : (k.advance p).groups = k.groups := by unfold Core.advance; split <;> rfl
@[simp] theorem Core.advance_ops (k : Core) (p : Nat) : (k.advance p).ops = k.ops := by unfold Core.advance; split <;> rfl
@[simp] theorem Core.advance_stores (k : Core) (p : Nat) : (k.advance p).stores = k.stores := by unfold Core.advance; split <;> rfl
@[simp] theorem Core.advance_locks (k : Core) (p : Nat) : (k.advance p).locks = k.locks := by unfold Core.advance; split <;> rfl
@[simp] theorem Core.advance_rqs (k : Core) (p : Nat) : (k.advance p).rqs = k.rqs := by unfold Core.advance; split <;> rfl
@[simp] theorem Core.advance_slice (k : Core) (p : Nat) : (k.advance p).slice = k.slice := by unfold Core.advance; split <;> rfl
@[simp] theorem Core.advance_ctx (k : Core) (p : Nat) : (k.advance p).ctx = k.ctx := by unfold Core.advance; split <;> rfl
@[simp] theorem Core.advance_unit (k : Core) (p : Nat) : (k.advance p).unit = k.unit := by unfold Core.advance; split <;> rfl
@[simp] theorem Core.advance_dbg (k : Core) (p : Nat) : (k.advance p).dbg = k.dbg := by unfold Core.advance; split <;> rfl
@[simp] theorem Core.advance_flagsSet (k : Core) (p : Nat) : (k.advance p).flagsSet = k.flagsSet := by unfold Core.advance; split <;> rfl
@[simp] theorem Core.advance_forced (k : Core) (p : Nat) : (k.advance p).forced = k.forced := by unfold Core.advance; split <;> rfl
@[simp] theorem Core.advance_seqSpec (k : Core) (p : Nat) : (k.advance p).seqSpec = k.seqSpec := by unfold Core.advance; split <;> rfl

/-! ## Reading a register after an update of it -/

@[simp] theorem Core.rg_zero (k : Core) : k.rg 0 = ⟨0, 0, false⟩ := rfl
@[simp] theorem Core.rq_fifteen (k : Core) : k.rq 15 = true := rfl
theorem Core.rg_wg (k : Core) (r : GReg) (x : GVal) (h : r ≠ 0) : (k.wg r x).rg r = x := by
  simp [Core.rg, Core.wg, h]
theorem Core.rg_wg_ne (k : Core) {r t : GReg} (x : GVal) (h : t ≠ r) : (k.wg r x).rg t = k.rg t := by
  unfold Core.wg
  split
  · rfl
  · unfold Core.rg
    split
    · rfl
    · exact mapGetD_mapPut_ne _ _ _ (fun e => h (Fin.ext e))
@[simp] theorem Core.vraw_wv (k : Core) (r : VReg) (x : VVal) : (k.wv r x).vraw r = x := by
  simp [Core.vraw, Core.wv]
theorem Core.vraw_wv_ne (k : Core) {r t : VReg} (x : VVal) (h : t ≠ r) : (k.wv r x).vraw t = k.vraw t := by
  unfold Core.wv Core.vraw; exact mapGetD_mapPut_ne _ _ _ (fun e => h (Fin.ext e))
@[simp] theorem Core.ra_wa (k : Core) (r : AReg) (x : Acc) : (k.wa r x).ra r = x := by
  simp [Core.ra, Core.wa]
theorem Core.ra_wa_ne (k : Core) {r t : AReg} (x : Acc) (h : t ≠ r) : (k.wa r x).ra t = k.ra t := by
  unfold Core.wa Core.ra; exact mapGetD_mapPut_ne _ _ _ (fun e => h (Fin.ext e))
@[simp] theorem Core.cv_setCv (k : Core) (n : Nat) (x : Word) : (k.setCv n x).cv n = x := by
  simp [Core.cv, Core.setCv]
theorem Core.cv_setCv_ne (k : Core) {n m : Nat} (x : Word) (h : m ≠ n) : (k.setCv n x).cv m = k.cv m := by
  unfold Core.setCv Core.cv; exact mapGetD_mapPut_ne _ _ _ h

end Sys2Proof.Machine
end

