-- ==== Sys2Proof/Laws/Ops.lean ====
section
/-! SUPPORT. What each shared operation does, said once: issuing, finishing, redirecting and waiting, starting an operation,
storing bytes, and a result that takes its place. -/

namespace Sys2Proof.Machine

/-! ## Nothing has changed -/

theorem Core.sameRegs_of {k k' : Core} (hg : k'.g = k.g) (hq : k'.q = k.q) (hv : k'.v = k.v) (ha : k'.acc = k.acc)
    (hs : k'.streams = k.streams) (hc : k'.cr = k.cr) (hf : k'.flags = k.flags) (hp : k'.priv = k.priv)
    (hl : k'.loops = k.loops) (ht : k'.trapLoops = k.trapLoops) (hr : k'.region = k.region) (hi : k'.slice = k.slice)
    (hn : k'.rqs = k.rqs) : k.SameRegs k' where
  g r := by simp only [Core.rg, hg]
  q r := by simp only [Core.rq, hq]
  v r := by simp only [Core.vraw, hv]
  acc r := by simp only [Core.ra, ha]
  streams := hs
  cr n := by simp only [Core.cv, hc]
  flags := hf
  priv := hp
  loops := hl
  trapLoops := ht
  region := hr
  slice := hi
  rqs := hn

theorem Core.SameRegs.refl (k : Core) : k.SameRegs k := Core.sameRegs_of rfl rfl rfl rfl rfl rfl rfl rfl rfl rfl rfl rfl rfl

theorem Core.SameRegs.trans {a b c : Core} (h : a.SameRegs b) (h' : b.SameRegs c) : a.SameRegs c where
  g r := (h'.g r).trans (h.g r)
  q r := (h'.q r).trans (h.q r)
  v r := (h'.v r).trans (h.v r)
  acc r := (h'.acc r).trans (h.acc r)
  streams := h'.streams.trans h.streams
  cr n := (h'.cr n).trans (h.cr n)
  flags := h'.flags.trans h.flags
  priv := h'.priv.trans h.priv
  loops := h'.loops.trans h.loops
  trapLoops := h'.trapLoops.trans h.trapLoops
  region := h'.region.trans h.region
  slice := h'.slice.trans h.slice
  rqs := h'.rqs.trans h.rqs

theorem State.SameMem.refl (s : State) : s.SameMem s :=
  ⟨fun _ => rfl, fun _ => rfl, fun _ => rfl, fun _ => rfl, fun _ => rfl⟩

theorem State.SameMem.trans {a b c : State} (h : a.SameMem b) (h' : b.SameMem c) : a.SameMem c where
  mem x := (h'.mem x).trans (h.mem x)
  tags x := (h'.tags x).trans (h.tags x)
  written x := (h'.written x).trans (h.written x)
  lines x := (h'.lines x).trans (h.lines x)
  owners x := (h'.owners x).trans (h.owners x)

theorem State.sameMem_modMe (s : State) (f : Core → Core) : s.SameMem (s.modMe f) :=
  ⟨fun _ => rfl, fun _ => rfl, fun _ => rfl, fun _ => rfl, fun _ => rfl⟩

theorem State.sameMem_setCore (s : State) (c : Nat) (k : Core) : s.SameMem (s.setCore c k) :=
  ⟨fun _ => rfl, fun _ => rfl, fun _ => rfl, fun _ => rfl, fun _ => rfl⟩

/-! ## Results in flight -/

theorem mem_landInsert (l : List Landing) (x y : Landing) : y ∈ landInsert l x ↔ y = x ∨ y ∈ l := by
  induction l with
  | nil => simp [landInsert]
  | cons z t ih =>
    unfold landInsert
    split
    · simp
    · simp [ih, or_left_comm]

theorem mem_foldl_landInsert {α : Type} (f : α → Landing) (ws : List α) (y : Landing) : ∀ l : List Landing,
    y ∈ ws.foldl (fun l w => landInsert l (f w)) l ↔ (∃ w, w ∈ ws ∧ y = f w) ∨ y ∈ l := by
  induction ws with
  | nil => intro l; simp
  | cons w ws ih =>
    intro l
    rw [List.foldl_cons, ih, mem_landInsert]
    constructor
    · rintro (⟨x, hx, rfl⟩ | rfl | h)
      · exact .inl ⟨x, by simp [hx], rfl⟩
      · exact .inl ⟨w, by simp, rfl⟩
      · exact .inr h
    · rintro (⟨x, hx, rfl⟩ | h)
      · rcases List.mem_cons.1 hx with rfl | hx
        · exact .inr (.inl rfl)
        · exact .inl ⟨x, hx, rfl⟩
      · exact .inr (.inr h)

/-- What is in flight after `land`: what was, the writes, and the last one, which frees the slot. -/
theorem Core.mem_land (k : Core) (n lat : Nat) (d : Option DReg) (ws : List Wr) (y : Landing) :
    y ∈ (k.land n lat d ws).landings ↔
      y = ⟨k.vcc + lat, n, .none, d, true⟩ ∨ (∃ w, w ∈ ws ∧ y = ⟨k.vcc + lat, n, w, none, false⟩) ∨ y ∈ k.landings := by
  simp only [Core.land, mem_landInsert, mem_foldl_landInsert]

/-! ## Issuing -/

theorem State.guarded_runs {s : State} (h : s.Runs) (col : Nat) (f : State → State) (occ : Nat) :
    s.guarded col f occ = .next (f s) := by
  unfold State.Runs at h; unfold State.guarded; rw [if_pos h]

theorem State.guarded_skips {s : State} (h : s.me.guardOk s.head.guard = false) (col : Nat) (f : State → State) (occ : Nat) :
    s.guarded col f occ = .next (s.skip col occ) := by
  simp [State.guarded, h]

theorem State.sGuarded_runs {s : State} (h : s.Runs) (f : State → State) : s.sGuarded f = .next (f s) := by
  unfold State.Runs at h; unfold State.sGuarded; rw [if_pos h]

theorem State.sGuarded_skips {s : State} (h : s.me.guardOk s.head.guard = false) (f : State → State) :
    s.sGuarded f = .next s.sSkip := by
  simp [State.sGuarded, h]

theorem State.vGuarded_ready {s : State} (h : s.Runs) (col occ : Nat) (regs : List VReg) (f : State → State)
    (hr : s.refreshBusy regs = false) : s.vGuarded col regs f occ = .next (f s) := by
  unfold State.Runs at h
  simp [State.vGuarded, h, hr]

/-- An issue changes nothing a program sees. -/
theorem State.kept_issue (s : State) (col lat occ fl : Nat) (ws : List Wr) : s.Kept (s.issue col lat occ fl ws) := by
  unfold State.issue
  refine ⟨State.sameMem_modMe _ _, ?_⟩
  rw [State.me_modMe]
  apply Core.sameRegs_of <;> simp

theorem State.core_issue_ne (s : State) (col lat occ fl : Nat) (ws : List Wr) {c : Nat} (h : c ≠ s.hand.core) :
    (s.issue col lat occ fl ws).core c = s.core c := State.core_modMe_ne _ _ h

/-- The writes of an issue are in flight, due after its latency. -/
theorem State.lands_issue (s : State) (col lat occ fl : Nat) (ws : List Wr) {w : Wr} (h : w ∈ ws) :
    s.Lands (s.issue col lat occ fl ws) lat w := by
  unfold State.Lands State.issue
  rw [State.me_modMe, Core.mem_land]
  exact .inr (.inl ⟨w, h, by simp⟩)

/-- An issue leaves in flight what was, its writes, and its end. -/
theorem State.mem_landings_issue (s : State) (col lat occ fl : Nat) (ws : List Wr) (y : Landing) :
    y ∈ (s.issue col lat occ fl ws).me.landings ↔ y = ⟨s.me.vcc + lat, s.ent.serial, .none, s.head.set, true⟩ ∨
      (∃ w, w ∈ ws ∧ y = ⟨s.me.vcc + lat, s.ent.serial, w, none, false⟩) ∨ y ∈ s.me.landings := by
  unfold State.issue
  rw [State.me_modMe, Core.mem_land]
  simp [State.head, State.ent]

theorem State.kept_skip (s : State) (col occ : Nat) : s.Kept (s.skip col occ) := by
  unfold State.skip
  refine ⟨State.sameMem_modMe _ _, ?_⟩
  rw [State.me_modMe]
  apply Core.sameRegs_of <;> simp

theorem State.core_skip_ne (s : State) (col occ : Nat) {c : Nat} (h : c ≠ s.hand.core) : (s.skip col occ).core c = s.core c :=
  State.core_modMe_ne _ _ h

/-! ## S instructions -/

theorem endTest_congr {k k' : Core} (h : ∀ q, k'.rq q = k.rq q) (pc : Nat) : ∀ l, endTest k' pc l = endTest k pc l := by
  intro l
  induction l with
  | nil => rfl
  | cons e l ih => simp only [endTest, h, ih]

/-- Where the sequencer goes on depends on the loop stack, the predicate registers and the vc alone. -/
theorem Core.advance_congr {k k' : Core} (hq : k'.q = k.q) (hl : k'.loops = k.loops) (hv : k'.vcc = k.vcc) (pc : Nat) :
    (k'.advance pc).pc = (k.advance pc).pc ∧ (k'.advance pc).seqAt = (k.advance pc).seqAt ∧
      (k'.advance pc).loops = (k.advance pc).loops := by
  have e : endTest k' pc k'.loops = endTest k pc k.loops := by
    rw [hl]; exact endTest_congr (fun q => by simp only [Core.rq, hq]) pc _
  unfold Core.advance
  rw [e]
  split <;> simp [Core.redirect, hv]

/-- An S instruction that is done. -/
theorem State.finished_sDone (s : State) (ws : List Wr) : s.Finished (s.sDone ws) ws := by
  have hl : ∀ (l : List Wr), (if l.isEmpty then
      ({ s.me.qVisible s.ent.serial (s.me.vcc + 1) with held := none, waiting := false } : Core).finish s.ent.serial
      else ({ s.me.qVisible s.ent.serial (s.me.vcc + 1) with held := none, waiting := false } : Core).land s.ent.serial 1 none l) =
      (s.sFinish l).me := by
    intro l; unfold State.sFinish; rw [State.me_modMe]
  have me : (s.sDone ws).me = (s.sFinish ws).me.advance s.ent.pc := by
    unfold State.sDone; rw [State.me_modMe]
  have hq : (s.sFinish ws).me.q = s.me.q ∧ (s.sFinish ws).me.loops = s.me.loops ∧ (s.sFinish ws).me.vcc = s.me.vcc ∧
      (s.sFinish ws).me.held = none ∧ (s.sFinish ws).me.slots = s.me.slots := by
    rw [← hl]; split <;> simp
  obtain ⟨h1, h2, h3⟩ := Core.advance_congr hq.1 hq.2.1 hq.2.2.1 s.ent.pc
  have hland : ∀ y, y ∈ (s.sDone ws).me.landings → y ∈ s.me.landings ∨
      y = ⟨s.me.vcc + 1, s.ent.serial, .none, none, true⟩ ∨ ∃ w, w ∈ ws ∧ y = ⟨s.me.vcc + 1, s.ent.serial, w, none, false⟩ := by
    intro y hy
    rw [me, Core.advance_landings, ← hl] at hy
    split at hy
    · simp at hy; exact .inl hy
    · rw [Core.mem_land] at hy
      rcases hy with rfl | ⟨w, hw, rfl⟩ | hy
      · exact .inr (.inl (by simp))
      · exact .inr (.inr ⟨w, hw, by simp⟩)
      · exact .inl (by simpa using hy)
  refine ⟨?_, ?_, ?_, ?_, ?_, ?_, ?_, ?_, ?_, ?_⟩
  · intro w hw
    rw [me, Core.advance_landings, ← hl, if_neg (by cases ws <;> simp_all), Core.mem_land]
    exact .inr (.inl ⟨w, hw, by simp⟩)
  · intro y hy
    rcases hland y hy with h | rfl | ⟨w, hw, rfl⟩
    · exact .inl h
    · exact .inr ⟨rfl, rfl, .inr rfl⟩
    · exact .inr ⟨rfl, rfl, .inl hw⟩
  · rw [me, Core.advance_held]; exact hq.2.2.2.1
  · rw [me]; exact h1
  · rw [me]; exact h2
  · rw [me]; exact h3
  · intro d; rw [me]; simp only [Core.slot, Core.advance_slots, hq.2.2.2.2]
  · unfold State.sDone State.sFinish; exact (State.sameMem_modMe _ _).trans (State.sameMem_modMe _ _)
  · rw [me]
    refine Core.sameRegs_of ?_ ?_ ?_ ?_ ?_ ?_ ?_ ?_ rfl ?_ ?_ ?_ ?_ <;> simp only [Core.withLoops] <;>
      first
        | rw [Core.advance_g]; rw [← hl]; split <;> simp
        | rw [Core.advance_q]; rw [← hl]; split <;> simp
        | rw [Core.advance_v]; rw [← hl]; split <;> simp
        | rw [Core.advance_acc]; rw [← hl]; split <;> simp
        | rw [Core.advance_streams]; rw [← hl]; split <;> simp
        | rw [Core.advance_cr]; rw [← hl]; split <;> simp
        | rw [Core.advance_flags]; rw [← hl]; split <;> simp
        | rw [Core.advance_priv]; rw [← hl]; split <;> simp
        | rw [Core.advance_trapLoops]; rw [← hl]; split <;> simp
        | rw [Core.advance_region]; rw [← hl]; split <;> simp
        | rw [Core.advance_slice]; rw [← hl]; split <;> simp
        | rw [Core.advance_rqs]; rw [← hl]; split <;> simp
  · intro c hc
    unfold State.sDone State.sFinish
    exact (State.core_modMe_ne _ _ (show c ≠ (State.modMe s _).hand.core from hc)).trans (State.core_modMe_ne _ _ hc)

/-- An S instruction that redirects. -/
theorem State.redirected_sRedirect (s : State) (ws : List Wr) (t : Nat) : s.Redirected (s.sRedirect ws t) t ws := by
  have hl : (s.sFinish ws).me = if ws.isEmpty then
      ({ s.me.qVisible s.ent.serial (s.me.vcc + 1) with held := none, waiting := false } : Core).finish s.ent.serial
      else ({ s.me.qVisible s.ent.serial (s.me.vcc + 1) with held := none, waiting := false } : Core).land s.ent.serial 1 none ws := by
    unfold State.sFinish; rw [State.me_modMe]
  have me : (s.sRedirect ws t).me = (s.sFinish ws).me.redirect t := by
    unfold State.sRedirect; rw [State.me_modMe]
  refine ⟨?_, ?_, ?_, ?_, ?_, ?_, ?_⟩
  · intro w hw
    rw [me, Core.redirect_landings, hl, if_neg (by cases ws <;> simp_all), Core.mem_land]
    exact .inr (.inl ⟨w, hw, by simp⟩)
  · rw [me, Core.redirect_held, hl]; split <;> simp
  · rw [me]; rfl
  · rw [me, hl]; split <;> simp [Core.redirect]
  · unfold State.sRedirect State.sFinish; exact (State.sameMem_modMe _ _).trans (State.sameMem_modMe _ _)
  · rw [me, hl]
    apply Core.sameRegs_of <;> split <;> simp [Core.withLoops]
  · intro c hc
    unfold State.sRedirect State.sFinish
    exact (State.core_modMe_ne _ _ (show c ≠ (State.modMe s _).hand.core from hc)).trans (State.core_modMe_ne _ _ hc)

/-- An S instruction that waits. -/
theorem State.waits_sWait (s : State) (w : Bool) (stage mark retry : Nat) (limit : Option Nat) :
    s.Waits (s.sWait w stage mark retry limit) :=
  ⟨_, by unfold State.sWait; rw [State.me_modMe], rfl, s.sameMem_modMe _, by
    unfold State.sWait; rw [State.me_modMe]; apply Core.sameRegs_of <;> rfl⟩

/-! ## Memory -/

theorem memWf_filter (m : List Host.Cell) (p : Host.Cell → Bool) (h : memWf m = true) : memWf (m.filter p) = true := by
  unfold memWf at h ⊢
  rw [Bool.and_eq_true] at h ⊢
  refine ⟨?_, ?_⟩
  · have key : ∀ l : List Host.Cell, rising l = true → rising (l.filter p) = true := by
      intro l
      induction l with
      | nil => intro _; rfl
      | cons x t ih =>
        intro hx
        obtain ⟨h1, h2⟩ := (rising_cons x t).1 hx
        have ht := ih h2
        by_cases hp : p x = true
        · rw [List.filter_cons_of_pos hp]
          refine (rising_cons x _).2 ⟨?_, ht⟩
          intro q hq
          have gt : ∀ (l : List Host.Cell), rising l = true → (∀ q, l.head? = some q → x.1 < q.1) → ∀ q, q ∈ l → x.1 < q.1 := by
            intro l
            induction l with
            | nil => intro _ _ q hq; cases hq
            | cons y t ih =>
              intro hy hh q hq
              have hxy := hh y rfl
              obtain ⟨a, b⟩ := (rising_cons y t).1 hy
              rcases List.mem_cons.1 hq with rfl | hq
              · exact hxy
              · exact ih b (fun z hz => lt_trans hxy (a z hz)) q hq
          have hm : q ∈ t := List.mem_of_mem_filter (List.mem_of_mem_head? hq)
          exact gt t h2 h1 q hm
        · rw [List.filter_cons_of_neg hp]; exact ht
    exact key m h.1
  · rw [List.all_eq_true] at h ⊢
    intro c hc
    exact h.2 c (List.mem_of_mem_filter hc)

/-- Memory is in its canonical form at reset. -/
theorem memWf_reset : memWf State.reset.mem = true := rfl

theorem State.memStore_mem (s : State) (key : Nat) (bs : List Byte) (tag : Option Bool) :
    (s.memStore key bs tag).mem = memWrite s.mem key bs := by
  unfold State.memStore
  dsimp only
  repeat' split
  all_goals rfl

theorem State.memWf_memStore (s : State) (key : Nat) (bs : List Byte) (tag : Option Bool) (h : memWf s.mem = true) :
    memWf (s.memStore key bs tag).mem = true := by
  rw [State.memStore_mem]; exact memWf_memWrite _ _ _ h

theorem State.setLines_mem (l : List (Nat × (Nat × Bool))) : ∀ s : State, (s.setLines l).mem = s.mem := by
  unfold State.setLines
  induction l with
  | nil => intro s; rfl
  | cons p l ih => intro s; rw [List.foldl_cons, ih]; rfl

/-- A write that takes its place keeps memory in its canonical form. -/
theorem State.memWf_applyWr (s : State) (c : Nat) (w : Wr) (h : memWf s.mem = true) : memWf (s.applyWr c w).mem = true := by
  cases w with
  | mem key bs tag => exact s.memWf_memStore key bs tag h
  | st key bs tag _ => exact s.memWf_memStore key bs tag h
  | xput key bs _ => exact s.memWf_memStore key bs none h
  | memPut key bs ts ws => exact memWf_memWrite _ _ _ h
  | lines l => rw [State.applyWr, State.setLines_mem]; exact h
  | _ => exact h

theorem State.memWf_landWr (s : State) (c n : Nat) (w : Wr) (h : memWf s.mem = true) : memWf (s.landWr c n w).mem = true := by
  have key := s.memWf_applyWr c w h
  unfold State.landWr
  split
  · exact h
  · exact key
  · exact key
  · exact key
  · dsimp only; split <;> exact key

/-- A result that takes its place in a register changes that register alone. -/
theorem State.applyWr_g (s : State) (c : Nat) (r : GReg) (v : GVal) :
    s.applyWr c (.g r v) = s.setCore c ((s.core c).wg r v) := rfl
theorem State.applyWr_q (s : State) (c : Nat) (r : QReg) (b : Bool) :
    s.applyWr c (.q r b) = s.setCore c ((s.core c).wq r b) := rfl
theorem State.applyWr_cr (s : State) (c : Nat) {n : Nat} (v : Word) (h : n ≠ crREGION) :
    s.applyWr c (.cr n v) = s.setCore c ((s.core c).setCv n v) := by
  simp only [State.applyWr, if_neg h, State.modCore_eq]

end Sys2Proof.Machine
end

