-- ==== Sys2Proof/Tests/Slice0.lean ====
section
/-! SUPPORT. The model's own tests: an ill-formed term for each check of well-formedness, words written out from the spec, one
step each with results of the spec's examples, and for every statement states that meet its hypotheses. -/

open Sys2Proof Sys2Proof.Machine
namespace Sys2Proof.Tests

set_option Elab.async false

/-! ## A small machine -/

/-- An ordinary head: always, no slot, no delay. -/
def hd : Head := ⟨.always, 0, none, 0, false, false⟩

/-- A capability with bounds: the address, its offset from the base, the length, the permissions (R53, R54, G = 0). -/
def tCap (perms addr ofs len sl : Nat) : GVal :=
  ⟨BitVec.ofNat 64 addr, BitVec.ofNat 64 (perms * 2 ^ 52 + ofs * 2 ^ 25 + len * 2 ^ 5 + sl), true⟩

/-- A core that runs a unit of context 0: g2 = −2^63, g3 = −1, g4 = 0, g5 = 7, g6 = 3; g10 a capability of 4 KiB of its own bank B
at virtual address 0x100048000, through a locked TLB entry; g12 a code capability of the word at PC 10; g13 the same sealed as
an entry. -/
def tCore : Core :=
  { Core.reset with
    unit := .running, ctx := some 0, pc := 7, serial := 5, vcc := 40,
    g := [(2, ⟨0x8000000000000000#64, 0, false⟩), (3, ⟨0xFFFFFFFFFFFFFFFF#64, 0, false⟩), (5, ⟨7, 0, false⟩), (6, ⟨3, 0, false⟩),
          (10, tCap 0xFD6 0x100048040 0x40 0x1000 0), (12, tCap 0x200 0x60078 0x78 0x8000 0), (13, tCap 0x200 0x60078 0x78 0x8000 1)],
    tlb := [(0, ⟨0x100040000, 65536, 0x40063, false, 0⟩)] }

/-- The machine with that core as core 0 and an instruction in its hand. -/
def tS (h : Head) (i : Instr) (f : Core → Core := id) : Machine.State :=
  { Machine.State.reset with
    clk := 100, cores := [(0, f tCore)], ctxs := [(0, { Ctx.reset with st := .running })],
    isl := { Island.reset with st := .active },
    hand := ⟨0, ⟨5, 7, h, i, 40, 0, none⟩, 0, 0, Arg.empty, none⟩ }

/-- The machine with a plain instruction. -/
def t0 : Machine.State := tS hd .nop

theorem mapGet_all {α : Type} (m : List (Nat × α)) (i : Nat) (p : α → Prop) (d : α) (hd : p d) (h : ∀ q, q ∈ m → p q.2) :
    p (mapGetD m i d) := by
  unfold mapGetD
  induction m with
  | nil => exact hd
  | cons q m ih =>
    unfold mapGet
    split
    · exact h q List.mem_cons_self
    · split
      · exact hd
      · exact ih (fun r hr => h r (List.mem_cons_of_mem _ hr))
/-- A head under the element mask v3. -/
def hdM : Head := { hd with guard := .elem 3 }
/-- A plain vector function field. -/
def vf (f : Fmt) : VFn := ⟨f, false, false, false, false⟩

/-! ## Well-formed instructions: an ill-formed term for each check -/

/-- An instruction with an ordinary head. -/
def wf (i : Instr) : Bool := wellFormed hd i
theorem test_wf_good : wf (.add 63 63 (.imm 8191)) = true ∧ wf (.shl 9 9 (.imm 63)) = true ∧ wf (.b (-8192)) = true := by decide
/-- Mode 11 on a scalar instruction, VSEL without a mask, TBLK with a q guard, an element mask on VST of NONE (R116, R190, R343). -/
theorem test_wf_guard : wellFormed { hd with guard := .elem 3 } (.add 9 9 (.imm 0)) = false ∧ wf (.vsel (vf .f32) (.v 1) (.v 2) (.v 3)) = false ∧
    wellFormed { hd with guard := .ifQ 1 } (.tblk (.imm 3)) = false ∧
    wellFormed { hd with guard := .elem 3 } (.vst (vf .noFmt) ⟨5, false, 0⟩ 1 false) = false := by decide
/-- L without a v destination, SET on a branch, a delay of 256 (R42, R124, R125). -/
theorem test_wf_head : wellFormed { hd with short := true } (.add 9 9 (.imm 0)) = false ∧
    wellFormed { hd with set := some 1 } (.b 0) = false ∧ wellFormed { hd with delay := 256 } (.add 9 9 (.imm 0)) = false := by decide
/-- FMT fields (R79, R112, R190). -/
theorem test_wf_formats : wf (.vadd (vf .l16) (.v 1) (.v 2) (.v 3)) = false ∧ wf (.vadd (vf .noFmt) (.v 1) (.v 2) (.v 3)) = false ∧
    wf (.vladd (vf .f32) (.v 1) (.v 2) (.v 3)) = false ∧ wf (.mldb (vf .f32) ⟨5, false, 0⟩) = false ∧ wf (.mzero (vf .f8) 0) = false ∧
    wf (.vshl (vf .f32) (.v 1) (.v 2) (.imm 3)) = false ∧ wf (.fadd .f8 false 9 9 9) = false ∧ wf (.recv .mask 2 7) = false := by decide
/-- P, the second policy bit, S without a stream, SAT where the entry has none (R112, R113). -/
theorem test_wf_bits : wf (.vmov { vf .noFmt with policy := true } 1 2) = false ∧
    wf (.vcmp { vf .f32 with pass := true } 1 (.v 2) 0) = false ∧ wf (.vadd { vf .f32 with stream := true } (.v 1) (.v 2) (.v 3)) = false ∧
    wf (.vand { vf .f32 with sat := true } (.v 1) (.v 2) (.v 3)) = false := by decide
/-- Immediates one past their ranges. -/
theorem test_wf_immediates : wf (.add 9 9 (.imm 8192)) = false ∧ wf (.shl 9 9 (.imm 64)) = false ∧ wf (.b (-8193)) = false ∧
    wf (.loop (.imm 2) 0) = false ∧ wf (.loop (.imm 8192) 1) = false ∧ wf (.tblk (.imm 256)) = false ∧ wf (.bengF 4 0) = false ∧
    wf (.qmovI 3 2) = false ∧ wf (.trap 256) = false ∧ wf (.cseal 9 9 1) = false ∧ wf (.cunseal 9 9 32) = false ∧ wf (.recv .f32 2 8) = false ∧
    wf (.vzenc (vf .f8) 1 2 2) = false ∧ wf (.vredm (vf .f32) 9 (.v 1) 3) = false ∧ wf (.mrdr (vf .noFmt) 1 0 32) = false ∧
    wf (.candp 9 9 (.imm 4096)) = false ∧ wf (.rank 9 (.imm 16)) = false ∧ wf (.trace 9 256) = false ∧ wf (.qrd 9 0 17) = false ∧
    wf (.rgn 2048) = false ∧ wf (.followRel 9 8192) = false := by decide
/-- Joined immediates of more bits than they have. -/
theorem test_wf_joined : wf (.movi 9 (.joined 4294967296)) = false ∧ wf (.budg (.joined 4294967296)) = false ∧
    wf (.cpyw (.joined 65536)) = false := by decide
/-- Counts of memory operands (R118). -/
theorem test_wf_memory : wf (.ld .b8 false 9 ⟨5, false, 64⟩) = false ∧ wf (.ld .b8 false 9 ⟨5, false, -65⟩) = false ∧
    wf (.vadd (vf .f32) (.v 1) (.m ⟨5, false, 64⟩) (.v 2)) = false := by decide
/-- A post-incremented register written, or post-incremented twice (R121). -/
theorem test_wf_post : wf (.ld .b8 false 5 ⟨5, true, 1⟩) = false ∧ wf (.send 0 ⟨5, true, 1⟩ ⟨5, true, 1⟩ (.imm 8)) = false ∧
    wf (.vadd (vf .f32) (.v 1) (.m ⟨5, true, 1⟩) (.m ⟨5, true, 1⟩)) = false := by decide
/-- Groups of registers past the last one, and pairs that overlap (R131). -/
theorem test_wf_groups : wf (.vld (vf .f32) 31 ⟨5, false, 0⟩ true) = false ∧ wf (.hndlSet 9 63) = false ∧ wf (.snap 9 63) = false ∧
    wf (.cmut 0 .f32 ⟨5, false, 0⟩ 9 61) = false ∧ wf (.mdrn (vf .f32) 30 0 0) = false ∧ wf (.mwrr (vf .noFmt) 0 30 0) = false ∧
    wf (.qrd 9 15 2) = false ∧ wf (.vbaddq (vf .f32) 1 2 5) = false ∧ wf (.cpysIn 0 ⟨5, false, 0⟩ 9 63) = false := by decide
/-- g0 named as an operand that may be left out. -/
theorem test_wf_absent : wf (.bararmRep 9 (some 0)) = false ∧ wf (.ctest .sub 3 9 (some 0)) = false ∧
    wf (.vreds (vf .f32) 9 (.v 1) (some 0)) = false ∧ wf (.fitgetRank 9 (some 0)) = false := by decide
/-- Specifications outside their layouts (R114, R115). -/
theorem test_wf_specs : wf (.bfx 9 9 (63 + 64)) = false ∧ wf (.bfi 9 9 4096) = false ∧ wf (.crel 9 9 8192) = false ∧
    wf (.vcvt (vf .f32) 1 2 0) = false ∧ wf (.vcvt (vf .f32) 1 2 (3 + 32 * 2)) = false ∧ wf (.vcmp (vf .f32) 1 (.v 2) 7) = false ∧
    wf (.vcmp (vf .i32) 1 (.v 2) 3) = false ∧ wf (.vmlog (vf .mask) 1 2 8) = false ∧ wf (.vact (vf .f32) (.v 1) (.v 2) 4) = false ∧
    wf (.vtolog (vf .f8) 1 2 2) = false ∧ wf (.mrst (vf .noFmt) 64) = false ∧ wf (.vredq (vf .f32) 0 9 256) = false ∧
    wf (.mdrn (vf .f16) 1 0 96) = false := by decide
/-- Sizes and conversions an entry does not list. -/
theorem test_wf_sizes : wf (.aadd .b2 .plain 9 ⟨5, false, 0⟩ 9) = false ∧ wf (.afadd .b8 .plain false 9 ⟨5, false, 0⟩ 9) = false ∧
    wf (.fcvt .i64 false .i64 9 9) = false := by decide

/-! ## Words written out from the spec, by family -/

theorem test_decode_sequencer : decode 0x0A00_0000_0080_C800_0000_F000 = .ok (hd, .rgn 200) ∧
    decode 0x0B00_0000_0080_0300_0000_F000 = .ok (hd, .tblk (.imm 3)) ∧ decode 0x1C00_0000_0000_8000_0000_F000 = .ok (hd, .baraw 4) ∧
    decode 0x1200_0000_0080_0500_0000_F000 = .ok (hd, .bkpt 5) := by decide
theorem test_decode_integer : decode 0x3901_0004_E003_4003_6004_F000 = .ok ({ hd with wait := 4 }, .sel 1 39 26 27) := by decide
/-- `CINC g9, g10, #-8`, from R111, R118 and R171. -/
theorem test_decode_capability : decode 0x4300_0001_2001_40BF_F800_F000 = .ok (hd, .cinc 9 10 (.imm (-8))) := by decide
theorem test_decode_float : decode 0x5330_0005_0003_E002_2002_1000 = .ok ({ hd with wait := 2, set := some 1 }, .ffma .f16 false 40 31 17) := by
  decide
/-- `VLD.F32 v1, [g5]`, from R111, R118, R119 and R195. -/
theorem test_decode_vector_memory : decode 0x7010_0008_2045_0000_0000_F000 = .ok (hd, .vld (vf .f32) 1 ⟨5, false, 0⟩ false) := by decide
theorem test_decode_vector : decode 0x8A30_0009_8009_0000_0008_F000 = .ok ({ hd with wait := 8 }, .vpres (vf .f16) 12 (.v 8)) ∧
    decode 0x9230_0001_2008_2001_4004_3000 = .ok ({ hd with wait := 4, set := some 3 }, .vredx (vf .f16) 9 (.v 1) (some 10)) := by decide
theorem test_decode_special : decode 0xA320_0008_0008_0008_4000_3000 = .ok ({ hd with set := some 3 }, .vbaddq (vf .bf16) 0 0 2) := by decide
theorem test_decode_tensor : decode 0xB440_0010_0055_0000_0004_3000 = .ok ({ hd with wait := 4, set := some 3 }, .gmma (vf .f8) 0 ⟨21, false, 0⟩) ∧
    decode 0xB530_0009_0010_0080_2000_3000 = .ok ({ hd with set := some 3 }, .mdrn (vf .f16) 8 0 32) := by decide
theorem test_decode_copy : decode 0xC001_0048_8201_2081_0000_1000 = .ok ({ hd with set := some 1 }, .cpyOut 0 ⟨8, true, 2⟩ 9 (.imm 256)) ∧
    decode 0xC802_0008_4080_0700_0000_2000 = .ok ({ hd with set := some 2 }, .recv .bf16 2 7) ∧
    decode 0xC900_0049_0081_0000_0000_F000 = .ok (hd, .sqtag ⟨9, false, 0⟩ (.imm 256)) := by decide
theorem test_decode_population : decode 0xD000_0000_0005_2000_0010_F000 = .ok ({ hd with wait := 16 }, .fitset 41) := by decide
theorem test_decode_queue : decode 0xE100_0000_8000_0000_0000_F000 = .ok (hd, .tnext 4) ∧
    decode 0xE401_0000_0000_C000_E000_F000 = .ok (hd, .cntwtGe 6 (.reg 7)) := by decide
theorem test_decode_debug : decode 0xEF00_0000_0000_E080_0900_F000 = .ok (hd, .trace 7 9) := by decide
/-- A row of the opcode table with its operand fields at zero, and the first instruction after reset. -/
theorem test_decode_table : decodeTableWord 96 0 = some .nop ∧
    (match step (Machine.State.reset.withFetchWord 96 0x3500_0001_40D2_3456_7800_F000) with
      | .next t => (t.core 0).landings.any (fun l => l.wr == .g 10 ⟨0x12345678, 0, false⟩)
      | _ => false) = true ∧
    (match step (Machine.State.reset.withFetchWord 96 0xD000_0000_0005_2000_0010_F000) with
      | .next t => (t.core 0).landings.any (fun l => l.wr == .fit 0)
      | _ => false) = true := by
  refine ⟨by decide, by decide +kernel, by decide +kernel⟩

/-! ## One step each, with the results of the spec's examples and tables -/

/-- The state after an instruction in hand. -/
def after (i : Instr) (s : Machine.State) : Machine.State :=
  match exec i s with
  | .next t => t
  | _ => s
/-- Does a write land n vc after the issue? -/
def lands (i : Instr) (s : Machine.State) (n : Nat) (w : Wr) : Bool :=
  (after i s).me.landings.any (fun l => l.due == s.me.vcc + n && l.wr == w)
/-- Bits of the vector that lands in a register after n vc, in one element. -/
def landsElem (i : Instr) (s : Machine.State) (n : Nat) (r : VReg) (w ix : Nat) : Nat :=
  (after i s).me.landings.foldl (fun acc l => match l.wr with
    | .v d _ bits _ _ _ => if d = r ∧ l.due = s.me.vcc + n then (bits >>> (w * ix)).toNat % 2 ^ w else acc
    | _ => acc) 0
/-- The flags that the oldest instruction will set. -/
def flagsOf (i : Instr) (s : Machine.State) : Nat := ((after i s).me.rob.head?.map Rob.flags).getD 0
/-- The same with a number in its argument. -/
def atIx (n : Nat) (s : Machine.State) : Machine.State := { s with hand := { s.hand with arg := ⟨n, 0, 0, []⟩ } }
/-- A machine with g registers. -/
def tG (l : List (Nat × GVal)) : Machine.State := tS hd .nop (fun k => { k with g := l })
def dat (n : Nat) : GVal := ⟨BitVec.ofNat 64 n, 0, false⟩

/-- The divide corner cases of 08_isa_scalar.md. -/
def tDiv : Machine.State := tG [(4, dat 0x8000000000000000), (5, dat 0xFFFFFFFFFFFFFFFF)]
theorem test_div : lands (.div false 7 4 (.reg 5)) tDiv 18 (.g 7 (dat 0x8000000000000000)) = true ∧
    lands (.div true 9 5 (.reg 6)) tDiv 18 (.g 9 (dat 0xFFFFFFFFFFFFFFFF)) = true := by decide
theorem test_rem : lands (.rem false 8 4 (.reg 5)) tDiv 18 (.g 8 (dat 0)) = true ∧
    lands (.rem true 10 5 (.reg 6)) tDiv 18 (.g 10 (dat 0xFFFFFFFFFFFFFFFF)) = true := by decide
theorem test_add_wraps : lands (.add 9 5 (.imm 1)) tDiv 1 (.g 9 (dat 0)) = true := by decide
theorem test_sub_same : lands (.sub 5 5 (.reg 5)) tDiv 1 (.g 5 (dat 0)) = true := by decide
theorem test_sra_sign : lands (.sra 9 4 (.imm 63)) tDiv 1 (.g 9 (dat 0xFFFFFFFFFFFFFFFF)) = true := by decide
theorem test_cmp_signed : lands (.cmp .lt 3 4 (.imm 0)) tDiv 1 (.q 3 true) = true ∧ lands (.cmp .ltu 3 4 (.imm 0)) tDiv 1 (.q 3 false) = true := by
  decide
/-- The capability of 03_registers.md, moved inside and outside its window. -/
def tCinc : Machine.State := tG [(4, ⟨0x0000001000048040, 0xC120000080020000, true⟩), (5, dat (2 ^ 64 - 0x40040)), (6, dat (2 ^ 64 - 0x100041))]
theorem test_cinc : lands (.cinc 9 4 (.reg 5)) tCinc 1 (.g 9 ⟨0x0000001000008000, 0xC120380000020000, true⟩) = true := by decide
theorem test_cinc_outside : (after (.cinc 9 4 (.reg 6)) tCinc).me.landings.any (fun l => match l.wr with
    | .g 9 v => v.val == 0x0000000FFFF47FFF && !v.tag
    | _ => false) = true := by decide
/-- The bounds of 08_isa_scalar.md that round: g4 open over [0, 2^21) in granules of 4. -/
def tCsetb : Machine.State :=
  tG [(4, ⟨0x10003, BitVec.ofNat 64 (0xC12 * 2 ^ 52 + 2 * 2 ^ 46 + 0x4000 * 2 ^ 25 + 0x80000 * 2 ^ 5), true⟩), (6, dat 0x100000)]
def tBounds : Word := BitVec.ofNat 64 (0xC12 * 2 ^ 52 + 1 * 2 ^ 46 + 0x80001 * 2 ^ 5)
theorem test_csetb : lands (.csetb 5 4 (.reg 6)) tCsetb 1 (.g 5 ⟨0x10003, tBounds, true⟩) = true := by decide +kernel
theorem test_csetbx : lands (.csetbx 5 4 (.reg 6)) tCsetb 1 (.g 5 ⟨0x10003, tBounds, false⟩) = true := by decide +kernel
theorem test_loop : (after (.loop (.imm 2) 3) t0).me.loops = [⟨8, 10, 2, none⟩] := by decide
/-- 1.0 + 2.0 is 3.0 in F32, and lands after 4. -/
def tFl : Machine.State := tG [(4, dat 0x3F800000), (5, dat 0x40000000)]
theorem test_fadd : lands (.fadd .f32 false 9 4 5) tFl 4 (.g 9 (dat 0x40400000)) = true := by decide +kernel
/-- Does a general register get a value? -/
def gets (i : Instr) (s : Machine.State) (r : GReg) (v : Nat) : Bool := (after i s).me.landings.any (fun l => l.wr == .g r (dat v))
/-- The tree sum of 04_formats.md. -/
def tTree : Machine.State := tS hd .nop (fun k => { k with v := [(1, ⟨packElems 32 ([0x4B800000, 0x3F800000, 0x3F800000, 0x3F800000] ++
  List.replicate 28 0xFF800001), .f32, none⟩)] })
theorem test_vreds : gets (.vreds (vf .f32) 9 (.v 1) (some 10)) tTree 9 0x4B800001 = true ∧
    gets (.vreds (vf .f32) 9 (.v 1) (some 10)) tTree 10 4 = true := by decide +kernel
theorem test_vcnt : gets (.vcnt (vf .f32) 9 (.v 1)) tTree 9 4 = true := by decide +kernel
/-- The log domain of 10_isa_special.md: 3.0 to 0x0657; that and 0x0000 add to 0x0800, absent and 0x0000 under P to 0x0000; back to 4.0. -/
def tLog (f : Fmt) (a b : Nat) : Machine.State :=
  tS hd .nop (fun k => { k with v := [(1, ⟨BitVec.ofNat 1024 a, f, none⟩), (2, ⟨BitVec.ofNat 1024 b, f, none⟩)] })
theorem test_vtolog : landsElem (.vtolog (vf .f32) 4 1 0) (tLog .f32 (0x40400000 + 0xFF800001 * 2 ^ 32) 0) 8 4 16 0 = 0x0657 ∧
    landsElem (.vtolog (vf .f32) 4 1 0) (tLog .f32 (0x40400000 + 0xFF800001 * 2 ^ 32) 0) 8 4 16 1 = absentCode .l16 := by decide +kernel
theorem test_vladd : landsElem (.vladd { vf .l16 with pass := true } (.v 6) (.v 1) (.v 2)) (tLog .l16 (0x0657 + absentCode .l16 * 2 ^ 16) 0) 8 6 16 0 = 0x0800 ∧
    landsElem (.vladd { vf .l16 with pass := true } (.v 6) (.v 1) (.v 2)) (tLog .l16 (0x0657 + absentCode .l16 * 2 ^ 16) 0) 8 6 16 1 = 0 := by
  decide +kernel
theorem test_vfrlog : landsElem (.vfrlog (vf .f32) 7 1 0) (tLog .l16 0x0800 0) 8 7 32 0 = 0x40800000 ∧
    landsElem (.vfrlog (vf .f32) 7 1 0) (tLog .l16 0x0657 0) 8 7 32 0 = 0x40400260 := by decide +kernel
/-- The drain of 11_isa_tensor.md: 10.0 with count 5 and 16.0 with count 16 have means 2.0 and 1.0 in F16. -/
def tMean : Machine.State :=
  tS hd .nop (fun k => { k with acc := [(0, ⟨.f32, [(0, (0x41200000, 5)), (64, (0x41800000, 16))]⟩)] })
theorem test_mdrn : landsElem (.mdrn (vf .f16) 8 0 0x20) tMean 4 8 16 0 = 0x4000 ∧ landsElem (.mdrn (vf .f16) 9 0 0x21) tMean 4 9 16 0 = 0x3C00 := by
  decide +kernel
/-- Its first chunk: five products 2.0 · 1.0 of row 0, eight of 1.0 · 1.0 of row 1. -/
def tRagged : Machine.State :=
  let o : TensorOp := ⟨5, 7, false, false, .f8, 0, 40, 0, 2, 1, 0, 0, [], 16, false, (List.range 8).map (fun (i : Nat) => (i, 0x38)),
    [(0, (40, [0x40, 0x40, 0x40, 0x40, 0x40, 0x80, 0x80, 0x80] ++ List.replicate 8 0x38 ++ List.replicate 240 0x80))], 0, none, 10, ⟨0, 0, false⟩, none, none, none⟩
  let s := tS hd .chunkLand (fun k => { k with tops := [o], acc := [(0, ⟨.f32, []⟩)] })
  { s with hand := { s.hand with arg := ⟨5, 0, 0, []⟩ } }
theorem test_chunk : ((after .chunkLand tRagged).me.ra 0).at 0 0 = (0x41200000#32, 5) ∧ ((after .chunkLand tRagged).me.ra 0).at 1 0 = (0x41000000#32, 8) := by
  decide +kernel
/-- Loads and stores of 4 bytes at g10: byte 0 of the value lies at the lowest address. -/
def tMem : Machine.State := { t0 with mem := [(0x48040, 0x78), (0x48041, 0x56), (0x48042, 0x34), (0x48043, 0x92)] }
theorem test_ld : gets (.ld .b4 false 9 ⟨10, false, 0⟩) tMem 9 0x92345678 = true ∧ gets (.ld .b4 true 9 ⟨10, false, 0⟩) tMem 9 0xFFFFFFFF92345678 = true := by
  decide +kernel
theorem test_st : (after .resultLands (atIx 1 ((after (.st .b2 ⟨10, false, 0⟩ (.imm 0x1234)) tMem).modMe (fun k => { k with vcc := 45 })))).mem =
    [(0x48040, 0x34), (0x48041, 0x12), (0x48042, 0x34), (0x48043, 0x92)] := by decide +kernel
/-- A load through data lands nothing: CAP_TAG (R57). -/
theorem test_ld_tag : (after (.ld .b4 false 9 ⟨5, false, 0⟩) tMem).me.landings = [] := by decide +kernel
/-- A trap outside a handler with a handler at PC 16 (R288, R293). -/
def tTake : Machine.State := tS hd .nop (fun k => { k with rob := [⟨5, 7, .nop, false, 0, 0, none, false, none, none, [], none⟩], cr := [(0x009, 0x1010)] })
theorem test_trap : (after (.trap 9) tTake).me.pc = 16 ∧ (after (.trap 9) tTake).me.cf 0x005 0 8 = 0x20 := by decide +kernel
theorem test_reserved : (after .reservedOpcode tTake).me.cf 0x005 0 8 = 0x01 ∧ (after .reservedOpcode tTake).me.cf 0x006 0 12 = 7 := by decide +kernel
/-- The fitness of a core (R404). -/
theorem test_fitset : lands (.fitset 5) (tG [(5, dat 0x1_3F80_0000)]) 1 (.fit 0x3F800000) = true := by decide
/-- The mesh address of 01_device.md: byte 0 of bank B of core 1,443 of the package at (3, 5, 9). -/
theorem test_address : ({ t0 with isl := { t0.isl with coord := 3 + 5 * 2 ^ 7 + 9 * 2 ^ 13 } } : Machine.State).phys (coreKey 1443 0x48000) =
    0x062890B460048000 := by decide
/-! ## Witnesses: states and operands that meet the hypotheses of the statements -/

theorem witness_runs : t0.Runs := rfl
theorem witness_IntegerResults : t0.Runs := rfl
theorem witness_DivisionResults : t0.Runs ∧ t0.me.gimm (.reg 4) = 0 ∧
    (t0.me.rgv 2 = 0x8000000000000000#64 ∧ t0.me.gimm (.reg 3) = 0xFFFFFFFFFFFFFFFF#64) ∧ t0.me.gimm (.reg 5) ≠ 0 ∧
    ¬(t0.me.rgv 2 = 0x8000000000000000#64 ∧ t0.me.gimm (.reg 5) = 0xFFFFFFFFFFFFFFFF#64) := ⟨rfl, by decide⟩
theorem witness_BitFieldResults : t0.Runs ∧ (63 < 64 ∧ 0 < 64 ∧ 63 + (0 + 1) ≤ 64) ∧ (0 < 64 ∧ 63 < 64 ∧ 0 + (63 + 1) ≤ 64) :=
  ⟨rfl, by decide⟩
theorem witness_CompareSelect : t0.Runs ∧ (tS hd .nop (fun k => { k with q := 8 })).Runs := ⟨rfl, rfl⟩
theorem witness_CapabilityMonotone : t0.Runs ∧
    (Instr.candp 7 10 (.imm 5)) ∈ [Instr.csetb 7 10 (.imm 5), .csetbx 7 10 (.imm 5), .candp 7 10 (.imm 5), .cinc 7 10 (.imm 5),
      .cseta 7 10 (.imm 5), .cclrt 7 10, .crel 7 10 0, .cseal 7 10 0, .cunseal 7 10 0] ∧
    capValid (t0.me.rg 10).val (t0.me.rg 10).md = true ∧ ∃ t, exec (.candp 7 10 (.imm 5)) t0 = .next t :=
  ⟨rfl, by decide, by decide, _, rfl⟩
theorem witness_CapabilityResults : t0.Runs ∧ (t0.me.rg 10).tag = true ∧ mdSeal (t0.me.rg 10).md = 0 ∧
    capValid (t0.me.rg 10).val (t0.me.rg 10).md = true ∧ mdHas (t0.me.rg 10).md pREL = false ∧
    mdSeal (t0.me.rg 13).md = 1 ∧ (t0.me.rg 13).tag = true := ⟨rfl, by decide⟩
theorem witness_ScalarFloat : t0.Runs ∧
    (readElem .f32 ((t0.me.rgv 4).toNat % 2 ^ fmtWidth .f32)).isAbsent = false ∧
    (readElem .f32 ((t0.me.rgv 2).toNat % 2 ^ fmtWidth .f32)).isAbsent = false := ⟨rfl, by decide⟩
theorem witness_BranchesAndCalls : t0.Runs ∧ codeTarget (t0.me.rg 12) = .ok 10 ∧ codeTarget (t0.me.rg 13) = .ok 10 ∧
    codeTarget (t0.me.rg 5) = .error causeTAG := ⟨rfl, by decide⟩

/-- With a loop that ends at the word in hand. -/
def tLoop : Machine.State := tS hd .nop (fun k => { k with loops := [⟨3, 7, 2, none⟩] })
theorem witness_LoopsAndEngineTests : t0.Runs ∧
    (t0.me.loops.length < 4 ∧ (∀ top, t0.me.loops.head? = some top → pcWrap (t0.ent.pc + 3) ≤ top.stop)) ∧
    (t0.me.rgv 5).toNat % 2 ^ 32 ≠ 0 ∧ (t0.me.rgv 4).toNat % 2 ^ 32 = 0 ∧
    (tLoop.me.loops.length < 4 ∧ ∀ top, tLoop.me.loops.head? = some top → pcWrap (tLoop.ent.pc + 0) ≤ top.stop) :=
  ⟨rfl, ⟨by decide, fun _ h => by cases h⟩, by decide, by decide, by decide, fun _ h => by injection h with h; subst h; decide⟩
theorem witness_EndTest : t0.me.loops = [] ∧ tLoop.me.loops = ⟨3, 7, 2, none⟩ :: [] ∧ (7 : Nat) ≠ 8 ∧ 1 < 2 := by decide
theorem witness_PlainSequencer : t0.Runs ∧ t0.me.slot 0 = 0 ∧ t0.me.queues = [] ∧ t0.me.allQuiet = true ∧
    (16 ≤ 16 ∧ (0 : QReg).val + 16 ≤ 16) ∧ (t0.me.rgv 4).toNat % 2 ^ 32 = 0 ∧ (t0.me.rgv 5).toNat % 2 ^ 32 ≠ 0 :=
  ⟨rfl, by decide⟩
/-- At user privilege; in a timed block; with a debugger that takes BKPT. -/
def tUser : Machine.State := tS hd .nop (fun k => { k with priv := false })
def tBlock : Machine.State := tS hd .nop (fun k => { k with block := some (3, true) })
def tDbg : Machine.State := tS hd .nop (fun k => { k with dbg := { k.dbg with ctl := 0x18#64 } })
theorem witness_EndsAndStops : t0.Runs ∧ t0.me.block = none ∧ t0.me.exitReady t0.ent.serial = true ∧ t0.me.allQuiet = true ∧
    tBlock.me.block.isSome = true ∧ tBlock.Runs ∧ t0.me.released t0.ent.serial = true ∧ t0.me.priv = true ∧
    tUser.Runs ∧ tUser.me.priv = false ∧ tDbg.Runs ∧ fld tDbg.me.dbg.ctl.toNat 3 2 = 3 ∧ fld t0.me.dbg.ctl.toNat 3 2 ≠ 3 :=
  by and_intros <;> first | decide +kernel | rfl
/-- In a handler, with a RESUME kind. -/
def tHandler (kind : Nat) : Machine.State :=
  tS hd .nop (fun k => k.setCv crTRAP_CAUSE (BitVec.ofNat 64 (0x8000 + kind * 1024 + 9)))
theorem witness_TrapReturn : t0.Runs ∧ t0.me.priv = true ∧ t0.me.active = false ∧ tUser.me.priv = false ∧
    (∀ kind, kind < 4 → (tHandler kind).me.active = true ∧ (tHandler kind).me.cf crTRAP_CAUSE 10 2 = kind ∧
      (tHandler kind).me.allQuiet = true ∧ (tHandler kind).me.priv = true) := by and_intros <;> first | decide +kernel | rfl
/-- A started launch of core 0 with a timetable of one strict block. -/
def tLaunch : Launch :=
  { ctx := 0, queue := 3, work := 0, graph := none, job := 0, slot := none, record := 0, word := 0, pflags := 0, succ := [],
    desc := [], file := none, image := ⟨0, 100, false, true, [⟨3, 40, 7, 9, true⟩], []⟩, units := 1, st := .started, status := 0,
    cores := [0], loads := [], ended := [], startAt := some 10, shotNs := 0, shotAt := none, shotHit := false, cancelled := false,
    card := none, args := 0, count := 0, recsize := 0, dealt := 0, doneRecs := 0, reports := [], realign := [] }
/-- Core 0 at TBLK, and at the block's TEND. -/
def tTimed (b : Option (Nat × Bool)) (pc : Nat) : Machine.State :=
  let s := tS hd .nop (fun k => { k with block := b, launch := 1 })
  { s with launches := [(1, tLaunch)], hand := { s.hand with entry := { s.hand.entry with pc := pc } } }
theorem witness_BlocksAndBudgets : (tTimed none 7).Runs ∧ (tTimed none 7).me.block = none ∧ (tTimed none 7).timedLaunch 0 = true ∧
    (tTimed none 7).blockOf 0 3 = some ⟨3, 40, 7, 9, true⟩ ∧ (tTimed none 7).ent.pc = 7 ∧ (tTimed none 7).me.vcc = 40 ∧
    (tTimed none 7).me.late.contains 9 = false ∧ (tTimed (some (3, true)) 9).Runs ∧
    (tTimed (some (3, true)) 9).me.block = some (3, true) ∧ (tTimed (some (3, true)) 9).ent.pc = 9 ∧
    (tTimed (some (3, true)) 9).blockOf 0 3 = some ⟨3, 40, 7, 9, true⟩ ∧ t0.Runs ∧ t0.timedLaunch 0 = false ∧
    leNat ((t0.memLoad (coreKey 0 0x60000) 16).drop 14 |>.take 2) = 0 ∧
    leNat ((t0.memLoad (coreKey 0 0x60000) 16).drop 12 |>.take 1) < 16 ∧ t0.me.streams = [] :=
  by and_intros <;> first | decide +kernel | rfl
theorem witness_ControlRegisters : t0.Runs ∧ t0.me.priv = true ∧ tUser.Runs ∧ tUser.me.priv = false ∧
    (0x00D : Nat) ∈ [0x00D, 0x010, 0x013] ∧ (0 : CReg).val ∉ [0x00D, 0x010, 0x013] ∧ (63 < 64 ∧ 63 ≠ 0x00D ∧ 63 ≠ 0x014 ∧ 63 ≠ 0x031) ∧
    (0x010 < 64 ∧ 0x010 ≠ 0x00D ∧ 0x010 ≠ 0x014 ∧ 0x010 ≠ 0x031) := ⟨rfl, by decide, rfl, by decide⟩
/-- Two cores of one launch; core 0 in a following mode. -/
def tTwo (f : Core → Core) (g : Core → Core) : Machine.State :=
  let s := tS hd .nop f
  { s with cores := [(0, f { tCore with launch := 1 }), (1, g { tCore with launch := 1 })],
           launches := [(1, { tLaunch with cores := [0, 1], units := 2 })] }
/-- Core 0 in the stage after FOLLOW's request, with an answer. -/
def tAnswered (m : Nat) : Machine.State :=
  let s := tTwo id id
  { s with hand := { s.hand with stage := 1, mark := m + 1 } }
theorem witness_Following : (tTwo id id).Runs ∧ (tTwo id id).me.block = none ∧ (tTwo id id).hand.stage = 0 ∧
    (tTwo id id).me.mode = 0 ∧ (tTwo id id).me.pendFol = false ∧ (1 : Nat) ≠ 0 ∧ (tTwo id id).peerOk 0 1 = true ∧
    (tAnswered 0).Runs ∧ (tAnswered 0).hand.stage ≠ 0 ∧ (tAnswered 0).hand.mark = 0 + 1 ∧ (tAnswered 3).hand.mark = 3 + 1 :=
  by and_intros <;> first | decide +kernel | rfl
theorem witness_Following_modes :
    ((tTwo (fun k => { k with mode := 1, followers := [1] }) id).me.mode = 1 ∧
      0 ∉ (tTwo (fun k => { k with mode := 1, followers := [1] }) id).me.followers) ∧
    (tTwo (fun k => { k with mode := 2, peer := 1, fwd := [⟨7, 0, 41⟩] }) id).me.mode = 2 ∧
    (tTwo (fun k => { k with mode := 3, peer := 1, ctx := none }) id).me.ctx = none ∧ 
    (tTwo (fun k => { k with pendFol := true }) id).me.pendFol = true := by decide
theorem witness_Following_rel : relCore (1 * 2 ^ 12 + 2 * 2 ^ 21) (fld 1 5 8 * 2 ^ 34 + fld 1 0 5 * 2 ^ 29) = some 1 := by decide

/-- Two cores, with barrier id 64 (slot 0 of the die) in g7, tokens of it in g8 and g9, and the instance in a state. -/
def tBar (st : BarState) (ep count : Nat) : Machine.State :=
  let s := tTwo (fun k => { k with g := [(7, ⟨64, 0, false⟩), (8, ⟨0x400000, 0, false⟩), (9, ⟨0x400005, 0, false⟩)] }) id
  s.setBar (s.barOf 0 64) { Barrier.free 0 1 0 0 with st := st, n := 2, launch := 1, episode := ep, count := count }
theorem witness_Barriers : (tBar .free 0 0).Runs ∧ (tBar .free 0 0).barBad 0 64 = false ∧ barParBad 64 0 = false ∧ barKind 64 ≠ 0 ∧
    ((tBar .free 0 0).bar ((tBar .free 0 0).barOf 0 64)).st = .free ∧ (tBar .free 0 0).barBad 0 256 = true ∧
    (tBar .free 0 0).me.block = none ∧ ((tBar .free 0 0).bar ((tBar .free 0 0).barOf 0 64)).waiters = [] ∧
    ((tBar .free 0 0).me.rgv 7).toNat = 64 ∧ ((tBar .free 0 0).me.rgv 0).toNat = 0 :=
  by and_intros <;> first | decide +kernel | rfl
theorem witness_Barriers_arrive : (tBar .armed 0 0).Runs ∧ (tBar .armed 0 0).barBad 0 64 = false ∧
    (tBar .armed 0 0).me.arrivalReady (tBar .armed 0 0).ent.serial = true ∧
    ((tBar .armed 0 0).bar ((tBar .armed 0 0).barOf 0 64)).st = .armed ∧
    ((tBar .collecting 0 0).bar ((tBar .collecting 0 0).barOf 0 64)).st = .collecting ∧
    ((tBar .armed 0 0).bar ((tBar .armed 0 0).barOf 0 64)).count + 1 < ((tBar .armed 0 0).bar ((tBar .armed 0 0).barOf 0 64)).n ∧
    ((tBar .armed 0 0).bar ((tBar .armed 0 0).barOf 0 64)).kind < 3 ∧ ((tBar .armed 0 0).bar ((tBar .armed 0 0).barOf 0 64)).last = [] ∧
    fld ((tBar .armed 0 0).me.rgv 8).toNat 16 8 = 64 ∧ fld ((tBar .armed 0 0).me.rgv 8).toNat 0 16 = 0 ∧
    fld ((tBar .armed 0 0).me.rgv 9).toNat 16 8 = 64 ∧ fld ((tBar .armed 0 0).me.rgv 9).toNat 0 16 = 5 ∧
    (tBar .armed 0 0).ent.block = none ∧ ((tBar .armed 0 0).bar ((tBar .armed 0 0).barOf 0 64)).releaseOf 5 = none :=
  by and_intros <;> first | decide +kernel | rfl
/-- A package barrier's instance of several packages, and an arrival from another package in the hand. -/
def tGlobal (tag lost : Nat) : Machine.State :=
  let s := t0.setBar (barKey 0 3 0 0) { Barrier.free 0 3 0 0 with st := .armed, n := 2, tag := 9 }
  { s with hand := { s.hand with arg := ⟨barKey 0 3 0 0, tag, lost, []⟩ } }
theorem witness_BarrierEvents : ((tGlobal 9 0).bar (tGlobal 9 0).hand.arg.ix).kind = 3 ∧ (tGlobal 9 0).hand.arg.b = 0 ∧
    ((tGlobal 9 0).bar (tGlobal 9 0).hand.arg.ix).tag = (tGlobal 9 0).hand.arg.a ∧
    ((tGlobal 8 0).bar (tGlobal 8 0).hand.arg.ix).tag ≠ (tGlobal 8 0).hand.arg.a ∧ (tGlobal 9 1).hand.arg.b ≠ 0 := by decide

/-! The core's own memory: g10 is a capability of bank B, at 0x100048040. -/

theorem t0_access (x n : Nat) (kind : Access) (rd wr : Bool) (need : List Nat)
    (h : capCheck (t0.me.rg 10) x n n need false = none ∧ (match t0.translateOne x n rd wr with
      | (_, w, .ok r) => w == 0 && t0.isOwn t0.hand.core r.phys && decide (offKind t0.hand.core (offOf r.phys) ≤ 1) &&
          afterPage true t0.me.priv false (mdPerms (t0.me.rg 10).md) r.phys kind n == none
      | _ => false) = true) :
    ∃ u r, t0.OwnAccess 10 x n need kind false rd wr x r u := by
  obtain ⟨h1, h2⟩ := h
  split at h2
  · rename_i u w r e
    simp only [Bool.and_eq_true, beq_iff_eq, decide_eq_true_eq] at h2
    obtain ⟨⟨⟨rfl, h3⟩, h4⟩, h5⟩ := h2
    exact ⟨u, r, h1, rfl, rfl, e, h3, h4, h5, rfl, rfl, rfl, ⟨rfl, fun p hp => by
      simp only [t0, tS, List.mem_singleton] at hp; subst hp; rfl⟩⟩
  · exact absurd h2 (by decide)
theorem witness_OwnLoadsAndStores : t0.Runs ∧
    (∃ u r, t0.OwnAccess 10 (t0.me.memAddr ⟨10, false, 0⟩ 8) 8 [pR] .load false true false 0x100048040 r u) ∧
    (∃ u r, t0.OwnAccess 10 (t0.me.memAddr ⟨10, false, 1⟩ 16) 16 [pR] .cap false true false 0x100048050 r u) ∧
    (∃ u r, t0.OwnAccess 10 (t0.me.memAddr ⟨10, false, -8⟩ 8) 8 [pW] .store false false true 0x100048000 r u) ∧
    (∃ u r, t0.OwnAccess 10 (t0.me.memAddr ⟨10, false, 0⟩ 16) 16 [pW, pSTCAP] .cap false false true 0x100048040 r u) ∧
    t0.me.released t0.ent.serial = true :=
  by refine ⟨rfl, ?_, ?_, ?_, ?_, by decide⟩ <;> exact t0_access _ _ _ _ _ _ (by decide +kernel)
theorem witness_Atomics : t0.Runs ∧ t0.me.released t0.ent.serial = true ∧ 0 < 64 ∧
    ∃ u r, t0.OwnAccess 10 (t0.me.memAddr ⟨10, false, 0⟩ 8) 8 [pATOM, pR, pW] .atomic false true true 0x100048040 r u :=
  ⟨rfl, by decide, by decide, t0_access _ _ _ _ _ _ (by decide +kernel)⟩
/-- An older store is still in flight. -/
def tStores : Machine.State := tS hd .nop (fun k => { k with stores := [⟨0, 0, 8, 0⟩] })
theorem witness_SequencerAndOrdering : t0.Runs ∧ t0.me.released t0.ent.serial = true ∧ t0.me.storesDone t0.ent.serial = true ∧
    t0.me.enginesDone t0.ent.serial = true ∧ tStores.Runs ∧ tStores.me.released tStores.ent.serial = false :=
  by and_intros <;> first | decide +kernel | rfl
/-- A home whose die accepts, with a message from core 1. -/
def tHome (b : MsgBody) : Machine.State :=
  let s := tTwo id id
  { s with eps := [(0, { Endpoint.reset with st := .active })], hand := { s.hand with msg := some b, arg := ⟨1, 0, 0, []⟩ } }
/-- A request of core 1 for 8 bytes of core 0's bank B, and for its control window. -/
def tReq (off : Nat) : MemReq :=
  { src := 1, id := 4, phys := off, va := 0x100000000 + off, size := 8, mt := 0, reg := 9, sx := false, cap := false,
    ldcap := false, acq := false, fill := false, serial := 2, af := false, wcHeld := [] }
theorem witness_RemoteMemory_home :
    (tHome (.load (tReq 0x48040))).gate 0 1 = 0 ∧
    (tHome (.load (tReq 0x48040))).onRead (some 0) (keyOf 0x48040) 8 0x100048040 ((tHome (.load (tReq 0x48040))).whois 1).2 6 0 =
      (tHome (.load (tReq 0x48040)), none) ∧
    (tHome (.load (tReq 0x48040))).hand.msg = some (.load (tReq 0x48040)) ∧
    (tHome (.store (tReq 0x48040) [1] none)).gate 0 1 = 0 ∧ (tHome (.wcLine (tReq 0x48040) [(0, 1)] [])).gate 0 1 = 0 ∧
    (tHome (.atomic (tReq 0x48040) .add 0 0)).gate 0 1 = 0 ∧
    (tHome (.atomic (tReq 0x48040) .add 0 0)).onRead (some 0) (keyOf 0x48040) 8 0x100048040
      ((tHome (.atomic (tReq 0x48040) .add 0 0)).whois 1).2 6 0 = (tHome (.atomic (tReq 0x48040) .add 0 0), none) ∧
    (tHome (.window (tReq 0x70000) true 0)).gate 0 1 = 0 ∧ offOf (tReq 0x70000).phys < 0x70200 ∧ offOf (tReq 0x701F8).phys < 0x70200 :=
  by and_intros <;> decide +kernel
/-- A core that waits for the answer to a load, with the answer in its hand. -/
def tAnswer (b : MsgBody) : Machine.State :=
  let s := tS hd .nop (fun k => { k with ops := [⟨4, 2, .remote, none, none, 0, 0⟩], stores := [⟨4, 0x48040, 8, 0⟩] })
  { s with hand := { s.hand with msg := some b } }
theorem witness_RemoteMemory_requester :
    (tAnswer (.data (tReq 0x48040) [1] false [] 0)).me.ops.find? (fun q => q.id == (tReq 0x48040).id) =
      some ⟨4, 2, .remote, none, none, 0, 0⟩ ∧ (tReq 0x48040).wcHeld = [] ∧ (tReq 0x48040).cap = false ∧ (tReq 0x48040).acq = false ∧
    (tAnswer (.data (tReq 0x48040) [] false [] 1)).hand.msg = some (.data (tReq 0x48040) [] false [] 1) ∧
    (tAnswer (.ack (tReq 0x48040) true false)).hand.msg = some (.ack (tReq 0x48040) true false) ∧
    ¬((tReq 0x48040).mt = 1 ∧ (tReq 0x48040).size = 128) ∧ (tAnswer (.revoke 0x48040)).hand.msg = some (.revoke 0x48040) := by decide
/-! Vector registers: v0 to v2 in a format, all elements zero; v3 a mask. -/

/-- The machine with v0, v1, v2 in a format, v3 a mask, v5 index elements. -/
def tV (h : Head) (f : Fmt) (ix : Fmt := .i32) : Machine.State :=
  tS h .nop (fun k => { k with v := [(0, ⟨0, f, none⟩), (1, ⟨0, f, none⟩), (2, ⟨0, f, none⟩), (3, ⟨5, .mask, none⟩), (5, ⟨0, ix, none⟩)] })
theorem witness_VectorArithmetic : ((tV hd .f16).VReady [0, 1, 2] [0, 1, 2] ∧ (tV hd .f16).Masked none) ∧
    ((tV hdM .f16).VReady [0, 1, 2] [0, 1, 2] ∧ (tV hdM .f16).Masked (some 5)) ∧ (vf .f16).stream = false ∧ IsElemental .f16 ∧
    ((tV hd .f16).me.rv 0).fmt = .f16 ∧ ((tV hd .f16).me.rv 1).fmt = .f16 ∧ ((tV hd .f16).me.rv 2).fmt = .f16 :=
  by and_intros <;> first | decide +kernel | rfl | (constructor <;> first | rfl | decide)
theorem witness_VectorBitsAndMoves : ((tV hd .i8 .mask).VReady [0, 1, 2] [1, 2] ∧ (tV hd .i8 .mask).Masked none) ∧ IsElemental .i8 ∧
    ((tV hd .i8 .mask).me.rv 1).fmt = .i8 ∧ ((tV hd .i8 .mask).me.rv 2).fmt = .i8 ∧ ((tV hd .i8 .mask).me.rv 3).fmt = .mask ∧
    (0 < fmtWidth .i8 ∧ 7 < fmtWidth .i8) ∧ (0 < 7 ∧ 6 < 7) ∧ ((tV hd .i8 .mask).me.vraw 1).expiry = none ∧
    (tV hd .i8 .mask).VReady [0, 1] [1] ∧ (vf .mask).fmt = .mask ∧ (vf .i8).fmt ≠ .noFmt ∧ (vf .i8).fmt ≠ .mask :=
  by and_intros <;> first | decide +kernel | rfl | (constructor <;> first | rfl | decide)
/-- A short-lived v1. -/
def tShort : Machine.State := tS hd .nop (fun k => { k with v := [(1, ⟨0, .f16, some 100⟩)] })
theorem witness_VectorMoves_short : tShort.VReady [0, 1] [1] ∧ tShort.Masked none ∧ (tShort.me.vraw 1).expiry = some 100 :=
  by and_intros <;> first | decide +kernel | rfl | (constructor <;> first | rfl | decide)
theorem witness_VectorConversionsAndPermutation :
    ((tV hd .f32).VReady [1] [1] ∧ (tV hd .f32).Masked none ∧ IsElemental .f8 ∧ IsElemental .f32 ∧ ((tV hd .f32).me.rv 1).fmt = .f32) ∧
    (3 * min (fmtWidth .f32) (fmtWidth .f8) < max (fmtWidth .f32) (fmtWidth .f8)) ∧ fmtWidth .f8 ≤ fmtWidth .f32 ∧
    (1 * 16 < max (fmtWidth .f32) 16) ∧ ((tV hd .l16).VReady [1] [1] ∧ ((tV hd .l16).me.rv 1).fmt = .l16 ∧ 1 * 16 < fmtWidth .f32) ∧
    ((tV hd .i32 .mask).VReady [0, 1, 5] [0, 1, 5] ∧ (tV hd .i32 .mask).Masked none ∧ IsElemental .i32 ∧ 7 < 8 ∧
      ((tV hd .i32 .mask).me.rv 1).fmt = .i32 ∧ ((tV hd .i32 .mask).me.rv 5).fmt = .mask ∧ ((tV hd .i32).me.rv 5).fmt = .i32 ∧
      ((tV hd .i32 .mask).me.rv 0).fmt = .i32) ∧
    ((0 : Int) ≤ ((tV hd .i32).me.gimm (.imm 31)).toInt ∧ ((tV hd .i32).me.gimm (.imm 31)).toInt < fmtCount .i32) ∧
    ¬((0 : Int) ≤ ((tV hd .i32).me.gimm (.reg 3)).toInt ∧ ((tV hd .i32).me.gimm (.reg 3)).toInt < fmtCount .i32) ∧
    ((tV hd .mask .mask).me.rv 1).fmt = .mask ∧ (tV hd .mask .mask).VReady [0, 1, 5] [0, 1, 5] :=
  by and_intros <;> first | decide +kernel | rfl | (constructor <;> first | rfl | decide)
/-- Two blocks with counts, in v0 and v1, and in v2 and v3. -/
def tPairs : Machine.State :=
  tS hd .nop (fun k => { k with v := [(0, ⟨0, .f16, none⟩), (1, ⟨0, .i16, none⟩), (2, ⟨0, .f16, none⟩), (3, ⟨0, .i16, none⟩)] })
theorem witness_VectorBlocks : (tPairs.VReady [0, 1, 2, 3] [0, 1, 2, 3] ∧ tPairs.Masked none ∧ isFloatFmt .f16 = true ∧
      (tPairs.me.rv 0).fmt = .f16 ∧ (tPairs.me.rv 1).fmt = .i16 ∧ (tPairs.me.rv 2).fmt = .f16 ∧ (tPairs.me.rv 3).fmt = .i16) ∧
    (30 < 31 ∧ Fin.ofNat 32 ((30 : VReg).val + 1) = 31) ∧ ((tV hd .f8).VReady [1] [1] ∧ ((tV hd .f8).me.rv 1).fmt = .f8) ∧ 1 < 2 :=
  by and_intros <;> first | decide +kernel | rfl | (constructor <;> first | rfl | decide)
/-- An F32 accumulator, a receive queue with one vector, and a VREDQ at it. -/
def tRedq (tag : Fmt) : Machine.State :=
  tS hd .nop (fun k => { k with
    acc := [(0, ⟨tag, []⟩)], rqs := [(2, ⟨[7], 0, 0⟩)], g := [(5, ⟨0x10000, 0, false⟩), (6, ⟨0x10001, 0, false⟩)],
    vredq := some ⟨5, 7, 0, 5, 2, 0, .f32, 1, 0, none, [], 40⟩ })
theorem witness_VectorReductions : ((tV hd .i8).VReady [1] [1] ∧ (tV hd .i8).Masked none ∧ (vf .i8).stream = false ∧ IsElemental .i8 ∧
      Fmt.i8 ≠ .l16 ∧ ((tV hd .i8).me.rv 1).fmt = .i8 ∧ isFloatFmt .i8 = false ∧ fmtWidth .i8 < 64) ∧
    0 < (List.range (fmtCount .i8)).countP (fun i => maskOn none i && (tV hd .i8).me.elem .i8 1 i != absentCode .i8) ∧
    (tRedq .f32).Runs ∧ ((tRedq .f32).me.ra 0).tag = .f32 ∧ fld ((tRedq .f32).me.rgv 5).toNat 0 16 < fld ((tRedq .f32).me.rgv 5).toNat 16 16 ∧
    fld ((tRedq .f32).me.rgv 6).toNat 16 16 ≤ fld ((tRedq .f32).me.rgv 6).toNat 0 16 ∧ ((tRedq .noFmt).me.ra 0).tag = .noFmt ∧
    ((tRedq .i32).me.ra 0).tag = .i32 ∧ (tRedq .f32).me.vredq = some ⟨5, 7, 0, 5, 2, 0, .f32, 1, 0, none, [], 40⟩ ∧ 0 < 1 ∧
    40 ≤ (tRedq .f32).me.vcc ∧ mapGet (tRedq .f32).me.rqs 2 = some ⟨[7], 0, 0⟩ ∧ 0 < ([7] : List VBits).length :=
  by and_intros <;> first | decide +kernel | rfl | (constructor <;> first | rfl | decide)
theorem witness_SpecialColumn : (∀ f, f = Fmt.f32 ∨ f = Fmt.l16 → (tV hd f).VReady [0, 1, 2] [1, 2] ∧ (tV hd f).Masked none ∧ IsElemental f ∧
    ((tV hd f).me.rv 1).fmt = f ∧ ((tV hd f).me.rv 2).fmt = f) ∧ 3 < 4 := by
  refine ⟨fun f h => ?_, by decide⟩
  rcases h with rfl | rfl <;> exact ⟨⟨rfl, by decide, by decide, by decide⟩, rfl, ⟨by decide, by decide⟩, by decide⟩

/-! Vector memory: g10 reaches bank B; v1 a register of the format. -/

theorem noErrors (h : Head) (i : Instr) (f : Core → Core) (hf : fld ((f tCore).cv 0x031).toNat 0 1 = 0) : (tS h i f).NoErrors :=
  ⟨rfl, fun p hp => by simp only [tS, List.mem_singleton] at hp; subst hp; exact hf⟩
theorem witness_VectorMemory :
    ((tV hd .f32).VReady [0, 1] [0, 1] ∧ (tV hd .f32).Masked none ∧ ((tV hd .f32).me.rv 1).fmt = .f32 ∧ (vf .f32).stream = false) ∧
    (∃ u, (tV hd .f32).VecAccess ((tV hd .f32).me.rg 10) 4 10 ((tV hd .f32).me.memAddr ⟨10, true, 1⟩ 128) 128 4 true false 0x48040 u) ∧
    (∃ u, (tV hd .f32).VecAccess ((tV hd .f32).me.rg 10) 4 10 ((tV hd .f32).me.memAddr ⟨10, false, 0⟩ 128) 256 4 true false 0x48040 u) ∧
    (∃ u, (tV hd .f32).VecAccess ((tV hd .f32).me.rg 10) 3 10 ((tV hd .f32).me.memAddr ⟨10, false, 0⟩ 128) 128 4 false true 0x48040 u) ∧
    (∃ u, (tV hd .f32).VecAccess ((tV hd .f32).me.rg 10) 3 10 ((tV hd .f32).me.memAddr ⟨10, false, 0⟩ 128) 256 4 false true 0x48040 u) ∧
    (∃ u, (tV hd .f32).VecAccess ((tV hd .f32).me.rg 10) 5 10 ((tV hd .f32).me.memAddr ⟨10, false, 0⟩ 128) 128 4 true false 0x48040 u) :=
  ⟨⟨⟨rfl, by decide, by decide, by decide⟩, rfl, by decide, rfl⟩,
   ⟨_, ⟨rfl, by decide, rfl, rfl, fun p hp => by cases hp with
      | head => rfl
      | tail _ h => cases h⟩⟩,
   ⟨_, ⟨rfl, by decide, rfl, rfl, fun p hp => by cases hp with
      | head => rfl
      | tail _ h => cases h⟩⟩,
   ⟨_, ⟨rfl, by decide, rfl, rfl, fun p hp => by cases hp with
      | head => rfl
      | tail _ h => cases h⟩⟩,
   ⟨_, ⟨rfl, by decide, rfl, rfl, fun p hp => by cases hp with
      | head => rfl
      | tail _ h => cases h⟩⟩,
   ⟨_, ⟨rfl, by decide, rfl, rfl, fun p hp => by cases hp with
      | head => rfl
      | tail _ h => cases h⟩⟩⟩
/-- v1 and the indices v5 of 64-bit elements, all zero. -/
def tI64 : Machine.State := tV hd .i64 .i64
/-- The addresses of sixteen elements from g10 on, by a stride of 8, and all at its address. -/
def strided (n : Nat) : List (Option Nat) := (List.range 16).map (fun (i : Nat) => some (wrap 64 ((0x100048040 : Int) + i * (n : Int))))
theorem witness_VectorElementMemory :
    (tI64.VReady [0, 1, 5] [1, 5] ∧ tI64.Masked none ∧ IsElemental .i64 ∧ (tI64.me.rv 5).fmt = .i64 ∧ (tI64.me.rv 1).fmt = .i64) ∧
    (∃ u ps, u.NoErrors ∧ u.lines = [] ∧ tI64.elemAccess ⟨10, false, 0⟩ 4 8 false (strided 8) = .ok (u, 0, ps)) ∧
    (∃ u ps, u.NoErrors ∧ u.lines = [] ∧ tI64.elemAccess ⟨10, false, 0⟩ 4 8 false (strided 0) = .ok (u, 0, ps)) ∧
    (∃ u ps, u.NoErrors ∧ u.lines = [] ∧ tI64.elemAccess ⟨10, false, 0⟩ 3 8 true (strided 8) = .ok (u, 0, ps)) ∧
    (∃ u ps, u.NoErrors ∧ u.lines = [] ∧ tI64.elemAccess ⟨10, false, 0⟩ 3 8 true (strided 0) = .ok (u, 0, ps)) :=
  ⟨⟨⟨rfl, by decide, by decide, by decide⟩, rfl, ⟨by decide, by decide⟩, by decide⟩,
   ⟨_, _, ⟨rfl, fun p hp => by cases hp with
      | head => rfl
      | tail _ h => cases h⟩, rfl, rfl⟩,
   ⟨_, _, ⟨rfl, fun p hp => by cases hp with
      | head => rfl
      | tail _ h => cases h⟩, rfl, rfl⟩,
   ⟨_, _, ⟨rfl, fun p hp => by cases hp with
      | head => rfl
      | tail _ h => cases h⟩, rfl, rfl⟩,
   ⟨_, _, ⟨rfl, fun p hp => by cases hp with
      | head => rfl
      | tail _ h => cases h⟩, rfl, rfl⟩⟩
/-- A stream of g10's range: v25 is s1. -/
def tStream : Machine.State := tS hd .nop (fun k => { k with streams := [(1, ⟨k.rg 10, false, .f32, 2, 3, 4, 4, 8, 24, 1, 1, 1⟩)] })
/-- The machine after the translation of a stream's block, and after its two ends'. -/
def tBlk : Machine.State :=
  match t0.vAccess (t0.me.rg 10) 5 10 (t0.me.memAddr ⟨10, false, 0⟩ 128) 32 8 true false with
  | .ok (u, _) => u
  | _ => t0
def tEnd (u : Machine.State) (x : Nat) : Machine.State :=
  match u.streamEnd x false with
  | .ok (v, _) => v
  | _ => u
theorem witness_Streams_block : t0.VecAccess (t0.me.rg 10) 5 10 (t0.me.memAddr ⟨10, false, 0⟩ 128) 32 8 true false 0x48040 tBlk :=
  ⟨rfl, by decide, rfl, rfl, fun p hp => by cases hp with
      | head => rfl
      | tail _ h => cases h⟩
theorem witness_Streams_base : (capBase (t0.me.rg 10).val (t0.me.rg 10).md).toNat = 0x100048000 ∧
    (capTop (t0.me.rg 10).val (t0.me.rg 10).md - 1).toNat = 0x100048FFF := by decide
theorem witness_Streams_rel : ∀ x, tBlk.relResolve (t0.me.rg 10) x = some x := fun _ => rfl
theorem witness_Streams_first : tBlk.streamEnd 0x100048000 false = .ok (tEnd tBlk 0x100048000, 0, 1) := by decide +kernel
theorem witness_Streams_last :
    (tEnd tBlk 0x100048000).streamEnd 0x100048FFF false = .ok (tEnd (tEnd tBlk 0x100048000) 0x100048FFF, 0, 1) := by decide +kernel
theorem witness_Streams :
    t0.VReady [] [] ∧ (t0.me.rg 10).tag = true ∧ mdSeal (t0.me.rg 10).md = 0 ∧ mdHas (t0.me.rg 10).md pENGINE = true ∧
    mdHas (t0.me.rg 10).md pR = true ∧
    mapGet tStream.me.streams 1 = some ⟨tCore.rg 10, false, .f32, 2, 3, 4, 4, 8, 24, 1, 1, 1⟩ ∧ mapGet tStream.me.streams 0 = none ∧
    tStream.VReady [] [] ∧ 1 < 2 ∧ 1 < 3 ∧ 1 < 4 :=
  by and_intros <;> first | decide +kernel | rfl | (constructor <;> first | rfl | decide)

/-! The T column: 8 rows of B in F8, rows of 64 bytes in g10's range; the range-lock table is empty. -/

/-- The machine with a slice; g5 a configuration of 1,024, g6 strides of 8. -/
def tSlice (kcfg : Nat) (bfmt : Fmt) (tag : Fmt) : Machine.State :=
  tS hd .nop (fun k => { k with
    slice := ⟨kcfg, false, 64, 64, bfmt, kcfg, []⟩, acc := [(0, ⟨tag, []⟩)],
    g := [(5, ⟨1024, 0, false⟩), (6, ⟨0x0000000800000008, 0, false⟩), (7, ⟨0x400000004, 0, false⟩), (8, ⟨8, 0, false⟩), (10, k.rg 10)] })
theorem witness_TensorRegisters : (tSlice 8 .f8 .f32).Runs ∧
    (let a := ((tSlice 8 .f8 .f32).me.rgv 5).toNat % 2 ^ 11; 0 < a ∧ a ≤ 1024 ∧ a % 8 = 0) ∧
    (let a := ((tSlice 8 .f8 .f32).me.rgv 8).toNat % 2 ^ 11; 0 < a ∧ a ≤ 1024 ∧ a % 8 = 0) ∧
    sext 32 ((tSlice 8 .f8 .f32).me.rgv 6).toNat % 8 = 0 ∧ sext 32 (((tSlice 8 .f8 .f32).me.rgv 6).toNat / 2 ^ 32) % 8 = 0 ∧
    sext 32 ((tSlice 8 .f8 .f32).me.rgv 7).toNat % 8 ≠ 0 ∧ ((tSlice 8 .f8 .f32).me.rgv 4).toNat % 2 ^ 11 = 0 ∧
    (tSlice 8 .f8 .f32).me.slice.kcfg < 2 ^ 11 ∧ (tSlice 8 .f8 .f32).me.slice.kb < 2 ^ 11 ∧ (tSlice 8 .f8 .f32).me.tops = [] ∧
    (tSlice 8 .f8 .f32).me.vredq = none ∧ (tSlice 8 .f8 .f32).me.free 8 ≤ (tSlice 8 .f8 .f32).me.vcc ∧
    (tSlice 8 .f8 .f32).me.landings = [] := ⟨rfl, by decide⟩
theorem witness_TensorRows : (tSlice 8 .f8 .f32).VReady [] [] ∧ (tSlice 8 .f8 .f32).Masked none ∧ 31 < 32 ∧ 3 < 4 ∧ (28 : VReg).val < 29 ∧
    ((tSlice 8 .f8 .f32).me.ra 0).tag = (if isFloatFmt .f8 then .f32 else .i32) ∧
    ((tSlice 8 .f8 .noFmt).me.ra 0).tag ≠ (if isFloatFmt .f8 then .f32 else .i32) ∧ ((tSlice 8 .f8 .noFmt).me.ra 0).tag = .noFmt :=
  by and_intros <;> first | decide +kernel | rfl | (constructor <;> first | rfl | decide)
/-- A row in v28 to v30. -/
def tRow (f : Fmt) (tag : Fmt) : Machine.State :=
  tS hd .nop (fun k => { k with v := [(28, ⟨0, f, none⟩), (29, ⟨0, f, none⟩), (30, ⟨0, .i16, none⟩)], acc := [(0, ⟨tag, []⟩)] })
theorem witness_TensorRows_store : (tRow .f32 .f32).VReady [28, 29, 30] [28, 29, 30] ∧ ((tRow .f32 .f32).me.rv 29).fmt = ((tRow .f32 .f32).me.rv 28).fmt ∧
    ((tRow .f32 .f32).me.rv 30).fmt = .i16 ∧ ((tRow .f32 .f32).me.rv 28).fmt = .f32 ∧ ((tRow .f32 .f32).me.ra 0).tag = .f32 ∧
    ((tRow .noFmt .noFmt).me.rv 28).fmt = .noFmt ∧ ((tRow .f32 .noFmt).me.ra 0).tag = .noFmt :=
  by and_intros <;> first | decide +kernel | rfl | (constructor <;> first | rfl | decide)
theorem witness_TensorOperations : (tSlice 8 .f8 .f32).Runs ∧ (tSlice 8 .f8 .f32).lines = [] ∧ (tSlice 8 .f8 .f32).me.freeLock = some 0 ∧
    0 < (tSlice 8 .f8 .f32).me.slice.kcfg ∧ (tSlice 8 .f8 .f32).me.slice.kcfg ≤ 512 ∧ (tSlice 8 .f8 .f32).me.slice.bz = false ∧
    (tSlice 8 .f8 .f32).me.slice.bfmt = .f8 ∧ ((tSlice 8 .f8 .f32).me.ra 0).tag = .f32 ∧ ((tSlice 8 .f8 .noFmt).me.ra 0).tag = .noFmt ∧
    fld ((tSlice 8 .f8 .f32).me.cv 0x00C).toNat 31 1 = 0 ∧ 0 < (tSlice 8 .f8 .f32).me.slice.kb / 8 ∧
    (tSlice 8 .i8 .f32).me.slice.bfmt ≠ .f8 ∧ (tSlice 0 .f8 .f32).me.slice.kcfg = 0 :=
  ⟨rfl, rfl, by decide⟩
theorem witness_TensorOperations_reach (s : Machine.State) (h : s = tSlice 8 .f8 .f32) :
    (∃ vs, s.tensorReach (s.me.rg 10) 10 (s.me.memAddr ⟨10, false, 0⟩ 128) (wrap 64 64)
        ((List.range 8).map (fun (n : Nat) => (wrap 64 ((s.me.memAddr ⟨10, false, 0⟩ 128 : Int) + n * 64), 64))) = .ok vs ∧
      s.footTrap (s.footprint (vs.zip (((List.range 8).map (fun (n : Nat) => (wrap 64 ((s.me.memAddr ⟨10, false, 0⟩ 128 : Int) + n * 64), 64))).map (·.2)))) = none) ∧
    (∃ vs, s.tensorReach (s.me.rg 10) 10 (s.me.memAddr ⟨10, false, 0⟩ 128) (wrap 64 64)
        ((List.range 32).map (fun (n : Nat) => (wrap 64 ((s.me.memAddr ⟨10, false, 0⟩ 128 : Int) + n * 64), 8))) = .ok vs ∧
      s.footTrap (s.footprint (vs.zip (((List.range 32).map (fun (n : Nat) => (wrap 64 ((s.me.memAddr ⟨10, false, 0⟩ 128 : Int) + n * 64), 8))).map (·.2)))) = none) := by
  subst h
  exact ⟨⟨_, rfl, by decide +kernel⟩, ⟨_, rfl, by decide +kernel⟩⟩
/-- An MMA with a chunk that has been read, in the hand. -/
def tChunk (f : Fmt) : Machine.State :=
  let o : TensorOp := ⟨5, 7, false, false, f, 0, 40, 0, 1, 1, 0, 0, [], 8, false, [], [(0, (40, [1]))], 0, none, 10, ⟨0, 0, false⟩, none, none, none⟩
  let s := tS hd .chunkLand (fun k => { k with tops := [o], acc := [(0, ⟨if f = .i8 then .i32 else .f32, []⟩)] })
  { s with hand := { s.hand with arg := ⟨5, 0, 0, []⟩ } }
theorem witness_TensorOperations_landing : ∀ f, f = Fmt.i8 ∨ f = .f16 → (tChunk f).hand.arg.bytes = [] ∧
    (∃ o, (tChunk f).me.tops.find? (fun p => p.serial == (tChunk f).hand.arg.ix) = some o ∧ o.data = (0, (40, [1])) :: [] ∧ o.fmt = f) ∧
    40 ≤ (tChunk f).me.vcc ∧ (f = .i8 ∨ isFloatFmt f = true) := by
  intro f h
  rcases h with rfl | rfl <;> exact ⟨rfl, ⟨_, rfl, rfl, rfl⟩, by decide, by decide⟩
/-- A gang whose sixteen cores wait with the same GMMA, or none yet. -/
def tGang (n : Nat) (waits : Bool) : Machine.State :=
  let e : QEntry := ⟨5, 7, hd, .gmma (vf .f8) 0 ⟨10, false, 0⟩, 40, 0, none⟩
  let k : Core := { tCore with launch := 1, slice := ⟨8, false, 64, 64, .f8, 8, []⟩, acc := [(0, ⟨.f32, []⟩)] }
  let k : Core := if waits then { k with gmma := some ⟨5, 90⟩, joins := [1], queues := [(colT, [e])] } else k
  let s := t0
  { s with cores := (List.range 16).map (fun (i : Nat) => (i, k)), launches := [(1, { tLaunch with cores := List.range n, units := n })] }
/-- The first with its gang's barrier broken. -/
def tGangBroken : Machine.State :=
  let s := tGang 16 false
  s.setBar (s.gangKey 0) { s.bar (s.gangKey 0) with st := .broken, reason := 2 }
theorem witness_TensorOperations_gang : (tGang 16 false).Runs ∧ (tGang 16 false).gangWhole 0 = true ∧ (tGang 15 false).gangWhole 0 = false ∧
    (tGang 15 false).Runs ∧
    ((tGang 16 false).bar ((tGang 16 false).gangKey 0)).st ≠ .broken ∧ (tGang 16 false).me.freeLock ≠ none ∧
    ((tGangBroken).Runs ∧ tGangBroken.gangWhole 0 = true ∧ (tGangBroken.bar (tGangBroken.gangKey 0)).st = .broken) ∧
    (∀ k j, j ∈ ((tGang 16 false).core k).joins → j = 1) ∧ (tGang 16 true).gangVerdict 0 = .join ∧ (tGang 16 true).lines = [] := by
  refine ⟨rfl, by decide, by decide, rfl, by decide, by decide, ⟨rfl, by decide⟩, fun k j h => ?_, by decide +kernel, rfl⟩
  have h0 : ((tGang 16 false).core k).joins = [] :=
    mapGet_all (tGang 16 false).cores k (fun (x : Core) => x.joins = []) Core.reset rfl (by decide)
  rw [h0] at h; cases h
theorem witness_TensorOperations_join : ∀ m, m ∈ gangCores (gangOf 0) → ∃ w e rest, ((tGang 16 true).core m).gmma = some w ∧
    (tGang 16 true).gmmaTrap m = none ∧ (tGang 16 true).gmmaKeyOf m = (tGang 16 true).gmmaKeyOf 0 ∧
    ((tGang 16 true).core m).queueOf colT = e :: rest ∧ e.instr = .gmma (vf .f8) 0 ⟨10, false, 0⟩ := by

  have h : ∀ m, m ∈ gangCores (gangOf 0) → (tGang 16 true).core m = (tGang 16 true).core 0 ∧ (tGang 16 true).gmmaTrap m = none ∧
      (tGang 16 true).gmmaKeyOf m = (tGang 16 true).gmmaKeyOf 0 := by decide +kernel
  intro m hm
  obtain ⟨h1, h2, h3⟩ := h m hm
  rw [h1]
  exact ⟨_, _, _, rfl, h2, h3, rfl, rfl⟩

/-! The C column: handle 0 covers 64 KiB of HBM at 0x10000; g11 reaches bank B at 0x100048840, g14 the same with REMOTE; g7 is a
handle word, g8 a row descriptor of one row of 128 bytes, g9 one of no rows, g16 to g19 the parameters of a mutation of 8
elements, g20 the rectangle of one core at offset 0x1000. -/

/-- The state of an access that succeeded, and what it answered. -/
def okSt {α : Type} (r : VRes (Nat × α)) (d : Machine.State) : Machine.State :=
  match r with
  | .ok (u, _) => u
  | .error _ => d
def tCopy (h : Head) (f : Core → Core := id) : Machine.State :=
  let s := tS h .nop (fun k => f { k with
    g := [(5, ⟨128, 0, false⟩), (7, ⟨0, 0, false⟩), (8, ⟨0x0000000100000080, 0, false⟩), (9, ⟨0x80, 0, false⟩), (10, k.rg 10),
          (11, tCap 0xFD6 0x100048840 0x840 0x1000 0), (14, tCap 0xFF6 0x100048040 0x40 0x1000 0),
          (15, tCap 0xFF6 0x100048840 0x840 0x1000 0), (16, ⟨8, 0, false⟩),
          (17, ⟨1, 0, false⟩), (18, ⟨2, 0, false⟩), (19, ⟨3, 0, false⟩), (20, ⟨0x1000000000, 0, false⟩)],
    cr := [(0x014, 0x201000)] })
  { s with mem := [(hbmKey 2, 1), (hbmKey 5, 4), (hbmKey 10, 1), (hbmKey 13, 7)],
           ctxs := [(0, { Ctx.reset with st := .running, htCount := 4, htCountEff := 4 })] }
def tC : Machine.State := tCopy hd
/-- The machine after a local side, and the piece it gives. -/
def tDst (wr : Bool) (align : Nat) : Machine.State :=
  okSt (tC.copyLocal (tC.me.rg 10) (if wr then 3 else 3) 10 (tC.me.memAddr ⟨10, false, 0⟩ 128) 128 align wr [] (align == 0)) tC
theorem witness_CopyInstructions : tC.Runs ∧ tC.me.descs.length < 1024 ∧ tC.me.locks = [] ∧ tC.lines = [] ∧ tC.me.copyLen (.reg 5) = 128 ∧
    (fmtWidth .f16 / 8 ∈ [1, 2, 4, 8] ∧ 128 % (fmtWidth .f16 / 8) = 0) ∧
    (let r0 := (tC.me.rgv 16).toNat % 2 ^ 32; 0 < r0 ∧ Layout.f8z ≠ .f8 ∧ r0 * (fmtWidth (layoutFmt .f8) / 8) = 8) ∧
    fld (tC.me.rgv 8).toNat 32 16 = 1 ∧ (tC.me.rgv 8).toNat % 2 ^ 32 = 128 ∧ fld (tC.me.rgv 9).toNat 32 16 = 0 :=
  ⟨rfl, by decide⟩
theorem witness_CopyInstructions_sides :
    tC.copyLocal (tC.me.rg 10) 3 10 (tC.me.memAddr ⟨10, false, 0⟩ 128) 128 0 true [] true =
      .ok (okSt (tC.copyLocal (tC.me.rg 10) 3 10 (tC.me.memAddr ⟨10, false, 0⟩ 128) 128 0 true [] true) tC, 0,
        [⟨0x48040, some 0x100048040, 128, false, 0⟩]) ∧
    tC.copyLocal (tC.me.rg 10) 3 10 (tC.me.memAddr ⟨10, false, 0⟩ 128) 128 0 false [] true =
      .ok (okSt (tC.copyLocal (tC.me.rg 10) 3 10 (tC.me.memAddr ⟨10, false, 0⟩ 128) 128 0 false [] true) tC, 0,
        [⟨0x48040, some 0x100048040, 128, false, 0⟩]) ∧
    tC.copyLocal (tC.me.rg 10) 3 10 (tC.me.memAddr ⟨10, false, 0⟩ 128) 128 2 true [] false =
      .ok (okSt (tC.copyLocal (tC.me.rg 10) 3 10 (tC.me.memAddr ⟨10, false, 0⟩ 128) 128 2 true [] false) tC, 0,
        [⟨0x48040, some 0x100048040, 128, false, 0⟩]) ∧
    tC.copyLocal (tC.me.rg 10) 3 10 (tC.me.memAddr ⟨10, false, 0⟩ 128) 8 0 true [] false =
      .ok (okSt (tC.copyLocal (tC.me.rg 10) 3 10 (tC.me.memAddr ⟨10, false, 0⟩ 128) 8 0 true [] false) tC, 0,
        [⟨0x48040, some 0x100048040, 8, false, 0⟩]) ∧
    tC.copyLocal (tC.me.rg 10) 3 10 (tC.me.memAddr ⟨10, false, 0⟩ 128) 128 0 true [] false =
      .ok (okSt (tC.copyLocal (tC.me.rg 10) 3 10 (tC.me.memAddr ⟨10, false, 0⟩ 128) 128 0 true [] false) tC, 0,
        [⟨0x48040, some 0x100048040, 128, false, 0⟩]) ∧
    tC.copyLocal (tC.me.rg 14) 4 14 (tC.me.memAddr ⟨14, false, 0⟩ 128) 128 0 false [pREMOTE] false =
      .ok (okSt (tC.copyLocal (tC.me.rg 14) 4 14 (tC.me.memAddr ⟨14, false, 0⟩ 128) 128 0 false [pREMOTE] false) tC, 0,
        [⟨0x48040, some 0x100048040, 128, false, 0⟩]) := by
  and_intros <;> decide +kernel
/-- The machine after the destination. -/
def tC1 : Machine.State := okSt (tC.copyLocal (tC.me.rg 10) 3 10 (tC.me.memAddr ⟨10, false, 0⟩ 128) 128 0 true [] true) tC
def tC2 : Machine.State := okSt (tC.copyLocal (tC.me.rg 10) 3 10 (tC.me.memAddr ⟨10, false, 0⟩ 128) 128 0 false [] true) tC
def tC3 : Machine.State := okSt (tC.copyLocal (tC.me.rg 10) 3 10 (tC.me.memAddr ⟨10, false, 0⟩ 128) 8 0 true [] false) tC
theorem witness_CopyInstructions_handle :
    tC1.handleSide (tC1.me.ctx.getD 0) (tC.me.rgv 7) 128 false = .ok (2 ^ 42 + 0x10000, 0) ∧
    tC2.handleSide (tC2.me.ctx.getD 0) (tC.me.rgv 7) 128 true = .ok (2 ^ 42 + 0x10000, 0) ∧
    tC3.handleSide (tC3.me.ctx.getD 0) (tC.me.rgv 7) 8 false = .ok (2 ^ 42 + 0x10000, 0) ∧
    tC1.copyLocal (tC.me.rg 11) 4 11 (tC.me.rgv 11).toNat 128 0 false [] true =
      .ok (okSt (tC1.copyLocal (tC.me.rg 11) 4 11 (tC.me.rgv 11).toNat 128 0 false [] true) tC1, 0,
        [⟨0x48840, some 0x100048840, 128, false, 0⟩]) := by
  and_intros <;> decide +kernel
/-- The machine after the destination of a SEND, of 128 bytes and of one. -/
def tC4 (n : Nat) : Machine.State := okSt (tC.sendDst (tC.me.rg 14) 14 (tC.me.memAddr ⟨14, false, 0⟩ 128) n (n == 1)) tC
theorem witness_CopyInstructions_send :
    tC.sendDst (tC.me.rg 14) 14 (tC.me.memAddr ⟨14, false, 0⟩ 128) 128 false = .ok (tC4 128, 0, [⟨0x48040, some 0x100048040, 128, false, 0⟩]) ∧
    tC.sendDst (tC.me.rg 14) 14 (tC.me.memAddr ⟨14, false, 0⟩ 128) 1 true = .ok (tC4 1, 0, [⟨0x48040, some 0x100048040, 1, false, 0⟩]) ∧
    (∀ p, p ∈ [(⟨0x48040, some 0x100048040, 128, false, 0⟩ : CPiece)] → offKind (coreOf p.phys) (offOf p.phys) < 2) ∧
    (∀ n, n = 128 ∨ n = 1 → (tC4 n).copyLocal (tC.me.rg 15) 4 15 (tC.me.memAddr ⟨15, false, 0⟩ 128) 128 0 false [] false =
      .ok (okSt ((tC4 n).copyLocal (tC.me.rg 15) 4 15 (tC.me.memAddr ⟨15, false, 0⟩ 128) 128 0 false [] false) tC, 0,
        [⟨0x48840, some 0x100048840, 128, false, 0⟩])) ∧
    (let rect := (tC.me.cv 0x014).toNat
     let d := (tC.me.rgv 20).toNat
     0 < fld rect 12 9 ∧ 0 < fld rect 21 5 ∧ fld d 0 8 + fld d 8 8 + 1 ≤ fld rect 12 9 ∧ fld d 16 4 + fld d 20 4 + 1 ≤ fld rect 21 5 ∧
       fld d 24 20 + 128 ≤ 0x40000) := by
  refine ⟨by decide +kernel, by decide +kernel, by decide, ?_, by decide⟩
  intro n h
  rcases h with rfl | rfl <;> decide +kernel
/-- An operation of group 3 in flight, and a receive queue with one vector of which `p` are popped. -/
def tDesc (p : Nat) (vecs : List VBits) : Machine.State :=
  tCopy hd (fun k => { k with descs := [(0, CopyOp.base .move 0 3)], groups := [(3, ⟨1, some 100⟩)], rqs := [(2, ⟨vecs, p, 0⟩)],
                              g := mapPut k.g 5 ⟨8, 0, false⟩ })
theorem witness_CopyControl : (tDesc 0 [7]).Runs ∧
    ((tDesc 0 [7]).me.descs.filter (fun p => fld (((tDesc 0 [7]).me.rgv 5).toNat % 65536) p.2.group 1 == 1)).map (·.1) ≠ [] ∧
    ((tDesc 0 [7]).me.descs.filter (fun p => fld (((tDesc 0 [7]).me.rgv 7).toNat % 65536) p.2.group 1 == 1)).map (·.1) = [] ∧
    (mapGetD (tDesc 0 [7]).me.groups 3 ⟨0, none⟩).fault = some (tDesc 0 [7]).clk ∧
    (mapGetD (tDesc 0 [7]).me.groups 2 ⟨0, none⟩).fault ≠ some (tDesc 0 [7]).clk ∧
    (((tDesc 15 (List.replicate 16 7)).me.recvQ 2).popped < 16 ∧ ((tDesc 15 (List.replicate 16 7)).me.recvQ 2).vecs[15]? = some 7) ∧
    (((tDesc 0 []).me.recvQ 2).popped < 16 ∧ ((tDesc 0 []).me.recvQ 2).vecs[0]? = none) ∧ (tDesc 0 []).ent.block.map (·.2) ≠ some true ∧
    16 ≤ ((tDesc 16 []).me.recvQ 2).popped ∧ tC.me.copyLen (.reg 7) = 0 := ⟨rfl, by decide +kernel⟩
/-- What SQTAG reaches. -/
def tSqU : Machine.State := (tC.translateRange false 0x100048040 128 true false).1
theorem witness_CopyControl_lines : tC.me.copyLen (.reg 5) = 128 ∧
    tC.rangeSide (tC.me.rg 10) 3 10 (tC.me.memAddr ⟨10, false, 0⟩ 128) 128 0 true false [pR] causePLOAD tC.tagRefuses =
      .ok (tSqU, 0, [⟨0x48040, some 0x100048040, 128, false, 0⟩]) := by
  refine ⟨?_, ?_⟩ <;> decide +kernel
/-- An operation whose last beat writes 8 bytes of zeros to bank B, in the hand; and one that is over. -/
def tBeat (streams : List (List Beat)) : Machine.State :=
  let o := { CopyOp.base .move 0 3 with streams := streams, tag := 4, slot := some 1 }
  let s := tCopy hd (fun k => { k with descs := [(0, o)], groups := [(3, ⟨1, none⟩)], slots := [(1, 1)] })
  { s with eps := [(0, { Endpoint.reset with st := .active })], hand := { s.hand with arg := ⟨1, 0, 0, []⟩ } }
def tB1 : Beat := ⟨0, 8, 0x48040, some 0x100048040, 0, [⟨0x48840, none, 8, false, 0⟩]⟩
theorem witness_CopyEngineEvents_beat : (tBeat [[tB1]]).hand.core < 8192 ∧ (tBeat [[tB1]]).hand.arg.ix = 0 + 1 ∧
    mapGet (tBeat [[tB1]]).me.descs 0 = some { CopyOp.base .move 0 3 with streams := [tB1 :: []], tag := 4, slot := some 1 } ∧
    (tBeat [[tB1]]).ext = [] ∧ (∀ y, (tBeat [[tB1]]).me.ctx = some y → ((tBeat [[tB1]]).ctx y).budgets = []) ∧
    (tBeat [[tB1]]).readParts 0 3 tB1.srcs = (tBeat [[tB1]], .bytes (List.replicate 8 0)) ∧
    (List.replicate 8 (0 : BitVec 8)).length = tB1.len ∧ (tBeat [[tB1]]).isHere tB1.dst = true ∧ spaceOf tB1.dst = 0 ∧
    coreOf tB1.dst = 0 ∧ (tBeat [[tB1]]).bankTaken 0 (offOf tB1.dst) = false ∧ bankOf (offOf tB1.dst) ≠ 3 :=
  ⟨by decide, rfl, rfl, rfl, fun y h => by
    have hy : y = 0 := by injection h with h; exact h.symm
    subst hy; rfl, by and_intros <;> decide +kernel⟩
/-- A vector for queue 2 in the hand. -/
def tVec (n : Nat) : Machine.State :=
  let s := tCopy hd (fun k => { k with rqs := [(2, ⟨List.replicate n 7, 0, 0⟩)] })
  { s with hand := { s.hand with msg := some (.vector 1 0 2 9) } }
theorem witness_CopyEngineEvents :
    ((tBeat []).hand.arg.ix = 0 + 1 ∧ mapGet (tBeat []).me.descs 0 = some { CopyOp.base .move 0 3 with streams := [], tag := 4, slot := some 1 }) ∧
    (∀ n, n = 15 ∨ n = 16 → (tVec n).hand.msg = some (.vector 1 0 2 9) ∧ ((tVec n).me.recvQ 2).vecs.length = n) := by
  refine ⟨⟨rfl, rfl⟩, fun n h => ?_⟩
  rcases h with rfl | rfl <;> exact ⟨rfl, rfl⟩

/-! The P column: cores 0 and 1 of launch 1 are the members of population 0; their individuals are 128 bytes of F32. -/

def tWact : Word := 0x101002000000
def tPopRec (k : Nat) (fresh : Bool) (op : Option DraftOp) : Population :=
  { ctx := 0, die := 0, p := 0, launch := 1, k := k, sigma := 0, thresh := 0, rlog := 0, ring := 0, gen := 3, seed := 9, rcount := 5,
    winners := [0], losers := [1], fresh := fresh, members := [0, 1], op := op }
/-- The machine with the population; the state of core 0's other copy. -/
def tPop (r : Population) (cs : CopySt) (blk : Option (Nat × Bool) := none) : Machine.State :=
  let s := tTwo (fun k => { k with eval := .loaded, cr := [(0x012, tWact)], copySt := cs })
    (fun k => { k with eval := .loaded, cr := [(0x012, tWact)] })
  { s with pops := [(0, r)], eps := [(0, { Endpoint.reset with st := .active })],
           hand := { s.hand with entry := { s.hand.entry with block := blk } } }
def tP : Machine.State := tPop (tPopRec 1 true none) .none
def tDraft (step : Bool) : DraftOp :=
  { core := 0, id := 4, step := step, due := 100, order := [(0, 0x40000000), (1, 0x3F800000)], nan := false, pair := 0, gen := 4, acts := [],
    flags := 0 }
theorem witness_Populations : tP.Runs ∧ tP.me.ownBusy = false ∧ tP.memberOf none = some 0 ∧ tP.memberOf (some 4) = some 0 ∧
    tP.memberOf (some 5) = none ∧ tP.me.configured = true ∧ t0.me.configured = false ∧ t0.me.ownBusy = false ∧
    (tP.me.gimm (.reg 4)).toNat < 16 ∧ tP.popOf tP.hand.core (tP.me.gimm (.reg 4)).toNat = some (0, tPopRec 1 true none) ∧
    tP.popLaunch (tPopRec 1 true none) = tP.me.launch ∧ (tP.me.gimm (.reg 5)).toNat < 16 ∧
    tP.popOf tP.hand.core (tP.me.gimm (.reg 5)).toNat = none :=
  ⟨rfl, by decide +kernel⟩
/-- Core 0 alone, without an individual and with one in g7; a descriptor of population 1 at g10. -/
def tPcfg : Machine.State :=
  let s := tTwo (fun k => { k with g := mapPut k.g 7 ⟨tWact, 0, false⟩ }) id
  { s with pops := [(0, { tPopRec 1 true none with members := [] })],
           mem := [(0x48040, 1), (0x48042, 1), (0x4804A, 1), (0x48060, 16)] }
theorem witness_Populations_none : t0.Runs := rfl
theorem witness_Populations_ind : tPcfg.Runs ∧ tPcfg.hand.core < 8192 ∧ tPcfg.me.ownBusy = false ∧ fld (tPcfg.me.rgv 2).toNat 60 4 ≠ 0 ∧
    fld (tPcfg.me.rgv 7).toNat 60 4 = 0 ∧ indBad 0 (tPcfg.me.rgv 7).toNat = false ∧ indBad 0 (tPcfg.me.rgv 5).toNat = true ∧
    tPcfg.popOf 0 (fld (tPcfg.me.rgv 7).toNat 40 4) = some (0, { tPopRec 1 true none with members := [] }) ∧ tPcfg.me.configured = false ∧
    tP.hand.core < 8192 ∧ tP.popMine 0 = some (0, tPopRec 1 true none) ∧ tP.me.copySt = .none ∧ tPcfg.popMine 0 = none := ⟨rfl, by decide⟩
/-- What PCFG.POP reads at the operand of a register. -/
def tPopU (x : Nat) : Machine.State := okSt (tPcfg.readOwnAt 10 4 x 32 8) tPcfg
def tPopD (a b c d : BitVec 8) : List Byte := [a, 0, b, 0, 0, 0, 0, 0, 0, 0, c] ++ List.replicate 21 d
/-- A state that differs in the buffer of the core in hand alone. -/
def withTlb (s : Machine.State) (l : List (Nat × TlbEntry)) (n : Nat) : Machine.State := s.setMe { s.me with tlb := l, tlbUse := n }
theorem onlyTlb (s : Machine.State) (l : List (Nat × TlbEntry)) (n : Nat) : s.OnlyTlb (withTlb s l n) :=
  by
  have other : ∀ c, c ≠ s.hand.core → (withTlb s l n).core c = s.core c := fun _ h => mapGetD_mapPut_ne _ _ _ h
  have own : (withTlb s l n).me = { s.me with tlb := l, tlbUse := n } := by
    show mapGetD (mapPut s.cores s.hand.core _) s.hand.core _ = _
    exact mapGetD_mapPut_same _ _ _ _
  refine ⟨rfl, rfl, by constructor <;> exact fun _ => rfl, ?_⟩
  and_intros
  all_goals first | rfl | exact other | exact ⟨l, n, own⟩
theorem witness_Populations_pop :
    (⟨10, false, 0⟩ : MemOp).post = false ∧
    tPcfg.readOwnAt 10 4 (tPcfg.me.memAddr ⟨10, false, 0⟩ 32) 32 8 =
      .ok (withTlb tPcfg (tPopU 0x100048040).me.tlb (tPopU 0x100048040).me.tlbUse, 0, tPopD 1 1 1 0) ∧ popDescBad (tPopD 1 1 1 0) = false ∧
    leNat (((tPopD 1 1 1 0).drop 10).take 1) = 1 ∧ leNat (((tPopD 1 1 1 0).drop 0).take 1) = 1 ∧
    tPcfg.readOwnAt 10 4 (tPcfg.me.memAddr ⟨10, false, 1⟩ 32) 32 8 =
      .ok (tPopU 0x100048060, 0, tPopD 16 0 0 0) ∧ popDescBad (tPopD 16 0 0 0) = true :=
  by and_intros <;> decide +kernel
theorem witness_Populations_only : tPcfg.OnlyTlb (withTlb tPcfg (tPopU 0x100048040).me.tlb (tPopU 0x100048040).me.tlbUse) :=
  onlyTlb _ _ _
theorem witness_Selection : tP.Runs ∧ tP.popUse (.reg 5) = none ∧ tP.ent.block = none ∧
    tP.popUse (.reg 4) = some (0, tPopRec 1 true none) ∧ (tPopRec 1 true none).k ≤ (tPopRec 1 true none).members.length / 2 ∧
    (tPop (tPopRec 2 true none) .none).popUse (.reg 4) = some (0, tPopRec 2 true none) ∧
    (tPopRec 2 true none).members.length / 2 < (tPopRec 2 true none).k ∧
    (tPop (tPopRec 1 false none) .none).popUse (.reg 4) = some (0, tPopRec 1 false none) ∧
    (tPop (tPopRec 1 true (some (tDraft true))) .none).popUse (.reg 4) = some (0, tPopRec 1 true (some (tDraft true))) ∧
    (tPop (tPopRec 1 true none) .none (some (3, true))).ent.block.isSome = true ∧
    (tPop (tPopRec 1 true none) .none (some (3, true))).popUse (.reg 4) = some (0, tPopRec 1 true none) ∧
    (tPopRec 1 true none).winners.length = (tPopRec 1 true none).losers.length ∧ (tPopRec 1 true none).losers.Nodup ∧
    (∀ q, q ∈ (tPopRec 1 true none).winners.zip (tPopRec 1 true none).losers → wLay (tP.core q.1).wact = wLay (tP.core q.2).wact ∧
      wLen (tP.core q.1).wact = wLen (tP.core q.2).wact ∧ wBlocks (tP.core q.1).wact = wBlocks (tP.core q.2).wact) ∧
    (∀ l, l ∈ (tPopRec 1 true none).losers → (tP.core l).copySt = .none ∧ l < 8192) := ⟨rfl, by decide +kernel⟩
/-- A RANK that is over, and a PWAIT. -/
def tRank : Machine.State :=
  let s := tPop (tPopRec 1 false (some (tDraft false))) .none
  { s with hand := { s.hand with arg := ⟨0, 0, 0, []⟩ } }
def tPwait : Machine.State := tS hd .pwaitComplete (fun k => { k with ops := [⟨0, 5, .pwait 9 0, none, some 101, 0, 0⟩] })
theorem witness_Selection_events :
    (mapGet tRank.pops tRank.hand.arg.ix = some (tPopRec 1 false (some (tDraft false))) ∧ (tDraft false).order[1]? = some (1, 0x3F800000) ∧
      ((tDraft false).order.map (·.1)).Nodup ∧ (∀ y, y ∈ (tDraft false).order → y.1 < 8192) ∧ (tRank.core 1).configured = true) ∧
    (tPwait.hand.core < 8192 ∧ tPwait.asyncFrozen tPwait.hand.core = false ∧ tPwait.me.ops = [⟨0, 5, .pwait 9 0, none, some 101, 0, 0⟩] ∧
      tPwait.hand.arg.ix = 0 ∧ tPwait.me.opReg 0 ≠ 0) := by decide +kernel
theorem witness_SwitchAndMigrate : tP.Runs ∧ tP.hand.core < 8192 ∧ tP.me.configured = true ∧ tP.stepElsewhere tP.hand.core = false ∧
    tP.me.copySt = .none ∧
    (∀ cs, cs = CopySt.swapPending ∨ cs = .migratingOut ∨ cs = .overwriting ∨ cs = .migratingIn →
      (tPop (tPopRec 1 true none) cs).Runs ∧ (tPop (tPopRec 1 true none) cs).me.copySt = cs ∧
      (tPop (tPopRec 1 true none) cs).me.configured = true ∧ (tPop (tPopRec 1 true none) cs).stepElsewhere 0 = false) ∧
    fld (tP.me.rgv 2).toNat 33 31 ≠ 0 ∧ fld (tP.me.rgv 4).toNat 33 31 = 0 ∧ fld (tP.me.rgv 4).toNat 0 20 = tP.isl.coord ∧
    coreExists (fld (tP.me.rgv 4).toNat 20 13) = true ∧ fld (tP.me.rgv 4).toNat 20 13 < 4144 := by
  refine ⟨rfl, by decide, by decide, by decide, by decide, ?_, by decide⟩
  intro cs h
  rcases h with rfl | rfl | rfl | rfl <;> exact ⟨rfl, rfl, by decide, by decide⟩
/-- The last pair of a POPSTEP has been written into core 1; a MIGR of core 1 arrives; its copy is done; its reply. -/
def tIn (asker : Nat) : Incoming := ⟨CopyOp.base .move 1 0, asker, 4, true, 0, 77⟩
def tStepDone : Machine.State :=
  let s := tPop (tPopRec 1 true (some (tDraft true))) .none
  let s := s.modCore 1 (fun k => { k with incoming := some (tIn 0), copySt := .overwriting })
  { s with hand := { s.hand with arg := ⟨0, 0, 0, []⟩ } }
def tMigr (cs : CopySt) : Machine.State :=
  let s := tPop (tPopRec 1 true none) cs
  { s with hand := { s.hand with msg := some (.migr 1 4 tWact 77 none) } }
def tMigrDone : Machine.State := (tPop (tPopRec 1 true none) .migratingIn).modCore 0 (fun k => { k with incoming := some (tIn 1) })
def tMigrReply : Machine.State :=
  let s := (tPop (tPopRec 1 true none) .migratingOut).modCore 0 (fun k => { k with ops := [⟨4, 5, .migr 9, none, none, 0, 0⟩] })
  { s with hand := { s.hand with msg := some (.migrReply 4 0 0) } }
theorem witness_SwitchAndMigrate_events :
    (mapGet tStepDone.pops tStepDone.hand.arg.ix = some (tPopRec 1 true (some (tDraft true))) ∧ (tDraft true).pair = 0 ∧
      (tStepDone.core 1).incoming = some (tIn 0) ∧ (tIn 0).op.err = none ∧ (tPopRec 1 true none).rlog = 0 ∧
      (tStepDone.core 1).configured = true ∧ (tStepDone.core 1).ops = []) ∧
    ((tMigr .none).hand.msg = some (.migr 1 4 tWact 77 none) ∧ (tMigr .none).gate (tMigr .none).hand.core 1 = 0 ∧
      (tMigr .none).me.copySt = .none ∧ (tMigr .swapPending).me.copySt ≠ .none ∧
      (tMigr .swapPending).gate (tMigr .swapPending).hand.core 1 = 0 ∧
      ((tMigr .none).ctx 0).st = .running ∧ (tMigr .none).me.ctx = some 0 ∧
      (tMigr .none).me.configured = true ∧ wAccept (tMigr .none).me.wact = true ∧ wLay (tMigr .none).me.wact = wLay tWact.toNat ∧
      wLen (tMigr .none).me.wact = wLen tWact.toNat ∧ wBlocks (tMigr .none).me.wact = wBlocks tWact.toNat) ∧
    (tMigrDone.me.incoming = some (tIn 1) ∧ (tIn 1).op.err = none ∧ tMigrDone.me.ops = [] ∧ (tIn 1).asker < 8192) ∧
    (tMigrReply.hand.msg = some (.migrReply 4 0 0) ∧ tMigrReply.asyncFrozen tMigrReply.hand.core = false ∧
      tMigrReply.me.ops = [⟨4, 5, .migr 9, none, none, 0, 0⟩] ∧ tMigrReply.me.copySt = .migratingOut ∧ tMigrReply.me.opReg 4 ≠ 0) := by
  and_intros <;> decide +kernel

/-! Counters and queues: counter 0xA000 is context counter 0; queue 5 is this context's, of the kind and ends in CTL. -/

def tCtl (kind feed drain : Nat) : Word := BitVec.ofNat 64 (1 + kind * 2 + feed * 4 + drain * 8 + 12 * 16)
def tQ (kind feed drain prod : Nat) (blk : Option (Nat × Bool) := none) : Machine.State :=
  let s := tCopy hd (fun k => { k with g := [(5, ⟨5, 0, false⟩), (6, ⟨0xA000, 0, false⟩), (7, ⟨0, 0, false⟩), (8, ⟨0xC000, 0, false⟩),
    (9, ⟨4095, 0, false⟩), (10, k.rg 10), (16, ⟨0xE000, 0, false⟩), (17, ⟨4096, 0, false⟩), (18, ⟨0xA040, 0, false⟩)] })
  { s with queues := [(5, { Queue.reset with ctl := tCtl kind feed drain, prod := prod, st := .running, own := some 0 })],
           hand := { s.hand with entry := { s.hand.entry with block := blk } } }
theorem witness_CountersQueuesJobs : (tQ 1 1 0 0).Runs ∧ counterOk ((tQ 1 1 0 0).me.rgv 6).toNat = true ∧
    fld ((tQ 1 1 0 0).me.rgv 6).toNat 13 3 = 5 ∧ (tQ 1 1 0 0).me.released (tQ 1 1 0 0).ent.serial = true ∧
    counterOk ((tQ 1 1 0 0).me.rgv 8).toNat = true ∧ fld ((tQ 1 1 0 0).me.rgv 8).toNat 13 3 = 6 ∧
    ((tQ 1 1 0 0).me.gimm (.reg 9)).toNat = 4095 ∧ ((tQ 1 1 0 0).me.gimm (.reg 17)).toNat = 4096 ∧
    counterOk ((tQ 1 1 0 0).me.rgv 16).toNat = false ∧ counterOk ((tQ 1 1 0 0).me.rgv 18).toNat = false ∧
    counterOk ((tQ 1 1 0 0).me.rgv 5).toNat = true ∧ fld ((tQ 1 1 0 0).me.rgv 5).toNat 13 3 < 5 ∧
    (tQ 1 1 0 0).ent.block = none ∧ (tQ 1 1 0 0).cancelTargets 0 ((tQ 1 1 0 0).me.rgv 6).toNat = ([], [], []) :=
  ⟨rfl, by decide +kernel⟩
/-- The counter is 0: it is at most 4,095 and at least 0, and not at least 4,095. -/
theorem witness_CountersQueuesJobs_counter : (tQ 1 1 0 0).counter 0 ((tQ 1 1 0 0).me.rgv 6).toNat ≤ ((tQ 1 1 0 0).me.gimm (.reg 9)).toInt ∧
    ((tQ 1 1 0 0).me.gimm (.reg 7)).toInt ≤ (tQ 1 1 0 0).counter 0 ((tQ 1 1 0 0).me.rgv 6).toNat ∧
    ¬ ((tQ 1 1 0 0).me.gimm (.reg 9)).toInt ≤ (tQ 1 1 0 0).counter 0 ((tQ 1 1 0 0).me.rgv 6).toNat ∧
    ¬ (tQ 1 1 0 0).counter 0 ((tQ 1 1 0 0).me.rgv 6).toNat ≤ ((tQ 1 1 0 0).me.gimm (.imm (-1))).toInt := by decide +kernel
theorem witness_CountersQueuesJobs_queue : (tQ 1 1 0 0).queueOk 5 1 (some 1) none = true ∧ (tQ 1 1 0 0).queueOk 7 1 (some 1) none = false ∧
    (tQ 1 1 0 0).queueOk 5 1 none (some 0) = true ∧ (tQ 1 0 1 0).queueOk 5 1 none (some 0) = false ∧
    ((tQ 1 1 0 0).queue 5).hasItem = false ∧ ((tQ 1 1 0 8).queue 5).hasItem = true ∧ (tQ 1 1 0 8).queueOk 5 1 none (some 0) = true ∧
    (tQ 1 1 0 8).ringAddr 5 ((tQ 1 1 0 8).queue 5).cons = some (2 ^ 42 + 0x10000) := by decide +kernel
/-- HBM answers, and a barrier packet of 32 bytes at g10. -/
def tItem : Machine.State :=
  let s := tQ 1 1 0 8
  { s with eps := (List.range 18).map (fun (i : Nat) => (i, { Endpoint.reset with st := .active })) }
def tPk : Machine.State :=
  let s := tQ 0 1 0 0
  { s with mem := [(0x48040, 0x44), (0x48041, 0x08)] }
def tPkU : Machine.State := okSt (tPk.readOwnAt 10 4 (tPk.me.memAddr ⟨10, false, 0⟩ 8) 8 0) tPk
def tPkU2 : Machine.State := withTlb tPk tPkU.me.tlb tPkU.me.tlbUse
def tPkW : Machine.State := okSt (tPkU2.readOwnAt 10 4 (tPk.me.memAddr ⟨10, false, 0⟩ 8) 32 0) tPk
theorem witness_CountersQueuesJobs_submit : tPk.Runs ∧ tPk.queueOk 5 0 (some 1) none = true ∧ tPk.me.released tPk.ent.serial = true ∧
    tPk.readOwnAt 10 4 (tPk.me.memAddr ⟨10, false, 0⟩ 8) 8 0 = .ok (tPkU2, 0, [0x44, 8, 0, 0, 0, 0, 0, 0]) ∧
    headBad (leNat [0x44, 8, 0, 0, 0, 0, 0, 0]) = false ∧ pkLen (leNat [0x44, 8, 0, 0, 0, 0, 0, 0]) = 32 ∧
    tPkU2.readOwnAt 10 4 (tPk.me.memAddr ⟨10, false, 0⟩ 8) 32 0 =
      .ok (withTlb tPkU2 tPkW.me.tlb tPkW.me.tlbUse, 0, [0x44, 8] ++ List.replicate 30 0) ∧
    (tQ 1 1 0 0).queueOk 5 0 (some 1) none = false :=
  by and_intros <;> first | decide +kernel | rfl
theorem witness_CountersQueuesJobs_only : tPk.OnlyTlb tPkU2 ∧ tPkU2.OnlyTlb (withTlb tPkU2 tPkW.me.tlb tPkW.me.tlbUse) :=
  ⟨onlyTlb _ _ _, onlyTlb _ _ _⟩
theorem witness_CountersQueuesJobs_item : tItem.devFetch (2 ^ 42 + 0x10000) 8 = .here (List.replicate 8 0) ∧ tItem.Runs ∧
    tItem.queueOk 5 1 none (some 0) = true := ⟨by decide +kernel, rfl, by decide +kernel⟩
/-- A unit of a launch with a job card of 100 records, that holds the first 25 of them. -/
def tCard : Machine.State :=
  let s := tTwo (fun k => { k with chunk := some (0, 25) }) id
  { s with launches := [(1, { tLaunch with cores := [0, 1], units := 2, card := some 0, count := 100, recsize := 8, dealt := 25 })] }
theorem witness_CountersQueuesJobs_cards : t0.Runs ∧ t0.ent.block = none ∧ (∀ y, t0.launch t0.me.launch = some y → y.card = none) ∧
    tCard.Runs ∧ tCard.ent.block = none ∧
    tCard.launch tCard.me.launch = some { tLaunch with cores := [0, 1], units := 2, card := some 0, count := 100, recsize := 8, dealt := 25 } ∧
    tCard.dealing tCard.hand.core = false ∧ tCard.me.chunk = some (0, 25) ∧ t0.me.chunk = none ∧ 25 < 100 ∧ 0 < 2 :=
  ⟨rfl, rfl, (fun _ h => by cases h), rfl, rfl, rfl, by decide, rfl, rfl, by decide⟩

/-! Translation. -/

theorem witness_Translation : tC.Runs ∧ tC.me.ctx = some 0 ∧ tC.me.priv = true ∧ tC.hand.stage = 0 ∧
    (fld (tC.me.rgv (Fin.ofNat 64 (16 + 1))).toNat 40 1 = 0) ∧
    tUser.Runs ∧ tUser.me.ctx = some 0 ∧ tUser.me.priv = false := by
  and_intros <;> first | decide +kernel | rfl
def tClrU : Machine.State := (tC.translateRange false 0x100048040 128 false true).1
theorem witness_Translation_clear : (tC.me.gimm (.reg 5)).toNat = 128 ∧
    tC.rangeSide (tC.me.rg 10) 4 10 (tC.me.rgv 10).toNat 128 0 false true [pW] causePLOAD (clrwRefuses 128) =
      .ok (withTlb tC tClrU.me.tlb tClrU.me.tlbUse, 0, [⟨0x48040, some 0x100048040, 128, false, 0⟩]) ∧
    (withTlb tC tClrU.me.tlb tClrU.me.tlbUse).lockTrap true [⟨0x48040, some 0x100048040, 128, false, 0⟩] = none ∧
    tC.isHere 0x48040 = true ∧ tC.OnlyTlb (withTlb tC tClrU.me.tlb tClrU.me.tlbUse) := by
  refine ⟨?_, ?_, ?_, ?_, onlyTlb _ _ _⟩ <;> decide +kernel
/-- The words of an entry with V for a handle within the table and one outside, in g20 and g21; stage 1. -/
def tHndl : Machine.State :=
  let s := tCopy hd (fun k => { k with g := [(7, ⟨0x0003000000000000, 0, false⟩), (8, ⟨0x0004000000000000, 0, false⟩),
    (20, ⟨0x40000010000, 0, false⟩), (21, ⟨0x70000010000, 0, false⟩)] })
  { s with hand := { s.hand with stage := 1 } }
theorem witness_Translation_handle : tHndl.Runs ∧ tHndl.me.ctx = some 0 ∧ tHndl.me.priv = true ∧ tHndl.hand.stage ≠ 0 ∧
    fld (tHndl.me.rgv 7).toNat 48 16 = 3 ∧ fld (tHndl.me.rgv 8).toNat 48 16 = 4 ∧ (tHndl.ctx 0).htCountEff.toNat = 4 ∧
    fld (tHndl.me.rgv (Fin.ofNat 64 ((20 : GReg).val + 1))).toNat 40 1 = 1 ∧
    fld (tHndl.me.rgv (Fin.ofNat 64 ((20 : GReg).val + 1))).toNat 45 19 = 0 ∧
    tHndl.handleRange (tHndl.me.rgv 20).toNat (fld (tHndl.me.rgv (Fin.ofNat 64 ((20 : GReg).val + 1))).toNat 0 40) = true :=
  ⟨rfl, by decide⟩

/-! SNAP. -/

/-- Barrier 128 in g7, a handle of 1 MiB in g8 and a size in g9. -/
def tSnap (size : Nat) (stage : Nat) (blk : Option (Nat × Bool)) : Machine.State :=
  let s := tCopy hd (fun k => { k with
    g := [(7, ⟨128, 0, false⟩), (8, ⟨0, 0, false⟩), (9, ⟨BitVec.ofNat 64 size, 0, false⟩)], launch := 1, block := blk,
    rob := [⟨5, 7, .nop, false, 0, 0, none, false, none, none, [], none⟩] })
  let s := { s with launches := [(1, tLaunch)], mem := [(hbmKey 2, 1), (hbmKey 5, 4), (hbmKey 10, 16), (hbmKey 13, 7)],
                    hand := { s.hand with stage := stage } }
  s.setBar (s.barOf 0 128) { Barrier.free 0 2 0 0 with st := .armed, n := 2, launch := 1 }
theorem witness_SnapshotAndRollback : (tSnap 0x24000 0 none).Runs ∧ (tSnap 0x24000 0 (some (3, true))).me.block.isSome = true ∧
    (tSnap 0x24000 0 none).me.block = none ∧ (tSnap 0x24000 0 none).barBad 0 128 = false ∧ 2 ≤ barKind 128 ∧
    (∀ n, n = 0x24000 ∨ n = 0x23FFF → (tSnap n 0 none).handleSide 0 0 (2 * n) true = .ok (2 ^ 42 + 0x10000, 0) ∧
      ((tSnap n 0 none).me.rgv (8 + 1)).toNat = n ∧ ((tSnap n 0 none).me.rgv 8) = 0) ∧
    ((tSnap 0x24000 0 none).rangeSection 0).length = 0 ∧ (tSnap 0x24000 0 none).hand.stage = 0 ∧
    (tSnap 0x24000 1 none).hand.stage ≠ 0 ∧ (tSnap 0x24000 1 none).me.snapReady (tSnap 0x24000 1 none).ent.serial = true ∧
    ((tSnap 0x24000 1 none).bar ((tSnap 0x24000 1 none).barOf 0 128)).st = .armed ∧ (tSnap 0x24000 1 none).savedRanges 0 = [] := by
  refine ⟨rfl, rfl, rfl, by decide, by decide, fun n h => ?_, ?_⟩
  · rcases h with rfl | rfl <;> exact ⟨by decide +kernel, by decide, by decide⟩
  · and_intros <;> decide +kernel

/-! The core's own events. -/

def tLand (w : Wr) : Machine.State := tS hd .resultLands (fun k => { k with landings := [⟨40, 5, w, some 1, false⟩], slots := [(1, 1)] })
def tOp (kind : AsyncKind) : Machine.State :=
  let s := tCopy hd (fun k => { k with ops := [⟨4, 5, kind, some 1, some 100, 0, 0⟩], slots := [(1, 1)] })
  { s with hand := { s.hand with arg := ⟨4, 0, 0, []⟩ }, queues := [(5, Queue.reset)] }
theorem witness_CoreEvents :
    (∀ w, w = Wr.g 9 ⟨7, 0, false⟩ ∨ w = .g 0 ⟨7, 0, false⟩ ∨ w = .q 3 true ∨ w = .q 15 false ∨ w = .vPut 2 ⟨0, .f16, none⟩ →
      (tLand w).me.landings = [⟨40, 5, w, some 1, false⟩] ∧ 40 ≤ (tLand w).me.vcc) ∧
    (∀ kind, kind = AsyncKind.status 9 7 false ∨ kind = .writeG 9 ⟨7, 0, false⟩ ∨ kind = .writeQ 3 true ∨ kind = .cntadd 0xA000 7 ∨
        kind = .qpush 5 7 3 → (tOp kind).hand.msg = none ∧
      (tOp kind).me.ops.find? (fun a => a.id == (tOp kind).hand.arg.ix) = some ⟨4, 5, kind, some 1, some 100, 0, 0⟩ ∧
      (tOp kind).me.ctx = some 0 ∧ ((tOp kind).queue 5).running = false) ∧ fld 0xA000 13 3 = 5 := by
  refine ⟨?_, ?_, by decide⟩
  · intro w h
    rcases h with rfl | rfl | rfl | rfl | rfl <;> exact ⟨rfl, by decide⟩
  · intro kind h
    rcases h with rfl | rfl | rfl | rfl | rfl <;> exact ⟨rfl, rfl, rfl, rfl⟩
def tRob (phase : Bool) : Rob := ⟨5, 7, .nop, true, 3, 0, none, phase, none, none, [], none⟩
/-- The oldest instruction is done; SEQ counts; a column's head may issue; the sequencer holds an instruction. -/
def tCommit (phase : Bool) : Machine.State :=
  tS hd .nop (fun k => { k with rob := [tRob phase], cr := [(0x013, 0x10000)], queues := [(colM, [⟨5, 7, hd, .nop, 40, 0, none⟩])],
                                held := some ⟨⟨5, 7, hd, .nop, 40, 0, none⟩, .ready, 0, 0, 0, none⟩ })
theorem witness_CoreEvents_commit :
    (∀ p, (tCommit p).hand.arg.a = 0 ∧ (tCommit p).me.rob = [tRob p] ∧ (tRob p).done = true ∧ (tRob p).trap = none ∧
      (tRob p).region = none ∧ (tRob p).phase = p ∧ (tCommit p).me.committable (tCommit p).clk = true ∧ (tCommit p).me.wlog = [] ∧
      (tCommit p).me.cf 0x013 16 1 = 1) ∧
    (let s := { tCommit true with hand := { (tCommit true).hand with arg := ⟨colM, 0, 0, []⟩ } }
     s.me.issuable s.hand.arg.ix = some ⟨5, 7, hd, .nop, 40, 0, none⟩) ∧
    (tCommit true).me.held = some ⟨⟨5, 7, hd, .nop, 40, 0, none⟩, .ready, 0, 0, 0, none⟩ := by
  refine ⟨fun p => ?_, by decide, by decide⟩
  cases p <;> exact ⟨rfl, rfl, rfl, rfl, rfl, rfl, by decide, rfl, by decide⟩
/-- A page table with one leaf of 64 MiB at virtual address 0, and a walk of 0x12345 that has ended. -/
def tWalk (pipe : Bool) : Machine.State :=
  let s := tCopy hd (fun k => { k with ops := [⟨4, 5, .walk 0x12345 true pipe, none, some 100, 0, 0⟩] })
  { s with mem := [(hbmKey 0x10000, 1), (hbmKey 0x10002, 2), (hbmKey 0x20000, 0x63), (hbmKey 0x20003, 4), (hbmKey 0x20005, 4)],
           ctxs := [(0, { Ctx.reset with st := .running, ptRootEff := 0x10001 })],
           eps := (List.range 18).map (fun (i : Nat) => (i, { Endpoint.reset with st := .active })),
           hand := { s.hand with arg := ⟨4, 0, 0, []⟩ } }
theorem witness_Translation_walk : ∀ pipe, (tWalk pipe).me.ops.find? (fun a => a.id == (tWalk pipe).hand.arg.ix) =
      some ⟨4, 5, .walk 0x12345 true pipe, none, some 100, 0, 0⟩ ∧ (tWalk pipe).me.ctx = some 0 ∧
    tlbFind (if pipe = true then (tWalk pipe).me.pipeTlb else (tWalk pipe).me.tlb) 0x12345 = none ∧
    (tWalk pipe).walk 0 0x12345 = .ok (2 ^ 42 + 0x4000063, 2 ^ 26) ∧
    (tlbVictim (if pipe = true then (tWalk pipe).me.pipeTlb else (tWalk pipe).me.tlb) (if pipe = true then 8 else 32)).isSome = true := by
  intro pipe
  cases pipe <;> exact ⟨rfl, rfl, by decide +kernel, by decide +kernel, by decide⟩
def tInv (busy : Bool) (kind : Nat) : Machine.State :=
  { t0 with ctxs := [(0, { Ctx.reset with st := .running, invBusy := busy, invals := [⟨0, 0, true, 0, 0, 100, kind, [], []⟩] })] }
theorem witness_Translation_events : ((tInv false 1).ctx (tInv false 1).hand.arg.ix).invBusy = false ∧
    ((tInv true 1).ctx (tInv true 1).hand.arg.ix).invBusy = true ∧
    (∀ kind, kind = 3 ∨ kind = 1 → ((tInv true kind).ctx (tInv true kind).hand.arg.ix).invals.find? (tInv true kind).invalReady =
      some ⟨0, 0, true, 0, 0, 100, kind, [], []⟩) := by
  refine ⟨by decide, by decide, ?_⟩
  intro kind h
  rcases h with rfl | rfl <;> decide
/-- One instruction in flight, with a handler at PC 16; and within a handler. -/
def tTrap (cause : Word) (handler : Word) : Machine.State :=
  tS hd .nop (fun k => { k with rob := [tRob false], cr := [(0x005, cause), (0x009, handler)] })
theorem witness_TrapsAndEscalation :
    (let s := tTrap 0 0x1010
     s.me.rob = [tRob false] ∧ (tRob false).serial = s.ent.serial ∧ s.me.wlog = [] ∧ s.me.vredq = none ∧ s.me.gmma = none ∧
       s.me.active = false ∧ s.me.cf 0x009 12 1 = 1 ∧ fld s.me.region.flags 1 1 = 0) ∧
    (let s := tTrap 0x8009 0x1010
     s.me.active = true ∧ s.me.unit = .running ∧ s.me.dbg.stopped = false ∧ s.me.ctx = some 0 ∧ (s.ctx 0).st = .running) ∧
    (let s := tTrap 0 0
     s.me.active = false ∧ s.me.cf 0x009 12 1 = 0) := by decide
/-- At a delivery point: an engine's fault, or an armed stop. -/
def tTr : Trap := ⟨0x20, 0x48040, 3, 0, true⟩
def tPend (p : Pending) : Machine.State := tS hd .nop (fun k => { k with pend := p, cr := [(0x009, 0x1010)] })
theorem witness_FaultsAndDelivery :
    (∀ p, p = { Pending.empty with engine := [(1, tTr)] } ∨ p = { Pending.empty with stop := some 1 } →
      (tPend p).me.rob = [] ∧ (tPend p).me.wlog = [] ∧ (tPend p).me.vredq = none ∧ (tPend p).me.unit = .running ∧
      (tPend p).me.dbg.stopped = false ∧ (tPend p).me.saving = 0 ∧ (tPend p).frozen (tPend p).hand.core = false ∧
      (tPend p).me.atRealign = none ∧ (tPend p).me.pend = p ∧ (tPend p).me.active = false ∧ (tPend p).me.barWait = none ∧
      (tPend p).me.replay = [] ∧ (tPend p).me.cf 0x009 12 1 = 1 ∧ fld (tPend p).me.region.flags 1 1 = 0) ∧ tTr.resume = 0 := by
  refine ⟨?_, rfl⟩
  intro p h
  rcases h with rfl | rfl <;> (and_intros <;> decide)

/-! Contexts, stops, timed blocks. -/

/-- Core 0 of launch 1 in a context in a state. -/
def tCtx (st : CtxState) (u : UnitState) (f : Core → Core := id) : Machine.State :=
  let s := tS hd .nop (fun k => f { k with unit := u, launch := 1 })
  { s with ctxs := [(0, { Ctx.reset with st := st })], launches := [(1, tLaunch)] }
theorem witness_ContextLife : ((tCtx .free .running).ctx 0).st = .free ∧ ((tCtx .building .ready).ctx 0).st = .building ∧
    (∀ k, k = (tCtx .building .ready).core 0 → k.unit ≠ .pending ∧ k.unit ≠ .loading) ∧
    ((tCtx .running .running).ctx 0).st = .running ∧ (tCtx .running .running).me.ctx = some 0 ∧
    ((tCtx .running .running).core 0).launch ≠ 0 ∧ (tCtx .running .running).ctxCores 0 = [0] ∧
    (let s := tCtx .faulted .faulted (fun k => { k with cr := [(0x005, 0x8409)] })
     (s.ctx 0).st = .faulted ∧ s.ctxCores 0 = [0] ∧ (s.core 0).unit = .faulted ∧ (s.core 0).cf 0x005 10 2 = 1) ∧
    memWf (tCtx .running .running).mem = true := by
  refine ⟨by decide, by decide, ?_, by decide, by decide, by decide, by decide, by decide, by decide⟩
  intro k h
  subst h
  decide
theorem witness_ContextLife_others : ∀ i, ((tCtx .building .ready).core i).unit ≠ .pending ∧ ((tCtx .building .ready).core i).unit ≠ .loading :=
  fun i => mapGet_all (tCtx .building .ready).cores i (fun (x : Core) => x.unit ≠ .pending ∧ x.unit ≠ .loading) Core.reset (by decide) (by decide)
theorem witness_StopsAndDumps :
    (let s := tCtx .running .running
     (s.core 0).dbg.stopped = false ∧ (s.core 0).unit = .running ∧ (s.core 0).pend.stop = none ∧ (s.ctx 0).st = .running) ∧
    (let s := tCtx .running .ready
     (s.core 0).dbg.stopped = false ∧ (s.core 0).unit ≠ .running) ∧
    (let s := tCtx .running .running (fun k => { k with dbg := { k.dbg with stopped := true, reason := 7 } })
     (s.core 0).dbg.stopped = true ∧ (s.core 0).dbg.reason = 7 ∧ (s.core 0).ctx = some 0 ∧ (s.core 0).launch ≠ 0) := by decide
/-- Timed events: core 0 of launch 1, on die 0, with a message. -/
def tMsg (b : MsgBody) : Machine.State :=
  let s := tTimed none 7
  let s := s.modCore 0 (fun k => { k with held := some ⟨⟨5, 7, hd, .realign, 40, 0, none⟩, .ready, 1, 0, 0, none⟩ })
  { s with hand := { s.hand with msg := some b, arg := ⟨3, 0, 0, []⟩ } }
/-- The same on two dies. -/
def tMsg2 (b : MsgBody) : Machine.State :=
  { tMsg b with launches := [(1, { tLaunch with cores := [0, 512], units := 2 })] }
theorem witness_TimedEvents :
    (∀ e, e < 3 → (tMsg (.pause 1 0 e 5)).launch 1 = some tLaunch ∧ (tMsg (.pause 1 0 e 5)).hand.msg = some (.pause 1 0 e 5)) ∧
    tLaunch.cores.Nodup ∧ 0 ∈ tLaunch.cores ∧ dieOf 0 = 0 ∧
    (tLaunch.dies.all (fun x => (mapGet (mapPut tLaunch.reports 0 9) x).isSome) = true ∧
      ({ tLaunch with cores := [0, 512], units := 2 } : Launch).dies.all (fun x => (mapGet (mapPut tLaunch.reports 0 9) x).isSome) = false ∧
      (tMsg (.realignReport 1 0 9)).hand.msg = some (.realignReport 1 0 9) ∧ (tMsg2 (.realignReport 1 0 9)).hand.msg = some (.realignReport 1 0 9)) ∧
    ((tMsg (.realignRelease 1 0 false)).hand.msg = some (.realignRelease 1 0 false) ∧ tLaunch.cores.filter (fun x => dieOf x == 0) = [0] ∧
      ((tMsg (.realignRelease 1 0 false)).core 0).atRealign = some ⟨⟨5, 7, hd, .realign, 40, 0, none⟩, .ready, 1, 0, 0, none⟩) ∧
    ((tMsg (.pause 1 0 0 5)).blockOf (tMsg (.pause 1 0 0 5)).hand.core (tMsg (.pause 1 0 0 5)).hand.arg.ix = some ⟨3, 40, 7, 9, true⟩) ∧
    (tMsg (.pause 1 0 0 5)).launch (tMsg (.pause 1 0 0 5)).me.launch = some tLaunch := by
  refine ⟨fun e h => ⟨rfl, rfl⟩, ?_⟩
  and_intros <;> decide
/-- A timetable with an elastic block. -/
def tElastic : Machine.State :=
  { tMsg (.pause 1 0 0 5) with launches := [(1, { tLaunch with image := ⟨0, 100, false, true, [⟨3, 40, 7, 9, false⟩], []⟩ })] }
theorem witness_TimedEvents_elastic : tElastic.blockOf tElastic.hand.core tElastic.hand.arg.ix = some ⟨3, 40, 7, 9, false⟩ ∧
    tElastic.me.late.contains 9 = false := by decide
/-- Rollbacks: from another package, and of a core without a snapshot. -/
def tRoll (a : Nat) : Machine.State :=
  let s := tS hd .rollback (fun k => { k with pend := { Pending.empty with rollback := some tTr } })
  let s := s.setBar (barKey 0 3 0 0) { Barrier.free 0 3 0 0 with st := .armed, n := 2, snapEp := some 4, episode := 6 }
  { s with hand := { s.hand with arg := ⟨barKey 0 3 0 0, a, 0, []⟩ } }
theorem witness_SnapshotAndRollback_roll : ((tRoll 1).hand.arg.a = 1 ∧ ((tRoll 1).bar (tRoll 1).hand.arg.ix).snapEp = some 4) ∧
    ((tRoll 0).hand.arg.a ≠ 1 ∧ (tRoll 0).me.pend.rollback = some tTr ∧ (tRoll 0).rollTarget (tRoll 0).hand.core = none ∧
      (tRoll 0).me.unit = .running ∧ (tRoll 0).me.dbg.stopped = false ∧ (tRoll 0).me.ctx = some 0 ∧ ((tRoll 0).ctx 0).st = .running) := by
  decide

/-! Launches and queues. -/

/-- A descriptor of one core, and one of two: the rectangle at byte 20. -/
def tDescBytes (rect : Nat) : List Byte := List.replicate 20 0 ++ leBytes 4 rect ++ List.replicate 104 0
def tL (st : LaunchState) : Launch :=
  { tLaunch with desc := tDescBytes 0x201000, st := st, word := 0x0009000000000000, pflags := 2, shotNs := 50, cores := [0], file := some [],
                 loads := [(0, 100)] }
/-- Launch 1 in a state, the core of its unit bound to it or not. -/
def tLau (st : LaunchState) (u : UnitState) (launch : Nat) : Machine.State :=
  let s := tCopy hd (fun k => { k with unit := u, launch := launch, g := [] })
  { s with launches := [(1, tL st)], hand := { s.hand with arg := ⟨1, 0, 0, []⟩ } }
theorem witness_LaunchEvents : (tLau .reading .running 1).launch (tLau .reading .running 1).hand.arg.ix = some (tL .reading) ∧
    (tLau .reading .running 1).wordPhys (tL .reading).ctx (tL .reading).word.toNat 128 = none ∧
    (tLau .pending .running 2).coresTaken 1 (rectCores (dRect (tL .pending).desc)) = true ∧
    (tLau .pending .none 0).coresTaken 1 (rectCores (dRect (tL .pending).desc)) = false ∧
    rectCores (dRect (tL .pending).desc) = [0] ∧
    ((tLau .bound .ready 1).core 0).unit = .ready ∧ (tL .bound).card = none ∧ (tL .started).succ = [] ∧
    ((tLau .started .running 1).core 0).launch = 1 ∧ fld (tL .started).pflags 0 1 = 0 ∧ fld (tL .started).pflags 1 1 = 1 ∧
    ((tLau .started .running 1).core 0).unended (tL .started).ctx = true := by decide +kernel
/-- The loading of core 0's unit can end. -/
def tLoading : Machine.State :=
  let s := tLau .bound .loading 1
  { s with hand := { s.hand with arg := ⟨0, 0, 0, []⟩ } }
theorem witness_LaunchEvents_load : tLoading.launch (tLoading.core tLoading.hand.arg.ix).launch = some (tL .bound) ∧
    (tLoading.core tLoading.hand.arg.ix).unit = .loading ∧ tLoading.imageBroken (tL .bound) = false ∧ dFlag (tL .bound).desc 2 = false := by
  decide +kernel
/-- A packet: header, operation or word, and further fields. -/
def tPacket (h a b c d : Nat) : List Byte := leBytes 8 h ++ leBytes 8 a ++ leBytes 8 b ++ leBytes 8 c ++ leBytes 8 d ++ leBytes 8 0
/-- Queue 5 in a state with a head packet, and an argument. -/
def tQs (st : QState) (ctl : Word) (head : Option (List Byte)) (a : Nat) (nodes : List (Nat × Node)) : Machine.State :=
  let s := tCopy hd id
  { s with queues := [(5, { Queue.reset with ctl := ctl, st := st, own := some 0, head := head, prod := 8, cons := 8 })],
           ctxs := [(0, { Ctx.reset with st := .running, htCount := 4, htCountEff := 4, nodes := nodes })],
           eps := (List.range 18).map (fun (i : Nat) => (i, { Endpoint.reset with st := .active })),
           hand := { s.hand with arg := ⟨5, a, 0, []⟩ } }
theorem witness_QueueEvents :
    (∀ st, st = QState.enabled ∨ st = .running ∨ st = .blocked → ∀ a, a = 0x1008 ∨ a = 0x1010 ∨ a = 12 →
      (let s := tQs st (tCtl 0 0 0) none a []
       let u := s.queue s.hand.arg.ix
       u.feed ≠ 1 ∧ (∀ y, u.own = some y → (s.ctx y).st ≠ .draining) ∧ u.st = st ∧ u.legal (a % 2 ^ 32) = decide (a = 0x1008))) ∧
    (let u := (tQs .disabled 0 none 0 []).queue 5
     u.st = .disabled ∧ configOk (setFld 0 0 1 1) = false ∧ configOk (setFld 0xC4 0 1 1) = true ∧ fld u.ring.toNat 0 8 = 0 ∧
       (tQs .disabled 0 none 0xC4 []).ringOk { u with ctl := BitVec.ofNat 64 (setFld 0xC4 0 1 1) } = true) ∧
    (tQs .running 0 none 0 []).queue 5 ≠ { Queue.reset with st := .disabled } ∧
    ((tQs .running (tCtl 1 1 1) none 0 []).queue 5).drain = 1 ∧ ((tQs .running (tCtl 0 0 0) none 0 []).queue 5).drain ≠ 1 := by
  refine ⟨?_, by decide +kernel, by decide, by decide, by decide⟩
  intro st h a h'
  rcases h with rfl | rfl | rfl <;> rcases h' with rfl | rfl | rfl <;>
    exact ⟨by decide, fun y h => by injection h with h; subst h; decide, rfl, by decide⟩
/-- The ring holds a barrier packet, or one whose header is all zeros. -/
def tRing (h : Nat) : Machine.State :=
  let s := tQs .running (tCtl 0 0 0) none 0 []
  { s with mem := [(hbmKey 2, 1), (hbmKey 5, 4), (hbmKey 10, 1), (hbmKey 13, 7)] ++
             (if h = 0 then [] else [(hbmKey 0x10008, 0x44), (hbmKey 0x10009, 0x0C)]) }
theorem witness_QueueEvents_read : (tRing 1).headFetch 5 = some (.here ([0x44, 0x0C] ++ List.replicate 30 0), []) ∧
    headBad (pkHead ([0x44, 0x0C] ++ List.replicate 30 0)) = false ∧ packetBad ([0x44, 0x0C] ++ List.replicate 30 0) = false ∧
    pkType (pkHead ([0x44, 0x0C] ++ List.replicate 30 0)) = 3 ∧
    (tRing 0).headFetch 5 = some (.here (List.replicate 8 0), []) ∧ headBad (pkHead (List.replicate 8 0)) = true ∧
    ((tRing 1).setQueue 5 { (tRing 1).queue 5 with st := .running }) = tRing 1 ∧ ((tRing 1).queue 5).own = some 0 := by
  and_intros <;> decide +kernel
/-- Control packets, a graph node of slot 3, and one that waits for two. -/
def tCtrl (op a b : Nat) : Machine.State := tQs .running (tCtl 0 0 0) (some (tPacket 0xC44 op a b 0)) 0 []
def tNode (dep : Nat) (nodes : List (Nat × Node)) : Machine.State :=
  tQs .running (tCtl 0 0 0) (some (tPacket 0x445 0 0 0 (3 + dep * 65536))) 0 nodes
theorem witness_QueueEvents_acts :
    (∀ op, op = 0 ∨ op = 1 ∨ op = 2 ∨ op = 3 ∨ op = 4 → (tCtrl op 0xA000 0).controlMet 5 (tPacket 0xC44 op 0xA000 0 0) = true) ∧
    (tCtrl 1 0xA000 (2 ^ 64 - 1)).controlMet 5 (tPacket 0xC44 1 0xA000 (2 ^ 64 - 1) 0) = false ∧
    ((tCtrl 0 0xA000 0).queue 5).head = some (tPacket 0xC44 0 0xA000 0 0) ∧ ((tCtrl 0 0xA000 0).queue 5).own = some 0 ∧
    (tCtrl 0 0xA000 0).headLaunch 5 = false ∧ (tCtrl 2 0xA000 0).cancelTargets 0 (byteFld (tPacket 0xC44 2 0xA000 0 0) 16 8) = ([], [], []) ∧
    fld (byteFld (tPacket 0xC44 3 0xA000 0 0) 16 8) 13 3 = 5 ∧
    (let p := tPacket 0x445 0 0 0 (3 + 2 * 65536)
     mapGet ((tNode 2 []).ctx 0).nodes (fld (byteFld p 32 4) 0 10) = none ∧ 0 < fld (byteFld p 32 4) 16 12) ∧
    (let p := tPacket 0x445 0 0 0 3
     mapGet ((tNode 0 []).ctx 0).nodes (fld (byteFld p 32 4) 0 10) = none ∧ fld (byteFld p 32 4) 16 12 = 0 ∧
     mapGet ((tNode 0 [(3, ⟨.waiting, 1, 5, [], none⟩)]).ctx 0).nodes (fld (byteFld p 32 4) 0 10) = some ⟨.waiting, 1, 5, [], none⟩) := by
  refine ⟨fun op h => ?_, ?_⟩
  · rcases h with rfl | rfl | rfl | rfl | rfl <;> decide +kernel
  · and_intros <;> decide +kernel
/-- The host's writes: queue and core numbers, an injection at core 0's own word and outside every core. -/
def tHost (ix a b : Nat) (addr : Word) (f : Core → Core := id) : Machine.State :=
  let s := tCopy hd (fun k => f { k with cr := [(0x030, addr)] })
  { s with hand := { s.hand with arg := ⟨ix, a, b, []⟩ } }
theorem witness_HostAndDevice : (16383 < 16384 ∧ ((tHost 16383 0x105 0 0).queue 16383).st = .disabled) ∧
    (4143 < 4144 ∧ ((tHost 4143 0x105 0 0).core 4143).launch = 0) ∧
    ((tHost 0 0x105 0 0 (fun k => { k with launch := 1 })).core 0).launch ≠ 0 ∧
    ((tHost 0 0 0 0x48040).injectable 0 = true ∧ fld 0 9 1 = 0) ∧
    ((tHost 0 0 0 0x70000).injectable 0 = false ∧ (tHost 0 0 0 0x70000).me.cf 0x031 0 1 = 0) ∧
    ((tHost 63 0x20000000 7 0).hand.msg = none ∧ 0x20000000 % 8 = 0 ∧ 63 < 64 ∧ 63 ≠ 0 ∧ 0x20000000 < 0x20000000 + 0x1000 * 63) ∧
    ((tHost 63 0x2003F010 7 0).hand.arg.a % 8 = 0 ∧ 0x2003F010 = 0x20000000 + 0x1000 * 63 + 8 * 2) := by decide
theorem witness_HostAndDevice_scrub : (∀ b, b < 2 → (tHost 0 0x48040 b 0).injAt (0x48040 / poisonUnit 0x48040 * poisonUnit 0x48040) (poisonUnit 0x48040) = none ∧
      (tHost 0 0x48040 b 0).poisoned (0x48040 / poisonUnit 0x48040 * poisonUnit 0x48040) (poisonUnit 0x48040) = none ∧
      (tHost 0 0x48040 b 0).hand.arg.b = b) ∧
    (∀ n, n = 1 ∨ n = 2 → ({ tHost 0 0 0 0 with isl := { Island.reset with whBuf := List.replicate n (100, []) } } : Machine.State).isl.whBuf.length = n) ∧
    (tHost 0 0 0 0).handleSide 0 (BitVec.ofNat 64 0) 320 true = .ok (2 ^ 42 + 0x10000, 0) ∧ (tHost 0 0 0 0).isHere (2 ^ 42 + 0x10000) = true ∧
    spaceOf (2 ^ 42 + 0x10000) = 1 := by
  refine ⟨?_, ?_, by decide +kernel, by decide +kernel, by decide⟩
  · intro b h
    exact ⟨rfl, rfl, rfl⟩
  · intro n h
    rcases h with rfl | rfl <;> rfl
/-- A request that the host has not answered, of a core and of the device's engines. -/
def tTimeout : Machine.State :=
  let s := tAnswer (.load (tReq 0x48040))
  s
def tAsked : Machine.State := { tHost 0 0x48040 0 0 with asks := [⟨0x48040, 100⟩] }
theorem witness_HostAndDevice_timeout : tTimeout.hand.msg = some (.load (tReq 0x48040)) ∧
    tTimeout.me.ops.any (fun o => o.id == (tReq 0x48040).id) = true ∧ tAsked.hand.msg = none ∧
    tAsked.asks.any (fun q => q.phys == tAsked.hand.arg.a) = true := by decide

/-! The island, ports, collectives. -/

/-- The island in a state, endpoint `ix` in a state with its step, tries and CAUSE. -/
def tIsl (st : IslState) (es : EpState) (step tries ix a : Nat) : Machine.State :=
  let s := tCopy hd id
  { s with isl := { Island.reset with st := st, bootStep := 4 }, eps := [(ix, { Endpoint.reset with st := es, step := step, tries := tries })],
           hand := { s.hand with arg := ⟨ix, a, 0, []⟩ } }
theorem witness_IslandEvents :
    ((tIsl .active .active 0 0 7 0).isl.st = .active ∧ 7 < 8 ∧ ((tIsl .active .active 0 0 7 0).ep 7).st = .active ∧
      ((tIsl .active .active 0 0 7 0).ep 7).step = 0) ∧
    (8 ≤ (tIsl .active .active 0 0 8 0).hand.arg.ix ∧ (tIsl .boot .active 0 0 7 0).isl.st ≠ .active ∧ (tIsl .boot .active 0 0 7 0).isl.st ≠ .degraded) ∧
    (((tIsl .active .active 1 0 7 0).ep 7).step = 1) ∧ ((tIsl .active .orphaned 0 0 7 0).ep 7).st = .orphaned ∧
    ((tIsl .active .orphaned 0 0 7 0).ep 7).held = [] ∧ ((tIsl .active .absent 0 0 17 0).ep 17).st = .absent ∧ 17 < 18 ∧
    ((tIsl .active .reset 0 0 7 0).ep 7).st = .reset ∧
    (((tIsl .active .linkup 0 2 7 0).ep 7).st = .linkup ∧ 3 ≤ ((tIsl .active .linkup 0 2 7 0).ep 7).tries + 1 ∧
      ((tIsl .active .linkup 0 1 7 0).ep 7).tries + 1 < 3) ∧
    (tIsl .degraded .active 0 0 7 0).isl.st = .degraded ∧ (tIsl .off .absent 0 0 7 0).isl.st = .off ∧
    ((∀ i, i < 18 → ((tIsl .active .absent 0 0 7 0).ep i).st = .absent)) ∧ ((tIsl .active .active 0 0 0 0).ep 0).st = .active := by decide
theorem witness_IslandEvents_go : (tIsl .boot .active 0 0 7 0x2083).isl.st = .boot ∧ (tIsl .boot .active 0 0 7 0x2083).isl.bootStep = 4 ∧
    (tIsl .boot .active 0 0 7 0x2083).isl.bootErr = 0 ∧ fld (tIsl .boot .active 0 0 7 0x2083).isl.torus 0 7 ≤ 95 ∧
    (let s := tIsl .boot .active 0 0 7 0x2083
     ({ s with free := s.free + 1 }.modIsl (fun i => { i with coord := s.hand.arg.a % 2 ^ 20 })).chipInstalled (chipField s.hand.arg.a) = true) := by
  decide
/-- Port `ix` in a state with its tries. -/
def tPort (st : PortState) (tries ix a b : Nat) : Machine.State :=
  let s := tIsl .active .active 0 0 0 0
  { s with ports := [(ix, { Port.reset with st := st, tries := tries, recvSeq := 1 })], hand := { s.hand with arg := ⟨ix, a, b, []⟩ } }
theorem witness_PortEvents :
    (5 < 6 ∧ ((tPort .down 0 5 0 0).port 5).st = .down ∧ (tPort .down 0 5 0 0).isl.st = .active) ∧ ((tPort .training 0 5 0 0).port 5).st = .training ∧
    (((tPort .active 0 5 0 0).port 5).st = .active ∧ mapGet (tPort .active 0 5 0 0).isl.freq (portSocket 5) = none) ∧
    (let q := (tPort .training 0 5 8 0x0101).port 5
     max q.vmin (fld 0x0101 0 8) ≤ min q.vmax (fld 0x0101 8 8) ∧ 8 ≤ (tPort .training 0 5 8 0x0101).hand.arg.a ∧ q.widthReq ≠ 2 ∧
       q.widthReq ≠ 3 ∧ q.freqHeld = none ∧ q.replay = [] ∧ min q.vmax (fld 0x0000 8 8) < max q.vmin (fld 0x0000 0 8)) ∧
    (3 ≤ ((tPort .training 2 5 0 0).port 5).tries + 1 ∧ ((tPort .training 1 5 0 0).port 5).tries + 1 < 3) ∧
    ((tPort .degraded 0 5 0 0).port 5).st = .degraded ∧ ((tPort .retrain 0 5 8 0).port 5).st = .retrain ∧
    ((tPort .widthChange 0 5 8 0).port 5).st = .widthChange ∧
    (15 < 16 ∧ ∀ c, c ∈ (tPort .active 0 15 0 0).socketCores 15 → ((tPort .active 0 15 0 0).core c).launch = 0) ∧
    ((tPort .active 0 5 9 0).port 5).again.1 ≠ (tPort .active 0 5 9 0).hand.arg.a ∧ 7 < 8 := by decide
/-- A FREQ in progress, and a flit in its turn. -/
def tFreq : Machine.State :=
  let s := tPort .active 0 5 0 0
  { s with isl := { s.isl with freq := [(5, 65536 * 90 + 1000)] } }
def tFlit : Machine.State :=
  let s := tPort .active 0 5 0 0
  { s with hand := { s.hand with arg := ⟨5, 0, 0, zeros 248 ++ leBytes 4 (crc32c (zeros 248)) ++ leBytes 4 0⟩ } }
theorem witness_PortEvents_flit : mapGet tFreq.isl.freq tFreq.hand.arg.ix = some (65536 * 90 + 1000) ∧
    (tFlit.port tFlit.hand.arg.ix).st = .active ∧ tFlit.hand.arg.b = 0 ∧ tFlit.hand.arg.bytes.length = 256 ∧
    leNat (tFlit.hand.arg.bytes.drop 252) = ((tFlit.port tFlit.hand.arg.ix).recvSeq + 2 ^ 32 - 1) % 2 ^ 32 ∧
    leNat ((tFlit.hand.arg.bytes.drop 248).take 4) = crc32c (tFlit.hand.arg.bytes.take 248) ∧
    fld (leNat ((tFlit.hand.arg.bytes.take 248).take 8)) 56 8 = 0 := by
  and_intros <;> decide +kernel
/-- Entry 2: home die 0, F32, two blocks, this package alone. -/
def tColl (en : Bool) (a b : Nat) (bytes : List Byte) (shards : List Shard) : Machine.State :=
  let s := tIsl .active .active 0 0 0 0
  { s with colls := [(2, { Coll.reset with ctl := BitVec.ofNat 64 (2 * 2 ^ 32 + 2 * 256 + if en then 1 else 0), shards := shards })],
           hand := { s.hand with arg := ⟨2, a, b, bytes⟩ } }
theorem witness_CollectiveEvents :
    (let s := tColl false (2 * 2 ^ 32 + 2 * 256) 0 [] []
     let e := s.coll 2
     let w := setFld (setFld (setFld s.hand.arg.a 0 1 1) 12 20 0) 1 3 0
     e.en = false ∧ fld w 4 4 ≤ 5 ∧ fld w 8 4 ≠ 0 ∧ fld w 8 4 ≤ 3 ∧
       ({ Coll.reset with ctl := BitVec.ofNat 64 w, box := e.box, shot := e.shot } : Coll).boxOk s.isl.coord = true) ∧
    (let s := tColl true 1 0 (zeros 256) []
     let e := s.coll s.hand.arg.ix
     e.en = true ∧ e.broken = false ∧ e.missing = false ∧ s.hand.arg.a < e.nblk ∧ e.nblk = 2 ∧ e.chips.contains s.hand.arg.b = true ∧
       e.lacks s.hand.arg.a s.hand.arg.b = true ∧ s.hand.arg.bytes.length = 256 ∧ e.chips = [s.isl.coord]) ∧
    (let s := tColl true 1 0 [] [⟨1, 0, 0, 0⟩]
     (s.coll 2).nextShard s.hand.arg.a = some ⟨1, 0, 0, 0⟩ ∧ s.shardReady 2 s.hand.arg.a = true ∧ s.hand.arg.bytes.length ≠ 256) ∧
    (let s := tColl true 1 3 [] []
     (s.coll 2).en = true ∧ s.hand.arg.b ≠ s.isl.coord) := by
  and_intros <;> decide +kernel

/-! Encoding and the machine. -/

theorem witness_DecodeOfEncode : wellFormed hd (.add 63 63 (.reg 63)) = true ∧ ∃ w, encode hd (.add 63 63 (.reg 63)) = some w :=
  ⟨by decide, _, rfl⟩
theorem witness_EncodeOfDecode : 0x3500_0001_40D2_3456_7800_F000 < 2 ^ 96 ∧
    reservedOpcode (Raw.ofNat 0x3500_0001_40D2_3456_7800_F000).op = false ∧
    ¬(((Raw.ofNat 0x3500_0001_40D2_3456_7800_F000).op = 0x70 ∨ (Raw.ofNat 0x3500_0001_40D2_3456_7800_F000).op = 0x71) ∧
      (Raw.ofNat 0x3500_0001_40D2_3456_7800_F000).b = 32769) ∧
    ∃ h i, decode 0x3500_0001_40D2_3456_7800_F000 = .ok (h, i) := ⟨by decide, by decide, by decide, _, _, rfl⟩
theorem witness_ReservedOpcodes : reservedOpcode 0xFF = true ∧ 0xFF < 256 ∧ 2 ^ 88 - 1 < 2 ^ 88 ∧
    (tS ⟨.always, 0, some 0, 0, false, false⟩ .nop).head = ⟨.always, 0, some 0, 0, false, false⟩ := by decide
/-- ADD with g63 as destination, as A and as B, and a load through g63. -/
theorem witness_UserPrivilege : ∀ i, i = Instr.add 63 5 (.reg 6) ∨ i = .add 5 63 (.reg 6) ∨ i = .add 5 6 (.reg 63) ∨ i = .ld .b8 false 5 ⟨63, false, 0⟩ →
    ∃ w x, encode hd i = some w ∧ decodeWith ⟨none, false, false⟩ w = .ok x ∧ reservedOpcode (Raw.ofNat w).op = false ∧
      ((Raw.ofNat w).d = 63 * 32 ∨ ((Raw.ofNat w).a = 63 * 32 ∨ (Raw.ofNat w).a / 256 = 64 + 63) ∨
        ((Raw.ofNat w).b = 63 * 32 ∧ (Raw.ofNat w).a / 2 ^ 14 ≠ 3)) := by
  intro i h
  rcases h with rfl | rfl | rfl | rfl <;> exact ⟨_, _, rfl, rfl, by decide +kernel, by decide +kernel⟩
theorem witness_HardwiredRegisters : (63 : GReg) ≠ 0 ∧ (14 : QReg) ≠ 15 := by decide
theorem witness_FalseGuard : wellFormed (tS { hd with guard := .ifQ 3, set := some 1 } .nop).head (.add 9 5 (.reg 6)) = true ∧
    (opcodeOf (.add 9 5 (.reg 6))).isSome = true ∧
    (tS { hd with guard := .ifQ 3, set := some 1 } .nop).me.guardOk (tS { hd with guard := .ifQ 3, set := some 1 } .nop).head.guard = false := by
  decide
/-- The machine at a word at PC 7 of core 0's instruction SRAM, with nothing in hand. -/
def tAt (w : Nat) (f : Core → Core := id) : Machine.State :=
  let s := tS hd .nop f
  { s with mem := memWrite [] (coreKey 0 (0x60000 + 12 * 7)) (bytesOfWord 12 w), hand := Hand.empty,
           eps := (List.range 18).map (fun (i : Nat) => (i, { Endpoint.reset with st := .active })) }
/-- ADD g9, g5, g6; the same with a delay of 3; and NOP. -/
def wAdd : Nat := (encode hd (.add 9 5 (.reg 6))).getD 0
def wAdd3 : Nat := (encode { hd with delay := 3 } (.add 9 5 (.reg 6))).getD 0
def wNop : Nat := (encode hd .nop).getD 0
theorem turn_of (w : Nat) (f : Core → Core) (h : (firstOf [inputStep, msgStep, eachCore clockStep, islandStep, bootStep, eachOf (List.range 18) epStep,
    eachOf (List.range 6) portStep, eachOf (List.range 16) collStep, eachCtx invalStep, eachCtx ctxStep, eachLaunch, queueStep,
    eachCore engineStep, (fun s => s.pops.findSome? (popStepOf s)), eachCore migrStep, eachCore landStep, eachCore pwaitStep,
    barStep] (tAt w f)).isNone ∧ (deliverStep (tAt w f) 0).isNone ∧ (gmmaStep (tAt w f) 0).isNone ∧ ((tAt w f).core 0).live = true ∧
    ((tAt w f).core 0).late = [] ∧ (tAt w f).frozen 0 = false) : (tAt w f).Turn 0 where
  before := Option.isNone_iff_eq_none.mp h.1
  cores := ⟨[], _, [], rfl, fun _ h => by cases h⟩
  events := Option.isNone_iff_eq_none.mp h.2.1
  gang := Option.isNone_iff_eq_none.mp h.2.2.1
  live := h.2.2.2.1
  late := h.2.2.2.2.1
  frozen := h.2.2.2.2.2
theorem turn_tAt (w : Nat) (hw : w = wAdd ∨ w = wAdd3 ∨ w = wNop) : (tAt w).Turn 0 := by
  rcases hw with rfl | rfl | rfl <;> exact turn_of _ _ (by decide +kernel)
theorem witness_StepRunsDecoded (w : Nat) (h : Head) (i : Instr)
    (hw : (w = wAdd ∧ h = hd ∧ i = .add 9 5 (.reg 6)) ∨ (w = wAdd3 ∧ h = { hd with delay := 3 } ∧ i = .add 9 5 (.reg 6)) ∨
      (w = wNop ∧ h = hd ∧ i = .nop)) : (tAt w).AtWord 0 w h i := by
  have ht : (tAt w).Turn 0 := turn_tAt w (by rcases hw with h | h | h <;> simp [h.1])
  rcases hw with ⟨rfl, rfl, rfl⟩ | ⟨rfl, rfl, rfl⟩ | ⟨rfl, rfl, rfl⟩ <;>
    (constructor <;> first | exact ht | decide +kernel | exact ⟨rfl, fun p hp => by cases List.mem_singleton.mp hp; decide +kernel⟩)
theorem witness_StepRunsDecoded_columns : colOfOp ((opcodeOf .nop).getD 0) = none ∧
    (∃ col, colOfOp ((opcodeOf (.add 9 5 (.reg 6))).getD 0) = some col ∧ col ≠ colP ∧ ((tAt wAdd).core 0).free col ≤ ((tAt wAdd).core 0).vcc ∧
      mapGet ((tAt wAdd).core 0).colHold col = none) ∧ hd.delay = 0 ∧ hd.wait = 0 ∧ 0 < ({ hd with delay := 3 } : Head).delay ∧
    ((tAt wAdd).core 0).queues = [] ∧ ((tAt wAdd).core 0).held = none ∧ ((tAt wAdd).core 0).trapAt = none ∧ ((tAt wAdd).core 0).late = [] := by
  refine ⟨by decide, ⟨_, rfl, by decide, by decide +kernel, by decide +kernel⟩, ?_⟩
  and_intros <;> decide +kernel
/-- An S instruction that is held and ready; a column instruction that may issue. -/
def tHeld : Machine.State :=
  tAt wNop (fun k => { k with held := some ⟨⟨5, 7, hd, .nop, 40, 0, none⟩, .ready, 0, 0, 0, some 40⟩ })
def tQueued : Machine.State :=
  tAt wNop (fun k => { k with queues := [(colI, [⟨5, 7, hd, .add 9 5 (.reg 6), 40, 0, none⟩])], seqAt := 50 })
theorem witness_StepRunsDecoded_held : tHeld.Turn 0 ∧
    (tHeld.core 0).held = some ⟨⟨5, 7, hd, .nop, 40, 0, none⟩, .ready, 0, 0, 0, some 40⟩ ∧ 40 ≤ (tHeld.core 0).vcc ∧
    (tHeld.core 0).waitMet 5 hd.wait = true ∧ (tHeld.core 0).vcc ≤ 40 :=
  ⟨turn_of _ _ (by decide +kernel), by and_intros <;> decide +kernel⟩
theorem witness_StepRunsDecoded_queued : tQueued.Turn 0 ∧ tQueued.seqStep 0 = none ∧ colI ∈ columnOrder ∧
    (∀ x, x ∈ columnOrder → x ≠ colI → (tQueued.core 0).queueOf x = []) ∧
    (tQueued.core 0).issuable colI = some ⟨5, 7, hd, .add 9 5 (.reg 6), 40, 0, none⟩ ∧
    (tQueued.core 0).vcc ≤ 40 + mapGetD (tQueued.core 0).slack colI 0 :=
  ⟨turn_of _ _ (by decide +kernel), by and_intros <;> decide +kernel⟩
theorem witness_MemoryStaysCanonical : memWf (tAt wAdd).mem = true ∧ ∃ t, step (tAt wAdd) = .next t := ⟨by decide +kernel, _, rfl⟩

/-! ## Further clauses, each at an edge of its hypotheses -/

/-- Core 0 at TBLK in a clk before or after its block's START; the same launch on two dies, die 0 with a report or without one. -/
def tTimedAt (v pc : Nat) : Machine.State := (tTimed none pc).modMe (fun k => { k with vcc := v })
def tTwoDies (reported : Bool) : Machine.State :=
  { tTimed none 7 with launches := [(1, { tLaunch with cores := [0, 512], units := 2, realign := if reported then [(0, 9)] else [] })] }
theorem witness_BlocksAndBudgets_late : (tTimedAt 41 7).Runs ∧ (tTimedAt 41 7).me.block = none ∧ (tTimedAt 41 7).timedLaunch 0 = true ∧
    (tTimedAt 41 7).blockOf 0 3 = some ⟨3, 40, 7, 9, true⟩ ∧ (tTimedAt 41 7).ent.pc = 7 ∧ 40 < (tTimedAt 41 7).me.vcc ∧
    (tTimedAt 39 7).Runs ∧ (tTimedAt 39 7).me.block = none ∧ (tTimedAt 39 7).timedLaunch 0 = true ∧
    (tTimedAt 39 7).blockOf 0 3 = some ⟨3, 40, 7, 9, true⟩ ∧ (tTimedAt 39 7).ent.pc = 7 ∧ (tTimedAt 39 7).me.vcc < 40 := by
  and_intros <;> first | decide +kernel | rfl
theorem witness_BlocksAndBudgets_place : (tTimed none 8).Runs ∧ (tTimed none 8).me.block = none ∧ (tTimed none 8).timedLaunch 0 = true ∧
    (∀ y, (tTimed none 8).blockOf 0 3 = some y → y.tblk ≠ (tTimed none 8).ent.pc) ∧
    (tTimed (some (3, true)) 8).Runs ∧ (tTimed (some (3, true)) 8).me.block = some (3, true) ∧
    (∀ y, (tTimed (some (3, true)) 8).blockOf 0 3 = some y → y.tend ≠ (tTimed (some (3, true)) 8).ent.pc) := by
  refine ⟨rfl, rfl, by decide, ?_, rfl, rfl, ?_⟩ <;> (intro y h; injection h with h; subst h; decide)
theorem witness_BlocksAndBudgets_realign : (∀ l, (tTimed none 7).launch (tTimed none 7).me.launch = some l → l.image.timed = false ∨ l.dies.length < 2) ∧
    ∀ b, (tTwoDies b).Runs ∧ ∃ l, (tTwoDies b).launch (tTwoDies b).me.launch = some l ∧ l.image.timed = true ∧ 2 ≤ l.dies.length ∧
      (if b = true then (mapGet l.realign (dieOf 0)).isSome = true else mapGet l.realign (dieOf 0) = none) := by
  refine ⟨fun l h => ?_, fun b => ?_⟩
  · injection h with h; subst h; decide
  · cases b <;> exact ⟨rfl, _, rfl, by decide, by decide, by decide⟩
theorem witness_BlocksAndBudgets_rgn : t0.Runs ∧ t0.me.block = none ∧
    (let u := t0.coreRead 0 (coreKey 0 (0x60000 + 16 * 2047)) 16 (0x60000 + 16 * 2047) 3
     let field (at_ m : Nat) : Nat := leNat ((u.memLoad (coreKey 0 (0x60000 + 16 * 2047)) 16).drop at_ |>.take m)
     field 14 2 = 0 ∧ field 12 1 < 16 ∧ field 13 1 < 4) ∧
    (∀ p, p ∈ t0.me.streams → (0 : Nat).testBit (24 + p.1) = false) := by
  refine ⟨rfl, rfl, by decide +kernel, by decide⟩

/-- Capabilities relative to core 0 of a rectangle of two rows: g10 resolves to core 0's range, g14 to row 2, which a
capability without REMOTE may not reach; g15 is sealed with 5. -/
def tRel : Machine.State :=
  tS hd .nop (fun k => { k with
    cr := [(0x014, 0x202000)],
    g := [(3, ⟨0xFFFFFFFFFFFFFFFF#64, 0, false⟩), (4, ⟨0, 0, false⟩), (5, ⟨7, 0, false⟩), (10, tCap 0xFFF 0x100048040 0x40 0x1000 0),
          (14, tCap 0xFDF (0x100048040 + 2 ^ 34) 0x40 0x1000 0), (15, tCap 0xFD6 0x100048040 0x40 0x1000 5)] })
theorem witness_CapabilityResults_seals : tRel.Runs ∧
    ((tRel.me.rg 15).tag = true ∧ mdSeal (tRel.me.rg 15).md ≠ 0) ∧
    ((tRel.me.rg 5).tag = false ∧ mdHas (tRel.me.rg 5).md pREL = false) ∧
    ((t0.me.rg 10).tag = true ∧ mdSeal (t0.me.rg 10).md = 0 ∧ capValid (t0.me.rg 10).val (t0.me.rg 10).md = true) ∧
    (∀ g, g ≤ 44 → ¬ (((t0.me.rg 10).val.toNat + (t0.me.gimm (.reg 3)).toNat + 2 ^ g - 1) / 2 ^ g * 2 ^ g -
      (t0.me.rg 10).val.toNat / 2 ^ g * 2 ^ g ≤ (2 ^ 20 - 1) * 2 ^ g)) := by
  refine ⟨rfl, by decide, by decide, by decide, by decide +kernel⟩
theorem witness_CapabilityResults_rel : ((tRel.me.rg 10).tag = true ∧ mdSeal (tRel.me.rg 10).md = 0 ∧
    capValid (tRel.me.rg 10).val (tRel.me.rg 10).md = true ∧ mdHas (tRel.me.rg 10).md pREL = true ∧
    tRel.relResolve (tRel.me.rg 10) (tRel.me.rgv 10).toNat = some 0x48040 ∧ 0x48040 < 2 ^ 64) ∧
    ((tRel.me.rg 14).tag = true ∧ mdSeal (tRel.me.rg 14).md = 0 ∧ capValid (tRel.me.rg 14).val (tRel.me.rg 14).md = true ∧
      mdHas (tRel.me.rg 14).md pREL = true ∧ tRel.relResolve (tRel.me.rg 14) (tRel.me.rgv 14).toNat = none) := by
  decide +kernel
theorem witness_CapabilityReads_seals : ((t0.me.rg 10).tag = true ∧ mdSeal (t0.me.rg 10).md = 0 ∧ t0.me.priv = true) ∧
    (∀ k : Int, k = 2 ∨ k = 31 → 2 ≤ k ∧ k < 32 ∧ (k ≤ 15 → t0.me.priv = true)) ∧
    ((tRel.me.rg 15).tag = true ∧ (mdSeal (tRel.me.rg 15).md : Int) = 5 ∧ tRel.me.priv = true) := by
  refine ⟨by decide, fun k h => ?_, by decide⟩
  rcases h with rfl | rfl <;> decide

/-- A context in a state with core 0 of one of its launches, and an input with the fields a and b. -/
def tCtxAB (st : CtxState) (u : UnitState) (a b : Nat) : Machine.State :=
  let s := tCtx st u
  { s with hand := { s.hand with arg := ⟨0, a, b, []⟩ } }
theorem witness_ContextLife_states : (∀ p, p ∈ (tCtx .building .ready).cores → p.2.ctx = some 0 →
      p.2.unit = .ready ∨ p.2.unit = .running ∨ p.2.unit = .preempted ∨ p.2.unit = .done) ∧
    ((tCtxAB .running .running 0 1).hand.arg.b = 1 ∧ ((tCtxAB .running .running 0 1).ctx 0).st = .running ∧
      ((tCtxAB .running .running 0 1).core 0).ctx = some 0 ∧ ((tCtxAB .running .running 0 1).core 0).unit = .running ∧
      ((tCtxAB .running .running 0 1).core 0).pend.preempt = false ∧ ((tCtxAB .running .running 0 1).core 0).saving = 0) ∧
    ((tCtx .running .running).hand.arg.b ≠ 1 ∧ (tCtx .running .running).me.ctx = some 0) ∧
    (((tCtx .preempting .running).ctx 0).st = .preempting ∧ ((tCtx .preempting .running).core 0).ctx = some 0 ∧
      ((tCtx .preempting .running).core 0).launch ≠ 0) ∧
    ((tCtx .faulted .faulted).hand.arg.b ≠ 1 ∧ ((tCtx .faulted .faulted).ctx 0).st = .faulted ∧
      (tCtx .faulted .faulted).ctxCores 0 = [0] ∧ ((tCtx .faulted .faulted).core 0).unit = .faulted) ∧
    (((tCtx .draining .ready).ctx 0).st = .draining ∧ memWf (tCtx .draining .ready).mem = true ∧
      ((tCtx .draining .ready).core 0).ctx = some 0) := by
  decide
/-- The ring holds a launch packet whose descriptor handle is out of range. -/
def tRingBad : Machine.State :=
  let s := tQs .running (tCtl 0 0 0) none 0 []
  { s with mem := [(hbmKey 2, 1), (hbmKey 5, 4), (hbmKey 10, 1), (hbmKey 13, 7), (hbmKey 0x10008, 0x46), (hbmKey 0x10017, 0x70)] }
def tBadPacket : List Byte := [0x46] ++ List.replicate 14 0 ++ [0x70] ++ List.replicate 32 0
theorem witness_QueueEvents_handle : tRingBad.setQueue 5 { tRingBad.queue 5 with st := .running } = tRingBad ∧
    tRingBad.headFetch 5 = some (.here tBadPacket, []) ∧ (tRingBad.queue 5).own = some 0 ∧ headBad (pkHead tBadPacket) = false ∧
    packetBad tBadPacket = false ∧ pkType (pkHead tBadPacket) ≠ 3 ∧ tRingBad.wordOk 0 (byteFld tBadPacket 8 8) 128 false = false := by
  and_intros <;> decide +kernel
theorem witness_StopsAndDumps_dump : (∀ st, st = CtxState.running ∨ st = .faulted ∨ st = .suspended → ((tCtx st .running).ctx 0).st = st ∧
      ((tCtx st .running).core 0).ctx = some 0 ∧ ((tCtx st .running).core 0).launch ≠ 0 ∧ ((tCtx st .running).core 0).unit = .running ∧
      ((tCtx st .running).core 0).dbg.stopped = false) ∧
    ((tCtx .dumping .running).ctx 0).st = .dumping := by
  refine ⟨fun st h => ?_, by decide⟩
  rcases h with rfl | rfl | rfl <;> decide
/-- The whistle enabled or not; tracing on, with the instruction in hand in the window of commits. -/
def tWhistle (on : Bool) : Machine.State := { t0 with isl := { t0.isl with whCtl := if on then 1 else 0 } }
def tTraced : Machine.State :=
  tS hd .nop (fun k => { k with rob := [⟨5, 7, .nop, false, 0, 0, none, false, none, none, [], none⟩],
                                dbg := { k.dbg with traceCtl := 1 } })
theorem witness_ControlRegisters_whistle : ((tWhistle true).Runs ∧ fld (tWhistle true).isl.whCtl.toNat 0 1 = 1 ∧ (tWhistle true).isl.whReq = none) ∧
    ((tWhistle false).Runs ∧ fld (tWhistle false).isl.whCtl.toNat 0 1 = 0) ∧ (tTraced.Runs ∧ traceOn tTraced.me = true ∧
      ∃ r, r ∈ tTraced.me.rob ∧ r.serial = tTraced.ent.serial) ∧
    ((0x00D : CReg).val = 0x00D ∧ ((63 : CReg).val ≠ 0x00D ∧ t0.me.priv = true) ∧
      ((0 : CReg).val ≠ 0x00D ∧ ¬ (tUser.me.priv = true ∨ (0 : CReg).val ∈ [0x010, 0x013]))) :=
  ⟨⟨rfl, by decide, rfl⟩, ⟨rfl, by decide⟩, ⟨rfl, by decide, _, List.mem_cons_self, rfl⟩, by decide⟩
/-- A store of three bytes that lands. -/
def tStore1 : Machine.State :=
  { tLand (.st 0x48040 [1, 2, 3] none false) with hand := { (tLand .none).hand with arg := ⟨1, 0, 0, []⟩ } }
theorem witness_CoreEvents_landings : (∀ w, w = Wr.g 9 ⟨7, 0, false⟩ ∨ w = .g 0 ⟨7, 0, false⟩ ∨ w = .q 3 true ∨ w = .q 15 false ∨
      w = .vPut 2 ⟨0, .f16, none⟩ → (tLand w).hand.arg.ix = 0 ∧ (tLand w).me.nextLanding = some ⟨40, 5, w, some 1, false⟩) ∧
    (tStore1.hand.arg.ix = 1 ∧ tStore1.me.nextStore = some ⟨40, 5, .st 0x48040 [1, 2, 3] none false, some 1, false⟩ ∧ tStore1.owners = []) ∧
    ((tOp (.atomic 9 ⟨7, 0, false⟩ false)).hand.msg = none ∧ (tOp (.atomic 9 ⟨7, 0, false⟩ false)).me.ops.find?
      (fun a => a.id == (tOp (.atomic 9 ⟨7, 0, false⟩ false)).hand.arg.ix) = some ⟨4, 5, .atomic 9 ⟨7, 0, false⟩ false, some 1, some 100, 0, 0⟩) := by
  refine ⟨fun w h => ?_, by decide, rfl, rfl⟩
  rcases h with rfl | rfl | rfl | rfl | rfl <;> exact ⟨rfl, rfl⟩
/-- The slice's B comes from a table of 8 blocks; a core that does not exist; RECV in a strict block from an empty queue. -/
def tBz : Machine.State := (tSlice 8 .f8 .f32).modMe (fun k => { k with slice := { k.slice with bz := true } })
theorem witness_TensorOperations_blocks : tBz.Runs ∧ tBz.lines = [] ∧ tBz.me.freeLock = some 0 ∧ tBz.me.slice.kcfg = 8 ∧ tBz.me.slice.bz = true ∧
    ∃ vs, tBz.tensorReach (tBz.me.rg 10) 10 (tBz.me.memAddr ⟨10, false, 0⟩ 128) 0 [(tBz.me.memAddr ⟨10, false, 0⟩ 128, tableBytes 8)] = .ok vs ∧
      tBz.footTrap (tBz.footprint (vs.zip [tableBytes 8])) = none :=
  ⟨rfl, rfl, by decide, rfl, rfl, _, rfl, by decide +kernel⟩
def tNoCore (b : MsgBody) : Machine.State :=
  let s := tHome b
  { s with hand := { s.hand with core := 4200 } }
theorem witness_RemoteMemory_missing : ∀ b, b = MsgBody.load (tReq 0x48040) ∨ b = .store (tReq 0x48040) [1] none ∨
    b = .atomic (tReq 0x48040) .add 0 0 → coreExists (tNoCore b).hand.core = false ∧ (tNoCore b).hand.msg = some b ∧
      coreExists (tHome b).hand.core = true := by
  intro b h
  rcases h with rfl | rfl | rfl <;> exact ⟨by decide, rfl, by decide⟩
def tRecvLate : Machine.State :=
  let s := tDesc 0 []
  { s with hand := { s.hand with entry := { s.hand.entry with block := some (3, true) } } }
theorem witness_CopyControl_late : tRecvLate.Runs ∧ (tRecvLate.me.recvQ 2).popped < 16 ∧
    (tRecvLate.me.recvQ 2).vecs[(tRecvLate.me.recvQ 2).popped]? = none ∧ tRecvLate.ent.block.map (·.2) = some true := ⟨rfl, by decide⟩
/-- A word at a loop's END whose exit register is still to be written; a branch there skips the test. -/
def tLoopBusy : Machine.State :=
  tS hd .nop (fun k => { k with loops := [⟨3, 7, 2, some 3⟩], qWriters := [(4, (3, 0))] })
theorem witness_StepRunsDecoded_busy : tLoopBusy.me.endTestBusy = true ∧ mayRedirect (.b 5) = true ∧
    tLoopBusy.me.redirects tLoopBusy.clk hd (.b 5) = true ∧ mayRedirect .nop = false := by decide

/-- R122, R141: a handle id goes into the immediate that a word leaves for it: operand B of this word, a joined immediate in the next. -/
theorem test_handle_fill : wordFilled (0x8000 * 2 ^ 24) 8191 = some (0x9FFF * 2 ^ 24) ∧ wordFilled (0x8000 * 2 ^ 24) 8192 = none ∧
    wordFilled (0xC000 * 2 ^ 40) 0x4002_0003 = some (0xC002 * 2 ^ 40 + 0x0003 * 2 ^ 24 + 1) := by decide

end Sys2Proof.Tests
end

section
/-! Proofs about the control registers, TRACE and SMPL (R5, R72, R75, R305, R460). -/

namespace Sys2Proof.Machine

/-! ## What the sequencer and a program do not tell apart -/

/-- Two cores with the same registers, virtual clock, results in flight and slot counters. -/
structure Core.Alike (k k' : Core) : Prop where
  regs : k.SameRegs k'
  q : k'.q = k.q
  vcc : k'.vcc = k.vcc
  landings : k'.landings = k.landings
  slots : k'.slots = k.slots

theorem Core.Alike.trans {a b c : Core} (h : a.Alike b) (h' : b.Alike c) : a.Alike c where
  regs := h.regs.trans h'.regs
  q := h'.q.trans h.q
  vcc := h'.vcc.trans h.vcc
  landings := h'.landings.trans h.landings
  slots := h'.slots.trans h.slots

theorem Core.Alike.refl (k : Core) : k.Alike k := ⟨.refl k, rfl, rfl, rfl, rfl⟩

theorem Core.alike_modRob (k : Core) (n : Nat) (f : Rob → Rob) : k.Alike (k.modRob n f) :=
  ⟨Core.sameRegs_of rfl rfl rfl rfl rfl rfl rfl rfl rfl rfl rfl rfl rfl, rfl, rfl, rfl, rfl⟩

theorem Core.alike_crAt (k : Core) (x : Nat) : k.Alike { k with crAt := x } :=
  ⟨Core.sameRegs_of rfl rfl rfl rfl rfl rfl rfl rfl rfl rfl rfl rfl rfl, rfl, rfl, rfl, rfl⟩

theorem Core.SameRegs.withLoops {k k' : Core} (h : k.SameRegs k') (l : List LoopEntry) :
    (k.withLoops l).SameRegs (k'.withLoops l) where
  g := h.g
  q := h.q
  v := h.v
  acc := h.acc
  streams := h.streams
  cr := h.cr
  flags := h.flags
  priv := h.priv
  loops := rfl
  trapLoops := h.trapLoops
  region := h.region
  slice := h.slice
  rqs := h.rqs

/-- What finishes after a change that leaves the core alike has finished without it. -/
theorem State.Finished.of_modMe {s t : State} {f : Core → Core} {ws : List Wr} (h : (s.modMe f).Finished t ws)
    (hf : s.me.Alike (f s.me)) : s.Finished t ws := by
  obtain ⟨hregs, hq, hvcc, hland, hslots⟩ := hf
  obtain ⟨hpc, hseq, hloops⟩ := Core.advance_congr hq hregs.loops hvcc s.ent.pc
  constructor
  case lands => simpa [hvcc] using h.lands
  case only => simpa [hvcc, hland] using h.only
  case held => exact h.held
  case pc => exact (by simpa using h.pc : t.me.pc = _).trans hpc
  case resumes => exact (by simpa using h.resumes : t.me.seqAt = _).trans hseq
  case loops => exact (by simpa using h.loops : t.me.loops = _).trans hloops
  case slots => simpa [Core.slot, hslots] using h.slots
  case mem => exact (s.sameMem_modMe f).trans h.mem
  case regs => exact (hregs.withLoops _).trans (by simpa using h.regs)
  case others => exact fun c hc => (h.others c hc).trans (s.core_modMe_ne f hc)

theorem State.finished_sDone_modMe {s : State} {f : Core → Core} (ws : List Wr) (hf : s.me.Alike (f s.me)) :
    s.Finished ((s.modMe f).sDone ws) ws :=
  ((s.modMe f).finished_sDone ws).of_modMe hf

/-! ## What waits for the commit of the instruction in hand -/

theorem Core.mem_rob_modRob {k : Core} {n : Nat} {f : Rob → Rob} {r : Rob} (h : r ∈ (k.modRob n f).rob) (hn : r.serial = n) :
    ∃ q, q ∈ k.rob ∧ q.serial = n ∧ r = f q := by
  obtain ⟨q, hq, rfl⟩ := List.mem_map.1 h
  by_cases hs : q.serial = n
  · exact ⟨q, hq, hs, by simp [hs]⟩
  · simp [hs] at hn

theorem State.rob_sDone_nil (s : State) : (s.sDone []).me.rob = (s.me.finish s.ent.serial).rob := by
  simp [State.sDone, State.sFinish, Core.finish, Core.modRob]

/-- The entry of an S instruction without results, after a change of that entry. -/
theorem State.entry_sDone_modRob {s : State} {g : Core → Core} {f : Rob → Rob} {r : Rob} (hg : (g s.me).rob = s.me.rob)
    (h : r ∈ ((s.modMe (fun k => (g k).modRob s.ent.serial f)).sDone []).me.rob) (hn : r.serial = s.ent.serial) :
    ∃ q, q ∈ s.me.rob ∧ r = { f q with done := true } := by
  rw [State.rob_sDone_nil, State.me_modMe] at h
  obtain ⟨q, hq, hqn, rfl⟩ := Core.mem_rob_modRob h hn
  obtain ⟨p, hp, -, rfl⟩ := Core.mem_rob_modRob hq hqn
  exact ⟨p, hg ▸ hp, rfl⟩

/-! ## Reads and writes of a control register -/

theorem State.core_crUsed (s : State) : s.crUsed.core s.hand.core = { s.me with crAt := s.clk + 1 } :=
  s.me_modMe _

theorem State.crWr_crUsed (s : State) (n rw clr : Nat) : s.crUsed.crWr s.hand.core n rw clr = s.crWr s.hand.core n rw clr := by
  simp only [State.crWr, State.injectable, State.core_crUsed]; rfl

theorem crUser_iff {n : Nat} (h : n ≠ 0x00D) : crUser n = true ↔ n ∈ [0x010, 0x013] := by
  simp [crUser, h]

/-- An update of FLAGS (R75): nothing is written, and the bits to clear wait for the commit. -/
theorem State.crUpdate_flags (s : State) {n : CReg} (hn : n.val = 0x00D) (rw clr : Nat) :
    s.Finished (s.crUpdate n rw clr) [] ∧ ∀ r, r ∈ (s.crUpdate n rw clr).me.rob → r.serial = s.ent.serial →
      ∃ q, q ∈ s.me.rob ∧ r.clear = q.clear ||| (clr &&& 0x7F) := by
  have e : s.crUpdate n rw clr = (s.modMe (fun k => ({ k with crAt := s.clk + 1 } : Core).modRob s.ent.serial
      (fun r => { r with clear := r.clear ||| (clr &&& 0x7F) }))).sDone [] := by
    simp only [State.crUpdate, crFLAGS, hn, if_true, State.clearAtCommit, State.crUsed, State.modMe_modMe, State.ent_modMe]
  rw [e]
  refine ⟨State.finished_sDone_modMe [] ((Core.alike_crAt _ _).trans (Core.alike_modRob _ _ _)), fun r hr hs => ?_⟩
  obtain ⟨q, hq, rfl⟩ := State.entry_sDone_modRob (g := fun k => { k with crAt := s.clk + 1 }) rfl hr hs
  exact ⟨q, hq, rfl⟩

/-- An update of another register that the core may write. -/
theorem State.finished_crUpdate {s : State} {n : CReg} (hn : n.val ≠ 0x00D) (may : s.me.priv = true ∨ n.val ∈ [0x010, 0x013])
    (rw clr : Nat) : s.Finished (s.crUpdate n rw clr) [s.crWr s.hand.core n.val rw clr] := by
  have hm : (s.crUsed.me.priv || crUser n.val) = true := by
    rw [Bool.or_eq_true, crUser_iff hn, State.crUsed, State.me_modMe]; exact may
  have e : s.crUpdate n rw clr = s.crUsed.sDone [s.crWr s.hand.core n.val rw clr] := by
    simp only [State.crUpdate, crFLAGS, if_neg hn, hm, if_true]
    exact congrArg (fun w => s.crUsed.sDone [w]) (s.crWr_crUsed n.val rw clr)
  rw [e]
  exact State.finished_sDone_modMe _ (Core.alike_crAt _ _)

/-- An update of a register that the core may only read. -/
theorem State.finished_crUpdate_readOnly {s : State} {n : CReg} (hn : n.val ≠ 0x00D)
    (may : ¬ (s.me.priv = true ∨ n.val ∈ [0x010, 0x013])) (rw clr : Nat) : s.Finished (s.crUpdate n rw clr) [] := by
  have hm : ¬ (s.crUsed.me.priv || crUser n.val) = true := by
    rw [Bool.or_eq_true, crUser_iff hn, State.crUsed, State.me_modMe]; exact may
  have e : s.crUpdate n rw clr = s.crUsed.sDone [] := by
    simp only [State.crUpdate, crFLAGS, if_neg hn, hm]; rfl
  rw [e]
  exact State.finished_sDone_modMe _ (Core.alike_crAt _ _)

/-! ## The instructions -/

section
variable {s : State} (h : s.Runs) (g : GReg) (n : CReg) (a : GImmJ)
include h

theorem exec_crr_runs : exec (.crr g n) s = .next (s.crUsed.sDone [.g g ⟨s.crRead s.hand.core n.val, 0, false⟩]) :=
  (show _ = execCrr g n s from rfl).trans (State.sGuarded_runs h _)

theorem exec_crw_runs : exec (.crw n a) s = .next (s.crUpdate n (s.me.gimmj a).toNat (s.me.gimmj a).toNat) :=
  (show _ = execCrw n a s from rfl).trans (State.sGuarded_runs h _)

theorem exec_crset_runs : exec (.crset n a) s =
    .next (s.crUpdate n ((s.crRead s.hand.core n.val).toNat ||| (s.me.gimmj a).toNat) 0) :=
  (show _ = execCrset n a s from rfl).trans (State.sGuarded_runs h _)

theorem exec_crclr_runs : exec (.crclr n a) s = .next (s.crUpdate n ((s.crRead s.hand.core n.val).toNat ^^^
    ((s.crRead s.hand.core n.val).toNat &&& (s.me.gimmj a).toNat)) (s.me.gimmj a).toNat) :=
  (show _ = execCrclr n a s from rfl).trans (State.sGuarded_runs h _)

theorem exec_smpl_runs : exec (.smpl g) s = .next (s.sDone [.g g ⟨BitVec.ofNat 64 (s.me.dbg.latchPc % 4096 +
    s.me.dbg.latchSt % 16 * 4096 + s.me.dbg.latchSeq % 2 ^ 48 * 65536), 0, false⟩]) :=
  (show _ = execSmpl g s from rfl).trans (State.sGuarded_runs h _)

theorem exec_smplReq_runs : exec .smplReq s = .next (if !s.me.priv then s.trap causePRIV 0 0 else s.whistleReq.sDone []) :=
  (show _ = execSmplReq s from rfl).trans (State.sGuarded_runs h _)

theorem exec_trace_runs (tag : Int) : exec (.trace g tag) s = .next ((s.traceAtCommit
    (traceRec 6 (tag.toNat % 256) (s.ent.pc % 65536) 0 (s.me.rgv g).toNat)).sDone []) :=
  (show _ = execTrace g tag s from rfl).trans (State.sGuarded_runs h _)

theorem exec_traceSync_runs : exec .traceSync s = .next ((s.traceAtCommit (syncRec s.now s.me)).sDone []) :=
  (show _ = execTraceSync s from rfl).trans (State.sGuarded_runs h _)

end

/-- An S instruction whose commit writes a trace record. -/
theorem State.traceAtCommit_sDone (s : State) (b : List Byte) :
    s.Finished ((s.traceAtCommit b).sDone []) [] ∧ (traceOn s.me = true → ∀ r, r ∈ ((s.traceAtCommit b).sDone []).me.rob →
      r.serial = s.ent.serial → r.trace = some b) := by
  refine ⟨State.finished_sDone_modMe [] ?_, fun on r hr hs => ?_⟩
  · split
    · exact Core.alike_modRob _ _ _
    · exact .refl _
  · have e : s.traceAtCommit b = s.modMe (fun k => k.modRob s.ent.serial (fun x => { x with trace := some b })) := by
      simp only [State.traceAtCommit, State.modMe_eq, on, if_true]
    rw [e] at hr
    obtain ⟨q, -, rfl⟩ := State.entry_sDone_modRob (g := id) rfl hr hs
    rfl

/-- A request for a Whistle (R463) writes the island's request alone, and only where WHISTLE_CTL enables it. -/
theorem State.whistleReq_spec (s : State) : s.whistleReq.cores = s.cores ∧ s.whistleReq.mem = s.mem ∧
    (fld s.isl.whCtl.toNat 0 1 = 1 → s.isl.whReq = none → s.whistleReq.isl.whReq = some s.ns) ∧
    (fld s.isl.whCtl.toNat 0 1 = 0 → s.whistleReq = s) := by
  unfold State.whistleReq
  split
  case isTrue on => exact ⟨rfl, rfl, fun _ hnone => by simp [State.modIsl, hnone], fun off => by omega⟩
  case isFalse off => exact ⟨rfl, rfl, fun on => absurd on off, fun _ => rfl⟩

/-! ## What a write keeps -/

theorem testBit_maskedWrite (old new m i : Nat) :
    ((old ^^^ (old &&& m)) ||| (new &&& m)).testBit i = if m.testBit i then new.testBit i else old.testBit i := by
  cases h : m.testBit i <;> simp [h]

theorem State.cv_applyWr_cr (s : State) (c n : Nat) (v : Word) : ((s.applyWr c (.cr n v)).core c).cv n = v := by
  simp only [State.applyWr, State.modCore_eq, State.core_setCore]
  split <;> simp [Core.cv, Core.setCv]

theorem State.cv_applyWr_fit (s : State) (c : Nat) (v : Word) :
    ((s.applyWr c (.fit v)).core c).cv 0x010 = BitVec.ofNat 64 (v.toNat % 2 ^ 32) := by
  simp [State.applyWr, State.modCore_eq, Core.cv, Core.setCv, crFITNESS]

/-- The write of a register other than FLAGS, FITNESS, the rectangle and ERRINJ_CTL. -/
theorem State.crWr_plain (s : State) {c n : Nat} (rw clr : Nat) (hflags : n ≠ 0x00D) (hfit : n ≠ 0x010) (hrect : n ≠ 0x014)
    (hinj : n ≠ 0x031) : s.crWr c n rw clr = if crRw n = 0 then .none else .cr n (BitVec.ofNat 64
      ((((s.core c).cv n).toNat ^^^ (((s.core c).cv n).toNat &&& crRw n)) ||| (rw &&& crRw n))) := by
  simp only [State.crWr, if_neg hflags, if_neg hfit, if_neg hrect, if_neg hinj]

theorem State.crWr_fitness (s : State) (c rw clr : Nat) : s.crWr c 0x010 rw clr = .fit (BitVec.ofNat 64
      ((((s.core c).cv 0x010).toNat ^^^ (((s.core c).cv 0x010).toNat &&& crRw 0x010)) ||| (rw &&& crRw 0x010))) :=
  rfl

theorem State.getLsbD_write_fitness (s : State) (c rw clr : Nat) {i : Nat} (hi : i < 64) :
    (((s.applyWr c (s.crWr c 0x010 rw clr)).core c).cv 0x010).getLsbD i =
      if (crRw 0x010).testBit i ∧ i < 32 then rw.testBit i else decide (i < 32) && ((s.core c).cv 0x010).getLsbD i := by
  rw [State.crWr_fitness, State.cv_applyWr_fit, BitVec.getLsbD_ofNat, Nat.testBit_mod_two_pow, BitVec.toNat_ofNat,
    Nat.testBit_mod_two_pow, testBit_maskedWrite]
  by_cases h32 : i < 32 <;> simp [hi, h32, BitVec.testBit_toNat]

theorem State.getLsbD_write_plain (s : State) {c n : Nat} (rw clr : Nat) {i : Nat} (hi : i < 64) (hflags : n ≠ 0x00D)
    (hfit : n ≠ 0x010) (hrect : n ≠ 0x014) (hinj : n ≠ 0x031) :
    (((s.applyWr c (s.crWr c n rw clr)).core c).cv n).getLsbD i =
      if (crRw n).testBit i then rw.testBit i else ((s.core c).cv n).getLsbD i := by
  rw [State.crWr_plain s rw clr hflags hfit hrect hinj]
  split
  case isTrue hz => simp [hz, State.applyWr]
  case isFalse =>
    rw [State.cv_applyWr_cr, BitVec.getLsbD_ofNat, testBit_maskedWrite]
    simp [hi, BitVec.testBit_toNat]

/-! ## The obligation -/

theorem controlRegisterInstructions : Statements.ControlRegisterInstructions := by
  intro s g n a tag hs c m old may d clears
  refine ⟨?crr, ?flags, ?writes, ?readOnly, ?smpl, ?whistle, ?smplReq, ?smplReqUser, ?trace, ?traceSync⟩
  case crr => exact ⟨_, exec_crr_runs hs g n, State.finished_sDone_modMe _ (Core.alike_crAt _ _)⟩
  case flags =>
    intro hn
    exact ⟨⟨_, exec_crw_runs hs n a, s.crUpdate_flags hn _ _⟩, ⟨_, exec_crset_runs hs n a, s.crUpdate_flags hn _ _⟩,
      ⟨_, exec_crclr_runs hs n a, s.crUpdate_flags hn _ _⟩⟩
  case writes =>
    intro hn hmay
    exact ⟨⟨_, exec_crw_runs hs n a, State.finished_crUpdate hn hmay _ _⟩,
      ⟨_, exec_crset_runs hs n a, State.finished_crUpdate hn hmay _ _⟩,
      ⟨_, exec_crclr_runs hs n a, State.finished_crUpdate hn hmay _ _⟩⟩
  case readOnly =>
    intro hn hmay i hi
    simp only [List.mem_cons, List.not_mem_nil, or_false] at hi
    rcases hi with rfl | rfl | rfl
    · exact ⟨_, exec_crw_runs hs n a, State.finished_crUpdate_readOnly hn hmay _ _⟩
    · exact ⟨_, exec_crset_runs hs n a, State.finished_crUpdate_readOnly hn hmay _ _⟩
    · exact ⟨_, exec_crclr_runs hs n a, State.finished_crUpdate_readOnly hn hmay _ _⟩
  case smpl => exact ⟨_, exec_smpl_runs hs g, s.finished_sDone _⟩
  case whistle => exact ⟨_, rfl, s.whistleReq_spec⟩
  case smplReq => intro hp; rw [exec_smplReq_runs hs, hp]; rfl
  case smplReqUser => intro hp; rw [exec_smplReq_runs hs, hp]; rfl
  case trace => exact ⟨_, exec_trace_runs hs g tag, s.traceAtCommit_sDone _⟩
  case traceSync => exact ⟨_, exec_traceSync_runs hs, s.traceAtCommit_sDone _⟩

theorem controlRegisterWrites : Statements.ControlRegisterWrites := by
  rintro s _ c n rw clr i - hflags hrect hinj hi rfl
  by_cases hfit : n = 0x010
  · subst hfit
    simpa using s.getLsbD_write_fitness c rw clr hi
  · simpa [hfit] using s.getLsbD_write_plain rw clr hi hflags hfit hrect hinj

/-- Settles O32: marking the control registers as used and changing the entry of the instruction in hand leave the core
alike, so that each instruction finishes as `sDone` does; and a write takes the RW bits from the new value, all others from
the old. -/
theorem controlRegisters : Obligations.ControlRegisters :=
  ⟨controlRegisterInstructions, controlRegisterWrites⟩

end Sys2Proof.Machine
end

section
/-! Proof that memory stays in its canonical form (R16 to R18, log entry 1): no step of the machine leaves it.

Nine functions change memory themselves: `memStore`, `applyWr`, the reports and the log of the island (`errReport`,
`islLog`, `markReport`), the clearing of a core's or a die's part (`clearCore`, `dieReset`, `powerDown`) and the reset.
For them the lemmas on `memWrite`, `filter` and `State.reset` say that the form is kept. Every other function hands the
state to functions before it. So each has one lemma, in the model's order, up to `step`: an `↔` (`State.canon_f`) where
no memory is written, an implication (`State.Canon.f`, `execF_canon`) where it may be. They are `simp ↓` rules: simp
meets the outermost function first and goes inward through the state that it is given. -/

namespace Sys2Proof.Machine

/-! ## Canonical memory, and what it means of each kind of answer -/

/-- The state's memory is in its canonical form. -/
structure State.Canon (s : State) : Prop where
  wf : memWf s.mem = true

/-- An outcome whose next state, where it has one, has canonical memory. -/
def Res.Canon : Res → Prop
  | .next s => s.Canon
  | _ => True

/-- An agenda whose state, where it has one, has canonical memory. -/
def Agenda.Canon (a : Agenda) : Prop := ∀ p ∈ a, p.1.Canon

/-- An optional state that has canonical memory where it is there. -/
def OptCanon (o : Option State) : Prop := ∀ t ∈ o, t.Canon

/-- A check's answer: the trapped state has canonical memory, or the value meets `P`. -/
def ExcCanon {α : Type} (P : α → Prop) : Except State α → Prop
  | .error t => t.Canon
  | .ok a => P a

/-! ### Outcomes -/

theorem Res.Canon.of_next {r : Res} {t : State} (h : r.Canon) (e : r = .next t) : t.Canon := by
  subst e
  exact h

@[simp ↓] theorem Res.canon_next {s : State} : Res.Canon (.next s) ↔ s.Canon := Iff.rfl

@[simp ↓] theorem Res.canon_ite {c : Prop} [Decidable c] {a b : Res} :
    Res.Canon (if c then a else b) ↔ if c then a.Canon else b.Canon := by
  split <;> rfl

theorem Res.Canon.ite {c : Prop} [Decidable c] {a b : Res} (ha : Res.Canon a) (hb : Res.Canon b) :
    Res.Canon (if c then a else b) := by
  split <;> assumption

/-! ### Checks -/

section
variable {α β : Type} {P : α → Prop} {Q : β → Prop}

@[simp ↓] theorem excCanon_ok {a : α} : ExcCanon P (.ok a) ↔ P a := Iff.rfl

@[simp ↓] theorem excCanon_pure {a : α} : ExcCanon P (pure a : Except State α) ↔ P a := Iff.rfl

@[simp ↓] theorem excCanon_error {t : State} : ExcCanon P (.error t) ↔ t.Canon := Iff.rfl

@[simp ↓] theorem excCanon_ite {c : Prop} [Decidable c] {a b : Except State α} :
    ExcCanon P (if c then a else b) ↔ if c then ExcCanon P a else ExcCanon P b := by
  split <;> rfl

theorem ExcCanon.ite {c : Prop} [Decidable c] {a b : Except State α} (ha : ExcCanon P a) (hb : ExcCanon P b) :
    ExcCanon P (if c then a else b) := by
  split <;> assumption

theorem ExcCanon.bind {r : Except State α} {f : α → Except State β} (h : ExcCanon P r)
    (hf : ∀ a, P a → ExcCanon Q (f a)) : ExcCanon Q (r >>= f) := by
  cases r with
  | error t => exact h
  | ok a => exact hf a h

theorem excCanon_map {r : Except State α} {f : α → β} : ExcCanon Q (r.map f) ↔ ExcCanon (fun a => Q (f a)) r := by
  cases r <;> rfl

theorem ExcCanon.of_ok {r : Except State α} {a : α} (h : ExcCanon P r) (e : r = .ok a) : P a := by
  subst e
  exact h

theorem ExcCanon.of_error {r : Except State α} {t : State} (h : ExcCanon P r) (e : r = .error t) : t.Canon := by
  subst e
  exact h

theorem ExcCanon.foldl {f : Except State α → β → Except State α} (hf : ∀ r b, ExcCanon P r → ExcCanon P (f r b))
    (l : List β) {r : Except State α} (h : ExcCanon P r) : ExcCanon P (l.foldl f r) :=
  List.foldlRecOn (motive := ExcCanon P) l f h fun r hr b _ => hf r b hr

theorem ExcCanon.foldlM {f : α → β → Except State α} (hf : ∀ a b, P a → ExcCanon P (f a b)) (l : List β) :
    ∀ {a : α}, P a → ExcCanon P (l.foldlM f a) := by
  induction l with
  | nil => exact fun h => h
  | cons b l ih =>
    intro a h
    rw [List.foldlM_cons]
    exact (hf a b h).bind fun _ => ih

end

/-! ### Agendas and optional states -/

section
variable {α : Type}

@[simp ↓] theorem Agenda.canon_none : Agenda.Canon none := by simp [Agenda.Canon]

@[simp ↓] theorem Agenda.canon_some {p : State × List Instr} : Agenda.Canon (some p) ↔ p.1.Canon := by
  simp [Agenda.Canon]

@[simp ↓] theorem Agenda.canon_ite {c : Prop} [Decidable c] {a b : Agenda} :
    Agenda.Canon (if c then a else b) ↔ if c then a.Canon else b.Canon := by
  split <;> rfl

theorem Agenda.Canon.ite {c : Prop} [Decidable c] {a b : Agenda} (ha : a.Canon) (hb : b.Canon) :
    Agenda.Canon (if c then a else b) := by
  split <;> assumption

theorem Agenda.Canon.orElse {a : Agenda} {f : Unit → Agenda} (h : a.Canon) (hf : Agenda.Canon (f ())) :
    Agenda.Canon (a.orElse f) := by
  cases a with
  | none => exact hf
  | some p => exact h

theorem Agenda.canon_findSome {l : List α} {f : α → Agenda} (h : ∀ x ∈ l, Agenda.Canon (f x)) :
    Agenda.Canon (l.findSome? f) := by
  intro p hp
  obtain ⟨x, hl, hx⟩ := List.exists_of_findSome?_eq_some hp
  exact h x hl p hx

theorem Agenda.canon_map {o : Option α} {f : α → State × List Instr} (h : ∀ a, (f a).1.Canon) :
    Agenda.Canon (o.map f) := by
  cases o with
  | none => exact Agenda.canon_none
  | some a => exact Agenda.canon_some.2 (h a)

theorem Agenda.Canon.getD {a : Agenda} {p : State × List Instr} (h : a.Canon) (hp : p.1.Canon) :
    (a.getD p).1.Canon := by
  cases a with
  | none => exact hp
  | some q => exact h q rfl

theorem Agenda.Canon.of_some {a : Agenda} {t : State} {l : List Instr} (h : a.Canon) (e : a = some (t, l)) : t.Canon :=
  h _ e

@[simp ↓] theorem optCanon_none : OptCanon none := by simp [OptCanon]

@[simp ↓] theorem optCanon_some {s : State} : OptCanon (some s) ↔ s.Canon := by simp [OptCanon]

@[simp ↓] theorem optCanon_ite {c : Prop} [Decidable c] {a b : Option State} :
    OptCanon (if c then a else b) ↔ if c then OptCanon a else OptCanon b := by
  split <;> rfl

theorem optCanon_map {o : Option α} {f : α → State} (h : ∀ a, (f a).Canon) : OptCanon (o.map f) := by
  cases o with
  | none => exact optCanon_none
  | some a => exact optCanon_some.2 (h a)

theorem OptCanon.orElse {o : Option State} {f : Unit → Option State} (h : OptCanon o) (hf : OptCanon (f ())) :
    OptCanon (o.orElse f) := by
  cases o with
  | none => exact hf
  | some p => exact h

theorem OptCanon.getD {o : Option State} {t : State} (h : OptCanon o) (ht : t.Canon) : (o.getD t).Canon := by
  cases o with
  | none => exact ht
  | some u => exact h u rfl

theorem OptCanon.of_some {o : Option State} {t : State} (h : OptCanon o) (e : o = some t) : t.Canon := h t e

end

/-! ### States, pairs with a state, and folds over a state -/

section
variable {α β : Type}

theorem State.canon_fst {p : State × α} {t : State} {x : α} (e : p = (t, x)) : t.Canon ↔ p.1.Canon := by
  subst e
  rfl

theorem State.Canon.fst {p : State × α} {t : State} {x : α} (h : p.1.Canon) (e : p = (t, x)) : t.Canon :=
  (State.canon_fst e).2 h

@[simp ↓] theorem State.canon_ite {c : Prop} [Decidable c] {a b : State} :
    (if c then a else b).Canon ↔ if c then a.Canon else b.Canon := by
  split <;> rfl

@[simp ↓] theorem State.canon_ite_fst {c : Prop} [Decidable c] {a b : State × α} :
    (if c then a else b).1.Canon ↔ if c then a.1.Canon else b.1.Canon := by
  split <;> rfl

@[simp ↓] theorem State.canon_ite_snd {c : Prop} [Decidable c] {a b : α × State} :
    (if c then a else b).2.Canon ↔ if c then a.2.Canon else b.2.Canon := by
  split <;> rfl

@[simp ↓] theorem State.canon_mk_fst {a : α} {s : State} : (s, a).1.Canon ↔ s.Canon := Iff.rfl

@[simp ↓] theorem State.canon_mk_snd {a : α} {s : State} : (a, s).2.Canon ↔ s.Canon := Iff.rfl

/-- Of a state written out field by field only the memory counts. -/
@[simp ↓] theorem State.canon_mk
    {a1 a2 mem a4 a5 a6 a7 a8 a9 b0 b1 b2 b3 b4 b5 b6 b7 b8 b9 c0 c1 c2 c3 c4 c5 c6 c7 c8 c9 d0 d1} :
    (State.mk a1 a2 mem a4 a5 a6 a7 a8 a9 b0 b1 b2 b3 b4 b5 b6 b7 b8 b9
      c0 c1 c2 c3 c4 c5 c6 c7 c8 c9 d0 d1).Canon ↔ memWf mem = true :=
  ⟨fun h => h.wf, fun h => ⟨h⟩⟩

@[simp ↓] theorem State.memWf_mem {s : State} : memWf s.mem = true ↔ s.Canon := ⟨State.Canon.mk, State.Canon.wf⟩

theorem State.Canon.foldl {f : State → α → State} (hf : ∀ s a, s.Canon → (f s a).Canon) (l : List α) {s : State}
    (h : s.Canon) : (l.foldl f s).Canon :=
  List.foldlRecOn (motive := State.Canon) l f h fun s hs a _ => hf s a hs

theorem State.Canon.foldl_fst {f : State × β → α → State × β} (hf : ∀ p a, p.1.Canon → (f p a).1.Canon) (l : List α)
    {s : State} {b : β} (h : s.Canon) : (l.foldl f (s, b)).1.Canon :=
  List.foldlRecOn (motive := fun p : State × β => p.1.Canon) l f h fun p hp a _ => hf p a hp

@[simp ↓] theorem State.canon_foldl {f : State → α → State} {l : List α} {s : State}
    (hf : ∀ s a, (f s a).Canon ↔ s.Canon) : (l.foldl f s).Canon ↔ s.Canon := by
  induction l generalizing s with
  | nil => rfl
  | cons a l ih => exact (ih (s := f s a)).trans (hf s a)

@[simp ↓] theorem State.canon_foldl_fst {f : State × β → α → State × β} {l : List α} {p : State × β}
    (hf : ∀ p a, (f p a).1.Canon ↔ p.1.Canon) : (l.foldl f p).1.Canon ↔ p.1.Canon := by
  induction l generalizing p with
  | nil => rfl
  | cons a l ih => exact (ih (p := f p a)).trans (hf p a)

end

/-! ## Operations over the state -/

section
variable {s : State} {c i col key occ dst addr n reason pc lat stage mark cls info : Nat} {wrs : List Wr}
    {body : State → State} {t : Trap} {b : MsgBody} {bytes : List Byte} {due : Option Nat} {kind : OutKind} {w : Wr}
    {waiting : Bool} {f : Core → Core} {k : Core}

@[simp ↓] theorem State.canon_setCore : (s.setCore c k).Canon ↔ s.Canon := by simp [State.setCore]

@[simp ↓] theorem State.canon_modCore : (s.modCore c f).Canon ↔ s.Canon := by simp [State.modCore]

@[simp ↓] theorem State.canon_setMe : (s.setMe k).Canon ↔ s.Canon := by simp [State.setMe]

@[simp ↓] theorem State.canon_modMe : (s.modMe f).Canon ↔ s.Canon := by simp [State.modMe]

@[simp ↓] theorem State.canon_setCtx {x : Ctx} : (s.setCtx i x).Canon ↔ s.Canon := by
  simp [State.setCtx]

@[simp ↓] theorem State.canon_modCtx {f : Ctx → Ctx} : (s.modCtx i f).Canon ↔ s.Canon := by
  simp [State.modCtx]

@[simp ↓] theorem State.canon_setQueue {x : Queue} : (s.setQueue i x).Canon ↔ s.Canon := by
  simp [State.setQueue]

@[simp ↓] theorem State.canon_modQueue {f : Queue → Queue} : (s.modQueue i f).Canon ↔ s.Canon := by
  simp [State.modQueue]

@[simp ↓] theorem State.canon_setLaunch {x : Launch} : (s.setLaunch i x).Canon ↔ s.Canon := by
  simp [State.setLaunch]

@[simp ↓] theorem State.canon_modLaunch {f : Launch → Launch} : (s.modLaunch i f).Canon ↔ s.Canon := by
  unfold State.modLaunch
  split <;> simp

@[simp ↓] theorem State.canon_modEp {f : Endpoint → Endpoint} : (s.modEp i f).Canon ↔ s.Canon := by
  simp [State.modEp]

@[simp ↓] theorem State.canon_modPort {f : Port → Port} : (s.modPort i f).Canon ↔ s.Canon := by
  simp [State.modPort]

@[simp ↓] theorem State.canon_modColl {f : Coll → Coll} : (s.modColl i f).Canon ↔ s.Canon := by
  simp [State.modColl]

@[simp ↓] theorem State.canon_modIsl {f : Island → Island} : (s.modIsl f).Canon ↔ s.Canon := by
  simp [State.modIsl]

@[simp ↓] theorem State.canon_draw : s.draw.2.Canon ↔ s.Canon := by simp [State.draw]

@[simp ↓] theorem State.canon_send : (s.send lat dst b).Canon ↔ s.Canon := by simp [State.send]

@[simp ↓] theorem State.canon_sendAfter {after : Msg → Bool} {extra : Nat} :
    (s.sendAfter after extra dst b).Canon ↔ s.Canon := by
  simp [State.sendAfter]

@[simp ↓] theorem State.canon_sendFree : (s.sendFree dst b).Canon ↔ s.Canon := by
  simp [State.sendFree]

@[simp ↓] theorem State.canon_emitIn : (s.emitIn lat kind dst addr bytes).Canon ↔ s.Canon := by
  simp [State.emitIn]

@[simp ↓] theorem State.canon_emit : (s.emit kind dst addr bytes).Canon ↔ s.Canon := by
  simp [State.emit]

@[simp ↓] theorem State.Canon.memStore (h : s.Canon) {bs : List Byte} {tag : Option Bool} :
    (s.memStore key bs tag).Canon := ⟨s.memWf_memStore key bs tag h.wf⟩

@[simp ↓] theorem State.canon_setLine {l : LineWord} : (s.setLine key l).Canon ↔ s.Canon := by
  simp [State.setLine]

@[simp ↓] theorem State.canon_setOwner {o : Option Nat} : (s.setOwner key o).Canon ↔ s.Canon := by
  simp [State.setOwner]

@[simp ↓] theorem State.canon_skip : (s.skip col occ).Canon ↔ s.Canon := by simp [State.skip]

@[simp ↓] theorem State.canon_issue {flags : Nat} : (s.issue col lat occ flags wrs).Canon ↔ s.Canon := by
  simp [State.issue]

@[simp ↓] theorem State.canon_guarded :
    Res.Canon (s.guarded col body occ) ↔ if s.me.guardOk s.head.guard then (body s).Canon else s.Canon := by
  simp [State.guarded]

theorem State.Canon.guarded (h : s.Canon) (hb : (body s).Canon) :
    Res.Canon (s.guarded col body occ) := by simp [h, hb]

@[simp ↓] theorem State.canon_requeue : (s.requeue col).Canon ↔ s.Canon := by simp [State.requeue]

@[simp ↓] theorem State.canon_issueAsync {kind : AsyncKind} :
    (s.issueAsync col occ cls kind due).2.Canon ↔ s.Canon := by
  simp [State.issueAsync]

@[simp ↓] theorem State.canon_sFinish : (s.sFinish wrs).Canon ↔ s.Canon := by simp [State.sFinish]

@[simp ↓] theorem State.canon_sDone : (s.sDone wrs).Canon ↔ s.Canon := by simp [State.sDone]

@[simp ↓] theorem State.canon_sRedirect {t : Nat} : (s.sRedirect wrs t).Canon ↔ s.Canon := by
  simp [State.sRedirect]

@[simp ↓] theorem State.canon_sWait {retry : Nat} {limit : Option Nat} :
    (s.sWait waiting stage mark retry limit).Canon ↔ s.Canon := by
  simp [State.sWait]

@[simp ↓] theorem State.canon_sHold : (s.sHold waiting stage mark).Canon ↔ s.Canon := by
  simp [State.sHold]

@[simp ↓] theorem State.canon_sSkip : s.sSkip.Canon ↔ s.Canon := by
  unfold State.sSkip
  split <;> simp

@[simp ↓] theorem State.canon_sGuarded :
    Res.Canon (s.sGuarded body) ↔ if s.me.guardOk s.head.guard then (body s).Canon else s.Canon := by
  simp [State.sGuarded]

theorem State.Canon.sGuarded (h : s.Canon) (hb : (body s).Canon) : Res.Canon (s.sGuarded body) := by simp [h, hb]

@[simp ↓] theorem State.canon_sAsync {kind : AsyncKind} : (s.sAsync cls kind due).2.Canon ↔ s.Canon := by
  simp [State.sAsync]

@[simp ↓] theorem State.canon_pauseGroup {begins own : Bool} : (s.pauseGroup c begins own).Canon ↔ s.Canon := by
  simp [State.pauseGroup]

@[simp ↓] theorem State.canon_freezeGroup : (s.freezeGroup c n).Canon ↔ s.Canon := by
  simp [State.freezeGroup]

@[simp ↓] theorem State.Canon.devWrite {phys : Nat} (h : s.Canon) : (s.devWrite phys bytes).Canon := by
  simp [State.devWrite, h]

@[simp ↓] theorem State.Canon.pushItem {q v : Nat} (h : s.Canon) : (s.pushItem q v).Canon := by
  unfold State.pushItem
  split <;> simp [h]

@[simp ↓] theorem State.Canon.postEvent (h : s.Canon) {x code src : Nat} {body : List Byte} :
    (s.postEvent x code src body).Canon := by
  have push (q : Nat) (l : List Nat) : (l.foldl (fun s v => s.pushItem q v) s).Canon :=
    Canon.foldl (fun _ _ hs => hs.pushItem) l h
  unfold State.postEvent
  dsimp only
  split
  · split
    · exact canon_emit.2 (push _ _)
    · exact push _ _
  · simp [h]

@[simp ↓] theorem State.canon_traceAtCommit {r : List Byte} : (s.traceAtCommit r).Canon ↔ s.Canon := by
  simp [State.traceAtCommit]

@[simp ↓] theorem State.canon_setLines {l : List (Nat × Nat × Bool)} : (s.setLines l).Canon ↔ s.Canon := by
  simp [State.setLines]

@[simp ↓] theorem State.Canon.applyWr (h : s.Canon) : (s.applyWr c w).Canon :=
  ⟨s.memWf_applyWr c w h.wf⟩

@[simp ↓] theorem State.Canon.landWr (h : s.Canon) : (s.landWr c n w).Canon :=
  ⟨s.memWf_landWr c n w h.wf⟩

@[simp ↓] theorem State.Canon.rewind (h : s.Canon) {fromSerial : Nat} : (s.rewind c fromSerial).Canon := by
  unfold State.rewind
  dsimp only
  split
  · exact h
  · exact canon_modCore.2 (Canon.foldl (fun _ _ hs => hs.applyWr) _ (Canon.foldl (fun _ _ hs => hs.applyWr) _ h))

@[simp ↓] theorem State.Canon.flushFrom (h : s.Canon) : (s.flushFrom c n).Canon := by
  simp [State.flushFrom, h]

@[simp ↓] theorem State.Canon.flushAll (h : s.Canon) : (s.flushAll c).Canon := by
  unfold State.flushAll
  split <;> simp [h]

@[simp ↓] theorem State.canon_setBar {b : Barrier} : (s.setBar key b).Canon ↔ s.Canon := by
  simp [State.setBar]

@[simp ↓] theorem State.canon_modBar {f : Barrier → Barrier} : (s.modBar key f).Canon ↔ s.Canon := by
  simp [State.modBar]

@[simp ↓] theorem State.canon_barLatency {kind : Nat} : (s.barLatency kind).2.Canon ↔ s.Canon := by
  simp [State.barLatency]

@[simp ↓] theorem State.canon_barBreak : (s.barBreak key reason).Canon ↔ s.Canon := by
  unfold State.barBreak
  dsimp only
  split <;> simp

@[simp ↓] theorem State.canon_barMemberLost : (s.barMemberLost c reason).Canon ↔ s.Canon := by
  simp [State.barMemberLost]

@[simp ↓] theorem State.canon_stopCore : (s.stopCore c reason pc).Canon ↔ s.Canon := by
  simp [State.stopCore]

@[simp ↓] theorem State.Canon.escalate (h : s.Canon) {nested : Bool} : (s.escalate c t pc nested).Canon := by
  unfold State.escalate
  dsimp only
  split <;> simp [h]

@[simp ↓] theorem State.Canon.vredqAdd (h : s.Canon) : (s.vredqAdd c).Canon := by
  unfold State.vredqAdd
  split
  · simp [h]
  split <;> simp [h]

@[simp ↓] theorem State.Canon.stopVredq (h : s.Canon) : (s.stopVredq c).Canon := by
  unfold State.stopVredq
  split
  · exact h
  · exact canon_modCore.2 (Canon.foldl (fun _ _ hs => hs.vredqAdd) _ h)

@[simp ↓] theorem State.Canon.takeTrap (h : s.Canon) : (s.takeTrap c pc t).Canon := by
  unfold State.takeTrap
  split
  · simp [h]
  · split
    next s' _ _ e =>
      have h' : s'.Canon := Canon.fst (by split <;> simp [h]) e
      simp [h']

@[simp ↓] theorem State.Canon.raise (h : s.Canon) : (s.raise t).Canon := by simp [State.raise, h]

@[simp ↓] theorem State.Canon.trap {cause : Nat} (h : s.Canon) : (s.trap cause addr info).Canon := by
  simp [State.trap, h]

@[simp ↓] theorem State.Canon.timing {late : Nat} (h : s.Canon) : (s.timing late reason).Canon := by
  simp [State.timing, h]

@[simp ↓] theorem State.canon_engineFault {e : Nat} : (s.engineFault c e addr info).Canon ↔ s.Canon := by
  simp [State.engineFault]

@[simp ↓] theorem State.Canon.waitClk (h : s.Canon) : (s.waitClk n).1.Canon := by
  unfold State.waitClk
  split
  · simp [h]
  split <;> simp [h]

end

/-! ## Operands and memory access -/

section
variable {s : State} {va n x c kind key b35 i code consumer cause field phys id : Nat} {wr rd pipe : Bool}
    {ps : List CPiece} {g : GReg}

@[simp ↓] theorem State.Canon.errReport (h : s.Canon) {flags : Nat} {x : Option Nat} {len : Nat} :
    (s.errReport code flags x id phys len va consumer kind b35).Canon := by
  have write (a : Nat) (r : List Byte) : memWf (memWrite s.mem a r) = true := memWf_memWrite r s.mem a h.wf
  unfold State.errReport
  dsimp only
  split <;> simp [write]

@[simp ↓] theorem State.Canon.islLog (h : s.Canon) {b1 core coord addr special : Nat} :
    (s.islLog code b1 core coord addr special).Canon := ⟨memWf_memWrite _ _ _ h.wf⟩

@[simp ↓] theorem State.canon_newErrId : s.newErrId.2.Canon ↔ s.Canon := by simp [State.newErrId]

@[simp ↓] theorem State.Canon.onRead (h : s.Canon) {x : Option Nat} :
    (s.onRead x key n va consumer kind b35).1.Canon := by
  unfold State.onRead
  dsimp only
  split
  · simp [h]
  · split <;> simp [h]

@[simp ↓] theorem State.canon_eccPend : (s.eccPend c va id).Canon ↔ s.Canon := by
  simp [State.eccPend]

@[simp ↓] theorem State.Canon.coreRead (h : s.Canon) : (s.coreRead c key n va kind).Canon := by
  unfold State.coreRead
  split
  · exact h
  · split
    next e => simp [h.onRead.fst e]
    next e => exact h.onRead.fst e

@[simp ↓] theorem State.Canon.walkNow (h : s.Canon) : (s.walkNow x va).1.Canon := by
  unfold State.walkNow
  split
  · exact h
  · exact Canon.foldl (fun _ _ hs => hs.onRead) _ h

@[simp ↓] theorem State.canon_llFill {die : Nat} {t : TlbEntry} : (s.llFill die x t).Canon ↔ s.Canon := by
  unfold State.llFill
  dsimp only
  split <;> simp

@[simp ↓] theorem State.Canon.translate (h : s.Canon) : (s.translate pipe va rd wr).1.Canon := by
  unfold State.translate
  dsimp only
  split
  · exact h
  · split
    · simp [h]
    · split
      · simp [h]
      · split
        next e => exact h.walkNow.fst e
        next e => split <;> simp [h.walkNow.fst e]

@[simp ↓] theorem State.Canon.translateRange (h : s.Canon) : (s.translateRange pipe va n rd wr).1.Canon := by
  refine Canon.foldl_fst (fun p a hp => ?_) _ h
  dsimp only
  split
  · exact hp
  · split
    · exact hp.translate
    · split <;> exact hp.translate

@[simp ↓] theorem State.Canon.disarm (h : s.Canon) : (s.disarm key n).Canon := by
  unfold State.disarm
  split <;> simp [h]

@[simp ↓] theorem State.Canon.watchTrap (h : s.Canon) : (s.watchTrap i va wr).Canon := by
  simp [State.watchTrap, h]

@[simp ↓] theorem State.canon_watchReport {info : Nat} : (s.watchReport c i phys info).Canon ↔ s.Canon := by
  simp [State.watchReport]

@[simp ↓] theorem State.Canon.capTrap (h : s.Canon) : (s.capTrap cause x field g).Canon := by
  simp [State.capTrap, h]

@[simp ↓] theorem State.Canon.rangeSide (h : s.Canon) {cap : GVal} {align : Nat} {need : List Nat}
    {accept : CPiece → Option Nat} :
    ExcCanon (·.1.Canon) (s.rangeSide cap field g x n align rd wr need cause accept) := by
  unfold State.rangeSide
  split
  · simp [h]
  · split
    · simp [h]
    · split
      next e => simp [h.translateRange.fst e]
      next e => split <;> simp [h.translateRange.fst e]

@[simp ↓] theorem State.Canon.watchRange (h : s.Canon) : OptCanon (s.watchRange ps rd wr) :=
  optCanon_map fun _ => h.watchTrap

@[simp ↓] theorem State.Canon.meetRange (h : s.Canon) : OptCanon (s.meetRange ps rd wr) := by
  unfold State.meetRange
  split <;> simp [h]

end

/-! ## Float instructions -/

section
variable {s : State} {f : Fmt} {ga gd gb : GReg} {rtz : Bool}

@[simp ↓] theorem execFloat2_canon {lat occ : Nat} {op : Num → Num → Num × Nat} (h : s.Canon) :
    Res.Canon (execFloat2 f rtz lat occ op gd ga gb s) := by
  simp [execFloat2, h]

@[simp ↓] theorem execFadd_canon (h : s.Canon) : Res.Canon (execFadd f rtz gd ga gb s) := by
  simp [execFadd, h]

@[simp ↓] theorem execFsub_canon (h : s.Canon) : Res.Canon (execFsub f rtz gd ga gb s) := by
  simp [execFsub, h]

@[simp ↓] theorem execFmul_canon (h : s.Canon) : Res.Canon (execFmul f rtz gd ga gb s) := by
  simp [execFmul, h]

@[simp ↓] theorem execFfma_canon (h : s.Canon) : Res.Canon (execFfma f rtz gd ga gb s) := by
  simp [execFfma, h]

@[simp ↓] theorem execFdiv_canon (h : s.Canon) : Res.Canon (execFdiv f rtz gd ga gb s) := by
  simp [execFdiv, h]

@[simp ↓] theorem execFsqrt_canon (h : s.Canon) : Res.Canon (execFsqrt f rtz gd ga s) := by
  simp [execFsqrt, h]

@[simp ↓] theorem execFmin_canon (h : s.Canon) : Res.Canon (execFmin f gd ga gb s) := by
  simp [execFmin, h]

@[simp ↓] theorem execFmax_canon (h : s.Canon) : Res.Canon (execFmax f gd ga gb s) := by
  simp [execFmax, h]

@[simp ↓] theorem execFcmp_canon {c : FCond} {qd : QReg} (h : s.Canon) : Res.Canon (execFcmp f c qd ga gb s) := by
  simp [execFcmp, h]

@[simp ↓] theorem execFcvt_canon {src : CvtSrc} (h : s.Canon) : Res.Canon (execFcvt f rtz src gd ga s) := by
  simp [execFcvt, h]

@[simp ↓] theorem execFsgn_canon {op : SgnOp} (h : s.Canon) : Res.Canon (execFsgn f op gd ga gb s) := by
  simp [execFsgn, h]

@[simp ↓] theorem execFclass_canon (h : s.Canon) : Res.Canon (execFclass f gd ga s) := by
  simp [execFclass, h]

@[simp ↓] theorem execMkabs_canon (h : s.Canon) : Res.Canon (execMkabs f gd s) := by
  simp [execMkabs, h]

end

/-! ## What a unit shares with others -/

section
variable {s : State} {c key : Nat}

@[simp ↓] theorem State.canon_homeWrite {writer n : Nat} {owner : Option Nat} :
    (s.homeWrite writer key n owner).1.Canon ↔ s.Canon := by
  unfold State.homeWrite
  split
  · rfl
  · refine canon_foldl_fst fun p w => ?_
    dsimp only
    split <;> simp

@[simp ↓] theorem State.canon_barComplete : (s.barComplete key).Canon ↔ s.Canon := by
  simp [State.barComplete]

@[simp ↓] theorem State.canon_barCount : (s.barCount key).Canon ↔ s.Canon := by
  unfold State.barCount
  dsimp only
  split <;> simp

@[simp ↓] theorem State.canon_gangWire {x gang : Nat} : (s.gangWire x gang).Canon ↔ s.Canon := by
  unfold State.gangWire
  simp

@[simp ↓] theorem State.canon_barArrive : (s.barArrive key c).Canon ↔ s.Canon := by
  simp [State.barArrive]

@[simp ↓] theorem State.canon_barMemberDone : (s.barMemberDone c).Canon ↔ s.Canon := by
  simp [State.barMemberDone]

@[simp ↓] theorem State.canon_leaveLeader : (s.leaveLeader c).Canon ↔ s.Canon := by
  simp [State.leaveLeader]

@[simp ↓] theorem State.Canon.followDetach {reason : Nat} (h : s.Canon) : (s.followDetach c reason).Canon := by
  unfold State.followDetach
  dsimp only
  split <;> simp [h]

@[simp ↓] theorem State.Canon.forward {pc w : Nat} (h : s.Canon) : (s.forward c pc w).Canon := by
  refine Canon.foldl (fun s f hs => ?_) _ h
  simp [hs]

@[simp ↓] theorem State.Canon.endUnit {st : UnitState} {status : Nat} {exited : Bool} (h : s.Canon) :
    (s.endUnit c st status exited).Canon := by
  unfold State.endUnit
  dsimp only
  split <;> simp only [canon_barMemberDone, canon_barMemberLost] <;> split <;> simp [h]

@[simp ↓] theorem State.Canon.cancelUnit (h : s.Canon) : (s.cancelUnit c).Canon := by
  unfold State.cancelUnit
  dsimp only
  split <;> simp [h]

end

/-! ## Issue and landing -/

section
variable {s : State} {c id : Nat} {l : Landing}

@[simp ↓] theorem State.canon_endLate {col : Nat} : (s.endLate c col).Canon ↔ s.Canon := by
  simp [State.endLate]

@[simp ↓] theorem execColumnIssue_canon (h : s.Canon) : Res.Canon (execColumnIssue s) := by
  unfold execColumnIssue
  dsimp only
  split <;> simp [h]

@[simp ↓] theorem State.canon_disown : (s.disown c l).Canon ↔ s.Canon := by
  unfold State.disown
  split
  · split <;> rename_i e <;> simp [canon_fst e]
  · split <;> rename_i e <;> simp [canon_fst e]
  · split <;> rename_i e <;> simp [canon_fst e]
  · rfl

@[simp ↓] theorem State.Canon.landNow (h : s.Canon) : (s.landNow c l).Canon := by
  simp [State.landNow, h]

@[simp ↓] theorem State.Canon.storeNow (h : s.Canon) : (s.storeNow c l).Canon := by
  simp [State.storeNow, h]

@[simp ↓] theorem execResultLands_canon (h : s.Canon) : Res.Canon (execResultLands s) := by
  unfold execResultLands
  split
  · split <;> simp [h]
  split <;> split <;> simp [h]

@[simp ↓] theorem State.canon_completeOp : (s.completeOp c id).Canon ↔ s.Canon := by
  unfold State.completeOp
  split <;> simp

@[simp ↓] theorem State.canon_failOp {e addr info : Nat} : (s.failOp c id e addr info).Canon ↔ s.Canon := by
  simp [State.failOp]

@[simp ↓] theorem execInstructionCommit_canon (h : s.Canon) : Res.Canon (execInstructionCommit s) := by
  unfold execInstructionCommit
  split <;> simp [h]

@[simp ↓] theorem execVrfRefresh_canon (h : s.Canon) : Res.Canon (execVrfRefresh s) := by
  simp [execVrfRefresh, h]

@[simp ↓] theorem execShortLivedExpiry_canon (h : s.Canon) : Res.Canon (execShortLivedExpiry s) := by
  simp [execShortLivedExpiry, h]

@[simp ↓] theorem execSleepEnd_canon (h : s.Canon) : Res.Canon (execSleepEnd s) := by
  unfold execSleepEnd
  split <;> simp [h]

@[simp ↓] theorem execReservedOpcode_canon (h : s.Canon) : Res.Canon (execReservedOpcode s) := by
  simp [execReservedOpcode, h]

@[simp ↓] theorem execFetchOutsideInstructionWords_canon (h : s.Canon) :
    Res.Canon (execFetchOutsideInstructionWords s) := by
  simp [execFetchOutsideInstructionWords, h]

end

/-! ## Control registers -/

section
variable {s : State} {n : CReg} {a : GImmJ}

@[simp ↓] theorem State.canon_crUsed : s.crUsed.Canon ↔ s.Canon := by simp [State.crUsed]

@[simp ↓] theorem State.canon_clearAtCommit {m : Nat} : (s.clearAtCommit m).Canon ↔ s.Canon := by
  simp [State.clearAtCommit]

@[simp ↓] theorem State.canon_crUpdate {rw clr : Nat} : (s.crUpdate n rw clr).Canon ↔ s.Canon := by
  unfold State.crUpdate
  dsimp only
  simp

@[simp ↓] theorem execCrr_canon {gd : GReg} (h : s.Canon) : Res.Canon (execCrr gd n s) := by
  simp [execCrr, h]

@[simp ↓] theorem execCrw_canon (h : s.Canon) : Res.Canon (execCrw n a s) := by simp [execCrw, h]

@[simp ↓] theorem execCrset_canon (h : s.Canon) : Res.Canon (execCrset n a s) := by
  simp [execCrset, h]

@[simp ↓] theorem execCrclr_canon (h : s.Canon) : Res.Canon (execCrclr n a s) := by
  simp [execCrclr, h]

@[simp ↓] theorem State.Canon.crWindowWrite {c n v : Nat} (h : s.Canon) : (s.crWindowWrite c n v).Canon := by
  unfold State.crWindowWrite
  split <;> simp [h]

@[simp ↓] theorem execFitnessWrite_canon (h : s.Canon) : Res.Canon (execFitnessWrite s) := by
  simp [execFitnessWrite, h]

@[simp ↓] theorem execErrinjArm_canon (h : s.Canon) : Res.Canon (execErrinjArm s) := by
  simp [execErrinjArm, h]

@[simp ↓] theorem execShotClockWrite_canon (h : s.Canon) : Res.Canon (execShotClockWrite s) := by
  simp [execShotClockWrite, h]

end

/-! ## Loads and stores -/

section
variable {s : State} {m : MemReq} {phys n src c err home va extra key : Nat} {bytes : List Byte} {b : MsgBody}
    {tag : Option Bool} {sz : Size} {gd : GReg} {sx wr rd : Bool} {r : Reach} {a : GImm} {need : List Nat}
    {go : State → State}

@[simp ↓] theorem State.canon_answer : (s.answer m extra b).Canon ↔ s.Canon := by
  simp [State.answer]

@[simp ↓] theorem State.canon_refuse : (s.refuse m b err).Canon ↔ s.Canon := by
  unfold State.refuse
  split <;> simp

@[simp ↓] theorem State.canon_leave : (s.leave m b).Canon ↔ s.Canon := by
  unfold State.leave
  dsimp only
  simp

@[simp ↓] theorem State.canon_request : (s.request m b extra).Canon ↔ s.Canon := by
  simp [State.request]

@[simp ↓] theorem State.Canon.dieDownAt {socket : Nat} (h : s.Canon) : (s.dieDownAt socket src phys).Canon := by
  simp [State.dieDownAt, h]

@[simp ↓] theorem State.Canon.dieDown (h : s.Canon) : (s.dieDown home src phys).Canon := by
  simp [State.dieDown, h]

@[simp ↓] theorem State.Canon.stackDown (h : s.Canon) : (s.stackDown key n src phys).Canon := by
  unfold State.stackDown
  split <;> simp [h]

@[simp ↓] theorem State.Canon.atHome (h : s.Canon) (hgo : (go s).Canon) : Res.Canon (s.atHome m b go) := by
  unfold State.atHome
  dsimp only
  split
  · simp [h]
  · split <;> simp [h, hgo]

@[simp ↓] theorem State.canon_watchRemote : (s.watchRemote home src phys n).Canon ↔ s.Canon := by
  unfold State.watchRemote
  split
  split <;> simp

@[simp ↓] theorem State.Canon.writeHome {writer : Nat} {owner : Option Nat} (h : s.Canon) :
    (s.writeHome writer key bytes tag owner).1.Canon := by
  simp [State.writeHome, h]

@[simp ↓] theorem State.Canon.reachCap {g : GReg} {field x align : Nat} (h : s.Canon) :
    ExcCanon (fun _ => True) (s.reachCap g field x n align need) := by
  unfold State.reachCap
  dsimp only
  split
  · simp [h]
  · split <;> simp [h]

@[simp ↓] theorem State.Canon.translateOne (h : s.Canon) : (s.translateOne va n rd wr).1.Canon := by
  unfold State.translateOne
  split <;> rename_i e <;> exact h.translateRange.fst e

@[simp ↓] theorem State.Canon.meets (h : s.Canon) : OptCanon (s.meets r n rd wr) := by
  simp [State.meets, h]

@[simp ↓] theorem State.Canon.throughCache (h : s.Canon) : (s.throughCache phys bytes).Canon := by
  refine Canon.foldl (fun s w hs => ?_) _ h
  split <;> simp [hs]

@[simp ↓] theorem State.Canon.wcMerge (h : s.Canon) : OptCanon (s.wcMerge phys va bytes tag) := by
  unfold State.wcMerge
  dsimp only
  split
  · simp [h]
  · split
    · simp
    · split <;> simp [h]

@[simp ↓] theorem State.canon_drainWc : s.drainWc.Canon ↔ s.Canon := by
  unfold State.drainWc
  split <;> simp

@[simp ↓] theorem State.Canon.withStores (h : s.Canon) : (s.withStores c).Canon := by
  refine Canon.foldl (fun s l hs => ?_) _ h
  split <;> simp [hs]

@[simp ↓] theorem State.Canon.storesLand (h : s.Canon) : (s.storesLand c).Canon := by
  refine Canon.foldl (fun s l hs => ?_) _ h
  simp [hs]

@[simp ↓] theorem State.Canon.loadM {m : MemOp} {cap acq : Bool} (h : s.Canon) :
    (s.loadM gd m n sx cap acq).Canon := by
  unfold State.loadM
  dsimp only
  split
  next e => exact h.reachCap.of_error e
  split
  · simp [h]
  split
  next e => simp [h.translateOne.fst e]
  next e =>
  replace h := h.translateOne.fst e
  split
  · simp [h]
  split
  next e => exact h.meets.of_some e
  split
  next e => exact h.waitClk.fst e
  next e =>
  replace h := h.waitClk.fst e
  split
  · simp [h]
  · split <;> simp [h]

@[simp ↓] theorem execLd_canon {m : MemOp} (h : s.Canon) : Res.Canon (execLd sz sx gd m s) := by
  simp [execLd, h]

@[simp ↓] theorem execLdc_canon {m : MemOp} (h : s.Canon) : Res.Canon (execLdc gd m s) := by
  simp [execLdc, h]

@[simp ↓] theorem execLdaq_canon {m : MemOp} (h : s.Canon) : Res.Canon (execLdaq sz sx gd m s) := by
  simp [execLdaq, h]

@[simp ↓] theorem State.Canon.parkAgain {lo hi : Nat} (h : s.Canon) : (s.parkAgain c lo hi).Canon := by
  refine Canon.foldl (fun s p hs => ?_) _ h
  dsimp only
  split
  · exact hs
  · split <;> simp [hs]

@[simp ↓] theorem State.Canon.storeOut {lat : Nat} (h : s.Canon) : OptCanon (s.storeOut r bytes tag lat) := by
  unfold State.storeOut
  dsimp only
  split
  · simp [h]
  split
  · split
    next e =>
      have := OptCanon.of_some h.wcMerge e
      simp [this]
    · simp
  · simp [h]

@[simp ↓] theorem State.Canon.storeM {m : MemOp} {bound : Bool} (h : s.Canon) :
    (s.storeM m bytes tag bound need).Canon := by
  unfold State.storeM
  extract_lets k c n x src post
  have post_canon (t : State) (ht : t.Canon) : (post t).Canon := canon_modMe.2 ht
  clear_value post
  split
  next e => exact h.reachCap.of_error e
  next va e =>
  extract_lets park
  have park_canon (t : State) (ht : t.Canon) : (park t).Canon := by
    simp only [park]
    split
    · simp [ht]
    · simp [ht, post_canon]
  clear_value park
  split
  · exact park_canon _ h
  split
  next e => exact park_canon _ (h.translateOne.fst e)
  next e =>
  replace h := h.translateOne.fst e
  split
  · simp [h]
  split
  next e => exact h.meets.of_some e
  split
  next e => exact h.waitClk.fst e
  next e =>
  replace h := h.waitClk.fst e
  split
  · simp [h]
  next e =>
  replace h := h.storeOut.of_some e
  exact post_canon _ (by simp [h])

@[simp ↓] theorem execSt_canon {m : MemOp} (h : s.Canon) : Res.Canon (execSt sz m a s) := by
  simp [execSt, h]

@[simp ↓] theorem execStc_canon {m : MemOp} {ga : GReg} (h : s.Canon) : Res.Canon (execStc m ga s) := by
  simp [execStc, h]

@[simp ↓] theorem State.canon_mWait {ready drains : Bool} :
    (s.mWait ready drains go).Canon ↔ if ready then (go s).Canon else s.Canon := by
  simp [State.mWait]

@[simp ↓] theorem execStrl_canon {m : MemOp} (h : s.Canon) : Res.Canon (execStrl sz m a s) := by
  simp [execStrl, h]

@[simp ↓] theorem execAcq_canon (h : s.Canon) : Res.Canon (execAcq s) := by simp [execAcq, h]

@[simp ↓] theorem execRel_canon (h : s.Canon) : Res.Canon (execRel s) := by simp [execRel, h]

@[simp ↓] theorem execFenceAll_canon (h : s.Canon) : Res.Canon (execFenceAll s) := by
  simp [execFenceAll, h]

@[simp ↓] theorem execFenceSt_canon (h : s.Canon) : Res.Canon (execFenceSt s) := by
  simp [execFenceSt, h]

@[simp ↓] theorem execFenceEng_canon (h : s.Canon) : Res.Canon (execFenceEng s) := by
  simp [execFenceEng, h]

@[simp ↓] theorem State.Canon.drainParked (h : s.Canon) : s.drainParked.Canon := by
  unfold State.drainParked
  split
  · exact h
  · split
    · dsimp only
      split
      next e => exact OptCanon.of_some (Canon.storeOut (canon_modMe.2 h)) e
      · simp [h]
    · exact h

@[simp ↓] theorem execRemoteLoadAtHome_canon (h : s.Canon) : Res.Canon (execRemoteLoadAtHome s) := by
  unfold execRemoteLoadAtHome
  refine h.atHome ?_
  dsimp only
  split <;> rename_i e <;> simp [State.canon_fst e, h]

@[simp ↓] theorem State.canon_dropMsg {x : Msg} : (s.dropMsg x).Canon ↔ s.Canon := by
  simp [State.dropMsg]

@[simp ↓] theorem State.canon_dataLands {tag : Bool} {words : List (Nat × Word)} :
    (s.dataLands m bytes tag words err).Canon ↔ s.Canon := by
  simp [State.dataLands]

@[simp ↓] theorem State.canon_oldLands {old : Word} {flags : Nat} :
    (s.oldLands m old flags err).Canon ↔ s.Canon := by
  simp [State.oldLands]

@[simp ↓] theorem State.canon_extLands {r : Option (List Byte)} : (s.extLands phys r).Canon ↔ s.Canon := by
  simp [State.extLands]

@[simp ↓] theorem execRemoteLoadData_canon (h : s.Canon) : Res.Canon (execRemoteLoadData s) := by
  unfold execRemoteLoadData
  split
  · simp [h]
  · split
    · simp [h]
    · split
      · exact h
      · dsimp only
        split <;> simp [h]

@[simp ↓] theorem execRemoteStoreAtHome_canon (h : s.Canon) : Res.Canon (execRemoteStoreAtHome s) := by
  unfold execRemoteStoreAtHome
  split
  · refine h.atHome ?_
    refine State.canon_answer.2 (State.canon_mk.2 (State.Canon.wf (State.Canon.foldl_fst (fun _ _ hp => ?_) _ h)))
    exact hp.writeHome
  · refine h.atHome ?_
    simp [h]

@[simp ↓] theorem execRevoke_canon (h : s.Canon) : Res.Canon (execRevoke s) := by
  simp [execRevoke, h]

@[simp ↓] theorem State.canon_ackLands {own err : Bool} : (s.ackLands m own err).Canon ↔ s.Canon := by
  simp [State.ackLands]

@[simp ↓] theorem execStoreAcknowledgement_canon (h : s.Canon) : Res.Canon (execStoreAcknowledgement s) := by
  unfold execStoreAcknowledgement
  split
  · simp [h]
  split <;> simp [h]

@[simp ↓] theorem execRemoteControlWindowAccess_canon (h : s.Canon) :
    Res.Canon (execRemoteControlWindowAccess s) := by
  simp [execRemoteControlWindowAccess, h]

end

/-! ## Atomics -/

section
variable {s : State} {gb gd : GReg} {ord : Ordering} {sz : Size} {m : MemOp}

@[simp ↓] theorem State.Canon.atomPerform {writer key n : Nat} {af : Bool} {k : AtomKind} {opnd cmp : Nat}
    (h : s.Canon) : (s.atomPerform writer key n af k opnd cmp).1.Canon := by
  simp [State.atomPerform, h]

/-- An atomic in the own memory: the stores before it land, it reads, disarms the watches, and is performed. -/
@[simp ↓] theorem State.Canon.atomPerform_afterStores {c c' key n va kind writer key' n' opnd cmp : Nat} {af : Bool}
    {k : AtomKind} (h : s.Canon) :
    ((((s.storesLand c).coreRead c' key n va kind).disarm key n).atomPerform writer key' n' af k opnd cmp).1.Canon :=
  h.storesLand.coreRead.disarm.atomPerform

@[simp ↓] theorem State.Canon.atomicM {kind : AtomKind} (h : s.Canon) : (s.atomicM sz ord kind gd m gb).Canon := by
  unfold State.atomicM
  dsimp only
  rw [canon_mWait]
  split
  next =>
    split
    next e => exact h.reachCap.of_error e
    split
    · simp [h]
    split
    next e => simp [h.translateOne.fst e]
    next e =>
    replace h := h.translateOne.fst e
    split
    · simp [h]
    split
    next e => exact h.meets.of_some e
    split
    next e => exact h.waitClk.fst e
    next e =>
    replace h := h.waitClk.fst e
    simp [h]
  next => exact h

@[simp ↓] theorem execAadd_canon (h : s.Canon) : Res.Canon (execAadd sz ord gd m gb s) := by
  simp [execAadd, h]

@[simp ↓] theorem execAmm_canon {op : AmmOp} (h : s.Canon) : Res.Canon (execAmm sz ord op gd m gb s) := by
  simp [execAmm, h]

@[simp ↓] theorem execAxchg_canon (h : s.Canon) : Res.Canon (execAxchg sz ord gd m gb s) := by
  simp [execAxchg, h]

@[simp ↓] theorem execAcas_canon (h : s.Canon) : Res.Canon (execAcas sz ord gd m gb s) := by
  simp [execAcas, h]

@[simp ↓] theorem execAlog_canon {op : AlogOp} (h : s.Canon) : Res.Canon (execAlog sz ord op gd m gb s) := by
  simp [execAlog, h]

@[simp ↓] theorem execAfadd_canon {bf : Bool} (h : s.Canon) : Res.Canon (execAfadd sz ord bf gd m gb s) := by
  simp [execAfadd, h]

@[simp ↓] theorem execAtomicAtHome_canon (h : s.Canon) : Res.Canon (execAtomicAtHome s) := by
  unfold execAtomicAtHome
  refine h.atHome ?_
  dsimp only
  split <;> rename_i e <;> simp [State.canon_fst e, h]

end

/-! ## Capability instructions -/

section
variable {s : State} {ga gd : GReg} {b : GImm} {t : Int}

@[simp ↓] theorem execCap_canon {f : State → GVal → GVal} (h : s.Canon) : Res.Canon (execCap gd ga f s) := by
  simp [execCap, h]

@[simp ↓] theorem execCsetb_canon (h : s.Canon) : Res.Canon (execCsetb gd ga b s) := by
  simp [execCsetb, h]

@[simp ↓] theorem execCsetbx_canon (h : s.Canon) : Res.Canon (execCsetbx gd ga b s) := by
  simp [execCsetbx, h]

@[simp ↓] theorem execCandp_canon (h : s.Canon) : Res.Canon (execCandp gd ga b s) := by
  simp [execCandp, h]

@[simp ↓] theorem execCinc_canon (h : s.Canon) : Res.Canon (execCinc gd ga b s) := by
  simp [execCinc, h]

@[simp ↓] theorem execCseta_canon (h : s.Canon) : Res.Canon (execCseta gd ga b s) := by
  simp [execCseta, h]

@[simp ↓] theorem execCget_canon {f : CapField} (h : s.Canon) : Res.Canon (execCget f gd ga s) := by
  simp [execCget, h]

@[simp ↓] theorem execCseal_canon (h : s.Canon) : Res.Canon (execCseal gd ga t s) := by
  simp [execCseal, h]

@[simp ↓] theorem execCunseal_canon (h : s.Canon) : Res.Canon (execCunseal gd ga t s) := by
  simp [execCunseal, h]

@[simp ↓] theorem execCclrt_canon (h : s.Canon) : Res.Canon (execCclrt gd ga s) := by
  simp [execCclrt, h]

@[simp ↓] theorem execCrel_canon {spec : Nat} (h : s.Canon) : Res.Canon (execCrel gd ga spec s) := by
  simp [execCrel, h]

@[simp ↓] theorem execCabs_canon (h : s.Canon) : Res.Canon (execCabs gd ga s) := by
  unfold execCabs
  rw [State.canon_guarded]
  split
  · dsimp only
    split
    · simp [h]
    · split
      · simp [h]
      · split <;> simp [h]
  · exact h

@[simp ↓] theorem execCtest_canon {t : CapTest} {qd : QReg} {gb : Option GReg} (h : s.Canon) :
    Res.Canon (execCtest t qd ga gb s) := by
  simp [execCtest, h]

end

/-! ## Sequencer instructions -/

section
variable {s : State} {off endOff e : Int} {qd qk qa : QReg} {gn : GReg} {c t : Nat} {count : GImm} {dk : DReg}

@[simp ↓] theorem State.canon_traceGo {ty : Nat} : (s.traceGo ty t).Canon ↔ s.Canon := by
  simp [State.traceGo]

@[simp ↓] theorem State.canon_branch : (s.branch t).Canon ↔ s.Canon := by simp [State.branch]

@[simp ↓] theorem State.Canon.throughCode (h : s.Canon) {g : GReg} {go : State → Nat → State}
    (hgo : ∀ t, (go s t).Canon) : (s.throughCode g go).Canon := by
  unfold State.throughCode
  dsimp only
  split <;> simp [h, hgo]

@[simp ↓] theorem execB_canon (h : s.Canon) : Res.Canon (execB off s) := by simp [execB, h]

@[simp ↓] theorem execBr_canon (h : s.Canon) : Res.Canon (execBr gn s) := by simp [execBr, h]

@[simp ↓] theorem execCall_canon (h : s.Canon) : Res.Canon (execCall off s) := by simp [execCall, h]

@[simp ↓] theorem execCallr_canon (h : s.Canon) : Res.Canon (execCallr gn s) := by
  simp [execCallr, h]

@[simp ↓] theorem execRet_canon (h : s.Canon) : Res.Canon (execRet gn s) := by simp [execRet, h]

@[simp ↓] theorem State.Canon.loopPush {xq : Option QReg} (h : s.Canon) : (s.loopPush count endOff xq).Canon := by
  simp [State.loopPush, h]

@[simp ↓] theorem execLoop_canon (h : s.Canon) : Res.Canon (execLoop count endOff s) := by
  simp [execLoop, h]

@[simp ↓] theorem execLoopx_canon (h : s.Canon) : Res.Canon (execLoopx qk count endOff s) := by
  simp [execLoopx, h]

@[simp ↓] theorem execBengOn_canon (h : s.Canon) {taken : State → Bool} {then_ : State → State}
    (ht : (then_ s).Canon) : Res.Canon (execBengOn taken then_ off s) := by
  simp [execBengOn, h, ht]

@[simp ↓] theorem execBengZ_canon (h : s.Canon) : Res.Canon (execBengZ dk off s) := by
  simp [execBengZ, h]

@[simp ↓] theorem execBengNz_canon (h : s.Canon) : Res.Canon (execBengNz dk off s) := by
  simp [execBengNz, h]

@[simp ↓] theorem execBengF_canon (h : s.Canon) : Res.Canon (execBengF e off s) := by
  simp [execBengF, h]

@[simp ↓] theorem execBengFc_canon (h : s.Canon) : Res.Canon (execBengFc e off s) := by
  simp [execBengFc, h]

@[simp ↓] theorem State.canon_touchSlot : s.touchSlot.Canon ↔ s.Canon := by simp [State.touchSlot]

@[simp ↓] theorem execNop_canon (h : s.Canon) : Res.Canon (execNop s) := by simp [execNop, h]

@[simp ↓] theorem execWait_canon {dk : Option DReg} (h : s.Canon) : Res.Canon (execWait dk s) := by
  simp [execWait, h]

@[simp ↓] theorem execWaitAll_canon (h : s.Canon) : Res.Canon (execWaitAll s) := by
  simp [execWaitAll, h]

@[simp ↓] theorem execExit_canon {status : GImm} (h : s.Canon) : Res.Canon (execExit status s) := by
  simp [execExit, h]

@[simp ↓] theorem State.Canon.stopRecord {reason : Nat} (h : s.Canon) : (s.stopRecord c reason).Canon := by
  unfold State.stopRecord
  dsimp only
  split
  · simp [h]
  · exact h

@[simp ↓] theorem execHalt_canon (h : s.Canon) : Res.Canon (execHalt s) := by simp [execHalt, h]

@[simp ↓] theorem execSleep_canon {n : GImm} (h : s.Canon) : Res.Canon (execSleep n s) := by
  simp [execSleep, h]

@[simp ↓] theorem execQop_canon {f : QFn} {qb : QReg} (h : s.Canon) : Res.Canon (execQop f qd qa qb s) := by
  simp [execQop, h]

@[simp ↓] theorem execQmov_canon (h : s.Canon) : Res.Canon (execQmov qd qa s) := by
  simp [execQmov, h]

@[simp ↓] theorem execQmovG_canon (h : s.Canon) : Res.Canon (execQmovG qd gn s) := by
  simp [execQmovG, h]

@[simp ↓] theorem execQmovI_canon {v : Int} (h : s.Canon) : Res.Canon (execQmovI qd v s) := by
  simp [execQmovI, h]

@[simp ↓] theorem execQrd_canon {gd : GReg} {n : Int} (h : s.Canon) : Res.Canon (execQrd gd qk n s) := by
  simp [execQrd, h]

@[simp ↓] theorem execTrap_canon {code : Int} (h : s.Canon) : Res.Canon (execTrap code s) := by
  simp [execTrap, h]

@[simp ↓] theorem execTrapEsc_canon (h : s.Canon) : Res.Canon (execTrapEsc s) := by
  simp [execTrapEsc, h]

@[simp ↓] theorem State.Canon.endByTrap (h : s.Canon) : (s.endByTrap c).Canon := by
  simp [State.endByTrap, h]

@[simp ↓] theorem State.Canon.resumeAsEret {kind : Nat} (h : s.Canon) : (s.resumeAsEret c kind).Canon := by
  simp [State.resumeAsEret, h]

@[simp ↓] theorem State.Canon.eret {rgn : Bool} (h : s.Canon) : (s.eret rgn).Canon := by
  simp [State.eret, h]

@[simp ↓] theorem execEret_canon (h : s.Canon) : Res.Canon (execEret s) := by simp [execEret, h]

@[simp ↓] theorem execEretRgn_canon (h : s.Canon) : Res.Canon (execEretRgn s) := by
  simp [execEretRgn, h]

@[simp ↓] theorem execRgn_canon {desc : Int} (h : s.Canon) : Res.Canon (execRgn desc s) := by
  simp [execRgn, h]

end

/-! ## Vector operands and steps -/

section
variable {s : State} {col field lat n occ : Nat} {f : Fmt} {d : VSM} {srcs : List (Nat × VSM)} {rd wr : Bool}
    {step : State → VRes StepOut} {fn : List Nat → Nat × Nat} {l : List Nat}

@[simp ↓] theorem State.Canon.formatTrap {found want : Fmt} (h : s.Canon) :
    (s.formatTrap field found want).Canon := by
  simp [State.formatTrap, h]

@[simp ↓] theorem State.Canon.vAccess {cap : GVal} {g : GReg} {x align : Nat} (h : s.Canon) :
    ExcCanon (·.1.Canon) (s.vAccess cap field g x n align rd wr) := by
  unfold State.vAccess
  split
  next e => exact h.rangeSide.of_error e
  next e =>
    replace h := h.rangeSide.of_ok e
    split
    next e => exact h.meetRange.of_some e
    next => exact h

@[simp ↓] theorem State.Canon.vReadPieces {va : Nat} {ps : List Piece} (h : s.Canon) :
    (s.vReadPieces f va ps).1.Canon := Canon.foldl (fun _ _ hs => hs.coreRead.disarm) ps h

@[simp ↓] theorem State.Canon.maskOf (h : s.Canon) : ExcCanon (·.1.Canon) s.maskOf := by
  unfold State.maskOf
  split <;> simp [h]

@[simp ↓] theorem State.Canon.streamOf {k : SReg} (h : s.Canon) : ExcCanon (·.1.Canon) (s.streamOf k f field) := by
  unfold State.streamOf
  split <;> simp [h]

@[simp ↓] theorem State.Canon.streamAccess {t : Stream} {w : Nat} (h : s.Canon) :
    ExcCanon (·.1.Canon) (s.streamAccess t field w rd wr l) := by
  refine ExcCanon.foldl (fun r a hr => ?_) l h
  split
  · exact hr
  next s w ps =>
    split
    next e => exact (State.Canon.vAccess (s := s) hr).of_error e
    next e => exact (State.Canon.vAccess (s := s) hr).of_ok e

@[simp ↓] theorem State.Canon.vOperand {op : VSM} (h : s.Canon) : ExcCanon (·.1.Canon) (s.vOperand f field op) := by
  unfold State.vOperand
  dsimp only
  split
  · simp [h]
  · split
    next e => exact h.streamOf.of_error e
    next e =>
      replace h := h.streamOf.of_ok e
      split
      · exact h
      split
      next e => exact h.streamAccess.of_error e
      next e =>
        replace h := h.streamAccess.of_ok e
        refine excCanon_ok.2 (Canon.foldl_fst (fun p a hp => ?_) _ h)
        exact hp.vReadPieces (f := f) (va := 0) (ps := a)
  · split
    next e => exact h.vAccess.of_error e
    next e => exact (h.vAccess.of_ok e).vReadPieces (f := f)

@[simp ↓] theorem State.Canon.vOperands (h : s.Canon) {l : List (Nat × VSM)} :
    ExcCanon (·.1.Canon) (s.vOperands f l) := by
  induction l generalizing s with
  | nil => exact h
  | cons x l ih =>
    unfold State.vOperands
    split
    next e => exact h.vOperand.of_error e
    next e =>
      replace h := h.vOperand.of_ok e
      split
      next e => exact (ih h).of_error e
      next e =>
        replace h := (ih h).of_ok e
        exact h

@[simp ↓] theorem State.Canon.vPlace {mask : Option VBits} {policy : Bool} (h : s.Canon) :
    ExcCanon (·.1.Canon) (s.vPlace f d mask policy l) := by
  unfold State.vPlace
  dsimp only
  split
  · exact h
  · split
    next e => exact h.streamOf.of_error e
    next e =>
      replace h := h.streamOf.of_ok e
      split
      · exact h
      split
      next e => exact h.streamAccess.of_error e
      next e => exact h.streamAccess.of_ok e
  · split
    next e => exact h.vAccess.of_error e
    next e => exact h.vAccess.of_ok e

@[simp ↓] theorem State.Canon.ahead (h : s.Canon) : (s.ahead col n).Canon := by
  refine Canon.foldl (fun s l hs => ?_) _ h
  split <;> simp [hs]

@[simp ↓] theorem State.canon_stepLands {pen : Nat} {slot : Option DReg} {last : Bool} {o : StepOut} :
    (s.stepLands col lat pen slot last o).Canon ↔ s.Canon := by
  simp [State.stepLands]

@[simp ↓] theorem State.Canon.vOne {s0 : State} (hstep : ExcCanon (·.1.Canon) (step s0)) :
    (s0.vOne col lat occ step).Canon := by
  unfold State.vOne
  split
  next e => exact hstep.of_error e
  next e =>
    replace hstep := hstep.of_ok e
    split
    next e => exact hstep.waitClk.fst e
    next e => simp [hstep.waitClk.fst e]

@[simp ↓] theorem State.Canon.vGuarded (h : s.Canon) {regs : List VReg} {body : State → State} (hb : (body s).Canon) :
    Res.Canon (s.vGuarded col regs body occ) := by
  simp [State.vGuarded, h, hb]

@[simp ↓] theorem State.Canon.vRun (h : s.Canon) {total : Nat} {init : Int × Nat}
    {step : State → Int × Nat → VRes (StepOut × Int × Nat)} {fin : Int × Nat → List Wr × Nat}
    (hstep : ∀ t a, t.Canon → ExcCanon (·.1.Canon) (step t a)) : (s.vRun col lat total init step fin).Canon := by
  unfold State.vRun
  extract_lets r s0
  clear_value r
  split
  · simp [h]
  split
  next e =>
    split
    · exact (hstep _ _ h).of_error e
    split
    next e => exact (hstep _ _ (canon_modMe.2 h)).of_error e
    next e => exact (hstep _ _ (canon_modMe.2 h)).of_ok e
  next e =>
    replace h := (hstep _ _ h).of_ok e
    split
    next e => exact h.waitClk.fst e
    next e => simp [h.waitClk.fst e]

@[simp ↓] theorem State.Canon.vSteps (h : s.Canon) {f : VFn} {srcs ops : List VSM}
    (hstep : ∀ t, t.Canon → ExcCanon (·.1.Canon) (step t)) : Res.Canon (s.vSteps col lat f srcs ops step) := by
  refine h.vGuarded ?_
  split
  · refine h.vRun fun t a ht => ?_
    split
    next e => exact (hstep t ht).of_error e
    next e => exact (hstep t ht).of_ok e
  · exact .vOne (hstep _ h)

@[simp ↓] theorem State.Canon.vMap {f : VFn} (h : s.Canon) : ExcCanon (·.1.Canon) (s.vMap f d srcs fn) :=
  h.maskOf.bind fun _ h => h.vOperands.bind fun _ h => h.vPlace.bind fun _ h => h

@[simp ↓] theorem execMap_canon {f : VFn} (h : s.Canon) : Res.Canon (execMap col lat f d srcs fn s) :=
  h.vSteps fun _ h => h.vMap

@[simp ↓] theorem State.Canon.vMapMask {f : VFn} {d : VReg} {fn : List Nat → Bool × Nat} (h : s.Canon) :
    ExcCanon (·.1.Canon) (s.vMapMask f d srcs fn) := h.maskOf.bind fun _ h => h.vOperands.bind fun _ h => h

end

/-! ## Vector instructions -/

section
variable {s : State} {f : VFn} {a d b : VSM} {vd va vm vi : VReg} {gd gb ga : GReg} {spec : Nat}

@[simp ↓] theorem execVadd_canon (h : s.Canon) : Res.Canon (execVadd f d a b s) := by
  simp [execVadd, h]

@[simp ↓] theorem execVsub_canon (h : s.Canon) : Res.Canon (execVsub f d a b s) := by
  simp [execVsub, h]

@[simp ↓] theorem execVmul_canon (h : s.Canon) : Res.Canon (execVmul f d a b s) := by
  simp [execVmul, h]

@[simp ↓] theorem execVmin_canon (h : s.Canon) : Res.Canon (execVmin f d a b s) := by
  simp [execVmin, h]

@[simp ↓] theorem execVmax_canon (h : s.Canon) : Res.Canon (execVmax f d a b s) := by
  simp [execVmax, h]

@[simp ↓] theorem execVfma_canon (h : s.Canon) : Res.Canon (execVfma f d a b s) := by
  simp [execVfma, h]

@[simp ↓] theorem execVfms_canon (h : s.Canon) : Res.Canon (execVfms f d a b s) := by
  simp [execVfms, h]

@[simp ↓] theorem execVabs_canon (h : s.Canon) : Res.Canon (execVabs f d a s) := by
  simp [execVabs, h]

@[simp ↓] theorem execVneg_canon (h : s.Canon) : Res.Canon (execVneg f d a s) := by
  simp [execVneg, h]

@[simp ↓] theorem execVand_canon (h : s.Canon) : Res.Canon (execVand f d a b s) := by
  simp [execVand, h]

@[simp ↓] theorem execVor_canon (h : s.Canon) : Res.Canon (execVor f d a b s) := by
  simp [execVor, h]

@[simp ↓] theorem execVxor_canon (h : s.Canon) : Res.Canon (execVxor f d a b s) := by
  simp [execVxor, h]

@[simp ↓] theorem execVnot_canon (h : s.Canon) : Res.Canon (execVnot f d a s) := by
  simp [execVnot, h]

@[simp ↓] theorem execShift_canon {left arith : Bool} {b : VSMI} (h : s.Canon) :
    Res.Canon (execShift left arith f d a b s) := by
  unfold execShift
  split <;> simp [h]

@[simp ↓] theorem execVshl_canon {b : VSMI} (h : s.Canon) : Res.Canon (execVshl f d a b s) := by
  simp [execVshl, h]

@[simp ↓] theorem execVshr_canon {b : VSMI} (h : s.Canon) : Res.Canon (execVshr f d a b s) := by
  simp [execVshr, h]

@[simp ↓] theorem execVsra_canon {b : VSMI} (h : s.Canon) : Res.Canon (execVsra f d a b s) := by
  simp [execVsra, h]

@[simp ↓] theorem execVcmp_canon (h : s.Canon) : Res.Canon (execVcmp f vd a spec s) :=
  h.vSteps fun _ h => h.vMapMask

@[simp ↓] theorem execVsel_canon (h : s.Canon) : Res.Canon (execVsel f d a b s) :=
  h.vSteps fun _ h => h.maskOf.bind fun _ h => h.vOperands.bind fun _ h => h.vPlace.bind fun _ h => h

@[simp ↓] theorem execVpres_canon (h : s.Canon) : Res.Canon (execVpres f vd a s) :=
  h.vSteps fun _ h => h.vMapMask

@[simp ↓] theorem execVcnt_canon (h : s.Canon) : Res.Canon (execVcnt f gd a s) :=
  h.vSteps fun _ h => h.maskOf.bind fun _ h => h.vOperand.bind fun _ h => h

@[simp ↓] theorem State.Canon.maskReg {field : Nat} {v : VReg} (h : s.Canon) :
    ExcCanon (·.1.Canon) (s.maskReg field v) := by
  simp [State.maskReg, h]

@[simp ↓] theorem execVmkabs_canon (h : s.Canon) : Res.Canon (execVmkabs f d a vm s) :=
  h.vSteps fun _ h => h.maskOf.bind fun _ h => h.vOperands.bind fun _ h => h.maskReg.bind fun _ h =>
    h.vPlace.bind fun _ h => h

@[simp ↓] theorem State.Canon.vParts {src dst : Fmt} {p : Nat} {policy : Bool} {fn : Nat → Nat × Nat} (h : s.Canon) :
    ExcCanon (·.1.Canon) (s.vParts vd va src dst p policy fn) :=
  h.maskOf.bind fun _ h => h.vOperand.bind fun _ h => h

@[simp ↓] theorem execVcvt_canon (h : s.Canon) : Res.Canon (execVcvt f vd va spec s) := by
  unfold execVcvt
  extract_lets _ _
  exact h.vGuarded (.vOne h.vParts)

@[simp ↓] theorem execVquant_canon (h : s.Canon) : Res.Canon (execVquant f vd va gb s) := by
  refine h.vGuarded ?_
  dsimp only
  split
  · simp [h]
  · exact .vOne h.vParts

@[simp ↓] theorem State.Canon.vIndices {f : Fmt} (h : s.Canon) : ExcCanon (·.1.Canon) (s.vIndices f vi) := by
  simp [State.vIndices, h]

@[simp ↓] theorem execVperm_canon (h : s.Canon) : Res.Canon (execVperm f vd va vi s) :=
  h.vGuarded (.vOne (h.maskOf.bind fun _ h => h.vOperand.bind fun _ h => h.vIndices.bind fun _ h => h))

@[simp ↓] theorem execVslide_canon {b : GImm} (h : s.Canon) : Res.Canon (execVslide f vd va b s) :=
  h.vGuarded (.vOne (h.maskOf.bind fun _ h => h.vOperand.bind fun _ h => h))

@[simp ↓] theorem execByMask_canon {fn : VBits → List Nat → List Nat} (h : s.Canon) :
    Res.Canon (execByMask f vd va vm fn s) :=
  h.vGuarded (.vOne (h.vOperand.bind fun _ h => h.maskReg.bind fun _ h => h))

@[simp ↓] theorem execVcmpr_canon (h : s.Canon) : Res.Canon (execVcmpr f vd va vm s) := by
  simp [execVcmpr, h]

@[simp ↓] theorem execVexpd_canon (h : s.Canon) : Res.Canon (execVexpd f vd va vm s) := by
  simp [execVexpd, h]

@[simp ↓] theorem execVmlog_canon (h : s.Canon) : Res.Canon (execVmlog f vd va spec s) := by
  unfold execVmlog
  extract_lets _
  exact h.vGuarded (.vOne (h.maskReg.bind fun _ h => h.maskReg.bind fun _ h => h))

@[simp ↓] theorem execVmpop_canon (h : s.Canon) : Res.Canon (execVmpop f gd vm s) :=
  h.vGuarded (.vOne (h.maskReg.bind fun _ h => h))

@[simp ↓] theorem execViota_canon (h : s.Canon) : Res.Canon (execViota f vd s) :=
  h.vGuarded (.vOne (h.maskOf.bind fun _ h => h))

@[simp ↓] theorem State.Canon.vIndex {f : Fmt} {b : GImm} (h : s.Canon) : ExcCanon (·.1.Canon) (s.vIndex f b) := by
  unfold State.vIndex
  split <;> simp [h]

@[simp ↓] theorem execVextr_canon {b : GImm} (h : s.Canon) : Res.Canon (execVextr f gd va b s) :=
  h.vGuarded (.vOne (h.vOperand.bind fun _ h => h.vIndex.bind fun _ h => h))

@[simp ↓] theorem execVins_canon {b : GImm} (h : s.Canon) : Res.Canon (execVins f vd ga b s) := by
  refine h.vGuarded (.vOne (h.vOperand.bind fun _ h => h.vIndex.bind fun _ h => ?_))
  dsimp only
  split <;> exact h

@[simp ↓] theorem execVbaddq_canon {vb : VReg} (h : s.Canon) : Res.Canon (execVbaddq f vd va vb s) := by
  unfold execVbaddq
  extract_lets _
  exact h.vGuarded (.vOne (h.maskOf.bind fun _ h => h.vOperand.bind fun _ h => h.vOperand.bind fun _ h =>
    h.vOperand.bind fun _ h => h.vOperand.bind fun _ h => h))

@[simp ↓] theorem execVrng_canon (h : s.Canon) : Res.Canon (execVrng f vd ga gb s) :=
  h.vGuarded (.vOne (h.maskOf.bind fun _ h => h))

end

/-! ## Vector loads and stores -/

section
variable {s : State} {f : VFn} {m : MemOp} {vd va vi : VReg} {b : GImm} {x : Nat} {sk : SReg} {pair wr : Bool}
    {addrs : State → Nat → VRes (List (Option Nat) × Nat)} {half : Int}

@[simp ↓] theorem execVld_canon (h : s.Canon) : Res.Canon (execVld f vd m pair s) :=
  h.vGuarded (.vOne (h.maskOf.bind fun _ h => h.vAccess.bind fun _ h => h.vReadPieces (f := f.fmt)))

@[simp ↓] theorem execVst_canon (h : s.Canon) : Res.Canon (execVst f m va pair s) := by
  refine h.vGuarded (.vOne (h.maskOf.bind fun _ h => ?_))
  dsimp only
  split
  · simp [h]
  · exact h.vAccess.bind fun _ h => h

@[simp ↓] theorem State.Canon.elemAccess {field wb : Nat} {l : List (Option Nat)} (h : s.Canon) :
    ExcCanon (·.1.Canon) (s.elemAccess m field wb wr l) := by
  refine ExcCanon.foldl (fun r a hr => ?_) l h
  split
  · exact hr
  next s w ps =>
    split
    · exact hr
    · split
      next e => exact (State.Canon.vAccess (s := s) hr).of_error e
      next e => exact (State.Canon.vAccess (s := s) hr).of_ok e

@[simp ↓] theorem State.Canon.vGather (h : s.Canon) (ha : ∀ t x, t.Canon → ExcCanon (·.1.Canon) (addrs t x)) :
    (s.vGather f vd m addrs).Canon := by
  unfold State.vGather
  refine .vOne (h.maskOf.bind fun _ h => (ha _ _ h).bind fun _ h => h.elemAccess.bind fun _ h => excCanon_pure.2 ?_)
  refine Canon.foldl_fst (fun _ p hp => ?_) _ h
  split
  · exact hp
  next p => exact hp.vReadPieces (f := f.fmt) (va := 0) (ps := p)

@[simp ↓] theorem State.Canon.vScatter (h : s.Canon) (ha : ∀ t x, t.Canon → ExcCanon (·.1.Canon) (addrs t x)) :
    (s.vScatter f m va addrs).Canon := by
  unfold State.vScatter
  refine .vOne (h.maskOf.bind fun _ h => h.vOperand.bind fun _ h => (ha _ _ h).bind fun _ h => ?_)
  exact h.elemAccess.bind fun _ h => excCanon_pure.2 h

@[simp ↓] theorem strided_canon {f : Fmt} (h : s.Canon) : ExcCanon (·.1.Canon) (strided f b s x) := by
  simp [strided, h]

@[simp ↓] theorem indexed_canon {f : Fmt} (h : s.Canon) : ExcCanon (·.1.Canon) (indexed f vi s x) := by
  unfold indexed
  split
  next e => exact h.vIndices.of_error e
  next e => exact h.vIndices.of_ok e

@[simp ↓] theorem execVlds_canon (h : s.Canon) : Res.Canon (execVlds f vd m b s) :=
  h.vGuarded (h.vGather fun _ _ h => strided_canon h)

@[simp ↓] theorem execVsts_canon (h : s.Canon) : Res.Canon (execVsts f m va b s) :=
  h.vGuarded (h.vScatter fun _ _ h => strided_canon h)

@[simp ↓] theorem execVldx_canon (h : s.Canon) : Res.Canon (execVldx f vd m vi s) :=
  h.vGuarded (h.vGather fun _ _ h => indexed_canon h)

@[simp ↓] theorem execVstx_canon (h : s.Canon) : Res.Canon (execVstx f m va vi s) :=
  h.vGuarded (h.vScatter fun _ _ h => indexed_canon h)

@[simp ↓] theorem execVbcast_canon {a : GImmJ} (h : s.Canon) : Res.Canon (execVbcast f vd a s) :=
  h.vGuarded (.vOne (h.maskOf.bind fun _ h => h))

@[simp ↓] theorem execVmov_canon (h : s.Canon) : Res.Canon (execVmov f vd va s) := by
  simp [execVmov, h]

@[simp ↓] theorem execVretag_canon (h : s.Canon) : Res.Canon (execVretag f vd va s) := by
  simp [execVretag, h]

@[simp ↓] theorem execVzenc_canon (h : s.Canon) : Res.Canon (execVzenc f vd va half s) :=
  h.vGuarded (.vOne (h.vOperand.bind fun _ h => h))

@[simp ↓] theorem execVzdec_canon (h : s.Canon) : Res.Canon (execVzdec f vd va half s) := by
  simp [execVzdec, h]

@[simp ↓] theorem State.Canon.streamEnd (h : s.Canon) : ExcCanon (·.1.Canon) (s.streamEnd x wr) := by
  unfold State.streamEnd
  split
  next e => simp [h.translate.fst e]
  next e => exact h.translate.fst e

@[simp ↓] theorem execScfg_canon {ga : GReg} (h : s.Canon) : Res.Canon (execScfg f sk ga m s) := by
  refine h.vGuarded (.vOne (h.vAccess.bind fun p h => ?_))
  replace h := h.vReadPieces (f := .noFmt) (va := s.me.memAddr m 128) (ps := p.2.2)
  dsimp only
  split
  · simp [h]
  split
  · refine h.streamEnd.bind fun _ h => h.streamEnd.bind fun _ h => ?_
    exact ExcCanon.ite (by simp [h]) h
  · simp [h]

@[simp ↓] theorem execSstat_canon {gd : GReg} (h : s.Canon) : Res.Canon (execSstat f gd sk s) := by
  simp [execSstat, h]

@[simp ↓] theorem execSrst_canon (h : s.Canon) : Res.Canon (execSrst f sk s) := by
  simp [execSrst, h]

end

/-! ## Vector reductions -/

section
variable {s : State} {f : VFn} {a : VSM} {gd : GReg} {gc : Option GReg}

@[simp ↓] theorem execReduce_canon {op : RedOp} {place : Int × Nat → List Wr × Nat} (h : s.Canon) :
    Res.Canon (execReduce op f a place s) := by
  unfold execReduce
  refine h.vGuarded ?_
  extract_lets step
  have step_canon (t : State) (a : Int × Nat) (ht : t.Canon) : ExcCanon (·.1.Canon) (step t a) :=
    ht.maskOf.bind fun _ h => h.vOperand.bind fun _ h => h
  clear_value step
  split
  · exact h.vRun step_canon
  · refine .vOne ?_
    split
    next e => exact (step_canon _ _ h).of_error e
    next e => exact (step_canon _ _ h).of_ok e

@[simp ↓] theorem execVreds_canon (h : s.Canon) : Res.Canon (execVreds f gd a gc s) := by
  simp [execVreds, h]

@[simp ↓] theorem execVredx_canon (h : s.Canon) : Res.Canon (execVredx f gd a gc s) := by
  simp [execVredx, h]

@[simp ↓] theorem execVredn_canon (h : s.Canon) : Res.Canon (execVredn f gd a gc s) := by
  simp [execVredn, h]

@[simp ↓] theorem execVredm_canon {mode : Int} (h : s.Canon) : Res.Canon (execVredm f gd a mode s) := by
  simp [execVredm, h]

@[simp ↓] theorem execVredq_canon {ak : AReg} {gn : GReg} {spec : Nat} (h : s.Canon) :
    Res.Canon (execVredq f ak gn spec s) := by
  simp [execVredq, h]

@[simp ↓] theorem execVredqVector_canon (h : s.Canon) : Res.Canon (execVredqVector s) := by
  unfold execVredqVector
  split
  · simp [h]
  split <;> simp [h]

@[simp ↓] theorem State.Canon.vredqStep {c : Nat} (h : s.Canon) : Agenda.Canon (s.vredqStep c) := by
  unfold State.vredqStep
  dsimp only
  split
  · simp
  split <;> simp [h]

end

/-! ## Tensor instructions -/

section
variable {s : State} {c n va : Nat} {o : TensorOp} {f : VFn} {ak : AReg} {m : MemOp} {fp : List CPiece} {vd : VReg}
    {row : Int} {t : Trap}

@[simp ↓] theorem State.canon_lockFoot : (s.lockFoot fp).Canon ↔ s.Canon := by simp [State.lockFoot]

@[simp ↓] theorem State.Canon.holdFoot (h : s.Canon) : (s.holdFoot fp).Canon := by
  have hd : (fp.foldl (fun s p => s.disarm (keyOf p.phys) p.len) s).Canon :=
    Canon.foldl (fun _ _ hs => hs.disarm) fp h
  simp [State.holdFoot, h, hd]

@[simp ↓] theorem State.canon_tIssue {lat : Nat} {wrs : List Wr} : (s.tIssue lat wrs).Canon ↔ s.Canon := by
  simp [State.tIssue]

@[simp ↓] theorem execMcfg_canon {ga gb : GReg} (h : s.Canon) : Res.Canon (execMcfg f ga gb s) := by
  simp [execMcfg, h]

@[simp ↓] theorem execMzero_canon (h : s.Canon) : Res.Canon (execMzero f ak s) := by
  simp [execMzero, h]

@[simp ↓] theorem execMldb_canon (h : s.Canon) : Res.Canon (execMldb f m s) := by
  unfold execMldb
  extract_lets sl beats
  rw [State.canon_guarded]
  split
  · extract_lets e cap x
    split
    · simp [h]
    split
    · simp [h]
    split
    · simp [h]
    split
    · simp [h]
    extract_lets fp
    split
    · simp [h]
    · simp +zetaDelta [h]
  · exact h

@[simp ↓] theorem State.Canon.mmaStart {gang : Bool} {f : Fmt} {vas : List Nat} (h : s.Canon) :
    (s.mmaStart gang f ak m vas fp).Canon := by
  simp [State.mmaStart, h]

@[simp ↓] theorem execMma_canon (h : s.Canon) : Res.Canon (execMma f ak m s) := by
  unfold execMma
  dsimp only
  rw [State.canon_guarded]
  split
  · split
    · simp [h]
    split
    · simp [h]
    split
    · simp [h]
    · simp [h]
  · exact h

@[simp ↓] theorem execGmma_canon (h : s.Canon) : Res.Canon (execGmma f ak m s) := by
  simp [execGmma, h]

@[simp ↓] theorem State.canon_atGmma : (s.atGmma c).Canon ↔ s.Canon := by simp [State.atGmma]

@[simp ↓] theorem State.canon_takeGmma : (s.takeGmma c).Canon ↔ s.Canon := by simp [State.takeGmma]

@[simp ↓] theorem State.Canon.startGmma (h : s.Canon) : s.startGmma.Canon := by
  unfold State.startGmma
  split
  · split <;> simp [h]
  · simp [h]

@[simp ↓] theorem execGmmaJoin_canon (h : s.Canon) : Res.Canon (execGmmaJoin s) := by
  unfold execGmmaJoin
  extract_lets
  split
  · exact h
  · exact State.Canon.foldl (fun _ _ hs => (State.canon_takeGmma.2 hs).raise) _ h
  · refine State.Canon.foldl (fun s m hs => ?_) _ h
    simp [hs]

@[simp ↓] theorem gmmaStep_canon (h : s.Canon) : Agenda.Canon (gmmaStep s c) := by
  unfold gmmaStep
  split
  · simp
  split <;> simp [h]

@[simp ↓] theorem State.canon_pipeBank : (s.pipeBank c o).Canon ↔ s.Canon := by
  simp [State.pipeBank]

@[simp ↓] theorem State.canon_pipeWait : (s.pipeWait c o n).Canon ↔ s.Canon := by
  unfold State.pipeWait
  split
  · simp
  split <;> simp

@[simp ↓] theorem State.Canon.pipeRead {f : Fmt} (h : s.Canon) : (s.pipeRead o f va n).1.Canon := by
  unfold State.pipeRead
  dsimp only
  split
  next e => exact h.translateRange.fst e
  next e =>
    replace h := h.translateRange.fst e
    split
    · exact h
    · exact Canon.foldl (fun _ _ hs => hs.coreRead) _ h

@[simp ↓] theorem State.Canon.pipeReads {f : Fmt} {l : List (Nat × Nat)} (h : s.Canon) :
    (s.pipeReads o f l).1.Canon := by
  refine Canon.foldl_fst (fun p r hp => ?_) l h
  split
  · split
    next e => exact Canon.fst (State.Canon.pipeRead hp) e
    next e => exact Canon.fst (State.Canon.pipeRead hp) e
  · exact hp

theorem bzBeat_canon {fuel : Nat} :
    ∀ {room : Nat} {p : State × Nat × List Byte × List (Nat × Nat)}, p.1.Canon → (bzBeat o fuel room p).1.Canon := by
  induction fuel with
  | zero => exact fun h => h
  | succ fuel ih =>
    intro room p h
    unfold bzBeat
    dsimp only
    split
    · exact h
    split
    · exact h
    split
    · exact h
    split
    next e => exact h.pipeRead.fst e
    next e => exact ih (h.pipeRead.fst e)

@[simp ↓] theorem State.canon_loadDone {rows : List (Nat × Nat)} {beats flags : Nat} :
    (s.loadDone o rows beats flags).Canon ↔ s.Canon := by
  simp [State.loadDone]

@[simp ↓] theorem State.canon_pipeFail {serial : Nat} : (s.pipeFail c serial t).Canon ↔ s.Canon := by
  simp [State.pipeFail]

@[simp ↓] theorem State.Canon.bzRead (h : s.Canon) : (s.bzRead o).Canon := by
  unfold State.bzRead
  dsimp only
  split
  next e => simp [(bzBeat_canon h).fst e]
  next e =>
    replace e := (bzBeat_canon h).fst e
    simp [h, e]

@[simp ↓] theorem State.Canon.loadRead (h : s.Canon) : (s.loadRead o).Canon := by
  unfold State.loadRead
  dsimp only
  split
  · exact h.bzRead
  split
  · simp [h]
  split <;> rename_i e <;> simp [h.pipeReads.fst e]

@[simp ↓] theorem State.Canon.mmaRead (h : s.Canon) : (s.mmaRead o).Canon := by
  unfold State.mmaRead
  dsimp only
  split
  · simp [h]
  split <;> rename_i e <;> simp [h.pipeReads.fst e]

@[simp ↓] theorem State.Canon.tileTranslate (h : s.Canon) : (s.tileTranslate c va).1.Canon := by
  unfold State.tileTranslate
  split
  · exact h
  split
  · exact h
  split <;> rename_i e <;> simp [h.walkNow.fst e]

@[simp ↓] theorem State.Canon.tileRead (h : s.Canon) : (s.tileRead c o va n).1.Canon := by
  refine Canon.foldl_fst (fun p a hp => ?_) _ h
  dsimp only
  split
  · split
    next e => exact hp.tileTranslate.fst e
    next e =>
      replace hp := hp.tileTranslate.fst e
      split
      · exact hp
      split
      · exact hp
      split
      · exact hp
      split
      · exact hp
      split
      · exact hp.dieDown
      split
      · exact hp.stackDown
      split <;> rename_i e <;> exact hp.onRead.fst e
  · exact hp

@[simp ↓] theorem State.Canon.gangRead (h : s.Canon) : (s.gangRead c o).Canon := by
  unfold State.gangRead
  extract_lets all each fault
  split
  next e =>
    replace h : State.Canon _ := Canon.fst (Canon.foldl_fst (fun p a hp => ?_) o.ranges h) e
    · split <;> simp [fault, each, h]
    · split
      · split <;> rename_i e <;> exact hp.tileRead.fst e
      · exact hp

@[simp ↓] theorem tensorReadStep_canon (h : s.Canon) : Agenda.Canon (tensorReadStep s c) := by
  unfold tensorReadStep
  dsimp only
  split
  · simp
  split <;> simp [h]

@[simp ↓] theorem State.Canon.topFault (h : s.Canon) : (s.topFault c o t).Canon := by
  simp [State.topFault, h]

@[simp ↓] theorem State.Canon.chunkReport {code : Nat} (h : s.Canon) : (s.chunkReport c o code).Canon := by
  simp [State.chunkReport, h]

@[simp ↓] theorem execChunkLand_canon (h : s.Canon) : Res.Canon (execChunkLand s) := by
  unfold execChunkLand
  dsimp only
  split
  · split
    · exact h
    · simp [h]
  split
  · simp [h]
  · simp [h]
  split
  · exact h
  split
  · split <;> simp [h]
  · split <;> simp [h]

@[simp ↓] theorem tensorLandStep_canon (h : s.Canon) : Agenda.Canon (tensorLandStep s c) := by
  unfold tensorLandStep
  dsimp only
  split <;> simp [h]

@[simp ↓] theorem execMdrn_canon {spec : Nat} (h : s.Canon) : Res.Canon (execMdrn f vd ak spec s) := by
  unfold execMdrn
  extract_lets _ _ _
  refine h.vGuarded ?_
  dsimp only
  split
  · simp [h]
  · exact State.canon_modMe.2 (.vOne (h.maskOf.bind fun _ h => h))

@[simp ↓] theorem execMrdr_canon (h : s.Canon) : Res.Canon (execMrdr f vd ak row s) := by
  simp [execMrdr, h]

@[simp ↓] theorem execMwrr_canon {va : VReg} (h : s.Canon) : Res.Canon (execMwrr f ak va row s) := by
  simp [execMwrr, h]

@[simp ↓] theorem execMstat_canon {gd : GReg} (h : s.Canon) : Res.Canon (execMstat f gd s) := by
  simp [execMstat, h]

@[simp ↓] theorem execMrst_canon {mask : Nat} (h : s.Canon) : Res.Canon (execMrst f mask s) := by
  simp [execMrst, h]

end

/-! ## Issue of copies -/

section
variable {s : State} {grp : Fin 16} {m src dst : MemOp} {len : GImm} {gh gb g gd : GReg} {n align field x : Nat}
    {wr : Bool} {cap : GVal} {fmt : Fmt}

@[simp ↓] theorem State.Canon.copyHandle {hd : Word} (h : s.Canon) :
    ExcCanon (·.1.Canon) (s.copyHandle field g hd n wr) := by
  unfold State.copyHandle
  split <;> simp [h]

@[simp ↓] theorem State.Canon.copyLocal {more : List Nat} {allowI : Bool} (h : s.Canon) :
    ExcCanon (·.1.Canon) (s.copyLocal cap field g x n align wr more allowI) := by
  simp [State.copyLocal, h]

@[simp ↓] theorem State.Canon.copyDisarm {ps : List CPiece} (h : s.Canon) : (s.copyDisarm ps).Canon :=
  Canon.foldl (fun _ _ hs => hs.disarm) ps h

@[simp ↓] theorem State.Canon.copyIssue {w : Nat} {post : List Wr} {lr lw : List CPiece} {o : CopyOp} (h : s.Canon) :
    (s.copyIssue w post lr lw o).Canon := by
  unfold State.copyIssue
  dsimp only
  split
  · simp [h]
  split
  next e => exact h.waitClk.fst e
  next e =>
  split <;> simp [h.waitClk.fst e]

theorem issued_canon {r : Except State State} (h : ExcCanon State.Canon r) : (issued r).Canon := by
  cases r <;> exact h

@[simp ↓] theorem execCpyIn_canon (h : s.Canon) : Res.Canon (execCpyIn grp m gh len s) := by
  unfold execCpyIn
  rw [State.canon_guarded]
  split
  · exact issued_canon (h.copyLocal.bind fun _ h => h.copyHandle.bind fun _ h => h.copyIssue)
  · exact h

@[simp ↓] theorem execCpyOut_canon (h : s.Canon) : Res.Canon (execCpyOut grp m gh len s) := by
  unfold execCpyOut
  rw [State.canon_guarded]
  split
  · exact issued_canon (h.copyLocal.bind fun _ h => h.copyHandle.bind fun _ h => h.copyIssue)
  · exact h

@[simp ↓] theorem execCpyLl_canon {gc : GReg} (h : s.Canon) : Res.Canon (execCpyLl grp m gc len s) := by
  unfold execCpyLl
  rw [State.canon_guarded]
  split
  · exact issued_canon (h.copyLocal.bind fun _ h => h.copyLocal.bind fun _ h => h.copyIssue)
  · exact h

@[simp ↓] theorem execRows_canon (h : s.Canon) : Res.Canon (execRows wr grp m gh gb s) := by
  unfold execRows
  rw [State.canon_guarded]
  split
  · refine issued_canon (ExcCanon.bind (P := (·.1.Canon)) (ExcCanon.foldlM (fun _ _ h => ?_) _ h) fun _ h => ?_)
    · exact h.copyLocal.bind fun _ h => h.copyHandle.bind fun _ h => h
    · dsimp only
      split <;> exact h.copyIssue
  · exact h

@[simp ↓] theorem execCpysIn_canon (h : s.Canon) : Res.Canon (execCpysIn grp m gh gb s) := by
  simp [execCpysIn, h]

@[simp ↓] theorem execCpysOut_canon (h : s.Canon) : Res.Canon (execCpysOut grp m gh gb s) := by
  simp [execCpysOut, h]

@[simp ↓] theorem State.Canon.fillIssue {pattern : List Byte} (h : s.Canon) :
    (s.fillIssue grp m n align pattern).Canon := by
  refine issued_canon ?_
  split
  · simp [h]
  · exact h.copyLocal.bind fun _ h => h.copyIssue

@[simp ↓] theorem execCpyf_canon (h : s.Canon) : Res.Canon (execCpyf grp fmt m len s) := by
  simp [execCpyf, h]

@[simp ↓] theorem execCpyfPat_canon {ga : GReg} (h : s.Canon) : Res.Canon (execCpyfPat grp m ga len s) := by
  simp [execCpyfPat, h]

@[simp ↓] theorem execCpyw_canon {mask : GJ} (h : s.Canon) : Res.Canon (execCpyw mask s) := by
  simp [execCpyw, h]

@[simp ↓] theorem execCpyq_canon (h : s.Canon) : Res.Canon (execCpyq grp gd s) := by
  simp [execCpyq, h]

@[simp ↓] theorem execCpyqC_canon (h : s.Canon) : Res.Canon (execCpyqC grp gd s) := by
  simp [execCpyqC, h]

@[simp ↓] theorem execCmut_canon {lay : Layout} {gp : GReg} (h : s.Canon) :
    Res.Canon (execCmut grp lay m gh gp s) := by
  unfold execCmut
  rw [State.canon_guarded]
  split
  · dsimp only
    split
    · simp [h]
    · exact issued_canon (h.copyLocal.bind fun _ h => h.copyHandle.bind fun _ h => h.copyIssue)
  · exact h

@[simp ↓] theorem execMcast_canon {gr : GReg} (h : s.Canon) : Res.Canon (execMcast grp gr m len s) := by
  unfold execMcast
  rw [State.canon_guarded]
  split
  · refine issued_canon (ExcCanon.ite (by simp [h]) (ExcCanon.ite (by simp [h]) ?_))
    exact h.copyLocal.bind fun _ h => h.copyIssue
  · exact h

@[simp ↓] theorem State.Canon.sendDst {queue : Bool} (h : s.Canon) :
    ExcCanon (·.1.Canon) (s.sendDst cap g x n queue) := by
  simp [State.sendDst, h]

@[simp ↓] theorem execSend_canon (h : s.Canon) : Res.Canon (execSend grp dst src len s) := by
  unfold execSend
  rw [State.canon_guarded]
  split
  · exact issued_canon (h.sendDst.bind fun _ h => h.copyLocal.bind fun _ h => h.copyIssue)
  · exact h

@[simp ↓] theorem execSendQ_canon {k : Fin 8} (h : s.Canon) : Res.Canon (execSendQ grp k dst src len s) := by
  unfold execSendQ
  rw [State.canon_guarded]
  split
  · refine issued_canon (h.sendDst.bind fun _ h => ?_)
    dsimp only
    split
    · simp [h]
    · exact h.copyLocal.bind fun _ h => h.copyIssue
  · exact h

@[simp ↓] theorem execRecv_canon {vd : VReg} {q : Int} (h : s.Canon) : Res.Canon (execRecv fmt vd q s) := by
  unfold execRecv
  rw [State.canon_guarded]
  split
  · dsimp only
    split
    · simp [h]
    split <;> simp [h]
  · exact h

@[simp ↓] theorem State.Canon.tagLines {arm : Bool} (h : s.Canon) : (s.tagLines m len arm).Canon := by
  unfold State.tagLines
  dsimp only
  split
  next e => exact h.rangeSide.of_error e
  next e =>
    replace h := h.rangeSide.of_ok e
    split <;> rename_i e <;> simp [h.waitClk.fst e]

@[simp ↓] theorem execSqtag_canon (h : s.Canon) : Res.Canon (execSqtag m len s) := by
  simp [execSqtag, h]

@[simp ↓] theorem execSqtagClr_canon (h : s.Canon) : Res.Canon (execSqtagClr m len s) := by
  simp [execSqtagClr, h]

end

/-! ## Pages and translation -/

section
variable {s : State} {gh ga gd : GReg} {x hi lo kind : Nat} {b : GImm}

@[simp ↓] theorem execPageWalkComplete_canon (h : s.Canon) : Res.Canon (execPageWalkComplete s) := by
  unfold execPageWalkComplete
  dsimp only
  split
  · exact h
  split
  · split
    · simp [h]
    · split <;> simp [h]
  · simp [h]

@[simp ↓] theorem State.canon_dropTlbs : (s.dropTlbs x lo hi).Canon ↔ s.Canon := by
  simp [State.dropTlbs]

@[simp ↓] theorem State.canon_startInval {host : Bool} {core op : Nat} :
    (s.startInval x kind lo hi host core op).Canon ↔ s.Canon := by
  simp [State.startInval]

@[simp ↓] theorem execInvalidationComplete_canon (h : s.Canon) : Res.Canon (execInvalidationComplete s) := by
  unfold execInvalidationComplete
  dsimp only
  split
  · exact h
  next v _ =>
  have park (l : List Nat) (t : State) (ht : t.Canon) : (l.foldl (fun s c => s.parkAgain c v.lo v.hi) t).Canon :=
    State.Canon.foldl (fun _ _ hs => hs.parkAgain) l ht
  simp [h, park]

@[simp ↓] theorem State.canon_invCmd : (s.invCmd x kind lo hi).Canon ↔ s.Canon := by
  simp [State.invCmd]

@[simp ↓] theorem execInvRange_canon (h : s.Canon) : Res.Canon (execInvRange s) := by
  simp [execInvRange, h]

@[simp ↓] theorem execInvAll_canon (h : s.Canon) : Res.Canon (execInvAll s) := by
  simp [execInvAll, h]

@[simp ↓] theorem execInvHandles_canon (h : s.Canon) : Res.Canon (execInvHandles s) := by
  simp [execInvHandles, h]

@[simp ↓] theorem State.Canon.sSupervisor (h : s.Canon) {body : State → State} (hb : (body s).Canon) :
    Res.Canon (s.sSupervisor body) := by
  simp [State.sSupervisor, h, hb]

@[simp ↓] theorem State.canon_tlbinv : (s.tlbinv kind lo hi).Canon ↔ s.Canon := by
  simp [State.tlbinv]

@[simp ↓] theorem execTlbinvVa_canon (h : s.Canon) : Res.Canon (execTlbinvVa ga b s) := by
  simp [execTlbinvVa, h]

@[simp ↓] theorem execTlbinvAll_canon (h : s.Canon) : Res.Canon (execTlbinvAll s) := by
  simp [execTlbinvAll, h]

@[simp ↓] theorem execTlbinvDrop_canon (h : s.Canon) : Res.Canon (execTlbinvDrop ga b s) := by
  simp [execTlbinvDrop, h]

@[simp ↓] theorem State.Canon.hint {a b : Nat} {lock : Bool} (h : s.Canon) : (s.hint a b lock).Canon := by
  unfold State.hint
  split
  split
  · simp [h]
  refine canon_sAsync.2 (Canon.foldl_fst (fun p a hp => ?_) _ h)
  dsimp only
  split <;> rename_i e <;> simp [hp.walkNow.fst e]

@[simp ↓] theorem execPghintT_canon (h : s.Canon) : Res.Canon (execPghintT ga b s) := by
  simp [execPghintT, h]

@[simp ↓] theorem execPghintLock_canon (h : s.Canon) : Res.Canon (execPghintLock ga b s) := by
  simp [execPghintLock, h]

@[simp ↓] theorem execPghintUnlock_canon (h : s.Canon) : Res.Canon (execPghintUnlock s) := by
  simp [execPghintUnlock, h]

@[simp ↓] theorem execPghintClrw_canon (h : s.Canon) : Res.Canon (execPghintClrw ga b s) := by
  unfold execPghintClrw
  refine h.sGuarded ?_
  dsimp only
  split
  next e => exact h.rangeSide.of_error e
  next e =>
    replace h := h.rangeSide.of_ok e
    split <;> simp [h]

@[simp ↓] theorem State.canon_hndlRead {len : Bool} : (s.hndlRead gd gh len).Canon ↔ s.Canon := by
  simp [State.hndlRead]

@[simp ↓] theorem execHndlLen_canon (h : s.Canon) : Res.Canon (execHndlLen gd gh s) := by
  simp [execHndlLen, h]

@[simp ↓] theorem execHndlBase_canon (h : s.Canon) : Res.Canon (execHndlBase gd gh s) := by
  simp [execHndlBase, h]

@[simp ↓] theorem execHndlSet_canon {gb : GReg} (h : s.Canon) : Res.Canon (execHndlSet gh gb s) := by
  simp [execHndlSet, h]

@[simp ↓] theorem execHndlClr_canon (h : s.Canon) : Res.Canon (execHndlClr gh s) := by
  simp [execHndlClr, h]

@[simp ↓] theorem State.Canon.handlePut {id : Nat} {e : Option (Word × Word)} (h : s.Canon) :
    (s.handlePut x id e).Canon := by
  unfold State.handlePut
  split <;> simp [h]

@[simp ↓] theorem invalStep_canon (h : s.Canon) : Agenda.Canon (invalStep s x) := by
  simp [invalStep, h]

end

/-! ## Populations -/

section
variable {s : State} {gd ga : GReg} {p : GImm} {c key id st addr flags : Nat} {gc : Option GReg} {r : Population}
    {o : DraftOp} {own any : Bool}

@[simp ↓] theorem State.canon_setPop : (s.setPop key r).Canon ↔ s.Canon := by simp [State.setPop]

@[simp ↓] theorem State.canon_dropPops {launch : Nat} : (s.dropPops launch).Canon ↔ s.Canon := by
  simp [State.dropPops]

@[simp ↓] theorem State.canon_pResult {lat : Nat} {v : Word} : (s.pResult own lat gd v).Canon ↔ s.Canon := by
  simp [State.pResult]

@[simp ↓] theorem State.canon_pStatus : (s.pStatus own gd st).Canon ↔ s.Canon := by
  simp [State.pStatus]

@[simp ↓] theorem State.Canon.pWait (h : s.Canon) {go : State → State} (hgo : (go s).Canon) : (s.pWait go).Canon := by
  simp [State.pWait, h, hgo]

@[simp ↓] theorem State.canon_draftDone {r : GReg} : (s.draftDone c id r st flags).Canon ↔ s.Canon := by
  simp [State.draftDone]

@[simp ↓] theorem State.canon_draftFail : (s.draftFail c id flags addr).Canon ↔ s.Canon := by
  simp [State.draftFail]

@[simp ↓] theorem execFitset_canon (h : s.Canon) : Res.Canon (execFitset ga s) := by
  simp [execFitset, h]

@[simp ↓] theorem execFitsetClr_canon (h : s.Canon) : Res.Canon (execFitsetClr s) := by
  simp [execFitsetClr, h]

@[simp ↓] theorem execFitgetRank_canon (h : s.Canon) : Res.Canon (execFitgetRank gd gc s) := by
  simp [execFitgetRank, h]

@[simp ↓] theorem execFitgetSamp_canon (h : s.Canon) : Res.Canon (execFitgetSamp gd gc s) := by
  simp [execFitgetSamp, h]

@[simp ↓] theorem execFitgetState_canon (h : s.Canon) : Res.Canon (execFitgetState gd gc s) := by
  simp [execFitgetState, h]

@[simp ↓] theorem execRank_canon (h : s.Canon) : Res.Canon (execRank gd p s) := by
  unfold execRank
  refine h.guarded ?_
  split <;> simp [h]

@[simp ↓] theorem execRankComplete_canon (h : s.Canon) : Res.Canon (execRankComplete s) := by
  unfold execRankComplete
  split
  · simp [h]
  split <;> simp [h]

@[simp ↓] theorem execPwait_canon (h : s.Canon) : Res.Canon (execPwait gd p s) := by
  unfold execPwait
  refine h.guarded ?_
  split
  · simp [h]
  · split <;> simp [h]

@[simp ↓] theorem execPwaitComplete_canon (h : s.Canon) : Res.Canon (execPwaitComplete s) := by
  simp [execPwaitComplete, h]

@[simp ↓] theorem State.canon_swapTry : (s.swapTry c any).1.Canon ↔ s.Canon := by
  unfold State.swapTry
  dsimp only
  split
  · simp
  split
  · simp
  split <;> simp

@[simp ↓] theorem State.canon_swapWaiting {failed : Bool} : (s.swapWaiting c failed).Canon ↔ s.Canon := by
  unfold State.swapWaiting
  refine canon_foldl fun s o => ?_
  split
  · split
    · simp
    · split <;> rename_i e <;> simp [canon_fst e]
  · rfl

@[simp ↓] theorem State.canon_wswap : (s.wswap gd any).Canon ↔ s.Canon := by
  unfold State.wswap
  split <;> rename_i e <;> simp [canon_fst e]

@[simp ↓] theorem execWswap_canon (h : s.Canon) : Res.Canon (execWswap gd s) := by
  simp [execWswap, h]

@[simp ↓] theorem execWswapAny_canon (h : s.Canon) : Res.Canon (execWswapAny gd s) := by
  simp [execWswapAny, h]

@[simp ↓] theorem execWbase_canon (h : s.Canon) : Res.Canon (execWbase gd ga s) := by
  simp [execWbase, h]

@[simp ↓] theorem execWbaseInact_canon (h : s.Canon) : Res.Canon (execWbaseInact gd ga s) := by
  simp [execWbaseInact, h]

@[simp ↓] theorem execLinrdId_canon (h : s.Canon) : Res.Canon (execLinrdId gd gc s) := by
  simp [execLinrdId, h]

@[simp ↓] theorem execLinrdPend_canon (h : s.Canon) : Res.Canon (execLinrdPend gd s) := by
  simp [execLinrdPend, h]

@[simp ↓] theorem execLinrdGen_canon (h : s.Canon) : Res.Canon (execLinrdGen gd p s) := by
  simp [execLinrdGen, h]

@[simp ↓] theorem execLinrdCnt_canon (h : s.Canon) : Res.Canon (execLinrdCnt gd p s) := by
  simp [execLinrdCnt, h]

@[simp ↓] theorem execPseed_canon {gs : GReg} (h : s.Canon) : Res.Canon (execPseed gd p gs s) := by
  unfold execPseed
  refine h.guarded ?_
  split
  · simp [h]
  · split <;> simp [h]

@[simp ↓] theorem execPcfgInd_canon (h : s.Canon) : Res.Canon (execPcfgInd gd ga s) := by
  refine h.guarded (h.pWait ?_)
  dsimp only
  split
  · simp [h]
  split
  · simp [h]
  · simp [h]

@[simp ↓] theorem State.Canon.readOwnAt {g : GReg} {field x n align : Nat} (h : s.Canon) :
    ExcCanon (·.1.Canon) (s.readOwnAt g field x n align) := by
  unfold State.readOwnAt
  split
  next e => exact h.rangeSide.of_error e
  next e =>
    replace h := h.rangeSide.of_ok e
    split
    next t e =>
      exact OptCanon.of_some (.orElse (optCanon_map fun _ => h.raise) h.watchRange) e
    · exact Canon.foldl (fun _ _ hs => hs.coreRead) _ h

@[simp ↓] theorem execPcfgPop_canon {m : MemOp} (h : s.Canon) : Res.Canon (execPcfgPop gd m s) := by
  refine h.guarded (h.pWait (issued_canon (h.readOwnAt.bind fun p h => ?_)))
  refine ExcCanon.ite (by simp [h]) (ExcCanon.bind (P := State.Canon) ?_ fun s h => ?_)
  · refine .ite h ?_
    split <;> simp [h]
  · split
    next e => exact h.waitClk.fst e
    next e =>
      replace h := h.waitClk.fst e
      dsimp only
      split
      · simp [h]
      · exact .ite (by simp [h]) (.ite (by simp [h]) (by simp [h]))

@[simp ↓] theorem execPcfgRet_canon (h : s.Canon) : Res.Canon (execPcfgRet gd s) := by
  refine h.guarded (h.pWait ?_)
  split <;> simp [h]

@[simp ↓] theorem State.canon_startPair : (s.startPair key r o).Canon ↔ s.Canon := by
  unfold State.startPair
  split <;> simp

@[simp ↓] theorem execPopstep_canon (h : s.Canon) : Res.Canon (execPopstep gd p s) := by
  unfold execPopstep
  refine h.guarded ?_
  split <;> simp [h]

@[simp ↓] theorem State.canon_endStep : (s.endStep key r o).Canon ↔ s.Canon := by
  simp [State.endStep]

@[simp ↓] theorem State.canon_failStep : (s.failStep key r o addr).Canon ↔ s.Canon := by
  simp [State.failStep]

@[simp ↓] theorem execPopstepPairDone_canon (h : s.Canon) : Res.Canon (execPopstepPairDone s) := by
  unfold execPopstepPairDone
  dsimp only
  split
  · exact h
  split
  · exact h
  split
  · split
    · exact h
    split
    · simp [h]
    split
    · simp [h]
    split
    · simp [h]
    split
    · simp [h.devWrite]
    · simp [h]
  · simp [h]

@[simp ↓] theorem State.canon_migrAnswer {asker : Nat} : (s.migrAnswer asker id st addr).Canon ↔ s.Canon := by
  simp [State.migrAnswer]

@[simp ↓] theorem execMigr_canon {gt : GReg} (h : s.Canon) : Res.Canon (execMigr gd gt s) := by
  simp [execMigr, h]

@[simp ↓] theorem execMigrArrival_canon (h : s.Canon) : Res.Canon (execMigrArrival s) := by
  unfold execMigrArrival
  dsimp only
  split <;> simp [h]

@[simp ↓] theorem execMigrCopyDone_canon (h : s.Canon) : Res.Canon (execMigrCopyDone s) := by
  unfold execMigrCopyDone
  split
  · simp [h]
  split <;> simp [h]

@[simp ↓] theorem execMigrReply_canon (h : s.Canon) : Res.Canon (execMigrReply s) := by
  simp [execMigrReply, h]

end

/-! ## Timed blocks and realignment -/

section
variable {s : State} {die : Nat}

@[simp ↓] theorem execTblk_canon {blk : GImm} (h : s.Canon) : Res.Canon (execTblk blk s) := by
  unfold execTblk
  refine h.sGuarded ?_
  dsimp only
  split
  · simp [h]
  · split <;> simp [h]

@[simp ↓] theorem execTend_canon (h : s.Canon) : Res.Canon (execTend s) := by
  unfold execTend
  refine h.sGuarded ?_
  split
  · simp [h]
  · split <;> simp [h]

@[simp ↓] theorem State.canon_onDie {l : Launch} {f : Core → Core} : (s.onDie l die f).Canon ↔ s.Canon := by
  simp [State.onDie]

@[simp ↓] theorem State.canon_tellDie {due : Nat} {b : MsgBody} : (s.tellDie due die b).Canon ↔ s.Canon := by
  simp [State.tellDie]

@[simp ↓] theorem execRealign_canon (h : s.Canon) : Res.Canon (execRealign s) := by
  unfold execRealign
  refine h.sGuarded ?_
  dsimp only
  split <;> simp [h]

@[simp ↓] theorem execRealignReport_canon (h : s.Canon) : Res.Canon (execRealignReport s) := by
  unfold execRealignReport
  split
  · split <;> simp [h]
  · simp [h]

@[simp ↓] theorem State.canon_leaveRealign {n : Nat} : (s.leaveRealign n die).Canon ↔ s.Canon := by
  unfold State.leaveRealign
  split <;> simp

@[simp ↓] theorem execRealignRelease_canon (h : s.Canon) : Res.Canon (execRealignRelease s) := by
  unfold execRealignRelease
  split
  · split
    · exact h
    · refine State.Canon.foldl (fun s c hs => ?_) _ (by simp [h])
      split
      · exact hs
      · simp [hs]
  · exact h

@[simp ↓] theorem execPauseSpread_canon (h : s.Canon) : Res.Canon (execPauseSpread s) := by
  unfold execPauseSpread
  split
  · split <;> simp [h]
  · simp [h]

@[simp ↓] theorem execBlockStartPassed_canon (h : s.Canon) : Res.Canon (execBlockStartPassed s) := by
  unfold execBlockStartPassed
  dsimp only
  split <;> simp [h]

@[simp ↓] theorem State.Canon.setBudget {v : Word} (h : s.Canon) : (s.setBudget v).Canon := by
  simp [State.setBudget, h]

@[simp ↓] theorem execBudg_canon {n : GImmJ} (h : s.Canon) : Res.Canon (execBudg n s) := by
  simp [execBudg, h]

@[simp ↓] theorem execBudgOff_canon (h : s.Canon) : Res.Canon (execBudgOff s) := by
  simp [execBudgOff, h]

@[simp ↓] theorem execDeadlineExpiry_canon (h : s.Canon) : Res.Canon (execDeadlineExpiry s) := by
  simp [execDeadlineExpiry, h]

@[simp ↓] theorem execBudgetExpiry_canon (h : s.Canon) : Res.Canon (execBudgetExpiry s) := by
  simp [execBudgetExpiry, h]

end

/-! ## Launches -/

section
variable {s : State} {l : Launch} {n c x q phys : Nat}

@[simp ↓] theorem State.canon_askFor : (s.askFor phys n).Canon ↔ s.Canon := by simp [State.askFor]

@[simp ↓] theorem State.canon_dropExt : (s.dropExt phys).Canon ↔ s.Canon := by simp [State.dropExt]

@[simp ↓] theorem State.canon_makeLaunch {p : List Byte} {slot : Option Nat} :
    (s.makeLaunch x q p slot).Canon ↔ s.Canon := by
  simp [State.makeLaunch]

@[simp ↓] theorem State.canon_bindLaunch : (s.bindLaunch n l).Canon ↔ s.Canon := by
  simp [State.bindLaunch]

@[simp ↓] theorem State.canon_consume : (s.consume q).Canon ↔ s.Canon := by simp [State.consume]

@[simp ↓] theorem State.canon_leavePacket : (s.leavePacket l).Canon ↔ s.Canon := by
  simp [State.leavePacket]

@[simp ↓] theorem execLaunchBind_canon (h : s.Canon) : Res.Canon (execLaunchBind s) := by
  unfold execLaunchBind
  extract_lets
  split
  · exact h
  split
  · extract_lets fail
    have fail_canon (t : State) (st units : Nat) (ht : t.Canon) : (fail t st units).Canon := by simp [fail, ht]
    split
    · exact fail_canon _ _ _ h
    split
    · simp [h]
    · exact fail_canon _ _ _ (State.canon_dropExt.2 h)
    · extract_lets l len u
      have hu : u.Canon := State.canon_dropExt.2 h
      clear_value u
      split
      split
      · simp [h]
      · extract_lets l' v
        have hv : v.Canon := by
          simp only [v]
          split <;> simp [hu]
        clear_value v
        split
        · simp +zetaDelta [hv]
        · simp [hv]
  · simp [h]
  · exact h

@[simp ↓] theorem State.Canon.clearCore (h : s.Canon) : (s.clearCore c).Canon := by
  have hs (l : List (Nat × Nat)) : (l.foldl (fun s p => if p.2 < 8192 then s.sendFree p.2 (.revoke (s.phys (8 * p.1)))
    else s.emit .chip (p.2 / 8192 - 1) (s.phys (8 * p.1)) []) s).Canon := by simp [h]
  exact ⟨memWf_filter _ _ (hs _).wf⟩

@[simp ↓] theorem State.Canon.fillImage {lo hi : Nat} (h : s.Canon) : (s.fillImage c l lo hi).Canon :=
  Canon.foldl (fun _ _ hs => hs.memStore) _ h

@[simp ↓] theorem State.Canon.fillClean {arch : List Byte} {on : Resid → Bool} (h : s.Canon) :
    (s.fillClean c l arch on).Canon := Canon.foldl (fun _ _ hs => hs.memStore) _ h

@[simp ↓] theorem State.Canon.fillCore {arch : Option (List Byte)} (h : s.Canon) : (s.fillCore c l arch).Canon := by
  unfold State.fillCore
  split <;> simp [h]

@[simp ↓] theorem execLoadComplete_canon (h : s.Canon) : Res.Canon (execLoadComplete s) := by
  unfold execLoadComplete
  dsimp only
  split
  · exact h
  split
  · exact h
  split
  · simp [h]
  split
  · simp [h]
  split <;> simp [h]

@[simp ↓] theorem execStartRelease_canon (h : s.Canon) : Res.Canon (execStartRelease s) := by
  unfold execStartRelease
  dsimp only
  split <;> simp [h]

@[simp ↓] theorem State.canon_planStart : (s.planStart n l).Canon ↔ s.Canon := by
  simp [State.planStart]

@[simp ↓] theorem State.Canon.nodeDec {slot src : Nat} (h : s.Canon) : (s.nodeDec x slot n src).Canon := by
  unfold State.nodeDec
  split
  · simp [h]
  split <;> simp [h]

@[simp ↓] theorem State.Canon.writeRecord {word : Word} {tag : List Byte} {status : Nat} {bytes : List Byte}
    (h : s.Canon) : (s.writeRecord x word tag status bytes).Canon := by
  unfold State.writeRecord
  split
  · simp [h]
  split <;> simp [h]

@[simp ↓] theorem State.canon_cancelSaved : (s.cancelSaved x c).Canon ↔ s.Canon := by
  unfold State.cancelSaved
  split <;> simp

@[simp ↓] theorem State.Canon.cancelLaunch (h : s.Canon) : (s.cancelLaunch n).Canon := by
  unfold State.cancelLaunch
  split
  · exact h
  dsimp only
  split
  · simp [h]
  · simp [h]
  · refine Canon.foldl (fun s c hs => ?_) _ (canon_setLaunch.2 h)
    simp [hs]

@[simp ↓] theorem State.Canon.cancelNode {fuel : Nat} :
    ∀ {s : State} {x i : Nat}, s.Canon → (State.cancelNode fuel s x i).Canon := by
  induction fuel with
  | zero => exact fun h => h
  | succ fuel ih =>
    intro s x i h
    unfold State.cancelNode
    split
    · exact h
    split
    · split <;> simp [h]
    · simp [h]
    · refine Canon.foldl (fun s t hs => ?_) _ (by simp [h])
      split
      · exact ih hs
      · simp [hs]

@[simp ↓] theorem State.Canon.treatSuccessors {ok : Bool} (h : s.Canon) : (s.treatSuccessors l ok).Canon := by
  refine Canon.foldl (fun s t hs => ?_) _ h
  simp [hs]

@[simp ↓] theorem State.Canon.cancelId {id : Nat} (h : s.Canon) : (s.cancelId x id).Canon := by
  unfold State.cancelId
  split
  refine Canon.foldl (fun _ _ hs => hs.cancelLaunch) _ (Canon.foldl (fun _ _ hs => hs.cancelNode) _ ?_)
  refine Canon.foldl (fun _ _ hs => ?_) _ h
  simp [hs]

@[simp ↓] theorem State.canon_unbind : (s.unbind n l).Canon ↔ s.Canon := by simp [State.unbind]

@[simp ↓] theorem execLaunchComplete_canon (h : s.Canon) : Res.Canon (execLaunchComplete s) := by
  unfold execLaunchComplete
  dsimp only
  split
  · simp [h]
  split <;> simp [h]

@[simp ↓] theorem execShotClockExpiry_canon (h : s.Canon) : Res.Canon (execShotClockExpiry s) := by
  unfold execShotClockExpiry
  dsimp only
  split <;> simp [h]

@[simp ↓] theorem launchStep_canon (h : s.Canon) : Agenda.Canon (launchStep s n l) := by
  unfold launchStep
  dsimp only
  split
  · simp
  split
  · simp [h]
  refine Agenda.Canon.ite (by simp [h]) (Agenda.Canon.ite (by simp [h]) ?_)
  split
  · simp [h]
  refine Agenda.Canon.ite ?_ (by simp)
  split <;> simp [h]

end

/-! ## Queues -/

section
variable {s : State} {q v : Nat}

@[simp ↓] theorem State.Canon.queueError {code : Nat} (h : s.Canon) : (s.queueError q code).Canon := by
  unfold State.queueError
  dsimp only
  split <;> simp [h]

@[simp ↓] theorem State.canon_doorbell : (s.doorbell q v).Canon ↔ s.Canon := by
  unfold State.doorbell
  dsimp only
  split
  · split
    · simp
    split <;> simp
  split
  · simp
  split <;> simp

@[simp ↓] theorem execQueueDoorbell_canon (h : s.Canon) : Res.Canon (execQueueDoorbell s) := by
  simp [execQueueDoorbell, h]

@[simp ↓] theorem State.canon_writeQctl : (s.writeQctl q v).Canon ↔ s.Canon := by
  unfold State.writeQctl
  dsimp only
  split
  · split
    · simp
    split
    · simp
    split
    · simp
    split <;> simp
  · simp

@[simp ↓] theorem execQueueEnable_canon (h : s.Canon) : Res.Canon (execQueueEnable s) := by
  simp [execQueueEnable, h]

@[simp ↓] theorem execQueueDisable_canon (h : s.Canon) : Res.Canon (execQueueDisable s) := by
  simp [execQueueDisable, h]

@[simp ↓] theorem execQueueDrained_canon (h : s.Canon) : Res.Canon (execQueueDrained s) := by
  simp [execQueueDrained, h]

@[simp ↓] theorem State.canon_hostConsume : (s.hostConsume q v).Canon ↔ s.Canon := by
  simp [State.hostConsume]

@[simp ↓] theorem execHostConsume_canon (h : s.Canon) : Res.Canon (execHostConsume s) := by
  simp [execHostConsume, h]

@[simp ↓] theorem execPacketRead_canon (h : s.Canon) : Res.Canon (execPacketRead s) := by
  unfold execPacketRead
  dsimp only
  split
  · split <;> split <;> simp [h]
  · simp [h]
  · simp [h]
  · simp [h]

@[simp ↓] theorem State.canon_launchPacket : (s.launchPacket q).Canon ↔ s.Canon := by
  unfold State.launchPacket
  split <;> simp

@[simp ↓] theorem execLaunchPacket_canon (h : s.Canon) : Res.Canon (execLaunchPacket s) := by
  simp [execLaunchPacket, h]

@[simp ↓] theorem execJobCardPacket_canon (h : s.Canon) : Res.Canon (execJobCardPacket s) := by
  simp [execJobCardPacket, h]

@[simp ↓] theorem execGraphNodePacket_canon (h : s.Canon) : Res.Canon (execGraphNodePacket s) := by
  unfold execGraphNodePacket
  dsimp only
  split
  · split
    · simp [h]
    split <;> simp [h]
  · simp [h]

@[simp ↓] theorem State.Canon.controlPacket (h : s.Canon) {act : State → Nat → List Byte → State}
    (ha : ∀ x p, (act s x p).Canon) : (s.controlPacket q act).Canon := by
  unfold State.controlPacket
  split <;> simp [h, ha]

@[simp ↓] theorem execCtrlNop_canon (h : s.Canon) : Res.Canon (execCtrlNop s) := by
  simp [execCtrlNop, h]

@[simp ↓] theorem execCtrlWait_canon (h : s.Canon) : Res.Canon (execCtrlWait s) := by
  simp [execCtrlWait, h]

@[simp ↓] theorem execCtrlCancel_canon (h : s.Canon) : Res.Canon (execCtrlCancel s) := by
  simp [execCtrlCancel, h]

@[simp ↓] theorem State.Canon.counterAdd {x id : Nat} {v : Word} {src : Nat} (h : s.Canon) :
    (s.counterAdd x id v src).Canon := by
  simp [State.counterAdd, h]

@[simp ↓] theorem execCtrlAdd_canon (h : s.Canon) : Res.Canon (execCtrlAdd s) := by
  simp [execCtrlAdd, h]

@[simp ↓] theorem execCtrlFence_canon (h : s.Canon) : Res.Canon (execCtrlFence s) := by
  simp [execCtrlFence, h]

@[simp ↓] theorem queueStep_canon (h : s.Canon) : Agenda.Canon (queueStep s) := by
  unfold queueStep
  split
  · simp [h]
  split
  · simp [h]
  split <;> simp [h]

@[simp ↓] theorem execCounterSelect_canon (h : s.Canon) : Res.Canon (execCounterSelect s) := by
  simp [execCounterSelect, h]

end

/-! ## Queue instructions -/

section
variable {s : State} {gc gd gq : GReg} {b : GImm} {q c serial : Nat} {dk : DReg} {qd : QReg} {bytes : List Byte}
    {ge : Bool}

@[simp ↓] theorem State.Canon.sRelease (h : s.Canon) {go : State → State} (hgo : (go s).Canon) :
    (s.sRelease go).Canon := by
  simp [State.sRelease, h, hgo]

@[simp ↓] theorem State.canon_requestDue : s.requestDue.2.Canon ↔ s.Canon := by
  simp [State.requestDue]

@[simp ↓] theorem execCntadd_canon (h : s.Canon) : Res.Canon (execCntadd gc b s) := by
  simp [execCntadd, h]

@[simp ↓] theorem State.Canon.cntwt (h : s.Canon) : (s.cntwt gc b ge).Canon := by
  simp [State.cntwt, h]

@[simp ↓] theorem execCntwtLe_canon (h : s.Canon) : Res.Canon (execCntwtLe gc b s) := by
  simp [execCntwtLe, h]

@[simp ↓] theorem execCntwtGe_canon (h : s.Canon) : Res.Canon (execCntwtGe gc b s) := by
  simp [execCntwtGe, h]

@[simp ↓] theorem State.Canon.cntwtA (h : s.Canon) : (s.cntwtA dk gc b ge).Canon := by
  simp [State.cntwtA, h]

@[simp ↓] theorem execCntwtLeA_canon (h : s.Canon) : Res.Canon (execCntwtLeA dk gc b s) := by
  simp [execCntwtLeA, h]

@[simp ↓] theorem execCntwtGeA_canon (h : s.Canon) : Res.Canon (execCntwtGeA dk gc b s) := by
  simp [execCntwtGeA, h]

@[simp ↓] theorem execCancel_canon (h : s.Canon) : Res.Canon (execCancel gc s) := by
  simp [execCancel, h]

@[simp ↓] theorem State.canon_chunkDone : s.chunkDone.Canon ↔ s.Canon := by
  unfold State.chunkDone
  split <;> simp

@[simp ↓] theorem execTnext_canon (h : s.Canon) : Res.Canon (execTnext gd s) := by
  unfold execTnext
  refine h.sGuarded ?_
  split
  · simp [h]
  split <;> simp [h]

@[simp ↓] theorem execDealRequest_canon (h : s.Canon) : Res.Canon (execDealRequest s) := by
  unfold execDealRequest
  dsimp only
  split <;> simp [h]

@[simp ↓] theorem State.canon_dealt {first n : Nat} : (s.dealt c first n).Canon ↔ s.Canon := by
  unfold State.dealt
  split <;> simp

@[simp ↓] theorem execTdone_canon (h : s.Canon) : Res.Canon (execTdone s) := by simp [execTdone, h]

@[simp ↓] theorem execTsub_canon {m : MemOp} (h : s.Canon) : Res.Canon (execTsub gd m gq s) := by
  refine h.sGuarded ?_
  dsimp only
  split
  · simp [h]
  refine h.sRelease (issued_canon (h.readOwnAt.bind fun p h => ?_))
  refine ExcCanon.bind (P := (·.1.Canon)) ?_ fun p h => by simp [h]
  split
  · exact h
  · exact excCanon_map.2 h.readOwnAt

@[simp ↓] theorem State.Canon.appendBytes (h : s.Canon) : (s.appendBytes q bytes).Canon := by
  unfold State.appendBytes
  split
  · exact h
  · exact canon_modQueue.2 (Canon.foldl_fst (fun _ _ hp => hp.devWrite) _ h)

@[simp ↓] theorem State.Canon.tsubLands {bad : Bool} (h : s.Canon) : (s.tsubLands c serial q bytes gd bad).Canon := by
  simp [State.tsubLands, h]

@[simp ↓] theorem execQpush_canon {gv : GReg} (h : s.Canon) : Res.Canon (execQpush qd gq gv s) := by
  simp [execQpush, h]

@[simp ↓] theorem State.Canon.qpushLands {v : Word} (h : s.Canon) : (s.qpushLands c serial q v qd).Canon := by
  simp [State.qpushLands, h]

@[simp ↓] theorem State.Canon.takeItem (h : s.Canon) : (s.takeItem q).1.Canon := by
  unfold State.takeItem
  dsimp only
  split
  · exact h
  split
  · simp [h]
  · split <;> rename_i e <;> simp [h.onRead.fst e]
  · simp [h]

@[simp ↓] theorem execQpop_canon (h : s.Canon) : Res.Canon (execQpop gd gq s) := by
  unfold execQpop
  refine h.sGuarded ?_
  dsimp only
  split
  · simp [h]
  split
  · simp [h]
  split
  · split <;> rename_i e <;> simp [h.takeItem.fst e]
  · simp [h]

@[simp ↓] theorem execQpopNb_canon {qk : QReg} (h : s.Canon) : Res.Canon (execQpopNb gd gq qk s) := by
  unfold execQpopNb
  refine h.sGuarded ?_
  dsimp only
  split
  · simp [h]
  split
  · split <;> rename_i e <;> simp [h.takeItem.fst e]
  · simp [h]

end

/-! ## Barriers -/

section
variable {s : State} {ga gb : GReg} {key id : Nat}

@[simp ↓] theorem State.Canon.barTrap {reason : Nat} (h : s.Canon) : (s.barTrap id reason).Canon := by
  simp [State.barTrap, h]

@[simp ↓] theorem State.Canon.barArm {hasB once : Bool} (h : s.Canon) : (s.barArm ga gb hasB once).Canon := by
  unfold State.barArm
  extract_lets c id par key b tag p b0
  split
  · simp [h]
  split
  · simp [h]
  split
  · simp [h]
  · simp [h]
  · simp [h]

@[simp ↓] theorem execBararmRep_canon {gb : Option GReg} (h : s.Canon) : Res.Canon (execBararmRep ga gb s) := by
  simp [execBararmRep, h]

@[simp ↓] theorem execBararmOnce_canon {gb : Option GReg} (h : s.Canon) : Res.Canon (execBararmOnce ga gb s) := by
  simp [execBararmOnce, h]

@[simp ↓] theorem State.Canon.barWake {b : Barrier} {w : Waiter} (h : s.Canon) : (s.barWake b w).Canon := by
  unfold State.barWake
  split
  · simp [h]
  split <;> simp [h]

@[simp ↓] theorem execBarrierRelease_canon (h : s.Canon) : Res.Canon (execBarrierRelease s) :=
  State.Canon.foldl (fun _ _ hs => hs.barWake) _ (State.canon_setBar.2 h)

@[simp ↓] theorem State.canon_barHold {ep : Nat} : (s.barHold key ep).Canon ↔ s.Canon := by
  simp [State.barHold]

@[simp ↓] theorem execBararmFree_canon (h : s.Canon) : Res.Canon (execBararmFree ga s) := by
  unfold execBararmFree
  refine h.sGuarded ?_
  dsimp only
  split
  · simp [h]
  split
  · simp [h]
  split
  · simp [h]
  · refine State.canon_mk.2 (State.Canon.foldl (fun _ _ hs => hs.barWake) _ ?_).wf
    simp [h]

@[simp ↓] theorem State.canon_barJoin : (s.barJoin key).Canon ↔ s.Canon := by simp [State.barJoin]

@[simp ↓] theorem State.Canon.barArrival (h : s.Canon) {then_ : State → Nat → Nat → State}
    (ht : ∀ t k e, t.Canon → (then_ t k e).Canon) : (s.barArrival id then_).Canon := by
  unfold State.barArrival
  dsimp only
  split
  · simp [h]
  split
  · simp [h]
  split
  · simp [h]
  · simp [h]
  · simp [h]
  · exact ht _ _ _ (canon_barJoin.2 h)

@[simp ↓] theorem execBararv_canon {gd : GReg} (h : s.Canon) : Res.Canon (execBararv gd ga s) := by
  simp [execBararv, h]

@[simp ↓] theorem execBaraw_canon (h : s.Canon) : Res.Canon (execBaraw ga s) := by
  simp [execBaraw, h]

@[simp ↓] theorem execBarwt_canon (h : s.Canon) : Res.Canon (execBarwt ga gb s) := by
  unfold execBarwt
  refine h.sGuarded ?_
  dsimp only
  split
  · simp [h]
  split
  · simp [h]
  split
  · split
    · split <;> simp [h]
    · split <;> simp [h]
  · split <;> simp [h]

@[simp ↓] theorem execGlobalBarrierArrival_canon (h : s.Canon) : Res.Canon (execGlobalBarrierArrival s) := by
  simp [execGlobalBarrierArrival, h]

end

/-! ## Completion of asynchronous operations -/

section
variable {s : State}

@[simp ↓] theorem State.Canon.opWrites {c : Nat} {o : AsyncOp} (h : s.Canon) : (s.opWrites c o).Canon := by
  unfold State.opWrites
  split
  case h_10 => split <;> simp [h]
  all_goals simp [h]

@[simp ↓] theorem execOperationComplete_canon (h : s.Canon) : Res.Canon (execOperationComplete s) := by
  unfold execOperationComplete
  split
  · simp [h]
  split <;> simp [h]

end

/-! ## Fetch, dispatch and the end of an instruction -/

section
variable {s : State} {c : Nat} {i : Instr} {cols : List Nat} {hd : Held}

@[simp ↓] theorem State.canon_onCore : (s.onCore c).Canon ↔ s.Canon := by simp [State.onCore]

@[simp ↓] theorem State.canon_onEvent {a : Arg} {m : Option MsgBody} : (s.onEvent c a m).Canon ↔ s.Canon := by
  simp [State.onEvent]

@[simp ↓] theorem State.canon_enrollFault : (s.enrollFault c).Canon ↔ s.Canon := by
  simp [State.enrollFault]

@[simp ↓] theorem State.Canon.bkptTrap {i : Nat} (h : s.Canon) : (s.bkptTrap c i).Canon := by
  simp [State.bkptTrap, h]

@[simp ↓] theorem State.canon_runHeld : (s.runHeld c hd).1.Canon ↔ s.Canon := by
  simp [State.runHeld]

@[simp ↓] theorem State.Canon.heldStep (h : s.Canon) : Agenda.Canon (s.heldStep c hd) := by
  unfold State.heldStep
  split <;> split <;> simp [h]

theorem firstOf_canon {l : List (State → Agenda)} (h : ∀ f ∈ l, (f s).Canon) : (firstOf l s).Canon :=
  Agenda.canon_findSome h

@[simp ↓] theorem State.Canon.putStep (h : s.Canon) : Agenda.Canon (s.putStep c) := by
  simp [State.putStep, h]

@[simp ↓] theorem State.Canon.storeStep (h : s.Canon) : Agenda.Canon (s.storeStep c) := by
  unfold State.storeStep
  exact h.putStep.orElse (by simp [h])

@[simp ↓] theorem State.canon_issueColumn {col : Nat} : (s.issueColumn c col i).1.Canon ↔ s.Canon := by
  simp [State.issueColumn]

@[simp ↓] theorem State.Canon.columnStep (h : s.Canon) : Agenda.Canon (s.columnStep c cols) := by
  unfold State.columnStep
  refine Agenda.canon_findSome fun col _ => ?_
  dsimp only
  split
  · simp
  refine Agenda.Canon.ite (Agenda.Canon.ite (by simp) (by simp [h])) ?_
  split <;> simp [h]

@[simp ↓] theorem State.Canon.columnsStep (h : s.Canon) : Agenda.Canon (s.columnsStep c cols) :=
  firstOf_canon (by simp [h])

@[simp ↓] theorem State.Canon.dispatch {w : Nat} {hd : Head} (h : s.Canon) : (s.dispatch c w hd i).1.Canon := by
  unfold State.dispatch
  extract_lets pc t
  have ht : t.Canon := by simp [t, h]
  clear_value t
  split
  split
  · exact (Canon.heldStep (canon_setCore.2 ht)).getD (canon_setCore.2 ht)
  · dsimp only
    split <;> simp [ht]

@[simp ↓] theorem State.Canon.wordStep (h : s.Canon) : Agenda.Canon (s.wordStep c) := by
  unfold State.wordStep
  dsimp only
  split
  · simp [h]
  split
  · simp
  refine Agenda.Canon.ite (by simp [h]) ?_
  split
  · simp [h]
  split
  · simp [h]
  split
  · simp [h]
  · simp [h]
  · simp [h]

@[simp ↓] theorem State.Canon.seqStep (h : s.Canon) : Agenda.Canon (s.seqStep c) := by
  unfold State.seqStep
  dsimp only
  split <;> simp [h]

@[simp ↓] theorem State.Canon.settleStep (h : s.Canon) : Agenda.Canon (s.settleStep c) := by
  simp [State.settleStep, h]

@[simp ↓] theorem State.Canon.runStep (h : s.Canon) : Agenda.Canon (s.runStep c) := by
  unfold State.runStep
  dsimp only
  refine Agenda.Canon.ite (by simp [h]) ?_
  split
  · simp [h]
  refine Agenda.Canon.ite (by simp [h]) (Agenda.Canon.ite (by simp) (Agenda.Canon.ite ?_ ?_))
  · split
    · simp [h]
    · exact .ite (h.seqStep.orElse (by simp [h])) (by simp [h])
  · exact h.seqStep.orElse (by simp [h])

end

/-! ## Records, saving and restoring -/

section
variable {s : State} {c : Nat}

@[simp ↓] theorem State.Canon.readRanges (h : s.Canon) : (s.readRanges c).Canon :=
  Canon.foldl (fun _ _ hs => hs.onRead) _ h

@[simp ↓] theorem State.Canon.restoreRange {r : Resid} {b : List Byte} (h : s.Canon) :
    (s.restoreRange c r b).1.Canon := by
  simp [State.restoreRange, h]

@[simp ↓] theorem State.Canon.askArchives {cs : List (Nat × Nat)} (h : s.Canon) : OptCanon (s.askArchives cs) := by
  refine List.foldlRecOn (motive := OptCanon) _ _ optCanon_none fun o ho p _ => ?_
  have hs : (o.getD s).Canon := ho.getD h
  dsimp only
  split
  · exact ho
  split
  · exact ho
  split
  · simp [hs]
  · exact ho

@[simp ↓] theorem State.Canon.restoreStores {l : Launch} {res : Nat} {sec : List Byte} (h : s.Canon) :
    (s.restoreStores c l res sec).Canon := by
  unfold State.restoreStores
  extract_lets at_ got t unwritten broken t1 t2 keep t3 t4 fail
  have ht : t.Canon := by
    clear_value at_
    simp only [t]
    cases at_ <;> simp [h]
  clear_value t got
  have ht1 : t1.Canon := ht.clearCore.fillImage
  have ht2 : t2.Canon := by
    simp only [t2]
    split
    · exact ht1.fillClean
    · exact ht1
    · exact Canon.foldl (fun _ _ hs => hs.fillImage) _ ht1
  have ht3 : t3.Canon := by
    refine Canon.foldl_fst (fun p r hp => ?_) keep ht2
    exact hp.restoreRange
  have ht4 : t4.Canon := canon_modCore.2 ht3
  clear_value t4
  have fail_canon (st : Nat) : (fail st).Canon := by simp [fail, ht4]
  split
  · exact fail_canon 1
  split
  · exact fail_canon 7
  · exact ht4

@[simp ↓] theorem State.Canon.restoreCore {key : Nat} {snap : Bool} (h : s.Canon) :
    (s.restoreCore c key snap).Canon := by
  unfold State.restoreCore
  dsimp only
  split <;> simp [h]

end

/-! ## Contexts -/

section
variable {s : State} {c x key : Nat} {forced : Bool} {t : Trap}

@[simp ↓] theorem State.canon_unstop : (s.unstop c).Canon ↔ s.Canon := by simp [State.unstop]

@[simp ↓] theorem execDbgHalt_canon (h : s.Canon) : Res.Canon (execDbgHalt s) := by
  simp [execDbgHalt, h]

@[simp ↓] theorem execDbgResume_canon (h : s.Canon) : Res.Canon (execDbgResume s) := by
  simp [execDbgResume, h]

@[simp ↓] theorem execDbgStep_canon (h : s.Canon) : Res.Canon (execDbgStep s) := by
  simp [execDbgStep, h]

@[simp ↓] theorem State.Canon.preemptPoint (h : s.Canon) : (s.preemptPoint c).Canon := by
  unfold State.preemptPoint
  extract_lets t vq t1 pc t2 timed t3 t4 set here leave k
  have ht : t.Canon := by
    simp only [t]
    split <;> simp [h]
  have ht4 : t4.Canon := by simp [t4, t3, t2, t1, ht]
  have set_canon (a b : Nat) (f : Core → Core) : (set a b f).Canon := canon_modCore.2 ht4
  clear_value set vq
  split
  · exact set_canon _ _ _
  split
  · exact set_canon _ _ _
  split
  · exact set_canon _ _ _
  split
  · exact set_canon _ _ _
  split
  · exact set_canon _ _ _
  · exact set_canon _ _ _

@[simp ↓] theorem State.Canon.takePreempt (h : s.Canon) : (s.takePreempt c).Canon := by
  unfold State.takePreempt
  split <;> simp [h]

@[simp ↓] theorem execCoreSaved_canon (h : s.Canon) : Res.Canon (execCoreSaved s) := by
  unfold execCoreSaved
  dsimp only
  split <;> simp [h]

@[simp ↓] theorem State.canon_suspend : (s.suspend x).Canon ↔ s.Canon := by simp [State.suspend]

@[simp ↓] theorem State.canon_preempt : (s.preempt x forced).Canon ↔ s.Canon := by
  simp [State.preempt]

@[simp ↓] theorem State.canon_preemptUnit : (s.preemptUnit x c forced).Canon ↔ s.Canon := by
  simp [State.preemptUnit]

@[simp ↓] theorem execPreempt_canon (h : s.Canon) : Res.Canon (execPreempt s) := by
  simp [execPreempt, h]

@[simp ↓] theorem execPreemptForce_canon (h : s.Canon) : Res.Canon (execPreemptForce s) := by
  simp [execPreemptForce, h]

@[simp ↓] theorem execPreemptLimitExpiry_canon (h : s.Canon) : Res.Canon (execPreemptLimitExpiry s) := by
  simp [execPreemptLimitExpiry, h]

@[simp ↓] theorem State.Canon.resumeKind {kind pc : Nat} (h : s.Canon) : (s.resumeKind c kind pc).Canon := by
  simp [State.resumeKind, h]

@[simp ↓] theorem State.Canon.resumeInPlace (h : s.Canon) : (s.resumeInPlace x c).Canon := by
  simp [State.resumeInPlace, h]

@[simp ↓] theorem State.Canon.resumeSaved {v : SavedCore} (h : s.Canon) : (s.resumeSaved x c v).Canon := by
  simp [State.resumeSaved, h]

@[simp ↓] theorem State.Canon.resumeUnit (h : s.Canon) : (s.resumeUnit x c).Canon := by
  unfold State.resumeUnit
  split
  · exact h
  split
  · exact h
  split
  next e => exact canon_mk.2 (h.askArchives.of_some e).wf
  · simp [h]

@[simp ↓] theorem execCtxResume_canon (h : s.Canon) : Res.Canon (execCtxResume s) := by
  unfold execCtxResume
  dsimp only
  split
  · simp [h]
  split
  · exact State.canon_modCtx.2 (State.Canon.foldl (fun _ _ hs => hs.resumeInPlace) _ h)
  · split
    · exact h
    split
    next e =>
      refine State.canon_mk.2 (State.Canon.wf (OptCanon.of_some (State.Canon.askArchives ?_) e))
      simp [h]
    · exact State.canon_modCtx.2 (State.Canon.foldl (fun _ _ hs => hs.resumeSaved) _ h)
  · exact h

@[simp ↓] theorem execCreate_canon (h : s.Canon) : Res.Canon (execCreate s) := by
  simp [execCreate, h]

@[simp ↓] theorem execCommit_canon (h : s.Canon) : Res.Canon (execCommit s) := by
  simp [execCommit, h]

@[simp ↓] theorem State.Canon.drain (h : s.Canon) : (s.drain x).Canon := by
  unfold State.drain
  have queues : ((s.queues.filter (fun p => p.2.own == some x)).foldl
      (fun s p => s.setQueue p.1 { p.2 with st := .disabled, head := none }) s).Canon := by simp [h]
  have units (t : State) (ht : t.Canon) : ((t.ctxCores x).foldl (fun s c => match (s.core c).unit with
      | .done | .cancelled | .none => s
      | _ => s.endUnit c .cancelled 0xFFFE false) t).Canon := by
    refine Canon.foldl (fun s c hs => ?_) _ ht
    split
    · exact hs
    · exact hs
    · exact hs
    · simp [hs]
  dsimp only
  split
  case h_7 => exact h
  all_goals exact canon_modCtx.2 (units _ queues)

@[simp ↓] theorem execDestroy_canon (h : s.Canon) : Res.Canon (execDestroy s) := by
  simp [execDestroy, h]

@[simp ↓] theorem execCtxReset_canon (h : s.Canon) : Res.Canon (execCtxReset s) := by
  simp [execCtxReset, h]

@[simp ↓] theorem execFunctionLevelReset_canon (h : s.Canon) : Res.Canon (execFunctionLevelReset s) := by
  simp [execFunctionLevelReset, h]

@[simp ↓] theorem execScrubComplete_canon (h : s.Canon) : Res.Canon (execScrubComplete s) := by
  unfold execScrubComplete
  dsimp only
  split
  · exact h
  refine State.canon_modCtx.2 (State.canon_mk.2 (State.Canon.wf ?_))
  refine State.Canon.foldl (fun _ _ hs => State.canon_dropPops.2 hs) _ (State.Canon.memStore ?_)
  refine State.canon_mk.2 (State.Canon.wf ?_)
  exact State.Canon.foldl (fun s c hs => State.canon_modCore.2 hs.clearCore.memStore) _ h

@[simp ↓] theorem execDrainTimeout_canon (h : s.Canon) : Res.Canon (execDrainTimeout s) := by
  simp [execDrainTimeout, h]

@[simp ↓] theorem execDump_canon (h : s.Canon) : Res.Canon (execDump s) := by
  unfold execDump
  dsimp only
  split <;> simp [h]

@[simp ↓] theorem State.Canon.committed (h : s.Canon) : (s.committed c).Canon := by
  unfold State.committed
  split <;> simp [h]

@[simp ↓] theorem execDumpComplete_canon (h : s.Canon) : Res.Canon (execDumpComplete s) := by
  unfold execDumpComplete
  dsimp only
  split
  · exact h
  refine State.canon_modCtx.2 (State.Canon.foldl (fun s c hs => ?_) _ ?_)
  · simp [hs]
  · exact State.Canon.foldl (fun _ _ hs => hs.memStore) _ h

@[simp ↓] theorem State.canon_markSnap : (s.markSnap key).Canon ↔ s.Canon := by
  simp [State.markSnap]

@[simp ↓] theorem execSnap_canon {ga gb : GReg} (h : s.Canon) : Res.Canon (execSnap ga gb s) := by
  unfold execSnap
  refine h.sGuarded ?_
  dsimp only
  split
  · simp [h]
  split
  · simp [h]
  split
  · simp [h]
  split
  · simp [h]
  split
  · simp [h]
  split
  · simp [h]
  · refine State.Canon.barArrival ?_ fun t k e ht => by simp [ht]
    simp [h]

@[simp ↓] theorem State.Canon.markReport {bit : Nat} (h : s.Canon) : (s.markReport c bit).Canon := by
  unfold State.markReport
  dsimp only
  split
  · exact h
  · exact ⟨memWf_memWrite _ _ _ h.wf⟩

@[simp ↓] theorem State.Canon.rollMember {area size ep lat : Nat} (h : s.Canon) :
    (s.rollMember c area size ep lat).Canon := by
  simp [State.rollMember, h]

@[simp ↓] theorem State.Canon.rollAll (h : s.Canon) : (s.rollAll key).Canon := by
  unfold State.rollAll
  extract_lets b
  split
  · exact h
  · exact canon_setBar.2 (Canon.foldl (fun _ _ hs => hs.rollMember) _ (canon_barLatency.2 h))

@[simp ↓] theorem State.Canon.escalateError (h : s.Canon) : (s.escalateError c t).Canon :=
  Canon.escalate (canon_modCore.2 h.markReport.flushAll)

@[simp ↓] theorem execRollback_canon (h : s.Canon) : Res.Canon (execRollback s) := by
  unfold execRollback
  split
  · simp [h]
  extract_lets c
  split
  · exact h
  rename State → State => done
  have done_canon : (done s).Canon := State.canon_modCore.2 h
  clear_value done
  split
  · exact done_canon.escalateError
  dsimp only
  split
  · exact done_canon.escalateError
  split
  next e => exact h.askArchives.of_some e
  · simp +zetaDelta [done_canon]

@[simp ↓] theorem State.Canon.deliver (h : s.Canon) : (s.deliver c t).Canon := by
  unfold State.deliver
  split <;> simp [h]

@[simp ↓] theorem State.Canon.deliverParked (h : s.Canon) : (s.deliverParked c).Canon := by
  unfold State.deliverParked
  dsimp only
  split <;> simp [h]

@[simp ↓] theorem State.Canon.deliverCancel (h : s.Canon) : (s.deliverCancel c).Canon := by
  unfold State.deliverCancel
  dsimp only
  split
  · simp [h]
  split <;> simp [h]

@[simp ↓] theorem State.Canon.deliverOwn (h : s.Canon) : (s.deliverOwn c).Canon := by
  unfold State.deliverOwn
  dsimp only
  split
  · split <;> simp [h]
  · simp [h]

@[simp ↓] theorem execTrapDelivery_canon (h : s.Canon) : Res.Canon (execTrapDelivery s) := by
  unfold execTrapDelivery
  dsimp only
  split
  case h_3 => split <;> simp [h]
  case h_4 => split <;> simp [h]
  all_goals simp [h]

@[simp ↓] theorem ctxStep_canon (h : s.Canon) : Agenda.Canon (ctxStep s x) := by
  unfold ctxStep
  dsimp only
  split <;> simp [h]

@[simp ↓] theorem deliverStep_canon (h : s.Canon) : Agenda.Canon (deliverStep s c) := by
  unfold deliverStep
  split
  · simp [h]
  split <;> simp [h]

end

/-! ## Debug and the Whistle -/

section
variable {s : State}

@[simp ↓] theorem execBkpt_canon {code : Int} (h : s.Canon) : Res.Canon (execBkpt code s) := by
  simp [execBkpt, h]

@[simp ↓] theorem execTrace_canon {ga : GReg} {tag : Int} (h : s.Canon) : Res.Canon (execTrace ga tag s) := by
  simp [execTrace, h]

@[simp ↓] theorem execTraceSync_canon (h : s.Canon) : Res.Canon (execTraceSync s) := by
  simp [execTraceSync, h]

@[simp ↓] theorem execSmpl_canon {gd : GReg} (h : s.Canon) : Res.Canon (execSmpl gd s) := by
  simp [execSmpl, h]

@[simp ↓] theorem State.canon_whistleReq : s.whistleReq.Canon ↔ s.Canon := by
  simp [State.whistleReq]

@[simp ↓] theorem execSmplReq_canon (h : s.Canon) : Res.Canon (execSmplReq s) := by
  simp [execSmplReq, h]

@[simp ↓] theorem execWhistleReq_canon (h : s.Canon) : Res.Canon (execWhistleReq s) := by
  simp [execWhistleReq, h]

@[simp ↓] theorem State.Canon.traceDrain {c : Nat} (h : s.Canon) : (s.traceDrain c).Canon := by
  unfold State.traceDrain
  dsimp only
  split
  · simp [h]
  split
  · simp [h]
  split <;> simp [h]

@[simp ↓] theorem State.Canon.traceDrains (h : s.Canon) : s.traceDrains.Canon :=
  Canon.foldl (fun _ _ hs => hs.traceDrain) _ h

@[simp ↓] theorem execWhistleTick_canon (h : s.Canon) : Res.Canon (execWhistleTick s) := by
  simp [execWhistleTick, h]

@[simp ↓] theorem State.Canon.whistleWrite (h : s.Canon) : OptCanon s.whistleWrite := by
  unfold State.whistleWrite
  dsimp only
  split
  · simp
  split
  · simp
  split <;> simp [h]

@[simp ↓] theorem execScrub_canon (h : s.Canon) : Res.Canon (execScrub s) := by
  unfold execScrub
  dsimp only
  split
  · simp [h]
  split
  · simp [h]
  split
  · exact h
  · simp [h]

end

/-! ## Power and the island -/

section
variable {s : State} {k core : Nat}

@[simp ↓] theorem State.Canon.cmdRefused {socket : Nat} (h : s.Canon) : (s.cmdRefused socket core).Canon := by
  simp [State.cmdRefused, h]

@[simp ↓] theorem State.canon_loseCore {c : Nat} : (s.loseCore c).Canon ↔ s.Canon := by
  unfold State.loseCore
  dsimp only
  split <;> simp

@[simp ↓] theorem State.Canon.dieReset (h : s.Canon) : (s.dieReset k).Canon :=
  canon_mk.2 (memWf_filter _ _ (Canon.foldl (fun _ _ hs => canon_loseCore.2 hs) _ h).wf)

@[simp ↓] theorem State.Canon.powerDown (h : s.Canon) : (s.powerDown k).Canon := by
  unfold State.powerDown
  split
  · exact h.dieReset
  · exact canon_mk.2 (memWf_filter _ _ h.wf)

@[simp ↓] theorem State.canon_releaseHeld : (s.releaseHeld k).Canon ↔ s.Canon := by
  simp [State.releaseHeld]

@[simp ↓] theorem State.Canon.refuseOne {m : Msg} (h : s.Canon) : (s.refuseOne m).Canon := by
  unfold State.refuseOne
  split
  · simp [h]
  split <;> simp [h]

@[simp ↓] theorem State.Canon.refuseHeld (h : s.Canon) : (s.refuseHeld k).Canon :=
  Canon.foldl (fun _ _ hs => hs.refuseOne) _ (canon_modEp.2 h)

@[simp ↓] theorem State.Canon.orphan {cause : Nat} (h : s.Canon) : (s.orphan k cause).Canon := by
  simp [State.orphan, h]

@[simp ↓] theorem State.Canon.resetDie (h : s.Canon) : (s.resetDie k).Canon := by
  simp [State.resetDie, h]

@[simp ↓] theorem State.Canon.drainEnd (h : s.Canon) : (s.drainEnd k).Canon := by
  simp [State.drainEnd, h]

@[simp ↓] theorem State.Canon.splitReset (h : s.Canon) : (s.splitReset k core).Canon := by
  simp [State.splitReset, h]

@[simp ↓] theorem execSplitReset_canon (h : s.Canon) : Res.Canon (execSplitReset s) := by
  simp [execSplitReset, h]

@[simp ↓] theorem execSplitDrainTimeout_canon (h : s.Canon) : Res.Canon (execSplitDrainTimeout s) := by
  unfold execSplitDrainTimeout
  dsimp only
  split
  · exact h
  refine State.Canon.drainEnd (State.Canon.foldl (fun s c hs => ?_) _ (State.canon_mk.2 (State.Canon.wf ?_)))
  · split
    · simp [hs]
    · exact hs
  · exact State.Canon.foldl (fun _ _ hs => hs.dieDown) _ h

@[simp ↓] theorem State.Canon.powerOff (h : s.Canon) : (s.powerOff k core).Canon := by
  unfold State.powerOff
  split <;> simp [h]

@[simp ↓] theorem execPowerOff_canon (h : s.Canon) : Res.Canon (execPowerOff s) := by
  simp [execPowerOff, h]

@[simp ↓] theorem State.Canon.powerOn (h : s.Canon) : (s.powerOn k core).Canon := by
  simp [State.powerOn, h]

@[simp ↓] theorem execPowerOn_canon (h : s.Canon) : Res.Canon (execPowerOn s) := by
  simp [execPowerOn, h]

@[simp ↓] theorem execEndpointResetRelease_canon (h : s.Canon) : Res.Canon (execEndpointResetRelease s) := by
  simp [execEndpointResetRelease, h]

@[simp ↓] theorem execEndpointTrainingDone_canon (h : s.Canon) : Res.Canon (execEndpointTrainingDone s) := by
  simp [execEndpointTrainingDone, h]

@[simp ↓] theorem execEndpointTrainingFail_canon (h : s.Canon) : Res.Canon (execEndpointTrainingFail s) := by
  simp [execEndpointTrainingFail, h]

@[simp ↓] theorem execHeartbeatTimeout_canon (h : s.Canon) : Res.Canon (execHeartbeatTimeout s) := by
  simp [execHeartbeatTimeout, h]

@[simp ↓] theorem execMeshLinkFail_canon (h : s.Canon) : Res.Canon (execMeshLinkFail s) := by
  simp [execMeshLinkFail, h]

@[simp ↓] theorem epStep_canon (h : s.Canon) : Agenda.Canon (epStep s k) := by simp [epStep, h]

@[simp ↓] theorem State.canon_reboot : s.reboot.Canon := ⟨memWf_reset⟩

@[simp ↓] theorem execVIslUp_canon (h : s.Canon) : Res.Canon (execVIslUp s) := by
  unfold execVIslUp
  split <;> simp [h]

@[simp ↓] theorem execVIslRemoved_canon : Res.Canon (execVIslRemoved s) := by
  simp [execVIslRemoved]

@[simp ↓] theorem State.Canon.islandReset (h : s.Canon) : (s.islandReset core).Canon := by
  simp [State.islandReset, h]

@[simp ↓] theorem execIslandReset_canon (h : s.Canon) : Res.Canon (execIslandReset s) := by
  simp [execIslandReset, h]

@[simp ↓] theorem bootStep_canon (h : s.Canon) : Agenda.Canon (bootStep s) := by simp [bootStep, h]

@[simp ↓] theorem State.canon_goBoot {coord : Nat} : (s.goBoot coord).Canon ↔ s.Canon := by
  simp [State.goBoot]

@[simp ↓] theorem execGo_canon (h : s.Canon) : Res.Canon (execGo s) := by simp [execGo, h]

@[simp ↓] theorem execThermalThrottle_canon (h : s.Canon) : Res.Canon (execThermalThrottle s) := by
  simp [execThermalThrottle, h]

@[simp ↓] theorem execOvertempPowerOff_canon (h : s.Canon) : Res.Canon (execOvertempPowerOff s) := by
  unfold execOvertempPowerOff
  dsimp only
  split
  · exact h.orphan.powerDown.islLog
  · exact h

@[simp ↓] theorem State.Canon.attest {w : Nat} (h : s.Canon) : (s.attest w).Canon := by
  unfold State.attest
  split <;> simp [h]

@[simp ↓] theorem execAttCmd_canon (h : s.Canon) : Res.Canon (execAttCmd s) := by
  simp [execAttCmd, h]

end

/-! ## Links and collectives -/

section
variable {s : State} {p c n b mhz vc v core k : Nat} {body : List Byte} {f : FlitRec}

@[simp ↓] theorem State.Canon.sendNow (h : s.Canon) : (s.sendNow p f).Canon := by
  unfold State.sendNow
  dsimp only
  split
  · simp [h]
  split <;> simp [h]

@[simp ↓] theorem State.Canon.transmit (h : s.Canon) : (s.transmit p f).Canon := by
  simp [State.transmit, h]

@[simp ↓] theorem State.Canon.pushFlit (h : s.Canon) : (s.pushFlit p vc body).Canon := by
  simp [State.pushFlit, h]

@[simp ↓] theorem State.Canon.sendFlit (h : s.Canon) : (s.sendFlit p vc body).Canon := by
  simp [State.sendFlit, h]

@[simp ↓] theorem portStep_canon (h : s.Canon) : Agenda.Canon (portStep s p) := by
  unfold portStep
  dsimp only
  split
  · simp
  split <;> simp [h]

@[simp ↓] theorem State.Canon.sendControl {ty : Nat} (h : s.Canon) : (s.sendControl p ty n).Canon := by
  simp [State.sendControl, h]

@[simp ↓] theorem State.canon_startFreq : (s.startFreq k mhz).Canon ↔ s.Canon := by
  simp [State.startFreq]

@[simp ↓] theorem State.canon_freeFreq : (s.freeFreq p).Canon ↔ s.Canon := by
  unfold State.freeFreq
  split <;> simp

@[simp ↓] theorem State.Canon.portReady {width : Nat} (h : s.Canon) : (s.portReady p width).Canon :=
  canon_freeFreq.2 (Canon.foldl (fun _ _ hs => hs.transmit) _ (canon_modPort.2 h))

@[simp ↓] theorem State.canon_loseMsg {m : Msg} : (s.loseMsg p m).Canon ↔ s.Canon := by
  unfold State.loseMsg
  split
  · simp
  split
  · simp
  split <;> simp

@[simp ↓] theorem State.canon_portLost {old : Nat} : (s.portLost p old).Canon ↔ s.Canon := by
  simp [State.portLost]

@[simp ↓] theorem State.canon_portLeave {failr : Nat} {st : PortState} :
    (s.portLeave p failr st).Canon ↔ s.Canon := by
  simp [State.portLeave]

@[simp ↓] theorem State.canon_portEnable : (s.portEnable p).Canon ↔ s.Canon := by
  simp [State.portEnable]

@[simp ↓] theorem execPortEnable_canon (h : s.Canon) : Res.Canon (execPortEnable s) := by
  simp [execPortEnable, h]

@[simp ↓] theorem State.canon_portDisable : (s.portDisable p).Canon ↔ s.Canon := by
  simp [State.portDisable]

@[simp ↓] theorem execPortDisable_canon (h : s.Canon) : Res.Canon (execPortDisable s) := by
  simp [execPortDisable, h]

@[simp ↓] theorem State.canon_startWidth : (s.startWidth p).Canon ↔ s.Canon := by
  simp [State.startWidth]

@[simp ↓] theorem State.canon_widthRequest {code : Nat} : (s.widthRequest p code).Canon ↔ s.Canon := by
  unfold State.widthRequest
  dsimp only
  split
  · simp
  split <;> simp

@[simp ↓] theorem execPortWidthRequest_canon (h : s.Canon) : Res.Canon (execPortWidthRequest s) := by
  simp [execPortWidthRequest, h]

@[simp ↓] theorem execPortTrainingDone_canon (h : s.Canon) : Res.Canon (execPortTrainingDone s) := by
  simp [execPortTrainingDone, h]

@[simp ↓] theorem execPortTrainingFail_canon (h : s.Canon) : Res.Canon (execPortTrainingFail s) := by
  simp [execPortTrainingFail, h]

@[simp ↓] theorem State.canon_portRetrain : (s.portRetrain p).Canon ↔ s.Canon := by
  simp [State.portRetrain]

@[simp ↓] theorem execLaneLossOfLock_canon (h : s.Canon) : Res.Canon (execLaneLossOfLock s) := by
  simp [execLaneLossOfLock, h]

@[simp ↓] theorem execLaneErrorRate_canon (h : s.Canon) : Res.Canon (execLaneErrorRate s) := by
  simp [execLaneErrorRate, h]

@[simp ↓] theorem State.canon_retrainFails : (s.retrainFails p).Canon ↔ s.Canon := by
  simp [State.retrainFails]

@[simp ↓] theorem execRetrainDone_canon (h : s.Canon) : Res.Canon (execRetrainDone s) := by
  simp [execRetrainDone, h]

@[simp ↓] theorem execRetrainFail_canon (h : s.Canon) : Res.Canon (execRetrainFail s) := by
  simp [execRetrainFail, h]

@[simp ↓] theorem execWidthChangeDone_canon (h : s.Canon) : Res.Canon (execWidthChangeDone s) := by
  simp [execWidthChangeDone, h]

@[simp ↓] theorem State.Canon.freqCmd (h : s.Canon) : (s.freqCmd k mhz core).Canon := by
  unfold State.freqCmd
  split
  · simp [h]
  split <;> simp [h]

@[simp ↓] theorem execFreq_canon (h : s.Canon) : Res.Canon (execFreq s) := by simp [execFreq, h]

@[simp ↓] theorem execFreqComplete_canon (h : s.Canon) : Res.Canon (execFreqComplete s) := by
  unfold execFreqComplete
  dsimp only
  split <;> simp [h]

@[simp ↓] theorem State.canon_linjWrite {lane : Nat} : (s.linjWrite p lane v).Canon ↔ s.Canon := by
  simp [State.linjWrite]

@[simp ↓] theorem execLinjArm_canon (h : s.Canon) : Res.Canon (execLinjArm s) := by
  simp [execLinjArm, h]

@[simp ↓] theorem State.Canon.shardArrive {src : Nat} {data : Option (VBits × VBits)} {port : Nat} (h : s.Canon) :
    (s.shardArrive c b src data port).Canon := by
  unfold State.shardArrive
  split <;> simp [h]

@[simp ↓] theorem execShardArrival_canon (h : s.Canon) : Res.Canon (execShardArrival s) := by
  simp [execShardArrival, h]

@[simp ↓] theorem State.Canon.sendShard {v n : VBits} (h : s.Canon) : (s.sendShard c b v n).Canon := by
  unfold State.sendShard
  refine Canon.foldl (fun s x hs => ?_) _ (canon_modColl.2 h)
  split
  · simp [hs]
  split <;> simp [hs]

@[simp ↓] theorem State.Canon.contribute {bytes : List Byte} (h : s.Canon) : OptCanon (s.contribute c b bytes) := by
  simp [State.contribute, h]

@[simp ↓] theorem execContributionWrite_canon (h : s.Canon) : Res.Canon (execContributionWrite s) :=
  h.contribute.getD h

@[simp ↓] theorem State.Canon.rqPush {q : Nat} {x : VBits} (h : s.Canon) : OptCanon (s.rqPush c q x) := by
  simp [State.rqPush, h]

@[simp ↓] theorem execShardDelivery_canon (h : s.Canon) : Res.Canon (execShardDelivery s) := by
  unfold execShardDelivery
  dsimp only
  split
  · exact h
  split
  · exact h
  next e =>
  have hp (b : VBits) : OptCanon (if s.shardReady s.hand.arg.ix s.hand.arg.a then
      s.rqPush (4096 + 8 * (s.coll s.hand.arg.ix).home + s.hand.arg.a) 7 b else none) := by simp [h]
  exact State.canon_modColl.2 ((hp _).of_some e)

@[simp ↓] theorem State.Canon.collEnable (h : s.Canon) : (s.collEnable c v core).Canon := by
  simp [State.collEnable, h]

@[simp ↓] theorem execCollectiveEnable_canon (h : s.Canon) : Res.Canon (execCollectiveEnable s) := by
  simp [execCollectiveEnable, h]

@[simp ↓] theorem State.canon_collAbandon : (s.collAbandon c).Canon ↔ s.Canon := by
  simp [State.collAbandon]

@[simp ↓] theorem execCollectiveAbandon_canon (h : s.Canon) : Res.Canon (execCollectiveAbandon s) := by
  simp [execCollectiveAbandon, h]

@[simp ↓] theorem execCollectiveShotExpiry_canon (h : s.Canon) : Res.Canon (execCollectiveShotExpiry s) := by
  unfold execCollectiveShotExpiry
  extract_lets c e lack halted gone t t1
  have ht : t1.Canon := State.Canon.foldl (fun _ _ hs => hs.islLog) _ (State.canon_modColl.2 h)
  clear_value t1
  split
  · exact ht
  · refine State.Canon.foldl (fun s j hs => ?_) _ ht
    simp [hs]

@[simp ↓] theorem execPassThroughShard_canon (h : s.Canon) : Res.Canon (execPassThroughShard s) := by
  simp [execPassThroughShard, h]

@[simp ↓] theorem execHaltNotice_canon (h : s.Canon) : Res.Canon (execHaltNotice s) := by
  unfold execHaltNotice
  dsimp only
  split <;> simp [h]

@[simp ↓] theorem collStep_canon (h : s.Canon) : Agenda.Canon (collStep s c) := by
  unfold collStep
  extract_lets e _ ev
  have ev_canon (a b : Nat) (i : Instr) : (ev a b i).Canon := by simp [ev, h]
  clear_value ev
  refine .ite (by simp) (.ite (ev_canon _ _ _) ?_)
  split
  · exact ev_canon _ _ _
  refine .ite (by simp) (.ite ?_ (.ite (by simp) (ev_canon _ _ _)))
  split
  · exact ev_canon _ _ _
  · simp

@[simp ↓] theorem State.canon_ackReceived : (s.ackReceived p n).Canon ↔ s.Canon := by
  simp [State.ackReceived]

@[simp ↓] theorem execAcknowledgeReceived_canon (h : s.Canon) : Res.Canon (execAcknowledgeReceived s) := by
  simp [execAcknowledgeReceived, h]

@[simp ↓] theorem State.Canon.nakReceived (h : s.Canon) : (s.nakReceived p n).Canon := by
  unfold State.nakReceived
  extract_lets q cnt replay t again
  have ht : t.Canon := canon_modPort.2 h
  have again_canon (u : State) (hu : u.Canon) : (again u).Canon :=
    Canon.foldl (fun _ _ hs => hs.transmit) _ (canon_modPort.2 hu)
  clear_value t again
  split
  · exact again_canon _ ht
  split
  · exact ht
  split
  · exact again_canon _ (canon_modPort.2 ht)
  · exact canon_portRetrain.2 ht

@[simp ↓] theorem execNegativeAcknowledge_canon (h : s.Canon) : Res.Canon (execNegativeAcknowledge s) := by
  simp [execNegativeAcknowledge, h]

@[simp ↓] theorem State.Canon.flitEffect (h : s.Canon) : (s.flitEffect p body).Canon := by
  unfold State.flitEffect
  dsimp only
  split
  · simp [h]
  split
  · simp [h]
  split
  · exact h
  split
  · split <;> simp [h]
  split
  · simp [h]
  split
  · split <;> simp [h]
  · exact h

@[simp ↓] theorem execFlitReceived_canon (h : s.Canon) : Res.Canon (execFlitReceived s) := by
  unfold execFlitReceived
  extract_lets p f t q body n good idle want ask u v
  have ht : t.Canon := State.canon_modPort.2 h
  have ask_canon : (ask t).Canon := by
    refine State.canon_ite.2 ?_
    simp [ht]
  have hv : v.Canon := (State.canon_modPort.2 ht).flitEffect
  clear_value t good idle want ask v
  refine .ite h (.ite ask_canon (.ite ?_ (.ite ht ?_)))
  · simp [ht, ask_canon]
  · simp [hv]

end

/-! ## Device registers -/

section
variable {s : State} {v off c core q fn x : Nat}

@[simp ↓] theorem nextOr_canon {r : Res} (h : s.Canon) (hr : r.Canon) : (nextOr s r).Canon := by
  unfold nextOr
  split
  · exact hr
  · exact h

@[simp ↓] theorem State.canon_named {n : Nat} : (s.named n).Canon ↔ s.Canon := by simp [State.named]

@[simp ↓] theorem State.Canon.ctxCmd (h : s.Canon) : (s.ctxCmd x v).Canon := by
  unfold State.ctxCmd
  split <;> simp [h]

@[simp ↓] theorem ctxWrite_canon (h : s.Canon) : (ctxWrite s x off v).Canon := by
  unfold ctxWrite
  split
  · split
    case h_11 => split <;> simp [h]
    all_goals simp [h]
  split
  · split <;> simp [h]
  · simp [h]

@[simp ↓] theorem canon_queueWrite : (queueWrite s q off v).Canon ↔ s.Canon := by
  unfold queueWrite
  split <;> simp

@[simp ↓] theorem State.canon_setFunc {key : Nat} : (s.setFunc key v).Canon ↔ s.Canon := by
  simp [State.setFunc]

@[simp ↓] theorem State.canon_qownWrite : (s.qownWrite q v).Canon ↔ s.Canon := by
  simp [State.qownWrite]

@[simp ↓] theorem execQownWrite_canon (h : s.Canon) : Res.Canon (execQownWrite s) := by
  simp [execQownWrite, h]

@[simp ↓] theorem State.canon_cownWrite : (s.cownWrite c v).Canon ↔ s.Canon := by
  simp [State.cownWrite]

@[simp ↓] theorem execCownWrite_canon (h : s.Canon) : Res.Canon (execCownWrite s) := by
  simp [execCownWrite, h]

@[simp ↓] theorem State.Canon.islCmd (h : s.Canon) : (s.islCmd core v).Canon := by
  unfold State.islCmd
  split <;> simp [h]

@[simp ↓] theorem State.canon_whistleCtl : (s.whistleCtl v).Canon ↔ s.Canon := by
  simp [State.whistleCtl]

@[simp ↓] theorem islWrite_canon (h : s.Canon) : (islWrite s core off v).Canon := by
  simp [islWrite, h]

@[simp ↓] theorem canon_portWrite {p : Nat} : (portWrite s p off v).Canon ↔ s.Canon := by
  simp [portWrite]

@[simp ↓] theorem collWrite_canon (h : s.Canon) : (collWrite s fn core c off v).Canon := by
  unfold collWrite
  split <;> simp [h]

@[simp ↓] theorem State.Canon.dbgCtl (h : s.Canon) : (s.dbgCtl c v).Canon := by
  unfold State.dbgCtl
  extract_lets w t u x
  have ht : t.Canon := canon_modCore.2 h
  have hu : u.Canon := by simp [u, ht]
  have hx : x.Canon := by simp [x, hu]
  simp [hx]

@[simp ↓] theorem State.canon_traceCtl : (s.traceCtl c v).Canon ↔ s.Canon := by
  simp [State.traceCtl]

@[simp ↓] theorem debugWrite_canon (h : s.Canon) : (debugWrite s c off v).Canon := by
  unfold debugWrite
  split <;> simp [h]

@[simp ↓] theorem State.Canon.devWrite8 (h : s.Canon) : (s.devWrite8 fn core off v).1.Canon := by
  simp [State.devWrite8, h]

@[simp ↓] theorem execRegisterWrite_canon (h : s.Canon) : Res.Canon (execRegisterWrite s) := by
  unfold execRegisterWrite
  split <;> simp [h]

@[simp ↓] theorem execHostWindowTimeout_canon (h : s.Canon) : Res.Canon (execHostWindowTimeout s) := by
  unfold execHostWindowTimeout
  split
  · simp [h]
  split
  · simp [h]
  split <;> simp [h]

end

/-! ## The copy engine -/

section
variable {s : State} {c ix phys group n : Nat} {o : CopyOp} {bytes : List Byte} {l : List CPiece} {b : Beat}
    {m : Mutation}

@[simp ↓] theorem State.canon_modCopy {f : CopyOp → CopyOp} : (s.modCopy c ix f).Canon ↔ s.Canon := by
  simp [State.modCopy]

@[simp ↓] theorem State.canon_budgetCharge : (s.budgetCharge c o n l).Canon ↔ s.Canon := by
  unfold State.budgetCharge
  split <;> simp

@[simp ↓] theorem State.Canon.budgetEvent {addr : Nat} (h : s.Canon) : (s.budgetEvent c ix addr).Canon := by
  unfold State.budgetEvent
  split <;> simp [h]

@[simp ↓] theorem execBudgetPeriod_canon (h : s.Canon) : Res.Canon (execBudgetPeriod s) := by
  simp [execBudgetPeriod, h]

@[simp ↓] theorem State.Canon.readPart {p : CPiece} (h : s.Canon) : (s.readPart c group p).1.Canon := by
  unfold State.readPart
  dsimp only
  split
  · exact h
  split
  · split
    · simp [h]
    · split <;> simp [h]
    · split <;> simp [h]
  split
  · exact h
  split
  · exact h
  · split
    · exact h
    · split <;> rename_i e <;> exact h.onRead.fst e
  · simp [h]

@[simp ↓] theorem State.Canon.readParts (h : s.Canon) : (s.readParts c group l).1.Canon := by
  refine Canon.foldl_fst (fun p a hp => ?_) _ h
  split
  · split <;> rename_i e
    · exact hp.readPart.fst e
    · exact hp.readPart
  · split <;> rename_i e <;> exact hp.readPart.fst e
  · exact hp

@[simp ↓] theorem State.canon_usedParts : (s.usedParts l).Canon ↔ s.Canon := by
  simp [State.usedParts]

@[simp ↓] theorem State.Canon.f8zGather {srcs : List CPiece} (h : s.Canon) :
    (s.f8zGather c group m srcs).1.Canon := by
  unfold State.f8zGather
  extract_lets total read
  have read_canon (t : State) (a b : Nat) (ht : t.Canon) : (read t a b).1.Canon := by
    simp only [read]
    split
    · exact ht
    · exact ht.readParts
  clear_value read
  split
  next e =>
    refine Canon.foldl_fst (fun p b hp => ?_) _ ((read_canon _ _ _ h).fst e)
    split
    · dsimp only
      split
      · exact hp
      split
      next e =>
        have ht := (read_canon _ _ _ hp).fst e
        split <;> rename_i e <;> exact (read_canon _ _ _ ht).fst e
      next e => exact (read_canon _ _ _ hp).fst e
    · exact hp
  next e => exact (read_canon _ _ _ h).fst e

@[simp ↓] theorem State.canon_copyStuck {g : Got} : (s.copyStuck c ix g).Canon ↔ s.Canon := by
  unfold State.copyStuck
  split <;> simp

@[simp ↓] theorem State.Canon.underBudget {go : State → State} (h : s.Canon) (hgo : (go s).Canon) :
    (s.underBudget c ix o n l go).Canon := by
  unfold State.underBudget
  split <;> simp [h, hgo]

@[simp ↓] theorem State.Canon.copyWhole (h : s.Canon) : (s.copyWhole c ix o).Canon := by
  unfold State.copyWhole
  split <;> rename_i e <;> simp [h.readParts.fst e]

@[simp ↓] theorem State.Canon.copyMutate (h : s.Canon) : (s.copyMutate c ix o m).Canon := by
  unfold State.copyMutate
  dsimp only
  split
  · simp [h]
  split
  next e => simp [h.f8zGather.fst e]
  next e =>
    replace h := h.f8zGather.fst e
    refine h.underBudget ?_
    split <;> simp [h]

@[simp ↓] theorem State.Canon.beatBytes (h : s.Canon) : (s.beatBytes c o b).1.Canon := by
  unfold State.beatBytes
  split
  · exact h
  · exact h
  · dsimp only
    split <;> rename_i e <;> simp [h.readParts.fst e]
  · split <;> rename_i e <;> simp [h.readParts.fst e]

@[simp ↓] theorem State.Canon.engineStore {home writer : Nat} (h : s.Canon) :
    (s.engineStore home writer phys bytes).1.Canon := by
  unfold State.engineStore
  split <;> simp [h]

@[simp ↓] theorem State.Canon.devPut {fn core off : Nat} (h : s.Canon) : (s.devPut fn core off bytes).1.Canon := by
  unfold State.devPut
  split
  · exact h
  · refine Canon.foldl_fst (fun p i hp => ?_) _ h
    exact hp.devWrite8

@[simp ↓] theorem State.Canon.putDevice (h : s.Canon) : (s.putDevice c phys bytes).1.Canon := by
  unfold State.putDevice
  dsimp only
  split
  · exact h
  split
  · simp [h]
  split
  · split
    · exact h
    split
    next e => exact h.contribute.of_some e
    · exact h
  · simp [h]

@[simp ↓] theorem State.Canon.putBeat (h : s.Canon) : (s.putBeat c phys bytes).1.Canon := by
  unfold State.putBeat
  split
  · simp [h]
  split <;> simp [h]

@[simp ↓] theorem State.canon_sealLine : (s.sealLine o phys).Canon ↔ s.Canon := by
  simp [State.sealLine]

@[simp ↓] theorem State.Canon.putVector {target q : Nat} (h : s.Canon) :
    (s.putVector c ix target q bytes).1.Canon := by
  unfold State.putVector
  dsimp only
  split
  · simp [h]
  split
  · simp [h]
  split <;> simp [h]

@[simp ↓] theorem State.Canon.putOf (h : s.Canon) : (s.putOf c ix o b bytes).1.Canon := by
  unfold State.putOf
  split <;> simp [h]

@[simp ↓] theorem State.canon_beatDone {flags ack : Nat} : (s.beatDone c ix b flags ack).Canon ↔ s.Canon := by
  unfold State.beatDone
  extract_lets t at_ next u
  have hu : u.Canon ↔ s.Canon := canon_modCopy
  clear_value u
  split
  · exact hu
  extract_lets queue v
  clear_value queue
  split
  · exact hu
  · split <;> simp [v, hu]

@[simp ↓] theorem State.Canon.copyBeat (h : s.Canon) : (s.copyBeat c ix o).Canon := by
  unfold State.copyBeat
  split
  · exact h
  · exact h
  refine h.underBudget ?_
  split
  next e =>
    replace h := h.beatBytes.fst e
    split
    next e =>
      replace h := h.putOf.fst e
      simp +zetaDelta [h]
    next e => simp [h.putOf.fst e]
    next e => simp [h.putOf.fst e]
    next e => simp [h.putOf.fst e]
  next e => simp [h.beatBytes.fst e]

@[simp ↓] theorem State.canon_awayFails : (s.awayFails c ix o).Canon ↔ s.Canon := by
  unfold State.awayFails
  split <;> simp

@[simp ↓] theorem State.Canon.copyGo (h : s.Canon) : (s.copyGo c ix).Canon := by
  unfold State.copyGo
  split
  · simp [h]
  split
  · simp [h]
  split <;> simp [h]

@[simp ↓] theorem State.canon_beatAnswered {bad : Bool} : (s.beatAnswered c phys bad).Canon ↔ s.Canon := by
  unfold State.beatAnswered
  dsimp only
  split
  · simp
  split
  · simp
  split <;> simp

@[simp ↓] theorem State.Canon.foreignBeat (h : s.Canon) : s.foreignBeat.Canon := by
  unfold State.foreignBeat
  dsimp only
  split <;> rename_i e <;> simp [h.putBeat.fst e]

@[simp ↓] theorem execCopyBeatWrite_canon (h : s.Canon) : Res.Canon (execCopyBeatWrite s) := by
  simp [execCopyBeatWrite, h]

@[simp ↓] theorem execReceiveQueuePush_canon (h : s.Canon) : Res.Canon (execReceiveQueuePush s) := by
  unfold execReceiveQueuePush
  split
  · dsimp only
    split
    next e => exact h.rqPush.of_some e
    · simp [h]
  · dsimp only
    split
    · simp [h]
    split
    · simp [h]
    split
    next e =>
      have hp (b : VBits) : OptCanon (if s.gate s.hand.arg.ix s.hand.arg.b = 0 then
          s.rqPush s.hand.arg.ix s.hand.arg.a b else none) := by simp [h]
      have := (hp _).of_some e
      simp [this]
    · simp [h]

@[simp ↓] theorem execCopyComplete_canon (h : s.Canon) : Res.Canon (execCopyComplete s) := by
  unfold execCopyComplete
  dsimp only
  split
  · simp [h]
  split <;> simp [h]

@[simp ↓] theorem copyStep_canon (h : s.Canon) : Agenda.Canon (copyStep s) :=
  Agenda.canon_map fun _ => by simp [h]

end

/-! ## Follower groups -/

section
variable {s : State} {gd : GReg}

@[simp ↓] theorem State.Canon.follow {t : Option Nat} (h : s.Canon) : (s.follow gd t).Canon := by
  unfold State.follow
  split
  · split <;> simp [h]
  · simp [h]

@[simp ↓] theorem execFollow_canon {leader : GJ} (h : s.Canon) : Res.Canon (execFollow gd leader s) := by
  simp [execFollow, h]

@[simp ↓] theorem execFollowRel_canon {spec : Int} (h : s.Canon) : Res.Canon (execFollowRel gd spec s) := by
  simp [execFollowRel, h]

@[simp ↓] theorem execDetach_canon (h : s.Canon) : Res.Canon (execDetach s) := by
  simp [execDetach, h]

@[simp ↓] theorem execFollowRequest_canon (h : s.Canon) : Res.Canon (execFollowRequest s) := by
  simp [execFollowRequest, h]

@[simp ↓] theorem execFollowReply_canon (h : s.Canon) : Res.Canon (execFollowReply s) := by
  unfold execFollowReply
  split <;> simp [h]

@[simp ↓] theorem execForwardedWordDispatch_canon (h : s.Canon) : Res.Canon (execForwardedWordDispatch s) := by
  simp [execForwardedWordDispatch, h]

@[simp ↓] theorem execLeaderEndDetach_canon (h : s.Canon) : Res.Canon (execLeaderEndDetach s) := by
  simp [execLeaderEndDetach, h]

@[simp ↓] theorem State.canon_followerGone {leader f : Nat} : (s.followerGone leader f).Canon ↔ s.Canon := by
  simp [State.followerGone]

end

/-! ## Integer instructions -/

section
variable {s : State} {gd ga : GReg} {b : GImm} {u : Bool} {v : ImmJ} {spec : Nat}

@[simp ↓] theorem State.canon_intResult {lat occ : Nat} {v : Word} : (s.intResult lat occ gd v).Canon ↔ s.Canon := by
  simp [State.intResult]

@[simp ↓] theorem execInt2_canon {f : Word → Word → Word} (h : s.Canon) : Res.Canon (execInt2 f gd ga b s) := by
  simp [execInt2, h]

@[simp ↓] theorem execInt1_canon {f : Word → Word} (h : s.Canon) : Res.Canon (execInt1 f gd ga s) := by
  simp [execInt1, h]

@[simp ↓] theorem execAdd_canon (h : s.Canon) : Res.Canon (execAdd gd ga b s) := by
  simp [execAdd, h]

@[simp ↓] theorem execSub_canon (h : s.Canon) : Res.Canon (execSub gd ga b s) := by
  simp [execSub, h]

@[simp ↓] theorem execMul_canon (h : s.Canon) : Res.Canon (execMul gd ga b s) := by
  simp [execMul, h]

@[simp ↓] theorem execMulh_canon {kind : MulhKind} (h : s.Canon) : Res.Canon (execMulh kind gd ga b s) := by
  simp [execMulh, h]

@[simp ↓] theorem execDiv_canon (h : s.Canon) : Res.Canon (execDiv u gd ga b s) := by
  simp [execDiv, h]

@[simp ↓] theorem execRem_canon (h : s.Canon) : Res.Canon (execRem u gd ga b s) := by
  simp [execRem, h]

@[simp ↓] theorem execAnd_canon (h : s.Canon) : Res.Canon (execAnd gd ga b s) := by
  simp [execAnd, h]

@[simp ↓] theorem execOr_canon (h : s.Canon) : Res.Canon (execOr gd ga b s) := by simp [execOr, h]

@[simp ↓] theorem execXor_canon (h : s.Canon) : Res.Canon (execXor gd ga b s) := by
  simp [execXor, h]

@[simp ↓] theorem execAndn_canon (h : s.Canon) : Res.Canon (execAndn gd ga b s) := by
  simp [execAndn, h]

@[simp ↓] theorem execShl_canon (h : s.Canon) : Res.Canon (execShl gd ga b s) := by
  simp [execShl, h]

@[simp ↓] theorem execShr_canon (h : s.Canon) : Res.Canon (execShr gd ga b s) := by
  simp [execShr, h]

@[simp ↓] theorem execSra_canon (h : s.Canon) : Res.Canon (execSra gd ga b s) := by
  simp [execSra, h]

@[simp ↓] theorem execRot_canon (h : s.Canon) : Res.Canon (execRot gd ga b s) := by
  simp [execRot, h]

@[simp ↓] theorem execMin_canon (h : s.Canon) : Res.Canon (execMin u gd ga b s) := by
  simp [execMin, h]

@[simp ↓] theorem execMax_canon (h : s.Canon) : Res.Canon (execMax u gd ga b s) := by
  simp [execMax, h]

@[simp ↓] theorem execClz_canon (h : s.Canon) : Res.Canon (execClz gd ga s) := by simp [execClz, h]

@[simp ↓] theorem execCtz_canon (h : s.Canon) : Res.Canon (execCtz gd ga s) := by simp [execCtz, h]

@[simp ↓] theorem execPopc_canon (h : s.Canon) : Res.Canon (execPopc gd ga s) := by
  simp [execPopc, h]

@[simp ↓] theorem execBfx_canon (h : s.Canon) : Res.Canon (execBfx gd ga spec s) := by
  simp [execBfx, h]

@[simp ↓] theorem execBfi_canon (h : s.Canon) : Res.Canon (execBfi gd ga spec s) := by
  simp [execBfi, h]

@[simp ↓] theorem execMovi_canon (h : s.Canon) : Res.Canon (execMovi gd v s) := by
  simp [execMovi, h]

@[simp ↓] theorem execMovhi_canon (h : s.Canon) : Res.Canon (execMovhi gd v s) := by
  simp [execMovhi, h]

@[simp ↓] theorem execMov_canon (h : s.Canon) : Res.Canon (execMov gd ga s) := by simp [execMov, h]

@[simp ↓] theorem execCmp_canon {c : CmpCond} {qd : QReg} (h : s.Canon) : Res.Canon (execCmp c qd ga b s) := by
  simp [execCmp, h]

@[simp ↓] theorem execSel_canon {q : QReg} {gb : GReg} (h : s.Canon) : Res.Canon (execSel q gd ga gb s) := by
  simp [execSel, h]

end

/-! ## Special functions -/

section
variable {s : State} {f : VFn} {a d : VSM} {vd va : VReg} {p : Nat}

@[simp ↓] theorem execVtolog_canon (h : s.Canon) : Res.Canon (execVtolog f vd va p s) := by
  unfold execVtolog
  extract_lets _
  exact h.vGuarded (.vOne h.vParts)

@[simp ↓] theorem execVfrlog_canon (h : s.Canon) : Res.Canon (execVfrlog f vd va p s) := by
  unfold execVfrlog
  extract_lets _
  exact h.vGuarded (.vOne h.vParts)

@[simp ↓] theorem execVladd_canon {b : VSM} (h : s.Canon) : Res.Canon (execVladd f d a b s) := by
  simp [execVladd, h]

@[simp ↓] theorem execX1_canon {fn : Num → Nat × Nat} (h : s.Canon) : Res.Canon (execX1 f d a fn s) := by
  simp [execX1, h]

@[simp ↓] theorem execVexp2_canon (h : s.Canon) : Res.Canon (execVexp2 f d a s) := by
  simp [execVexp2, h]

@[simp ↓] theorem execVlog2_canon (h : s.Canon) : Res.Canon (execVlog2 f d a s) := by
  simp [execVlog2, h]

@[simp ↓] theorem execVrsq_canon (h : s.Canon) : Res.Canon (execVrsq f d a s) := by
  simp [execVrsq, h]

@[simp ↓] theorem execVrcp_canon (h : s.Canon) : Res.Canon (execVrcp f d a s) := by
  simp [execVrcp, h]

@[simp ↓] theorem execVact_canon {fn : Nat} (h : s.Canon) : Res.Canon (execVact f d a fn s) := by
  simp [execVact, h]

end

/-! ## What comes due -/

section
variable {s : State} {c : Nat} {f : State → Nat → Agenda} {i : Instr}

theorem eachCore_canon (h : ∀ c, (f s c).Canon) : (eachCore f s).Canon :=
  Agenda.canon_findSome fun p _ => h p.1

@[simp ↓] theorem State.Canon.event {ix : Nat} (h : s.Canon) : Agenda.Canon (s.event ix i) := by
  simp [State.event, h]

@[simp ↓] theorem canon_crowded {a : Agenda} : (crowded a).Canon ↔ a.Canon := by
  cases a <;> simp [crowded]

@[simp ↓] theorem inputStep_canon (h : s.Canon) : Agenda.Canon (inputStep s) := by
  unfold inputStep
  split <;> simp [h]

@[simp ↓] theorem msgStep_canon (h : s.Canon) : Agenda.Canon (msgStep s) := by
  unfold msgStep
  split
  · simp
  dsimp only
  refine .ite (Agenda.canon_map fun _ => by simp [h]) (.ite (by simp [h]) (.ite (by simp [h]) ?_))
  split
  · simp [h]
  · simp [h]
  · split <;> simp [h]

@[simp ↓] theorem clockStep_canon (h : s.Canon) : Agenda.Canon (clockStep s c) := by
  simp [clockStep, h]

@[simp ↓] theorem islandStep_canon (h : s.Canon) : Agenda.Canon (islandStep s) := by
  unfold islandStep
  refine Agenda.Canon.ite (by simp [h]) ?_
  split
  · simp [h]
  · refine .ite (by simp [h]) ?_
    cases e : s.whistleWrite with
    | none => simp
    | some t => simpa using h.whistleWrite.of_some e

theorem eachOf_canon {l : List Nat} (h : ∀ c, (f s c).Canon) : (eachOf l f s).Canon :=
  Agenda.canon_findSome fun c _ => h c

theorem eachCtx_canon (h : ∀ c, (f s c).Canon) : (eachCtx f s).Canon :=
  Agenda.canon_findSome fun p _ => h p.1

@[simp ↓] theorem eachLaunch_canon (h : s.Canon) : Agenda.Canon (eachLaunch s) :=
  Agenda.canon_findSome fun _ _ => launchStep_canon h

@[simp ↓] theorem barStep_canon (h : s.Canon) : Agenda.Canon (barStep s) := by
  unfold barStep
  split <;> simp [h]

@[simp ↓] theorem engineStep_canon (h : s.Canon) : Agenda.Canon (engineStep s c) := by
  unfold engineStep
  dsimp only
  split
  · simp [h]
  split <;> simp [h]

@[simp ↓] theorem popStepOf_canon {p : Nat × Population} (h : s.Canon) : Agenda.Canon (popStepOf s p) := by
  unfold popStepOf
  split
  · simp
  refine Agenda.Canon.ite ?_ (by simp [h])
  split
  · simp [h]
  · split <;> simp [h]

@[simp ↓] theorem migrStep_canon (h : s.Canon) : Agenda.Canon (migrStep s c) := by
  unfold migrStep
  split <;> simp [h]

@[simp ↓] theorem pwaitStep_canon (h : s.Canon) : Agenda.Canon (pwaitStep s c) := by
  unfold pwaitStep
  split
  · simp
  split <;> simp [h]

@[simp ↓] theorem draftColumn_canon (h : s.Canon) : Agenda.Canon (draftColumn s c) := by
  simp [draftColumn, h]

@[simp ↓] theorem migrArrives_canon (h : s.Canon) : Agenda.Canon (migrArrives s) := by
  unfold migrArrives
  dsimp only
  split
  · simp [h]
  split <;> simp [h]

@[simp ↓] theorem draftStep_canon (h : s.Canon) : Agenda.Canon (draftStep s) := by
  refine firstOf_canon ?_
  simp [h, eachCore_canon]

@[simp ↓] theorem homeStep_canon (h : s.Canon) : Agenda.Canon (homeStep s) := by
  unfold homeStep
  dsimp only
  split
  · simp [h]
  split
  · simp
  · exact Agenda.canon_map fun _ => by simp [h]

@[simp ↓] theorem settleCore_canon (h : s.Canon) : Agenda.Canon (settleCore s c) := by
  unfold settleCore
  split
  next e => simp [h.settleStep.of_some e]
  · exact h.settleStep

@[simp ↓] theorem blockStep_canon (h : s.Canon) : Agenda.Canon (blockStep s c) := by
  unfold blockStep
  dsimp only
  split
  · simp
  split
  · simp
  split <;> simp [h]

@[simp ↓] theorem lateStep_canon (h : s.Canon) : Agenda.Canon (lateStep s c) := by
  unfold lateStep
  extract_lets k begin_ heldLate
  have begin_canon (col : Nat) : (begin_ col).Canon := by simp [begin_, h]
  clear_value begin_ heldLate
  refine .ite (by simp) (.ite (begin_canon _) ?_)
  split
  · exact begin_canon _
  · simp

@[simp ↓] theorem tick_canon (h : s.Canon) : (tick s).Canon := by simp [tick, h]

@[simp ↓] theorem landStep_canon (h : s.Canon) : Agenda.Canon (landStep s c) := firstOf_canon (by simp [h])

@[simp ↓] theorem coreStep_canon (h : s.Canon) : Agenda.Canon (coreStep s c) := firstOf_canon (by simp [h])

@[simp ↓] theorem followStep_canon (h : s.Canon) : Agenda.Canon (followStep s) :=
  Agenda.canon_map fun _ => by simp [h]

theorem plan_canon (h : s.Canon) : (plan s).1.Canon := by
  refine Agenda.Canon.getD (firstOf_canon ?_) (tick_canon h)
  simp [h, eachCore_canon, eachOf_canon, eachCtx_canon, Agenda.canon_findSome]

theorem exec_canon (h : s.Canon) : Res.Canon (exec i s) := by cases i <;> simp [exec, h]

theorem runAll_canon {l : List Instr} (h : s.Canon) : Res.Canon (runAll l s) := by
  induction l generalizing s with
  | nil => exact h
  | cons i l ih =>
    unfold runAll
    split
    next e => exact ih (Res.Canon.of_next (exec_canon h) e)
    · exact exec_canon h

theorem step_canon (h : s.Canon) : Res.Canon (step s) := runAll_canon (plan_canon h)

end

/-- Settles O29: the plan of a step keeps memory canonical, and so does each instruction and event that it runs. -/
theorem memoryStaysCanonical : Obligations.MemoryStaysCanonical := by
  intro s t h e
  exact (Res.Canon.of_next (step_canon ⟨h⟩) e).wf

end Sys2Proof.Machine
end

section
/-! Proof that every instruction and every step answers a next state (R48, R127, R293).

`guarded`, `sGuarded` and `vGuarded` answer a next state whatever their guard says, so that most instructions do by
definition. What is left are shifts, which look at their amount, requests at their homes, and events that look at what
they find: each of their branches ends in a next state. -/

namespace Sys2Proof.Machine

/-- An outcome that is a next state. -/
inductive Res.Answers : Res → Prop
  | next (s : State) : Res.Answers (.next s)

theorem Res.Answers.exists_next {r : Res} (h : r.Answers) : ∃ t, r = .next t := by
  cases h with
  | next t => exact ⟨t, rfl⟩

section
variable {s : State}

/-! ## What several instructions and events share -/

theorem execShift_answers {left arith : Bool} {f : VFn} {d a : VSM} {b : VSMI} :
    Res.Answers (execShift left arith f d a b s) := by
  cases b <;> constructor

theorem State.atHome_answers {m : MemReq} {b : MsgBody} {go : State → State} : Res.Answers (s.atHome m b go) := by
  unfold State.atHome
  dsimp only
  repeat' split
  all_goals constructor

/-! ## Events that look at several things one after another -/

theorem execRemoteStoreAtHome_answers : Res.Answers (execRemoteStoreAtHome s) := by
  unfold execRemoteStoreAtHome
  split <;> exact State.atHome_answers

theorem execChunkLand_answers : Res.Answers (execChunkLand s) := by
  unfold execChunkLand
  repeat' split
  all_goals constructor

theorem execPopstepPairDone_answers : Res.Answers (execPopstepPairDone s) := by
  unfold execPopstepPairDone
  dsimp only
  repeat' split
  all_goals constructor

theorem execMigrArrival_answers : Res.Answers (execMigrArrival s) := by
  unfold execMigrArrival
  dsimp only
  repeat' split
  all_goals constructor

theorem execLaunchBind_answers : Res.Answers (execLaunchBind s) := by
  unfold execLaunchBind
  dsimp only
  repeat' split
  all_goals constructor

theorem execPacketRead_answers : Res.Answers (execPacketRead s) := by
  unfold execPacketRead
  dsimp only
  repeat' split
  all_goals constructor

theorem execGraphNodePacket_answers : Res.Answers (execGraphNodePacket s) := by
  unfold execGraphNodePacket
  dsimp only
  repeat' split
  all_goals constructor

theorem execScrub_answers : Res.Answers (execScrub s) := by
  unfold execScrub
  dsimp only
  repeat' split
  all_goals constructor

theorem execFlitReceived_answers : Res.Answers (execFlitReceived s) := by
  unfold execFlitReceived
  dsimp only
  repeat' split
  all_goals constructor

theorem execReceiveQueuePush_answers : Res.Answers (execReceiveQueuePush s) := by
  unfold execReceiveQueuePush
  dsimp only
  repeat' split
  all_goals constructor

end

/-! ## The obligation -/

theorem exec_answers (i : Instr) (s : State) : Res.Answers (exec i s) := by
  cases i
  case vshl | vshr | vsra => exact execShift_answers
  case remoteLoadAtHome | atomicAtHome | remoteControlWindowAccess =>
    dsimp only [exec, execRemoteLoadAtHome, execAtomicAtHome, execRemoteControlWindowAccess]
    exact State.atHome_answers
  case remoteStoreAtHome => exact execRemoteStoreAtHome_answers
  case chunkLand => exact execChunkLand_answers
  case popstepPairDone => exact execPopstepPairDone_answers
  case migrArrival => exact execMigrArrival_answers
  case launchBind => exact execLaunchBind_answers
  case packetRead => exact execPacketRead_answers
  case graphNodePacket => exact execGraphNodePacket_answers
  case scrub => exact execScrub_answers
  case flitReceived => exact execFlitReceived_answers
  case receiveQueuePush => exact execReceiveQueuePush_answers
  case columnIssue | resultLands | instructionCommit | sleepEnd | remoteLoadData | storeAcknowledgement | vredqVector |
      gmmaJoin | pageWalkComplete | invalidationComplete | rankComplete | migrCopyDone | migrReply | realignReport |
      realignRelease | pauseSpread | blockStartPassed | loadComplete | startRelease | launchComplete | shotClockExpiry |
      dealRequest | globalBarrierArrival | operationComplete | dbgHalt | dbgStep | coreSaved | preemptLimitExpiry |
      ctxResume | create | commit | scrubComplete | drainTimeout | dump | dumpComplete | rollback | trapDelivery |
      whistleTick | splitDrainTimeout | endpointResetRelease | endpointTrainingDone | endpointTrainingFail |
      heartbeatTimeout | meshLinkFail | vIslUp | overtempPowerOff | portTrainingDone | portTrainingFail | retrainDone |
      widthChangeDone | freqComplete | shardDelivery | collectiveShotExpiry | haltNotice | registerWrite | hostWindowTimeout |
      copyComplete | followRequest | followReply =>
    dsimp only [exec, execColumnIssue, execResultLands, execInstructionCommit, execSleepEnd, execRemoteLoadData,
      execStoreAcknowledgement, execVredqVector, execGmmaJoin, execPageWalkComplete, execInvalidationComplete, execRankComplete,
      execMigrCopyDone, execMigrReply, execRealignReport, execRealignRelease, execPauseSpread, execBlockStartPassed,
      execLoadComplete, execStartRelease, execLaunchComplete, execShotClockExpiry, execDealRequest, execGlobalBarrierArrival,
      execOperationComplete, execDbgHalt, execDbgStep, execCoreSaved, execPreemptLimitExpiry, execCtxResume, execCreate,
      execCommit, execScrubComplete, execDrainTimeout, execDump, execDumpComplete, execRollback, execTrapDelivery,
      execWhistleTick, execSplitDrainTimeout, execEndpointResetRelease, execEndpointTrainingDone, execEndpointTrainingFail,
      execHeartbeatTimeout, execMeshLinkFail, execVIslUp, execOvertempPowerOff, execPortTrainingDone, execPortTrainingFail,
      execRetrainDone, execWidthChangeDone, execFreqComplete, execShardDelivery, execCollectiveShotExpiry, execHaltNotice,
      execRegisterWrite, execHostWindowTimeout, execCopyComplete, execFollowRequest, execFollowReply]
    repeat' split
    all_goals constructor
  all_goals exact .next _

theorem runAll_answers (l : List Instr) (s : State) : Res.Answers (runAll l s) := by
  induction l generalizing s with
  | nil => exact .next s
  | cons i l ih =>
    obtain ⟨t, ht⟩ := (exec_answers i s).exists_next
    simpa only [runAll, ht] using ih t

/-- Settles O26: every instruction and event answers a next state, and so does a list of them run one after another. -/
theorem everyStepAnswers : Obligations.EveryStepAnswers :=
  ⟨fun i s => (exec_answers i s).exists_next, fun s => (runAll_answers (plan s).2 (plan s).1).exists_next⟩

end Sys2Proof.Machine
end

section
/-! Proof of what a core's own events do: results that land, operations that complete, commits, refresh, expiry, issue, the
end of a sleep (R29, R33, R34, R41, R42, R48, R51, R65, R75).

What is left of a core after its result has taken its place (`Core.Frees`), after an operation has written its result
(`State.Wrote`), after the parts of a commit (`Core.CommitKeeps`) and after an elastic pause has ended (`State.PausesOnly`) is
said once; each clause of the statement then adds the one thing its event does. -/

namespace Sys2Proof.Machine

/-! ## Slots -/

theorem Core.slot_slotDec (k : Core) (clk : Nat) (d : Option DReg) (x : DReg) :
    (k.slotDec clk d).slot x = if d = some x then k.slot x - 1 else k.slot x := by
  cases d with
  | none => simp [Core.slotDec]
  | some d =>
    by_cases h : x = d
    · subst h
      simp [Core.slotDec, Core.slot]
    · have hv : x.val ≠ d.val := fun e => h (Fin.ext e)
      simp [Core.slotDec, Core.slot, mapGetD_mapPut_ne _ _ _ hv, Ne.symm h]

theorem Core.rg_congr {k k' : Core} (h : k'.g = k.g) (r : GReg) : k'.rg r = k.rg r := by
  simp only [Core.rg, h]

theorem Core.rq_congr {k k' : Core} (h : k'.q = k.q) (r : QReg) : k'.rq r = k.rq r := by
  simp only [Core.rq, h]

theorem Core.vraw_congr {k k' : Core} (h : k'.v = k.v) (r : VReg) : k'.vraw r = k.vraw r := by
  simp only [Core.vraw, h]

theorem Core.slot_congr {k k' : Core} (h : k'.slots = k.slots) (d : DReg) : k'.slot d = k.slot d := by
  simp only [Core.slot, h]

/-! ## Registers after a write -/

theorem Core.rg_wg_eq (k : Core) (r : GReg) (v : GVal) (z : GReg) :
    (k.wg r v).rg z = if z = r ∧ z ≠ 0 then v else k.rg z := by
  by_cases hz : z = r
  · subst hz
    by_cases h0 : z = 0
    · simp [h0]
    · simp [h0, Core.rg_wg]
  · simp [hz, Core.rg_wg_ne]

theorem getLsbD_one_shiftLeft (r z : QReg) : (1#16 <<< r.val).getLsbD z.val = decide (z = r) := by
  by_cases hz : z = r
  · subst hz; simp
  · have hv : z.val ≠ r.val := fun e => hz (Fin.ext e)
    simp only [BitVec.getLsbD_shiftLeft, BitVec.getLsbD_one, hz, decide_false]
    grind

theorem Core.rq_wq_eq (k : Core) (r : QReg) (b : Bool) (z : QReg) :
    (k.wq r b).rq z = if z = r ∧ z ≠ 15 then b else k.rq z := by
  by_cases h15 : z = 15
  · subst h15; simp
  by_cases hr : r = 15
  · subst hr
    simp [Core.wq, h15]
  obtain rfl | hz := eq_or_ne z r <;> cases b <;>
    simp [Core.rq, Core.wq, *, getLsbD_one_shiftLeft, -BitVec.getLsbD_shiftLeft, -BitVec.getLsbD_eq_getElem]

/-! ## States that differ in their cores alone -/

/-- Two states that differ in their cores alone. -/
structure State.SameButCores (s t : State) : Prop where
  eq : t = { s with cores := t.cores }

section
variable {s t : State}

theorem State.SameButCores.refl (s : State) : s.SameButCores s := ⟨rfl⟩

theorem State.SameButCores.modCore (h : s.SameButCores t) (c : Nat) (f : Core → Core) : s.SameButCores (t.modCore c f) :=
  ⟨by rw [h.eq]; rfl⟩

theorem State.SameButCores.hand (h : s.SameButCores t) : t.hand = s.hand := by rw [h.eq]

theorem State.SameButCores.me (h : s.SameButCores t) : t.me = t.core s.hand.core := by rw [State.me, h.hand]

theorem State.SameButCores.mem (h : s.SameButCores t) : t.mem = s.mem := by rw [h.eq]

theorem State.SameButCores.owners (h : s.SameButCores t) : t.owners = s.owners := by rw [h.eq]

theorem State.SameButCores.sameMem (h : s.SameButCores t) : s.SameMem t := by
  rw [h.eq]
  exact ⟨fun _ => rfl, fun _ => rfl, fun _ => rfl, fun _ => rfl, fun _ => rfl⟩

end

/-! ## A result that lands (R33, R34) -/

/-- What is left to do for a result that has taken its place: its slot is freed; its registers stay. -/
structure Core.Frees (k k' : Core) (d : Option DReg) : Prop where
  g : k'.g = k.g
  q : k'.q = k.q
  v : k'.v = k.v
  cr : k'.cr = k.cr
  landings : k'.landings = k.landings
  slot : ∀ x, k'.slot x = if d = some x then k.slot x - 1 else k.slot x

theorem Core.frees_slotDec (k : Core) (clk : Nat) (d : Option DReg) : k.Frees (k.slotDec clk d) d where
  g := by simp
  q := by simp
  v := by simp
  cr := by simp
  landings := by simp
  slot := k.slot_slotDec clk d

theorem Core.Frees.finish {k k' : Core} {d : Option DReg} (h : k.Frees k' d) (n : Nat) : k.Frees (k'.finish n) d :=
  ⟨h.g, h.q, h.v, h.cr, h.landings, h.slot⟩

theorem Core.Frees.of_log {k k' : Core} {d : Option DReg} {log : List LogEntry}
    (h : Core.Frees { k with wlog := log } k' d) : k.Frees k' d :=
  ⟨h.g, h.q, h.v, h.cr, h.landings, h.slot⟩

/-- A landing write takes its place, and may be logged. -/
theorem State.landWr_spec (s : State) (c n : Nat) (w : Wr) : (s.applyWr c w).SameButCores (s.landWr c n w) ∧
    ∃ log, (s.landWr c n w).core c = { (s.applyWr c w).core c with wlog := log } := by
  unfold State.landWr
  split
  case h_5 =>
    dsimp only
    split
    · exact ⟨(State.SameButCores.refl _).modCore _ _, _, State.core_setCore _ _ _⟩
    · exact ⟨.refl _, _, rfl⟩
  all_goals exact ⟨.refl _, _, rfl⟩

/-- A result other than a control register, of which no owner hears, takes its place and is done with. -/
theorem State.landNow_spec {s : State} {c : Nat} {l : Landing} (hcr : ∀ n v, l.wr ≠ .cr n v)
    (hd : (s.landWr c l.serial l.wr).disown c l = s.landWr c l.serial l.wr) :
    (s.applyWr c l.wr).SameButCores (s.landNow c l) ∧
      ((s.applyWr c l.wr).core c).Frees ((s.landNow c l).core c) l.slot := by
  obtain ⟨hsame, log, hlog⟩ := s.landWr_spec c l.serial l.wr
  unfold State.landNow
  simp only [hd]
  refine ⟨hsame.modCore _ _, Core.Frees.of_log (log := log) ?_⟩
  rw [State.modCore_eq, State.core_setCore, hlog]
  split
  · exact (Core.frees_slotDec _ _ _).finish _
  · exact Core.frees_slotDec _ _ _

/-- A result that is not written to memory takes no word from an owner. -/
theorem State.disown_of_register (s : State) (c : Nat) {l : Landing} (h : l.wr.toMem = false) : s.disown c l = s := by
  unfold State.disown
  split <;> simp_all [Wr.toMem]

/-- Where no word has an owner, none hears of a store. -/
theorem State.disown_of_owners_nil {s : State} (h : s.owners = []) (c : Nat) (l : Landing) : s.disown c l = s := by
  unfold State.disown State.homeWrite
  split <;> simp [h]

/-- What has landed: the result is no longer in flight, its slot is freed, and memory is as it was. -/
def State.Landed (s t : State) (l : Landing) : Prop :=
  t.me.landings = s.me.landings.erase l ∧ (∀ d, t.me.slot d = if l.slot = some d then s.me.slot d - 1 else s.me.slot d) ∧
    s.SameMem t

/-- A result in flight, taken out. -/
def Core.dropLanding (k : Core) (l : Landing) : Core := { k with landings := k.landings.erase l }

/-- A result that changes the core by `f` alone, which leaves slots and results in flight. -/
theorem exec_resultLands_modMe {s : State} {l : Landing} {f : Core → Core} (hix : s.hand.arg.ix = 0)
    (hl : s.me.nextLanding = some l) (hf : ∀ u : State, u.applyWr u.hand.core l.wr = u.modMe f)
    (hcr : ∀ n v, l.wr ≠ .cr n v) (hmem : l.wr.toMem = false)
    (hland : ∀ k, (f k).landings = k.landings) (hslots : ∀ k, (f k).slots = k.slots) :
    ∃ t, exec .resultLands s = .next t ∧ s.Landed t l ∧ (f (s.me.dropLanding l)).Frees t.me l.slot := by
  let u := s.modMe (·.dropLanding l)
  have hexec : exec .resultLands s = .next (u.landNow u.hand.core l) := by
    show execResultLands s = _
    simp only [execResultLands, hix, hl]
    rfl
  obtain ⟨hsame, hfree⟩ := u.landNow_spec hcr (State.disown_of_register _ u.hand.core hmem)
  rw [hf u] at hsame hfree
  have hme : (f (s.me.dropLanding l)).Frees (u.landNow u.hand.core l).me l.slot := by
    have e : (u.modMe f).core u.hand.core = f (s.me.dropLanding l) := (u.me_modMe f).trans (congrArg f (s.me_modMe _))
    rw [hsame.me, ← e]
    exact hfree
  refine ⟨_, hexec, ⟨?_, fun d => ?_, ?_⟩, hme⟩
  · exact hme.landings.trans (hland _)
  · rw [hme.slot, Core.slot_congr (hslots _)]
    rfl
  · exact ((s.sameMem_modMe _).trans (u.sameMem_modMe f)).trans hsame.sameMem

theorem exec_resultLands_g {s : State} {l : Landing} (hix : s.hand.arg.ix = 0) (hl : s.me.nextLanding = some l) {r : GReg}
    {v : GVal} (hw : l.wr = .g r v) : ∃ t, exec .resultLands s = .next t ∧ s.Landed t l ∧
      (∀ z, t.me.rg z = if z = r ∧ z ≠ 0 then v else s.me.rg z) ∧ t.me.q = s.me.q ∧ t.me.v = s.me.v ∧ t.me.cr = s.me.cr := by
  obtain ⟨t, he, hland, hfree⟩ := exec_resultLands_modMe (f := (·.wg r v)) hix hl (fun u => by rw [hw]; rfl)
    (by simp [hw]) (by simp [hw, Wr.toMem]) (by simp) (by simp)
  refine ⟨t, he, hland, fun z => ?_, hfree.q.trans (by simp; rfl), hfree.v.trans (by simp; rfl), hfree.cr.trans (by simp; rfl)⟩
  rw [Core.rg_congr hfree.g, Core.rg_wg_eq]
  rfl

theorem exec_resultLands_q {s : State} {l : Landing} (hix : s.hand.arg.ix = 0) (hl : s.me.nextLanding = some l) {r : QReg}
    {b : Bool} (hw : l.wr = .q r b) : ∃ t, exec .resultLands s = .next t ∧ s.Landed t l ∧
      (∀ z, t.me.rq z = if z = r ∧ z ≠ 15 then b else s.me.rq z) ∧ t.me.g = s.me.g ∧ t.me.v = s.me.v ∧ t.me.cr = s.me.cr := by
  obtain ⟨t, he, hland, hfree⟩ := exec_resultLands_modMe (f := (·.wq r b)) hix hl (fun u => by rw [hw]; rfl)
    (by simp [hw]) (by simp [hw, Wr.toMem]) (by simp) (by simp)
  refine ⟨t, he, hland, fun z => ?_, hfree.g.trans (by simp; rfl), hfree.v.trans (by simp; rfl), hfree.cr.trans (by simp; rfl)⟩
  rw [Core.rq_congr hfree.q, Core.rq_wq_eq]
  rfl

theorem exec_resultLands_vPut {s : State} {l : Landing} (hix : s.hand.arg.ix = 0) (hl : s.me.nextLanding = some l) {r : VReg}
    {x : VVal} (hw : l.wr = .vPut r x) : ∃ t, exec .resultLands s = .next t ∧ s.Landed t l ∧
      (∀ z, t.me.vraw z = if z = r then x else s.me.vraw z) ∧ t.me.g = s.me.g ∧ t.me.q = s.me.q ∧ t.me.cr = s.me.cr := by
  obtain ⟨t, he, hland, hfree⟩ := exec_resultLands_modMe (f := (·.wv r x)) hix hl (fun u => by rw [hw]; rfl)
    (by simp [hw]) (by simp [hw, Wr.toMem]) (by simp) (by simp)
  refine ⟨t, he, hland, fun z => ?_, hfree.g, hfree.q, hfree.cr⟩
  rw [Core.vraw_congr hfree.v]
  split
  case isTrue h => rw [h, Core.vraw_wv]
  case isFalse h => rw [Core.vraw_wv_ne _ _ h]; rfl

/-! ## A store that lands (R183) -/

/-- A store to memory leaves the cores as they are, but for the residency record of one (R309). -/
theorem State.memStore_spec (s : State) (key : Nat) (bs : List Byte) (tag : Option Bool) :
    (s.memStore key bs tag).hand = s.hand ∧ (s.memStore key bs tag).owners = s.owners ∧
      ∀ c, ∃ r, (s.memStore key bs tag).core c = { s.core c with residency := r } := by
  unfold State.memStore
  extract_lets n u v d
  split
  case isFalse => exact ⟨rfl, rfl, fun c => ⟨_, rfl⟩⟩
  split
  case h_2 => exact ⟨rfl, rfl, fun c => ⟨_, rfl⟩⟩
  extract_lets r
  split
  · exact ⟨rfl, rfl, fun c => ⟨_, rfl⟩⟩
  refine ⟨rfl, rfl, fun c => ?_⟩
  by_cases h : c = d
  · rw [h, State.modCore_eq, State.core_setCore]
    exact ⟨r, rfl⟩
  · rw [State.modCore_eq, State.core_setCore_ne _ _ h]
    exact ⟨_, rfl⟩

/-- What is read back is what was written. -/
theorem memRead_memWrite (bs : List Byte) : ∀ (m : List Host.Cell) (a : Nat), memRead (memWrite m a bs) a bs.length = bs := by
  induction bs with
  | nil => intro _ _; rfl
  | cons b bs ih =>
    intro m a
    rw [memWrite, List.length_cons, memRead, ih, memGet_memWrite, memGet_memSet]
    simp

/-- A store in flight, taken out to be written to its bank; the residency record is what the write makes it. -/
def Core.takeStore (k : Core) (l : Landing) (bank : Nat) (residency : Nat) : Core :=
  { k.dropLanding l with bankUse := k.bankUse ++ [(k.vcc, bank)], residency := residency }

section
variable (k : Core) (l : Landing) (bank : Nat) (r : Nat)

theorem Core.takeStore_landings : (k.takeStore l bank r).landings = k.landings.erase l := rfl
theorem Core.rg_takeStore (z : GReg) : (k.takeStore l bank r).rg z = k.rg z := rfl
theorem Core.slot_takeStore (d : DReg) : (k.takeStore l bank r).slot d = k.slot d := rfl
theorem Core.takeStore_cr : (k.takeStore l bank r).cr = k.cr := rfl

end

/-- A store that no owner hears of is written, and its slot is freed. -/
theorem State.landNow_store {s : State} {l : Landing} {key : Nat} {bytes : List Byte} (hw : l.wr = .st key bytes none false)
    (howners : s.owners = []) : (s.landNow s.hand.core l).mem = memWrite s.mem key bytes ∧
      ∃ r, Core.Frees { s.me with residency := r } (s.landNow s.hand.core l).me l.slot := by
  have happly : s.applyWr s.hand.core l.wr = s.memStore key bytes none := by rw [hw]; rfl
  obtain ⟨hhand, hown, hcore⟩ := s.memStore_spec key bytes none
  obtain ⟨r, hcore⟩ := hcore s.hand.core
  obtain ⟨hsame, hfree⟩ := s.landNow_spec (c := s.hand.core) (l := l) (by simp [hw]) (by
    refine State.disown_of_owners_nil ?_ _ _
    rw [(State.landWr_spec _ _ _ _).1.owners, happly, hown]
    exact howners)
  rw [happly] at hsame hfree
  rw [hcore] at hfree
  refine ⟨hsame.mem.trans (s.memStore_mem key bytes none), r, ?_⟩
  rw [hsame.me, hhand]
  exact hfree

/-- An M store that meets no owner, and that gives way to no column, is written. -/
theorem exec_resultLands_st {s : State} {l : Landing} (hix : s.hand.arg.ix = 1) (hl : s.me.nextStore = some l) {key : Nat}
    {bytes : List Byte} (hw : l.wr = .st key bytes none false) (howners : s.owners = []) :
    ∃ t, exec .resultLands s = .next t ∧ memRead t.mem key bytes.length = bytes ∧ s.SameOutside t key bytes.length ∧
      t.me.landings = s.me.landings.erase l ∧ (∀ d, t.me.slot d = if l.slot = some d then s.me.slot d - 1 else s.me.slot d) ∧
      (∀ z, t.me.rg z = s.me.rg z) ∧ t.me.cr = s.me.cr := by
  have hexec : ∃ u : State, exec .resultLands s = .next (u.landNow u.hand.core l) ∧ u.mem = s.mem ∧ u.owners = [] ∧
      ∀ r, ∃ b r', { u.me with residency := r } = s.me.takeStore l b r' := by
    refine ⟨s.modMe fun k => k.takeStore l (8 + bankOf (offOf key)) k.residency, ?_, rfl, howners, fun r =>
      ⟨8 + bankOf (offOf key), r, by rw [State.me_modMe]; rfl⟩⟩
    show execResultLands s = _
    simp only [execResultLands, hix, hl, State.storeNow, hw]
    rfl
  obtain ⟨u, hexec, hu, howners, hme⟩ := hexec
  obtain ⟨hmem, r, hfree⟩ := u.landNow_store hw howners
  obtain ⟨b, r', hr⟩ := hme r
  rw [hr] at hfree
  rw [hu] at hmem
  refine ⟨_, hexec, ?_, fun x hx => ?_, hfree.landings.trans (Core.takeStore_landings _ _ _ _), fun d => ?_, fun z => ?_,
    hfree.cr.trans (Core.takeStore_cr _ _ _ _)⟩
  · rw [hmem, memRead_memWrite]
  · rw [hmem, memGet_memWrite, if_neg (by omega)]
  · rw [hfree.slot, Core.slot_takeStore]
  · rw [Core.rg_congr hfree.g, Core.rg_takeStore]

/-! ## An operation that completes (R33, R75) -/

theorem Core.setFlags_flags (k : Core) (clk f : Nat) : (k.setFlags clk f).flags = k.flags ||| f := by
  unfold Core.setFlags
  split
  case isTrue h => simp [h]
  case isFalse => rfl

/-- Setting flags changes no other field but the record of the flags set in this clk. -/
theorem Core.setFlags_eq (k : Core) (clk f : Nat) :
    k.setFlags clk f = { k with flags := (k.setFlags clk f).flags, flagsSet := (k.setFlags clk f).flagsSet } := by
  unfold Core.setFlags
  split <;> rfl

/-- What an operation that completes writes: its result is due, and its core waits for its end as before. -/
structure State.Wrote (s u : State) (o : AsyncOp) (wr : Wr) : Prop where
  hand : u.hand = s.hand
  ops : u.me.ops = s.me.ops
  flags : u.me.flags = s.me.flags
  slots : u.me.slots = s.me.slots
  g : u.me.g = s.me.g
  q : u.me.q = s.me.q
  mem : u.mem = s.mem
  lands : wr ≠ .none → (⟨s.me.vcc, o.serial, wr, none, false⟩ : Landing) ∈ u.me.landings

/-- An operation is over: its flags are set, its slot is freed, and its result is due. -/
def State.Completed (s t : State) (o : AsyncOp) (wr : Wr) : Prop :=
  t.me.ops = s.me.ops.filter (fun a => a.id != o.id) ∧ t.me.flags = s.me.flags ||| o.flags ∧
    (∀ d, t.me.slot d = if o.slot = some d then s.me.slot d - 1 else s.me.slot d) ∧ (∀ z, t.me.rg z = s.me.rg z) ∧
    (∀ z, t.me.rq z = s.me.rq z) ∧ t.mem = s.mem ∧
    (wr ≠ .none → (⟨s.me.vcc, o.serial, wr, none, false⟩ : Landing) ∈ t.me.landings)

/-- The operation leaves the core's list, its flags are set, and its column and its slot are free. -/
def Core.opDone (k : Core) (clk : Nat) (o : AsyncOp) : Core :=
  let k := { k with ops := k.ops.filter (fun x => x.id != o.id) }.setFlags clk o.flags
  { k with colHold := k.colHold.filter (fun p => p.2 != o.id) }.slotDec clk o.slot

theorem State.completeOp_of_find {s : State} {o : AsyncOp} (h : s.me.ops.find? (fun a => a.id == o.id) = some o) :
    s.completeOp s.hand.core o.id = s.modMe (·.opDone s.clk o) := by
  unfold State.completeOp
  rw [show (s.core s.hand.core).ops = s.me.ops from rfl, h]
  rfl

theorem State.Wrote.completed {s u : State} {o : AsyncOp} {wr : Wr} (h : s.Wrote u o wr)
    (hfind : s.me.ops.find? (fun a => a.id == s.hand.arg.ix) = some o) : s.Completed (u.completeOp s.hand.core o.id) o wr := by
  have hid : o.id = s.hand.arg.ix := by simpa using List.find?_some hfind
  rw [← h.hand, State.completeOp_of_find (by rw [h.ops, hid, hfind])]
  have hme := u.me_modMe (·.opDone u.clk o)
  have hset := Core.setFlags_eq { u.me with ops := u.me.ops.filter (fun x => x.id != o.id) } u.clk o.flags
  refine ⟨?_, ?_, fun d => ?_, fun z => ?_, fun z => ?_, h.mem, fun hwr => ?_⟩
  · rw [hme, Core.opDone, hset, Core.slotDec_ops, h.ops]
  · rw [hme, Core.opDone, Core.slotDec_flags, Core.setFlags_flags, h.flags]
  · rw [hme, Core.opDone, Core.slot_slotDec, hset]
    simp only [Core.slot, h.slots]
  · rw [hme]
    refine Core.rg_congr ?_ z
    rw [Core.opDone, Core.slotDec_g, hset, h.g]
  · rw [hme]
    refine Core.rq_congr ?_ z
    rw [Core.opDone, Core.slotDec_q, hset, h.q]
  · rw [hme, Core.opDone, Core.slotDec_landings, hset]
    exact h.lands hwr

/-- Where the core of a state is changed by `f`, which leaves what `Wrote` speaks of and puts the result in flight. -/
theorem State.wrote_modCore {s : State} {f : Core → Core} {o : AsyncOp} {wr : Wr} (hops : (f s.me).ops = s.me.ops)
    (hflags : (f s.me).flags = s.me.flags) (hslots : (f s.me).slots = s.me.slots) (hg : (f s.me).g = s.me.g)
    (hq : (f s.me).q = s.me.q) (hland : (⟨s.me.vcc, o.serial, wr, none, false⟩ : Landing) ∈ (f s.me).landings) :
    s.Wrote (s.modCore s.hand.core f) o wr := by
  show s.Wrote (s.modMe f) o wr
  refine ⟨rfl, ?_, ?_, ?_, ?_, ?_, rfl, fun _ => ?_⟩ <;> rw [State.me_modMe] <;> assumption

theorem Core.mem_landOp (k : Core) (n : Nat) (w : Wr) (y : Landing) :
    y ∈ (k.landOp n w).landings ↔ y = ⟨k.vcc, n, w, none, false⟩ ∨ y ∈ k.landings := by
  simp [Core.landOp, Core.landAt, mem_landInsert]

theorem Core.mem_landOp_self (k : Core) (n : Nat) (w : Wr) : ⟨k.vcc, n, w, none, false⟩ ∈ (k.landOp n w).landings :=
  (k.mem_landOp n w _).2 (.inl rfl)

/-- A core whose record of an atomic's store is taken out. -/
def Core.dropStore (k : Core) (id : Nat) : Core := { k with stores := k.stores.filter (fun x => x.id != id) }

theorem exec_operationComplete {s : State} {o : AsyncOp} (hmsg : s.hand.msg = none)
    (hfind : s.me.ops.find? (fun a => a.id == s.hand.arg.ix) = some o) :
    exec .operationComplete s = .next ((s.opWrites s.hand.core o).completeOp s.hand.core o.id) := by
  show execOperationComplete s = _
  unfold execOperationComplete
  simp only [hmsg, hfind]

section
variable {s : State} {o : AsyncOp}

theorem State.wrote_status {r : GReg} {w : Word} {own : Bool} (h : o.kind = .status r w own) :
    s.Wrote (s.opWrites s.hand.core o) o (.g r ⟨w, 0, false⟩) := by
  simp only [State.opWrites, h]
  exact State.wrote_modCore rfl rfl rfl rfl rfl (Core.mem_landOp_self s.me ..)

theorem State.wrote_writeG {r : GReg} {v : GVal} (h : o.kind = .writeG r v) : s.Wrote (s.opWrites s.hand.core o) o (.g r v) := by
  simp only [State.opWrites, h]
  exact State.wrote_modCore rfl rfl rfl rfl rfl (Core.mem_landOp_self s.me ..)

theorem State.wrote_writeQ {q : QReg} {b : Bool} (h : o.kind = .writeQ q b) : s.Wrote (s.opWrites s.hand.core o) o (.q q b) := by
  simp only [State.opWrites, h]
  exact State.wrote_modCore rfl rfl rfl rfl rfl (Core.mem_landOp_self s.me ..)

theorem State.wrote_atomic {r : GReg} {v : GVal} {b : Bool} (h : o.kind = .atomic r v b) :
    s.Wrote (s.opWrites s.hand.core o) o (.g r v) := by
  simp only [State.opWrites, h]
  cases b with
  | false => exact State.wrote_modCore rfl rfl rfl rfl rfl (Core.mem_landOp_self (Core.dropStore s.me o.id) ..)
  | true =>
    exact State.wrote_modCore rfl rfl rfl rfl rfl
      ((Core.mem_landOp ..).2 (.inr (Core.mem_landOp_self (Core.dropStore s.me o.id) ..)))

/-- A push to a queue that does not run, or that is full, writes no item (R400). -/
theorem State.wrote_qpush {id : Nat} {w : Word} {q : QReg} (h : o.kind = .qpush id w q)
    (hno : (s.queue id).running = false ∨ (s.queue id).room < 8) : s.Wrote (s.opWrites s.hand.core o) o (.q q false) := by
  have hok : ((s.queue id).running && decide (8 ≤ (s.queue id).room) && (s.ringAddr id 0).isSome) = false := by
    rcases hno with hrun | hroom
    · rw [hrun, Bool.false_and, Bool.false_and]
    · rw [decide_eq_false (by omega), Bool.and_false, Bool.false_and]
  simp only [State.opWrites, h, State.qpushLands, hok]
  exact State.wrote_modCore rfl rfl rfl rfl rfl (Core.mem_landOp_self s.me ..)

/-- The events of a context after an amount is added to one. -/
theorem State.counterAdd_event (s : State) {id : Nat} (h : fld id 13 3 = 5) (x : Nat) (w : Word) (c j : Nat) :
    mapGetD ((s.counterAdd x id w c).ctx x).events j 0 =
      mapGetD (s.ctx x).events j 0 + (if j = fld id 0 13 then w else 0) := by
  simp only [State.counterAdd, h, if_true, State.modCtx_eq, State.ctx_setCtx]
  by_cases hj : j = fld id 0 13
  · rw [hj, mapGetD_mapPut_same, if_pos rfl]
  · rw [mapGetD_mapPut_ne _ _ _ hj, if_neg hj]
    exact (BitVec.add_zero _).symm

theorem State.wrote_counterAdd {id : Nat} (h : fld id 13 3 = 5) (x : Nat) (w : Word) (c : Nat) :
    s.Wrote (s.counterAdd x id w c) o .none := by
  unfold State.counterAdd
  rw [if_pos h]
  exact ⟨rfl, rfl, rfl, rfl, rfl, rfl, rfl, fun h => absurd rfl h⟩

theorem State.opWrites_cntadd {id y : Nat} {w : Word} (h : o.kind = .cntadd id w) (hctx : s.me.ctx = some y) :
    s.opWrites s.hand.core o = s.counterAdd y id w s.hand.core := by
  simp only [State.opWrites, h]
  rw [show (s.core s.hand.core).ctx = some y from hctx]
  rfl

end

theorem State.completeOp_ctx (s : State) (c id x : Nat) : (s.completeOp c id).ctx x = s.ctx x := by
  unfold State.completeOp
  split <;> rfl

/-! ## A commit (R48, R75, R264) -/

/-- What the later parts of a commit keep: registers, PC, the list of instructions in flight, flags. -/
structure Core.CommitKeeps (k k' : Core) : Prop where
  g : k'.g = k.g
  q : k'.q = k.q
  v : k'.v = k.v
  pc : k'.pc = k.pc
  rob : k'.rob = k.rob
  flags : k'.flags = k.flags

theorem Core.CommitKeeps.refl (k : Core) : k.CommitKeeps k := ⟨rfl, rfl, rfl, rfl, rfl, rfl⟩

theorem Core.CommitKeeps.trans {a b c : Core} (h : a.CommitKeeps b) (h' : b.CommitKeeps c) : a.CommitKeeps c :=
  ⟨h'.g.trans h.g, h'.q.trans h.q, h'.v.trans h.v, h'.pc.trans h.pc, h'.rob.trans h.rob, h'.flags.trans h.flags⟩

theorem Core.setFlags_keeps (k : Core) (clk f : Nat) : (k.setFlags clk f).rob = k.rob ∧ (k.setFlags clk f).g = k.g ∧
    (k.setFlags clk f).q = k.q ∧ (k.setFlags clk f).v = k.v ∧ (k.setFlags clk f).pc = k.pc ∧ (k.setFlags clk f).cr = k.cr ∧
    (k.setFlags clk f).wlog = k.wlog := by
  unfold Core.setFlags
  split <;> exact ⟨rfl, rfl, rfl, rfl, rfl, rfl, rfl⟩

/-- The instruction leaves the list, its flags take effect, and its writes can no longer be undone. -/
def Core.commitOldest (k : Core) (clk : Nat) (r : Rob) : Core :=
  let k := ({ k with rob := k.rob.drop 1 }.clearFlags clk r.clear).setFlags clk r.flags
  let moved (e : EvalSt) (x : LogEntry) : EvalSt := match x.wr with
    | .fit v => if x.serial = r.serial then e.fit v else e
    | _ => e
  let k := { k with eval := k.wlog.foldl moved k.eval }
  let k := { k with wlog := k.wlog.dropWhile (fun e => decide (e.serial ≤ r.serial)) }
  { k with locks := k.locks.filter (fun p => p.2.owner != LockOwner.tensor r.serial) }

/-- An RGN's commit makes its region the core's. -/
def Core.commitRegion (k : Core) (r : Rob) : Core :=
  match r.region with
  | some g =>
    let k := { k with region := { g with indices := k.indicesAt r.serial } }.markQueues r.serial
    k.setCv crREGION (BitVec.ofNat 64 (g.desc * 4096 + g.pc % 4096))
  | none => k

/-- A commit writes its trace record. -/
def Core.commitTrace (k : Core) (now : Nat) (r : Rob) : Core :=
  match r.trace with
  | some t => k.traceAdd now t
  | none => k

/-- A commit counts as a step of the debug module. -/
def Core.commitStep (k : Core) : Core :=
  match k.dbg.steps with
  | some (n + 1) =>
    if n = 0 then { k with dbg := { k.dbg with steps := none }, pend := { k.pend with stop := some 5 } }
    else { k with dbg := { k.dbg with steps := some n } }
  | _ => k

/-- A commit, part by part. -/
theorem Core.commit_eq (k : Core) (clk now : Nat) (r : Rob) : k.commit clk now r =
    (((if r.phase then (k.commitOldest clk r).markSeq else k.commitOldest clk r).commitRegion r).commitTrace now r).commitStep :=
  rfl

section
variable (k : Core) (clk now : Nat) (r : Rob)

theorem Core.commitOldest_spec : (k.commitOldest clk r).rob = k.rob.drop 1 ∧ (k.commitOldest clk r).flags =
      (k.flags ^^^ (k.flags &&& (if k.flagsSet.1 = clk then r.clear ^^^ (r.clear &&& k.flagsSet.2) else r.clear))) ||| r.flags ∧
    (k.commitOldest clk r).g = k.g ∧ (k.commitOldest clk r).q = k.q ∧ (k.commitOldest clk r).v = k.v ∧
    (k.commitOldest clk r).pc = k.pc ∧ (k.commitOldest clk r).cr = k.cr ∧
    (k.commitOldest clk r).wlog = k.wlog.dropWhile (fun e => decide (e.serial ≤ r.serial)) := by
  obtain ⟨hrob, hg, hq, hv, hpc, hcr, hlog⟩ :=
    Core.setFlags_keeps ({ k with rob := k.rob.drop 1 }.clearFlags clk r.clear) clk r.flags
  exact ⟨hrob, Core.setFlags_flags _ _ _, hg, hq, hv, hpc, hcr, congrArg (List.dropWhile _) hlog⟩

theorem Core.commitKeeps_markSeq : k.CommitKeeps k.markSeq := by
  unfold Core.markSeq
  dsimp only
  split <;> exact ⟨rfl, rfl, rfl, rfl, rfl, rfl⟩

theorem Core.commitKeeps_commitRegion : k.CommitKeeps (k.commitRegion r) := by
  unfold Core.commitRegion
  split <;> exact ⟨rfl, rfl, rfl, rfl, rfl, rfl⟩

/-- A trace record touches the debug module alone. -/
theorem Core.commitTrace_eq : ∃ d, k.commitTrace now r = { k with dbg := d } := by
  unfold Core.commitTrace Core.traceAdd
  split
  case h_1 =>
    dsimp only
    split
    · exact ⟨_, rfl⟩
    split
    all_goals split <;> exact ⟨_, rfl⟩
  case h_2 => exact ⟨_, rfl⟩

/-- The count of steps touches the debug module and the pending events alone. -/
theorem Core.commitStep_eq : ∃ d p, k.commitStep = { k with dbg := d, pend := p } := by
  unfold Core.commitStep
  split
  case h_1 => split <;> exact ⟨_, _, rfl⟩
  case h_2 => exact ⟨_, _, rfl⟩

theorem Core.commitKeeps_traceStep : k.CommitKeeps (k.commitTrace now r).commitStep ∧
    (k.commitTrace now r).commitStep.cr = k.cr := by
  obtain ⟨d, hd⟩ := k.commitTrace_eq now r
  obtain ⟨d', p, hp⟩ := (k.commitTrace now r).commitStep_eq
  rw [hp, hd]
  exact ⟨⟨rfl, rfl, rfl, rfl, rfl, rfl⟩, rfl⟩

/-- What a commit does to the registers, the list of instructions in flight and the flags. -/
theorem Core.commit_keeps : (k.commitOldest clk r).CommitKeeps (k.commit clk now r) := by
  rw [Core.commit_eq]
  refine (?_ : Core.CommitKeeps _ _).trans
    ((Core.commitKeeps_commitRegion _ r).trans (Core.commitKeeps_traceStep _ now r).1)
  split
  · exact Core.commitKeeps_markSeq _
  · exact .refl _

/-- Outside an RGN's commit the control registers are as the end-of-phase marker leaves them. -/
theorem Core.commit_cr (hr : r.region = none) : (k.commit clk now r).cr =
    (if r.phase then (k.commitOldest clk r).markSeq else k.commitOldest clk r).cr := by
  rw [Core.commit_eq, (Core.commitKeeps_traceStep _ now r).2, Core.commitRegion, hr]

/-- With no younger write of SEQ_EXPECT, a marker moves the register itself on. -/
theorem Core.markSeq_of_none (h : ∀ a, a ∈ k.wlog → a.isSeq = false) :
    k.markSeq = k.setCv crSEQ (seqMarked (k.cv crSEQ)) := by
  have hnil : k.wlog.dropWhile (fun e => !e.isSeq) = [] := List.dropWhile_eq_nil_iff.2 fun a ha => by simp [h a ha]
  unfold Core.markSeq
  dsimp only
  rw [hnil]

theorem Core.cv_commit_phase (hp : r.phase = true) (hr : r.region = none) (h : ∀ a, a ∈ k.wlog → a.isSeq = false) :
    (k.commit clk now r).cv 0x013 = if k.cf 0x013 16 1 = 1 then seqAdvance (k.cv 0x013) else k.cv 0x013 := by
  obtain ⟨-, -, -, -, -, -, hcr, hlog⟩ := k.commitOldest_spec clk r
  have hcv : (k.commit clk now r).cv 0x013 = (k.commitOldest clk r).markSeq.cv 0x013 := by
    rw [Core.cv, k.commit_cr clk now r hr, if_pos hp, Core.cv]
  rw [hcv, Core.markSeq_of_none _ fun a ha => h a ((List.dropWhile_sublist _).subset (hlog ▸ ha)),
    show (0x013 : Nat) = crSEQ from rfl, Core.cv_setCv, seqMarked, Core.cv, hcr]
  rfl

end

/-- The commit of the oldest instruction, which is done, untrapped and not held back. -/
theorem exec_instructionCommit_commits {s : State} {i : Rob} {rs : List Rob} (ha : s.hand.arg.a = 0) (hrob : s.me.rob = i :: rs)
    (hc : s.me.committable s.clk = true) : exec .instructionCommit s = .next (s.modMe (·.commit s.clk s.now i)) := by
  show execInstructionCommit s = _
  simp only [execInstructionCommit, hrob, ha, hc]
  rfl

/-! ## Refresh and expiry (R41, R42) -/

theorem length_landInsert (l : List Landing) (x : Landing) : (landInsert l x).length = l.length + 1 := by
  induction l with
  | nil => rfl
  | cons y t ih =>
    unfold landInsert
    split
    · rfl
    · simp [ih]

theorem length_foldl_landInsert (go : List Landing) : ∀ l : List Landing,
    (go.foldl landInsert l).length = go.length + l.length := by
  induction go with
  | nil => intro l; simp
  | cons x go ih =>
    intro l
    rw [List.foldl_cons, ih, length_landInsert, List.length_cons]
    omega

/-- Is a result due now in a bank that is refreshed? -/
def Core.refreshHits (k : Core) (l : Landing) : Bool := l.due == k.vcc && (match l.wr with
  | .v r .. => k.refreshing r
  | _ => false)

/-- Is a result one that the refresh holds back, or the end of an instruction with such a one? -/
def Core.refreshMoves (k : Core) (l : Landing) : Bool :=
  k.refreshHits l || (l.due == k.vcc && l.last && ((k.landings.filter k.refreshHits).map Landing.serial).contains l.serial)

/-- A result, one vc later. -/
def Landing.later (l : Landing) : Landing := { l with due := l.due + 1 }

/-- The core after its refresh of this vc. -/
def Core.refresh (k : Core) : Core :=
  { k with
    landings := ((k.landings.filter k.refreshMoves).map Landing.later).foldl landInsert (k.landings.filter (!k.refreshMoves ·))
    refreshed := k.vcc + 1 }

theorem exec_vrfRefresh (s : State) : exec .vrfRefresh s = .next (s.modMe Core.refresh) := rfl

theorem Core.length_landings_refresh (k : Core) : k.refresh.landings.length = k.landings.length := by
  unfold Core.refresh
  rw [length_foldl_landInsert, List.length_map, ← List.length_eq_length_filter_add]

/-- No result of a refreshed bank is left due in this vc. -/
theorem Core.refreshing_of_mem_refresh {k : Core} {a : Landing} (h : a ∈ k.refresh.landings) {z : VReg} {f c d p n}
    (hw : a.wr = .v z f c d p n) (hdue : a.due = k.vcc) : k.refreshing z = false := by
  rcases (mem_foldl_landInsert id _ a _).1 h with ⟨b, hb, rfl⟩ | hstay
  · obtain ⟨y, hy, rfl⟩ := List.mem_map.1 hb
    have hnow : y.due = k.vcc := by
      have := (List.mem_filter.1 hy).2
      simp only [Core.refreshMoves, Core.refreshHits] at this
      grind
    simp only [Landing.later] at hdue
    omega
  · have hno := (List.mem_filter.1 hstay).2
    simp only [Core.refreshMoves, Core.refreshHits, hw, hdue] at hno
    cases hz : k.refreshing z <;> simp_all

theorem State.kept_refresh (s : State) : s.Kept (s.modMe Core.refresh) := by
  refine ⟨s.sameMem_modMe _, ?_⟩
  rw [State.me_modMe]
  exact Core.sameRegs_of rfl rfl rfl rfl rfl rfl rfl rfl rfl rfl rfl rfl rfl

/-- A register whose time is over by a vc holds the absent code. -/
def VVal.expireBy (x : VVal) (vcc : Nat) : VVal :=
  match x.expiry with
  | some e => if e ≤ vcc then { x with bits := absentBits x.fmt } else x
  | none => x

theorem mapGet_map_snd {α : Type} (f : α → α) (g : Nat × α → Nat × α) (hg : ∀ p, g p = (p.1, f p.2)) (m : List (Nat × α)) (i : Nat) :
    mapGet (m.map g) i = (mapGet m i).map f := by
  induction m with
  | nil => rfl
  | cons p t ih =>
    simp only [List.map_cons, hg, mapGet]
    split_ifs
    · rfl
    · rfl
    · exact ih

/-- The core after the expiry of this vc. -/
def Core.expire (k : Core) : Core := { k with v := k.v.map (fun p => match p.2.expiry with
  | some e => if e ≤ k.vcc then (p.1, { p.2 with bits := absentBits p.2.fmt }) else p
  | none => p) }

theorem exec_shortLivedExpiry (s : State) : exec .shortLivedExpiry s = .next (s.modMe Core.expire) := rfl

theorem Core.vraw_expire (k : Core) (z : VReg) : k.expire.vraw z =
    if k.vExpired z = true then { k.vraw z with bits := absentBits (k.vraw z).fmt } else k.vraw z := by
  have hmap : k.expire.vraw z = (k.vraw z).expireBy k.vcc := by
    unfold Core.expire Core.vraw mapGetD
    rw [mapGet_map_snd (VVal.expireBy · k.vcc)]
    · cases mapGet k.v z.val <;> rfl
    · intro p
      unfold VVal.expireBy
      split
      · split <;> rfl
      · rfl
  rw [hmap]
  cases hexp : (k.vraw z).expiry with
  | none => simp [VVal.expireBy, Core.vExpired, hexp]
  | some e => simp [VVal.expireBy, Core.vExpired, hexp]

/-! ## The issue of a column (R29) -/

/-- Two states that differ in the pauses of their cores, and in the messages on their way, alone. -/
structure State.PausesOnly (s t : State) : Prop where
  eq : t = { s with cores := t.cores, msgs := t.msgs }
  core : ∀ c, ∃ n own late, t.core c = { s.core c with pauses := n, pauseOwn := own, late := late }

theorem State.PausesOnly.refl (s : State) : s.PausesOnly s := ⟨rfl, fun _ => ⟨_, _, _, rfl⟩⟩

theorem State.PausesOnly.trans {a b c : State} (h : a.PausesOnly b) (h' : b.PausesOnly c) : a.PausesOnly c where
  eq := by rw [h'.eq, h.eq]
  core x := by
    obtain ⟨_, _, _, hb⟩ := h.core x
    obtain ⟨n, own, late, hc⟩ := h'.core x
    exact ⟨n, own, late, by rw [hc, hb]⟩

theorem State.pausesOnly_modCore (s : State) (c : Nat) {f : Core → Core}
    (hf : ∀ k, ∃ n own late, f k = { k with pauses := n, pauseOwn := own, late := late }) : s.PausesOnly (s.modCore c f) where
  eq := rfl
  core x := by
    by_cases hx : x = c
    · rw [hx, State.modCore_eq, State.core_setCore]
      exact hf _
    · rw [State.modCore_eq, State.core_setCore_ne _ _ hx]
      exact ⟨_, _, _, rfl⟩

theorem State.PausesOnly.foldl {α : Type} {f : State → α → State} (hf : ∀ (s : State) x, s.PausesOnly (f s x)) (l : List α) :
    ∀ s : State, s.PausesOnly (l.foldl f s) := by
  induction l with
  | nil => exact .refl
  | cons x l ih => exact fun s => (hf s x).trans (ih _)

theorem State.pausesOnly_pauseGroup (s : State) (c : Nat) (begins own : Bool) : s.PausesOnly (s.pauseGroup c begins own) := by
  unfold State.pauseGroup
  extract_lets f u
  have hf : ∀ k, ∃ n own late, f k = { k with pauses := n, pauseOwn := own, late := late } := by
    intro k
    simp only [f]
    split <;> exact ⟨_, _, _, rfl⟩
  have hu : s.PausesOnly u := State.PausesOnly.foldl (fun v x => v.pausesOnly_modCore x hf) _ s
  refine hu.trans (State.PausesOnly.foldl (fun v e => ?_) _ u)
  exact ⟨rfl, fun _ => ⟨_, _, _, rfl⟩⟩

theorem State.pausesOnly_endLate (s : State) (c col : Nat) : s.PausesOnly (s.endLate c col) := by
  unfold State.endLate
  split
  · exact (s.pausesOnly_pauseGroup c false true).trans (State.pausesOnly_modCore _ c fun k => ⟨_, _, _, rfl⟩)
  · exact .refl s

theorem State.PausesOnly.hand {s t : State} (h : s.PausesOnly t) : t.hand = s.hand := by rw [h.eq]

theorem State.PausesOnly.sameMem {s t : State} (h : s.PausesOnly t) : s.SameMem t := by
  rw [h.eq]
  exact ⟨fun _ => rfl, fun _ => rfl, fun _ => rfl, fun _ => rfl, fun _ => rfl⟩

theorem Core.queueOf_setQueueOf (k : Core) (col : Nat) (l : List QEntry) : (k.setQueueOf col l).queueOf col = l := by
  unfold Core.setQueueOf Core.queueOf
  cases l <;> simp [mapGetD]

/-- The head of a column's queue, taken out to be issued. -/
def Core.takeHead (k : Core) (col : Nat) (e : QEntry) : Core :=
  { k.setQueueOf col ((k.queueOf col).drop 1) with slack := mapPut k.slack col (min (mapGetD k.slack col 0) (k.vcc - e.planned)) }

theorem Core.queueOf_takeHead (k : Core) (col : Nat) (e : QEntry) : (k.takeHead col e).queueOf col = (k.queueOf col).drop 1 :=
  k.queueOf_setQueueOf col _

theorem Core.sameRegs_takeHead (k : Core) (col : Nat) (e : QEntry) : k.SameRegs (k.takeHead col e) :=
  Core.sameRegs_of rfl rfl rfl rfl rfl rfl rfl rfl rfl rfl rfl rfl rfl

theorem Core.sameRegs_pauses (k : Core) (n own : Nat) (late : List Nat) :
    k.SameRegs { k with pauses := n, pauseOwn := own, late := late } :=
  Core.sameRegs_of rfl rfl rfl rfl rfl rfl rfl rfl rfl rfl rfl rfl rfl

/-- An entry, in hand for its issue. -/
def State.withEntry (s : State) (e : QEntry) : State := { s with hand := { s.hand with entry := e, stage := 0, mark := 0 } }

theorem exec_columnIssue {s : State} {e : QEntry} (h : s.me.issuable s.hand.arg.ix = some e) : exec .columnIssue s =
    .next (((s.endLate s.hand.core s.hand.arg.ix).modMe (·.takeHead s.hand.arg.ix e)).withEntry e) := by
  show execColumnIssue s = _
  simp only [execColumnIssue, h]
  rfl

theorem State.withEntry_me (s : State) (e : QEntry) : (s.withEntry e).me = s.me := rfl

theorem State.sameMem_hand (s : State) (h : Hand) : s.SameMem { s with hand := h } :=
  ⟨fun _ => rfl, fun _ => rfl, fun _ => rfl, fun _ => rfl, fun _ => rfl⟩

/-- Taking the head of a queue out, after an elastic pause has ended, changes nothing a program sees. -/
theorem State.PausesOnly.takeHead {s u : State} (h : s.PausesOnly u) (col : Nat) (e : QEntry) :
    ((u.modMe (·.takeHead col e)).withEntry e).hand.core = s.hand.core ∧
      ((u.modMe (·.takeHead col e)).withEntry e).me.queueOf col = (s.me.queueOf col).drop 1 ∧
      s.Kept ((u.modMe (·.takeHead col e)).withEntry e) := by
  obtain ⟨n, own, late, hcore⟩ := h.core s.hand.core
  have hu : u.me = { s.me with pauses := n, pauseOwn := own, late := late } := by rw [State.me, h.hand, hcore]; rfl
  have hmem := (h.sameMem.trans (u.sameMem_modMe (·.takeHead col e))).trans
    (State.sameMem_hand _ ((u.modMe (·.takeHead col e)).withEntry e).hand)
  rw [State.Kept, State.withEntry_me, State.me_modMe, Core.queueOf_takeHead]
  refine ⟨show u.hand.core = _ by rw [h.hand], by rw [hu]; rfl, hmem, ?_⟩
  rw [hu]
  exact (Core.sameRegs_pauses _ _ _ _).trans (Core.sameRegs_takeHead _ _ _)

/-! ## The end of a sleep (R157) -/

theorem exec_sleepEnd {s : State} {h : Held} (hh : s.me.held = some h) : exec .sleepEnd s =
    .next ({ s with hand := { s.hand with entry := h.entry } }.sDone []) := by
  show execSleepEnd s = _
  simp only [execSleepEnd, hh]

/-! ## The statement -/

/-- Settles O10: each clause is what the model's event does, said by the lemmas above. -/
theorem coreEvents : Obligations.CoreEvents := by
  unfold Obligations.CoreEvents
  intro s l r q vr x v b w bytes o i rs e h id y key
  dsimp only
  refine ⟨fun hix hl => ⟨exec_resultLands_g hix hl, exec_resultLands_q hix hl, exec_resultLands_vPut hix hl⟩,
    fun hix hl hw hown => exec_resultLands_st hix hl hw hown,
    fun hmsg hfind => ?_, fun ha hrob hc => ?_, ?_, ?_, fun hi => ?_, fun hh => ?_⟩
  case refine_1 =>
    have he := exec_operationComplete hmsg hfind
    refine ⟨fun ⟨own, hk⟩ => ⟨_, he, (State.wrote_status hk).completed hfind⟩,
      fun hk => ⟨_, he, (State.wrote_writeG hk).completed hfind⟩, fun hk => ⟨_, he, (State.wrote_writeQ hk).completed hfind⟩,
      fun hk => ⟨_, he, (State.wrote_atomic hk).completed hfind⟩, fun hk h5 hctx => ⟨_, he, ?_, fun j => ?_⟩,
      fun hk hno => ⟨_, he, (State.wrote_qpush hk hno).completed hfind⟩⟩
    · rw [State.opWrites_cntadd hk hctx]
      exact (State.wrote_counterAdd h5 y w s.hand.core).completed hfind
    · rw [State.completeOp_ctx, State.opWrites_cntadd hk hctx, State.counterAdd_event s h5]
  case refine_2 =>
    obtain ⟨hrob', hflags, hg, hq, hv, hpc, hcr, -⟩ := s.me.commitOldest_spec s.clk i
    have hk := s.me.commit_keeps s.clk s.now i
    refine ⟨_, exec_instructionCommit_commits ha hrob hc, ?_⟩
    rw [State.me_modMe]
    refine ⟨?_, hk.flags.trans hflags, hk.g.trans hg, hk.q.trans hq, hk.v.trans hv, hk.pc.trans hpc, s.sameMem_modMe _,
      fun hp hlog hr => Core.cv_commit_phase _ _ _ _ hp hr hlog, fun hp hr => ?_⟩
    · rw [hk.rob, hrob', hrob, List.drop_one, List.tail_cons]
    · rw [Core.commit_cr _ _ _ _ hr, hp, ← hcr]
      rfl
  case refine_3 =>
    refine ⟨_, exec_vrfRefresh s, ?_, ?_, s.kept_refresh, fun a ha z f c d p n hw hdue => ?_⟩ <;> rw [State.me_modMe] at *
    · rfl
    · exact s.me.length_landings_refresh
    · exact Core.refreshing_of_mem_refresh ha hw hdue
  case refine_4 =>
    refine ⟨_, exec_shortLivedExpiry s, s.sameMem_modMe _, ?_, ?_, fun z => ?_⟩ <;> rw [State.me_modMe]
    · rfl
    · rfl
    · exact s.me.vraw_expire z
  case refine_5 =>
    exact ⟨_, exec_columnIssue hi, rfl, (s.pausesOnly_endLate _ _).takeHead _ e⟩
  case refine_6 =>
    have hf := State.finished_sDone { s with hand := { s.hand with entry := h.entry } } []
    exact ⟨_, exec_sleepEnd hh, hf.held, hf.pc, hf.resumes, (s.sameMem_hand _).trans hf.mem, hf.regs⟩

end Sys2Proof.Machine
end

section
/-! Proof that a step runs the instruction its word decodes to (R28, R29, R44, R109, R110).

The plan of a step is followed down to the one function that acts: at a core's turn it is the core's sequencer, else its columns
(`State.Turn.step_of_seqStep`, `State.Turn.step_of_columnsStep`); at a word that may be dispatched it is `dispatch`
(`State.AtWord.seqStep`). An instruction that waits for nothing is then in hand: from the sequencer by `State.runHeld`, from a
column's queue by `columnIssue` (`State.issued`). -/

namespace Sys2Proof

/-! ## The decoder answers the reserved opcode for a reserved opcode alone -/

theorem reservedOpcode_false_iff (op : Nat) : reservedOpcode op = false ↔ op ≠ 0x1F ∧ ¬(0x3A ≤ op ∧ op ≤ 0x3F) ∧
    ¬(0x4C ≤ op ∧ op ≤ 0x4F) ∧ ¬(0x5D ≤ op ∧ op ≤ 0x5F) ∧ op ≠ 0x6F ∧ ¬(0xA5 ≤ op ∧ op ≤ 0xA7) ∧ ¬(0xBA ≤ op ∧ op ≤ 0xBF) ∧
    ¬(0xCA ≤ op ∧ op ≤ 0xCF) ∧ ¬(0xDB ≤ op ∧ op ≤ 0xDF) ∧ ¬(0xF1 ≤ op ∧ op ≤ 0xFF) := by
  simp only [reservedOpcode, Bool.or_eq_false_iff, beq_eq_false_iff_ne, decide_eq_false_iff_not, and_assoc, ne_eq]

/-- Each column's table has an entry for every opcode of the column that is not reserved. -/
theorem build_ne_reservedOpcode {r : Raw} (hop : r.op < 256) (h : reservedOpcode r.op = false) : build r ≠ .reservedOpcode := by
  rw [reservedOpcode_false_iff] at h
  unfold build
  split_ifs
  all_goals delta buildSLow buildI buildF buildM buildV buildX buildT buildC buildP buildSHigh
  all_goals (repeat' split)
  all_goals rintro ⟨⟩
  all_goals grind

theorem ne_reservedOpcode_of_decodeWith {e : DecodeEnv} {w : Nat} {h : Head} {i : Instr} (hd : decodeWith e w = .ok (h, i))
    (ha : reservedOpcode (Raw.ofNat w).op = false) : i ≠ .reservedOpcode := by
  have hop : (Raw.ofNat w).op < 256 := Nat.mod_lt _ (by decide)
  simp only [decodeWith, ha, Bool.false_eq_true, if_false] at hd
  split at hd
  case h_1 => cases hd
  case h_2 =>
    cases hd
    exact build_ne_reservedOpcode hop ha

end Sys2Proof

namespace Sys2Proof.Machine

/-! ## The plan at a core's turn -/

theorem firstOf_eq_none_iff {l : List (State → Agenda)} {s : State} : firstOf l s = none ↔ ∀ f, f ∈ l → f s = none := by
  simp [firstOf]

theorem eachCore_of_turn {s : State} {c : Nat} (h : s.Turn c) {a : State × List Instr} (ha : coreStep s c = some a) :
    eachCore coreStep s = some a := by
  obtain ⟨l, k, l', hcores, hl⟩ := h.cores
  unfold eachCore
  rw [hcores, List.findSome?_append, List.findSome?_eq_none_iff.2 hl, Option.none_or, List.findSome?_cons, ha]

section
variable {s : State} {c : Nat} {a : State × List Instr}

/-- What comes before the cores' sequencers has nothing to do, so the plan is the core's. -/
theorem State.Turn.plan_eq (h : s.Turn c) (ha : coreStep s c = some a) : plan s = a := by
  have hbefore := firstOf_eq_none_iff.1 h.before
  simp only [List.forall_mem_cons, List.not_mem_nil, false_imp_iff, implies_true, and_true] at hbefore
  simp only [plan, firstOf, List.findSome?_cons, hbefore, crowded, Option.map_none, eachCore_of_turn h ha, Option.getD_some]

theorem State.Turn.runStep_eq (h : s.Turn c) :
    s.runStep c = (s.seqStep c).orElse fun _ => s.columnsStep c columnOrder := by
  have hlive := h.live
  simp only [Core.live, Bool.and_eq_true, beq_iff_eq] at hlive
  obtain ⟨-, hsaving⟩ := hlive
  simp [State.runStep, h.late, h.live, h.frozen, hsaving]

theorem State.Turn.step_of_runStep (h : s.Turn c) (hr : s.runStep c = some a) : step s = runAll a.2 a.1 := by
  have hcore : coreStep s c = some a := by
    simp only [coreStep, firstOf, List.findSome?_cons, h.events, h.gang, hr]
  unfold step
  rw [h.plan_eq hcore]

theorem State.Turn.step_of_seqStep (h : s.Turn c) (hs : s.seqStep c = some a) : step s = runAll a.2 a.1 :=
  h.step_of_runStep (by rw [h.runStep_eq, hs]; rfl)

theorem State.Turn.step_of_columnsStep (h : s.Turn c) (hs : s.seqStep c = none) (hc : s.columnsStep c columnOrder = some a) :
    step s = runAll a.2 a.1 :=
  h.step_of_runStep (by rw [h.runStep_eq, hs, hc]; rfl)

end

theorem runAll_singleton (i : Instr) (s : State) : runAll [i] s = exec i s := by
  simp only [runAll]
  split <;> simp_all

/-! ## The next word -/

theorem State.coreRead_of_noErrors {s : State} (h : s.NoErrors) (c key n va kind : Nat) : s.coreRead c key n va kind = s := by
  obtain ⟨hpoison, hcores⟩ := h
  have hno : s.noErrors = true := by
    simp only [State.noErrors, hpoison, List.isEmpty_nil, Bool.true_and, List.all_eq_true, beq_iff_eq]
    exact hcores
  rw [State.coreRead, if_pos hno]

/-- A core that follows none has no word forwarded to it to settle, and takes its word from its own memory. -/
theorem State.AtWord.settle {s : State} {c w : Nat} {h : Head} {i : Instr} (hw : s.AtWord c w h i) :
    s.settle c = none ∧ s.nextWord c = some (w, false) := by
  obtain ⟨hmode, hfwd⟩ := hw.alone
  have hatt : (s.core c).attached = false := by
    simp only [Core.attached, hfwd, Bool.and_false, Bool.or_false, beq_eq_false_iff_ne]
    omega
  constructor
  · obtain hm | hm : (s.core c).mode = 0 ∨ (s.core c).mode = 1 := by omega
    all_goals simp [State.settle, hm, hfwd]
  · rcases hw.fetched with hf | hf <;> simp [State.nextWord, hatt, hf, hw.word]

theorem State.AtWord.seqStep {s : State} {c w : Nat} {h : Head} {i : Instr} (hw : s.AtWord c w h i) :
    s.seqStep c = some (s.dispatch c w h i) := by
  obtain ⟨hheld, htrap, hseq⟩ := hw.clear
  obtain ⟨hsettle, hword⟩ := hw.settle
  have hi : i ≠ .reservedOpcode := ne_reservedOpcode_of_decodeWith hw.decodes hw.assigned
  have hin := hw.inside
  have hstep : s.wordStep c = some (s.dispatch c w h i) := by
    simp [State.wordStep, hsettle, hword, hw.locks, hw.bkpt, hw.decodes, hw.may, hw.block, State.coreRead_of_noErrors hw.clean,
      Nat.not_le.2 hin]
  simp only [State.seqStep, hheld, htrap, Option.isSome_none, Bool.false_eq_true, false_or, Nat.not_lt.2 hseq, if_false, hstep]

/-! ## What the leader shows its followers leaves the clk (R44) -/

theorem foldl_clk {α : Type} {f : State → α → State} (hf : ∀ s x, (f s x).clk = s.clk) (l : List α) :
    ∀ s : State, (l.foldl f s).clk = s.clk := by
  induction l with
  | nil => exact fun _ => rfl
  | cons x l ih => exact fun s => (ih _).trans (hf s x)

theorem State.memStore_clk (s : State) (key : Nat) (bs : List Byte) (tag : Option Bool) : (s.memStore key bs tag).clk = s.clk := by
  unfold State.memStore
  dsimp only
  repeat' split
  all_goals rfl

theorem State.devWrite_clk (s : State) (phys : Nat) (bs : List Byte) : (s.devWrite phys bs).clk = s.clk := by
  unfold State.devWrite
  dsimp only
  repeat' split
  case isFalse.isFalse => exact s.memStore_clk _ _ _
  all_goals rfl

theorem State.pushItem_clk (s : State) (q v : Nat) : (s.pushItem q v).clk = s.clk := by
  unfold State.pushItem
  split
  · exact s.devWrite_clk _ _
  · rfl

theorem State.postEvent_clk (s : State) (x code src : Nat) (body : List Byte) : (s.postEvent x code src body).clk = s.clk := by
  have hpush (items : List Nat) (q : Nat) : (items.foldl (fun s v => s.pushItem q v) s).clk = s.clk :=
    foldl_clk (fun s v => s.pushItem_clk q v) items s
  unfold State.postEvent
  dsimp only
  split
  · split <;> exact hpush _ _
  · split <;> rfl

theorem State.followDetach_clk (s : State) (c reason : Nat) : (s.followDetach c reason).clk = s.clk := by
  have hleave : (s.leaveLeader c).clk = s.clk := by
    unfold State.leaveLeader
    dsimp only
    split <;> rfl
  unfold State.followDetach
  dsimp only
  split
  · split
    · exact (State.postEvent_clk _ _ _ _ _).trans hleave
    · exact hleave
  · exact hleave

theorem State.forward_clk (s : State) (c pc w : Nat) : (s.forward c pc w).clk = s.clk := by
  unfold State.forward
  refine foldl_clk (fun s f => ?_) _ s
  dsimp only
  split
  · rfl
  · split
    · exact s.followDetach_clk f 1
    · rfl

/-- The state after the word that is dispatched has been shown to the followers. -/
def State.shown (s : State) (c w : Nat) (i : Instr) : State :=
  if (s.core c).mode = 1 ∧ i ≠ .detach then s.forward c (s.core c).pc w else s

theorem State.shown_clk (s : State) (c w : Nat) (i : Instr) : (s.shown c w i).clk = s.clk := by
  unfold State.shown
  split
  · exact s.forward_clk _ _ _
  · rfl

/-! ## A dispatched instruction takes its place -/

/-- The entry of an instruction that is dispatched. -/
def Core.entry (k : Core) (h : Head) (i : Instr) : QEntry := (k.clearBkptSkip.enroll h i).1

/-- The core that has dispatched an instruction. -/
def Core.entered (k : Core) (h : Head) (i : Instr) : Core := (k.clearBkptSkip.enroll h i).2

/-- Clearing SKIP changes control registers alone. -/
theorem Core.clearBkptSkip_eq (k : Core) : ∃ cr, k.clearBkptSkip = { k with cr := cr } := by
  have hfold : ∀ (l : List Nat) (k : Core), ∃ cr, l.foldl (fun k i => if k.cf (0x028 + i) 61 1 = 1 then
      k.setSkip (0x028 + i) false else k) k = { k with cr := cr } := by
    intro l
    induction l with
    | nil => exact fun k => ⟨_, rfl⟩
    | cons i l ih =>
      intro k
      rw [List.foldl_cons]
      split
      · obtain ⟨cr, h⟩ := ih (k.setSkip (0x028 + i) false)
        exact ⟨cr, h⟩
      · exact ih k
  exact hfold _ k

section
variable (k : Core) (h : Head) (i : Instr)

/-- A dispatch changes the list of dispatched instructions and what goes with it, and clears SKIP. -/
theorem Core.entered_eq : ∃ n rob q seq, k.entered h i =
    { k with cr := k.clearBkptSkip.cr, serial := n, rob := rob, qWriters := q, seqSpec := seq } := by
  obtain ⟨cr, hcr⟩ := k.clearBkptSkip_eq
  unfold Core.entered
  rw [hcr]
  exact ⟨_, _, _, _, rfl⟩

theorem Core.entry_spec : (k.entry h i).instr = i ∧ (k.entry h i).head = h ∧ (k.entry h i).pc = k.pc ∧
    (k.entry h i).planned = k.vcc + h.delay := by
  obtain ⟨cr, hcr⟩ := k.clearBkptSkip_eq
  unfold Core.entry
  rw [hcr]
  exact ⟨rfl, rfl, rfl, rfl⟩

/-- Only an instruction that writes a q register joins those a reader waits for. -/
theorem Core.entered_qWriters (hq : qDest i = none) : (k.entered h i).qWriters = k.qWriters := by
  obtain ⟨cr, hcr⟩ := k.clearBkptSkip_eq
  unfold Core.entered Core.enroll
  rw [hcr, hq]

end

theorem qDest_of_mayRedirect {i : Instr} (h : mayRedirect i = true) : qDest i = none := by
  unfold mayRedirect at h
  split at h
  case h_14 => cases h
  all_goals rfl

/-! ## The instruction in the sequencer executes -/

section
variable {s : State} {c : Nat} {hd : Held}

/-- An instruction in the sequencer that waits for nothing and is not late executes. -/
theorem State.heldStep_runs (hkind : hd.kind = .ready) (hplan : hd.entry.planned ≤ (s.core c).vcc)
    (hwait : (s.core c).waitMet hd.entry.serial hd.entry.head.wait = true) (hlate : ∀ p, hd.limit = some p → (s.core c).vcc ≤ p)
    (hend : mayRedirect hd.entry.instr = true → (s.core c).endTestBusy = true →
      (s.core c).redirects s.clk hd.entry.head hd.entry.instr = true) :
    s.heldStep c hd = some (s.runHeld c hd) := by
  have hstrict (p) (hp : hd.limit = some p) : lateStrict hd.entry (s.core c).vcc p = false := by
    simp [lateStrict, Nat.not_lt.2 (hlate p hp)]
  have hbusy : (mayRedirect hd.entry.instr && !(s.core c).redirects s.clk hd.entry.head hd.entry.instr &&
      (s.core c).endTestBusy) = false := by
    cases hm : mayRedirect hd.entry.instr <;> cases hb : (s.core c).endTestBusy <;> simp_all
  unfold State.heldStep
  cases hl : hd.limit with
  | none => simp [hkind, hbusy, hplan, hwait]
  | some p => simp [hkind, hstrict p hl, hbusy, hplan, hwait]

/-- What `runHeld` puts in hand, and what it leaves. -/
theorem State.runHeld_spec (s : State) (c : Nat) (hd : Held) :
    (s.runHeld c hd).2 = [hd.entry.instr] ∧ (s.runHeld c hd).1.ent = hd.entry ∧ (s.runHeld c hd).1.hand.core = c ∧
      (s.runHeld c hd).1.me = { s.core c with held := none } ∧ s.SameMem (s.runHeld c hd).1 ∧
      ∀ x, x ≠ c → (s.runHeld c hd).1.core x = s.core x :=
  ⟨rfl, rfl, rfl, s.core_setCore c _, (s.sameMem_setCore c { s.core c with held := none }).trans (State.sameMem_hand _ _),
    fun _ hx => s.core_setCore_ne _ hx⟩

end

theorem Core.sameRegs_held (k : Core) (hd : Option Held) : k.SameRegs { k with held := hd } :=
  Core.sameRegs_of rfl rfl rfl rfl rfl rfl rfl rfl rfl rfl rfl rfl rfl

/-! ## The head of a column's queue issues -/

theorem Core.takeHead_held (k : Core) (col : Nat) (e : QEntry) : (k.takeHead col e).held = k.held := rfl
theorem Core.takeHead_loops (k : Core) (col : Nat) (e : QEntry) : (k.takeHead col e).loops = k.loops := rfl
theorem Core.takeHead_pc (k : Core) (col : Nat) (e : QEntry) : (k.takeHead col e).pc = k.pc := rfl

/-- The state in which the head of a column's queue executes: it has left the queue and is in hand. -/
def State.issued (s : State) (c col : Nat) (e : QEntry) : State :=
  ((s.onEvent c (argIx col) none).modMe (·.takeHead col e)).withEntry e

/-- In a core that no elastic pause of its own holds, the issue changes the queue alone; then the instruction executes. -/
theorem State.runAll_issueColumn {s : State} {c col : Nat} {e : QEntry} (hlate : (s.core c).late = [])
    (hiss : (s.core c).issuable col = some e) (i : Instr) :
    runAll (s.issueColumn c col i).2 (s.issueColumn c col i).1 = exec i (s.issued c col e) := by
  have hend : (s.onEvent c (argIx col) none).endLate c col = s.onEvent c (argIx col) none := by
    unfold State.endLate
    rw [if_neg]
    simp [show ((s.onEvent c (argIx col) none).core c).late = [] from hlate]
  have hexec : exec .columnIssue (s.onEvent c (argIx col) none) = .next (s.issued c col e) := by
    rw [exec_columnIssue (s := s.onEvent c (argIx col) none) hiss]
    exact congrArg (fun u : State => Host.Outcome.next ((u.modMe (·.takeHead col e)).withEntry e)) hend
  simp only [State.issueColumn]
  rw [runAll, hexec]
  exact runAll_singleton i _

theorem State.issued_spec (s : State) (c col : Nat) (e : QEntry) :
    (s.issued c col e).ent = e ∧ (s.issued c col e).hand.core = c ∧ (s.issued c col e).me = (s.core c).takeHead col e ∧
      s.SameMem (s.issued c col e) ∧ ∀ x, x ≠ c → (s.issued c col e).core x = s.core x :=
  ⟨rfl, rfl, s.core_setCore c _,
    (s.sameMem_setCore c ((s.core c).takeHead col e)).trans (State.sameMem_hand _ (s.issued c col e).hand),
    fun _ hx => s.core_setCore_ne _ hx⟩

/-! ## An instruction that has waited in the sequencer, or in a column's queue -/

/-- An instruction that stands in the sequencer and waits for nothing more executes in the step. -/
theorem State.Turn.step_held {s : State} {c : Nat} {hd : Held} (h : s.Turn c) (hheld : (s.core c).held = some hd)
    (hrun : s.heldStep c hd = some (s.runHeld c hd)) : step s = exec hd.entry.instr (s.runHeld c hd).1 := by
  have hseq : s.seqStep c = some (s.runHeld c hd) := by
    simp only [State.seqStep, hheld, hrun]
  rw [h.step_of_seqStep hseq]
  exact runAll_singleton _ _

section
variable {s : State} {c col : Nat} {e : QEntry}

/-- Where one column alone has an instruction, and that one can issue and is not late, the columns issue it or nothing. -/
theorem State.columnStep_of_issuable (hothers : ∀ x, x ∈ columnOrder → x ≠ col → (s.core c).queueOf x = [])
    (hiss : (s.core c).issuable col = some e) (hlimit : (s.core c).vcc ≤ (s.core c).issueLimit col e) {cols : List Nat}
    (hsub : ∀ x, x ∈ cols → x ∈ columnOrder) :
    s.columnStep c cols = if col ∈ cols then some (s.issueColumn c col e.instr) else none := by
  obtain ⟨rest, hq⟩ : ∃ rest, (s.core c).queueOf col = e :: rest := by
    unfold Core.issuable at hiss
    split at hiss
    case h_1 => cases hiss
    case h_2 rest hq =>
      dsimp only at hiss
      split_ifs at hiss
      cases hiss
      exact ⟨_, hq⟩
  induction cols with
  | nil => rfl
  | cons x cols ih =>
    have ih := ih fun y hy => hsub y (List.mem_cons_of_mem _ hy)
    unfold State.columnStep at ih ⊢
    rw [List.findSome?_cons]
    by_cases hx : x = col
    · subst hx
      simp [hq, hiss, lateStrict, Nat.not_lt.2 hlimit]
    · simp only [hothers x (hsub x List.mem_cons_self) hx]
      rw [ih]
      simp [Ne.symm hx]

theorem State.columnsStep_of_issuable (hcol : col ∈ columnOrder)
    (hothers : ∀ x, x ∈ columnOrder → x ≠ col → (s.core c).queueOf x = [])
    (hiss : (s.core c).issuable col = some e) (hlimit : (s.core c).vcc ≤ (s.core c).issueLimit col e)
    (hput : (s.core c).nextPut = none) (hstore : (s.core c).nextStore = none) :
    s.columnsStep c columnOrder = some (s.issueColumn c col e.instr) := by
  have hstep := fun {cols} => State.columnStep_of_issuable hothers hiss hlimit (cols := cols)
  have hno : s.putStep c = none ∧ s.storeStep c = none := by
    simp [State.storeStep, State.putStep, hput, hstore]
  simp only [State.columnsStep, firstOf, List.findSome?_cons, hno, hstep (fun x hx => hx),
    hstep (fun x hx => (List.mem_filter.1 hx).1), hcol, if_true]
  split_ifs <;> rfl

end

/-! ## An S instruction executes in the step that dispatches it -/

theorem colOfOp_cases {op col : Nat} (h : colOfOp op = some col) : col = colP ∨ col ∈ columnOrder := by
  unfold colOfOp at h
  split_ifs at h <;> cases h <;> decide

theorem Core.waitMet_zero (k : Core) (n : Nat) : k.waitMet n 0#8 = true := by
  simp [Core.waitMet]

/-- The instruction that is dispatched, in the sequencer. -/
def Core.entering (k : Core) (clk : Nat) (h : Head) (i : Instr) : Held :=
  ⟨k.entry h i, .ready, 0, 0, clk, some (k.entry h i).planned⟩

/-- The state in which a dispatched S instruction stands in the sequencer. -/
def State.enteredHeld (s : State) (c : Nat) (h : Head) (i : Instr) : State :=
  s.setCore c { (s.core c).entered h i with held := some ((s.core c).entering s.clk h i) }

theorem State.dispatch_sequencer (s : State) (c w : Nat) {h : Head} {i : Instr} (hcol : colOfOp ((opcodeOf i).getD 0) = none) :
    s.dispatch c w h i = (((s.shown c w i).enteredHeld c h i).heldStep c
      (((s.shown c w i).core c).entering (s.shown c w i).clk h i)).getD ((s.shown c w i).enteredHeld c h i, []) := by
  unfold State.dispatch
  rw [hcol]
  rfl

theorem Core.sameRegs_entered (k : Core) (h : Head) (i : Instr) : k.clearBkptSkip.SameRegs (k.entered h i) :=
  Core.sameRegs_of rfl rfl rfl rfl rfl rfl rfl rfl rfl rfl rfl rfl rfl

theorem Core.SameRegs.withLoops_self {k k' : Core} (h : k.SameRegs k') : (k.withLoops k'.loops).SameRegs k' :=
  { h with loops := rfl }

theorem endTestReads_congr {k k' : Core} (h : k'.q = k.q) (pc : Nat) (l : List LoopEntry) :
    endTestReads k' pc l = endTestReads k pc l := by
  induction l with
  | nil => rfl
  | cons e l ih => simp only [endTestReads, ih, Core.rq_congr h]

theorem Core.endTestBusy_congr {k k' : Core} (hq : k'.q = k.q) (hl : k'.loops = k.loops) (hp : k'.pc = k.pc)
    (hw : k'.qWriters = k.qWriters) (hv : k'.vcc = k.vcc) : k'.endTestBusy = k.endTestBusy := by
  have hbusy : k'.qBusy = k.qBusy := funext fun q => by simp only [Core.qBusy, hw, hv]
  unfold Core.endTestBusy
  rw [endTestReads_congr hq, hl, hp, hbusy]

/-- What an S instruction that may redirect waits for is as it was before its dispatch. -/
theorem Core.entered_wait {k k' : Core} {h : Head} {i : Instr} {clk : Nat} {hd : Option Held}
    (hk : k' = { k.entered h i with held := hd })
    (hend : mayRedirect i = true → k.endTestBusy = true → k.redirects clk h i = true) :
    mayRedirect i = true → k'.endTestBusy = true → k'.redirects clk h i = true := by
  intro hm hb
  have hq := k.entered_qWriters h i (qDest_of_mayRedirect hm)
  obtain ⟨n, rob, q, seq, he⟩ := k.entered_eq h i
  rw [he] at hq hk
  have hbusy : k'.endTestBusy = k.endTestBusy := by
    subst hk
    exact Core.endTestBusy_congr rfl rfl rfl hq rfl
  have hred : k'.redirects clk h i = k.redirects clk h i := by
    rw [hk]
    rfl
  rw [hred]
  exact hend hm (hbusy ▸ hb)

/-- An S instruction that waits for nothing executes in the step that dispatches it. -/
theorem State.AtWord.step_sequencer {s : State} {c w : Nat} {h : Head} {i : Instr} (hw : s.AtWord c w h i)
    (hcol : colOfOp ((opcodeOf i).getD 0) = none) (hdelay : h.delay = 0) (hwait : h.wait = 0)
    (hend : mayRedirect i = true → ((s.shown c w i).core c).endTestBusy = true →
      ((s.shown c w i).core c).redirects s.clk h i = true) :
    ∃ u, step s = exec i u ∧ (s.shown c w i).InHand u c h i ∧ u.me.loops = ((s.shown c w i).core c).loops := by
  have hdisp := s.dispatch_sequencer c w (h := h) hcol
  have hclk := s.shown_clk c w i
  generalize s.shown c w i = s1 at hend hdisp hclk ⊢
  obtain ⟨hinstr, hhead, hpc, hplan⟩ := (s1.core c).entry_spec h i
  obtain ⟨n, rob, q, seq, he⟩ := (s1.core c).entered_eq h i
  generalize hhd : (s1.core c).entering s1.clk h i = hd at hdisp
  have hent : hd.entry = (s1.core c).entry h i := hhd ▸ rfl
  rw [← hent] at hinstr hhead hpc hplan
  have hcore : (s1.enteredHeld c h i).core c = { (s1.core c).entered h i with held := some hd } := by
    rw [State.enteredHeld, State.core_setCore, hhd]
  have hvcc : ((s1.enteredHeld c h i).core c).vcc = hd.entry.planned := by
    rw [hcore, he, hplan, hdelay]
    rfl
  have hrun : (s1.enteredHeld c h i).heldStep c hd = some ((s1.enteredHeld c h i).runHeld c hd) := by
    refine State.heldStep_runs (hhd ▸ rfl) hvcc.ge ?_ (fun p hp => ?_) ?_
    · rw [hhead, hwait]
      exact Core.waitMet_zero _ _
    · rw [← hhd] at hp
      cases hp
      rw [hvcc, hent]
    · rw [hinstr, hhead]
      exact Core.entered_wait hcore (hclk ▸ hend)
  rw [hrun, Option.getD_some] at hdisp
  obtain ⟨hlist, huent, hucore, hume, humem, huothers⟩ := (s1.enteredHeld c h i).runHeld_spec c hd
  have hume : ((s1.enteredHeld c h i).runHeld c hd).1.me = { (s1.core c).entered h i with held := none } := by
    rw [hume, hcore]
  refine ⟨((s1.enteredHeld c h i).runHeld c hd).1, ?_, ⟨hucore, ?_, ?_, ?_, ?_, ?_, ?_, fun x hx => ?_⟩, ?_⟩
  · rw [hw.turn.step_of_seqStep hw.seqStep, hdisp, hlist, runAll_singleton, hinstr]
  · rw [huent, hinstr]
  · rw [State.head, ← State.ent, huent, hhead]
  · rw [huent, hpc]
  · rw [hume]
  · exact (s1.sameMem_setCore c _).trans humem
  · rw [hume]
    exact ((Core.sameRegs_entered _ h i).trans (Core.sameRegs_held _ none)).withLoops_self
  · rw [huothers x hx]
    exact s1.core_setCore_ne _ hx
  · rw [hume, he]

/-! ## A column instruction joins its queue -/

/-- The core that has dispatched a column instruction from a PC. -/
def Core.queued (k : Core) (h : Head) (i : Instr) (col pc : Nat) : Core :=
  ((k.entered h i).setQueueOf col ((k.entered h i).queueOf col ++ [k.entry h i])).advance pc

/-- The state in which a dispatched column instruction stands in its queue. -/
def State.enteredQueued (s : State) (c : Nat) (h : Head) (i : Instr) (col pc : Nat) : State :=
  s.setCore c ((s.core c).queued h i col pc)

theorem Core.advance_eq (k : Core) (pc : Nat) : ∃ l p t, k.advance pc = { k with loops := l, pc := p, seqAt := t } := by
  unfold Core.advance
  split
  · exact ⟨_, _, _, rfl⟩
  · exact ⟨_, _, _, rfl⟩

theorem Core.sameRegs_advance (k : Core) (pc : Nat) : (k.withLoops (k.advance pc).loops).SameRegs (k.advance pc) := by
  obtain ⟨l, p, t, he⟩ := k.advance_eq pc
  rw [he]
  exact Core.sameRegs_of rfl rfl rfl rfl rfl rfl rfl rfl rfl rfl rfl rfl rfl

theorem Core.sameRegs_setQueueOf (k : Core) (col : Nat) (l : List QEntry) : k.SameRegs (k.setQueueOf col l) :=
  Core.sameRegs_of rfl rfl rfl rfl rfl rfl rfl rfl rfl rfl rfl rfl rfl

theorem Core.queueOf_setQueueOf_ne (k : Core) {col x : Nat} (l : List QEntry) (hx : x ≠ col) :
    (k.setQueueOf col l).queueOf x = k.queueOf x := by
  unfold Core.setQueueOf Core.queueOf
  cases l with
  | nil => simp [mapGetD, mapGet_mapDel_ne _ hx]
  | cons => simp [mapGetD_mapPut_ne _ _ _ hx]

section
variable (k : Core) (h : Head) (i : Instr) (col pc : Nat)

/-- A column instruction's dispatch changes nothing a program sees but SKIP, the PC and the loop stack. -/
theorem Core.sameRegs_queued : (k.clearBkptSkip.withLoops (k.queued h i col pc).loops).SameRegs (k.queued h i col pc) :=
  (((k.sameRegs_entered h i).trans (Core.sameRegs_setQueueOf _ _ _)).withLoops _).trans (Core.sameRegs_advance _ _)

theorem Core.queued_pc : (k.queued h i col pc).pc = (k.advance pc).pc := by
  obtain ⟨n, rob, q, seq, he⟩ := k.entered_eq h i
  unfold Core.queued
  refine (Core.advance_congr ?_ ?_ ?_ pc).1
  all_goals simp [he]

/-- Where no column had an instruction, the one that is dispatched is all that the queues hold. -/
theorem Core.queued_queueOf (hq : k.queues = []) (x : Nat) :
    (k.queued h i col pc).queueOf x = if x = col then [k.entry h i] else [] := by
  have hempty (y : Nat) : (k.entered h i).queueOf y = [] := by
    obtain ⟨n, rob, q, seq, he⟩ := k.entered_eq h i
    rw [he]
    simp [Core.queueOf, hq, mapGetD, mapGet]
  have hadv : (k.queued h i col pc).queueOf x =
      ((k.entered h i).setQueueOf col ((k.entered h i).queueOf col ++ [k.entry h i])).queueOf x := by
    simp [Core.queued, Core.queueOf]
  rw [hadv]
  split_ifs with hx
  · rw [hx, Core.queueOf_setQueueOf, hempty, List.nil_append]
  · rw [Core.queueOf_setQueueOf_ne _ _ hx, hempty]

/-- What the instruction that is dispatched waits for is as it was. -/
theorem Core.queued_spec : (k.queued h i col pc).vcc = k.vcc ∧ (k.queued h i col pc).held = k.held ∧
    (k.queued h i col pc).trapAt = k.trapAt ∧ (k.queued h i col pc).late = k.late ∧
    (k.queued h i col pc).colFree = k.colFree ∧ (k.queued h i col pc).colHold = k.colHold ∧
    (k.queued h i col pc).landings = k.landings := by
  obtain ⟨n, rob, q, seq, he⟩ := k.entered_eq h i
  unfold Core.queued
  obtain ⟨l, p, t, ha⟩ := Core.advance_eq ((k.entered h i).setQueueOf col ((k.entered h i).queueOf col ++ [k.entry h i])) pc
  rw [ha, he]
  exact ⟨rfl, rfl, rfl, rfl, rfl, rfl, rfl⟩

/-- Only the column that has the instruction can issue. -/
theorem Core.queued_issuable_ne (hq : k.queues = []) {x : Nat} (hx : x ≠ col) : (k.queued h i col pc).issuable x = none := by
  simp [Core.issuable, k.queued_queueOf h i col pc hq, hx]

theorem Core.queued_issuable_of_delay (hq : k.queues = []) (hdelay : 0 < h.delay) :
    (k.queued h i col pc).issuable col = none := by
  have hqueue := k.queued_queueOf h i col pc hq
  obtain ⟨hvcc, -⟩ := k.queued_spec h i col pc
  obtain ⟨-, -, -, hplan⟩ := k.entry_spec h i
  simp [Core.issuable, hqueue, hvcc, hplan, Nat.not_le.2 hdelay]

theorem Core.queued_issuable (hq : k.queues = []) (htrap : k.trapAt = none) (hdelay : h.delay = 0) (hwait : h.wait = 0)
    (hfree : k.free col ≤ k.vcc) (hhold : mapGet k.colHold col = none) :
    (k.queued h i col pc).issuable col = some (k.entry h i) := by
  have hqueue := k.queued_queueOf h i col pc hq
  obtain ⟨hvcc, -, htrap', -, hfree', hhold', -⟩ := k.queued_spec h i col pc
  obtain ⟨-, hhead, -, hplan⟩ := k.entry_spec h i
  have hfree : (k.queued h i col pc).free col ≤ k.vcc := by
    unfold Core.free at hfree ⊢
    rw [hfree']
    exact hfree
  simp [Core.issuable, hqueue, hvcc, htrap', htrap, hhold', hhold, hplan, hdelay, hhead, hwait, Core.waitMet_zero, hfree]

end

/-- The column issues the instruction of a serial, when it is the next that the core's columns issue and no write to memory is
due before it; else the instruction waits. -/
def State.issueOrWait (s : State) (c col serial : Nat) (i : Instr) : State × List Instr :=
  match columnOrder.find? (fun x => ((s.core c).issuable x).isSome) with
  | some x =>
    if x = col ∧ ((s.core c).issuable col).map QEntry.serial = some serial ∧ (s.core c).nextPut.isNone ∧ (s.core c).nextStore.isNone
    then s.issueColumn c col i else (s, [])
  | none => (s, [])

theorem State.dispatch_column (s : State) (c w : Nat) {h : Head} {i : Instr} {col : Nat}
    (hcol : colOfOp ((opcodeOf i).getD 0) = some col) : s.dispatch c w h i =
      ((s.shown c w i).enteredQueued c h i col (s.core c).pc).issueOrWait c col (((s.shown c w i).core c).entry h i).serial i := by
  unfold State.dispatch
  rw [hcol]
  rfl

section
variable {s : State} {c col : Nat} {i : Instr}

theorem State.issueOrWait_issues {e : QEntry} (hcol : col ∈ columnOrder) (hothers : ∀ x, x ≠ col → (s.core c).issuable x = none)
    (hiss : (s.core c).issuable col = some e) (hput : (s.core c).nextPut = none) (hstore : (s.core c).nextStore = none) :
    s.issueOrWait c col e.serial i = s.issueColumn c col i := by
  obtain ⟨x, hfind⟩ : ∃ x, columnOrder.find? (fun x => ((s.core c).issuable x).isSome) = some x :=
    Option.isSome_iff_exists.1 (List.find?_isSome.2 ⟨col, hcol, by rw [hiss]; rfl⟩)
  have hx : x = col := by
    by_contra hne
    simpa [hothers x hne] using List.find?_some hfind
  subst hx
  simp [State.issueOrWait, hfind, hiss, hput, hstore]

theorem State.issueOrWait_waits (hno : ∀ x, x ∈ columnOrder → (s.core c).issuable x = none) (n : Nat) :
    s.issueOrWait c col n i = (s, []) := by
  have hfind : columnOrder.find? (fun x => ((s.core c).issuable x).isSome) = none :=
    List.find?_eq_none.2 fun x hx => by simp [hno x hx]
  simp only [State.issueOrWait, hfind]

end

/-! ## A column instruction issues in the step that dispatches it, or waits -/

section
variable {s : State} {c w : Nat} {h : Head} {i : Instr} {col : Nat}

theorem State.AtWord.step_column_issues (hw : s.AtWord c w h i) (hcol : colOfOp ((opcodeOf i).getD 0) = some col)
    (hP : col ≠ colP) (hdelay : h.delay = 0) (hwait : h.wait = 0) {k : Core} (hk : (s.shown c w i).core c = k)
    (hq : k.queues = []) (hheld : k.held = none) (htrap : k.trapAt = none) (hlate : k.late = []) (hfree : k.free col ≤ k.vcc)
    (hhold : mapGet k.colHold col = none) (hput : k.nextPut = none) (hstore : k.nextStore = none) :
    ∃ u, step s = exec i u ∧ (s.shown c w i).InHand u c h i ∧ u.me.pc = (k.advance (s.core c).pc).pc := by
  have hdisp := s.dispatch_column c w (h := h) hcol
  generalize s.shown c w i = s1 at hk hdisp ⊢
  generalize hpc : (s.core c).pc = pc at hdisp ⊢
  subst hk
  let t := s1.enteredQueued c h i col pc
  have hcore : t.core c = (s1.core c).queued h i col pc := s1.core_setCore c _
  obtain ⟨hinstr, hhead, hepc, -⟩ := (s1.core c).entry_spec h i
  obtain ⟨hvcc, hheld', -, hlate', -, -, hland⟩ := (s1.core c).queued_spec h i col pc
  have hiss : (t.core c).issuable col = some ((s1.core c).entry h i) := by
    rw [hcore]
    exact Core.queued_issuable _ h i col pc hq htrap hdelay hwait hfree hhold
  have hdisp : s.dispatch c w h i = t.issueColumn c col i := by
    rw [hdisp]
    refine State.issueOrWait_issues ((colOfOp_cases hcol).resolve_left hP) (fun x hx => ?_) hiss ?_ ?_
    · rw [hcore]
      exact Core.queued_issuable_ne _ h i col pc hq hx
    · rw [hcore, Core.nextPut, hland, hvcc]
      exact hput
    · rw [hcore, Core.nextStore, hland, hvcc]
      exact hstore
  have hlate : (t.core c).late = [] := by rw [hcore, hlate', hlate]
  obtain ⟨huent, hucore, hume, humem, huothers⟩ := t.issued_spec c col ((s1.core c).entry h i)
  rw [hcore] at hume
  refine ⟨t.issued c col ((s1.core c).entry h i), ?_, ⟨hucore, ?_, ?_, ?_, ?_, ?_, ?_, fun x hx => ?_⟩, ?_⟩
  · rw [hw.turn.step_of_seqStep hw.seqStep, hdisp, State.runAll_issueColumn hlate hiss]
  · rw [huent, hinstr]
  · rw [State.head, ← State.ent, huent, hhead]
  · rw [huent, hepc]
  · rw [hume, Core.takeHead_held, hheld', hheld]
  · exact (s1.sameMem_setCore c _).trans humem
  · rw [hume, Core.takeHead_loops]
    exact (Core.sameRegs_queued _ h i col pc).trans (Core.sameRegs_takeHead _ _ _)
  · rw [huothers x hx]
    exact s1.core_setCore_ne _ hx
  · rw [hume, Core.takeHead_pc, Core.queued_pc]

theorem State.AtWord.step_column_waits (hw : s.AtWord c w h i) (hcol : colOfOp ((opcodeOf i).getD 0) = some col)
    (hwaits : col = colP ∨ 0 < h.delay) {k : Core} (hk : (s.shown c w i).core c = k) (hq : k.queues = []) :
    ∃ u e, step s = .next u ∧ (u.core c).queueOf col = [e] ∧ e.instr = i ∧ e.head = h ∧ e.pc = k.pc ∧
      e.planned = k.vcc + h.delay ∧ (s.shown c w i).SameMem u ∧ (u.core c).pc = (k.advance (s.core c).pc).pc := by
  have hdisp := s.dispatch_column c w (h := h) hcol
  generalize s.shown c w i = s1 at hk hdisp ⊢
  generalize hpc : (s.core c).pc = pc at hdisp ⊢
  subst hk
  have hcore : (s1.enteredQueued c h i col pc).core c = (s1.core c).queued h i col pc := s1.core_setCore c _
  obtain ⟨hinstr, hhead, hepc, hplan⟩ := (s1.core c).entry_spec h i
  have hno (x) (hx : x ∈ columnOrder) : ((s1.enteredQueued c h i col pc).core c).issuable x = none := by
    rw [hcore]
    by_cases hxc : x = col
    · subst hxc
      refine Core.queued_issuable_of_delay _ h i x pc hq (hwaits.resolve_left fun hP => ?_)
      exact absurd (hP ▸ hx) (by decide)
    · exact Core.queued_issuable_ne _ h i col pc hq hxc
  rw [State.issueOrWait_waits hno] at hdisp
  refine ⟨s1.enteredQueued c h i col pc, (s1.core c).entry h i, ?_, ?_, hinstr, hhead, hepc, hplan, s1.sameMem_setCore c _, ?_⟩
  · rw [hw.turn.step_of_seqStep hw.seqStep, hdisp]
    rfl
  · rw [hcore, Core.queued_queueOf _ h i col pc hq, if_pos rfl]
  · rw [hcore, Core.queued_pc]

end

/-! ## The statement -/

/-- Settles O25: the step of a core's turn is followed from its plan to the instruction in hand. -/
theorem stepRunsDecoded : Obligations.StepRunsDecoded := by
  refine ⟨fun s c w h i hw => ⟨fun hcol hdelay hwait hend => hw.step_sequencer hcol hdelay hwait hend,
    fun col hcol hq hheld htrap hlate => ⟨fun hP hdelay hwait hfree hhold hput hstore =>
      hw.step_column_issues hcol hP hdelay hwait rfl hq hheld htrap hlate hfree hhold hput hstore,
      fun hwaits => hw.step_column_waits hcol hwaits rfl hq⟩⟩,
    fun s c hd hturn hheld hkind hplan hwait hlate hend => ?_,
    fun s c col e hturn hseq hcol hothers hiss hlimit hput hstore => ?_⟩
  case refine_1 =>
    obtain ⟨-, hent, hcore, hme, hmem, hcores⟩ := s.runHeld_spec c hd
    refine ⟨_, hturn.step_held hheld (State.heldStep_runs hkind hplan hwait hlate hend), hent, hcore, hmem, ?_, hcores⟩
    rw [hme]
    exact Core.sameRegs_held _ none
  case refine_2 =>
    obtain ⟨hent, hcore, hme, hmem, hcores⟩ := s.issued_spec c col e
    refine ⟨s.issued c col e, ?_, hent, hcore, hmem, ?_, hcores⟩
    · rw [hturn.step_of_columnsStep hseq (State.columnsStep_of_issuable hcol hothers hiss hlimit hput hstore),
        State.runAll_issueColumn hturn.late hiss]
    · rw [hme]
      exact Core.sameRegs_takeHead _ _ _

end Sys2Proof.Machine
end

section
/-! Proofs about the registers themselves: g0 and q15 (R51, R65), and what a core and the package hold at reset (R74, R75, R77,
R149, R229, R336, log entry 1). -/

namespace Sys2Proof.Machine

/-! ## The constants g0 and q15 -/

theorem State.core_setCore_self (s : State) (c x : Nat) : (s.setCore c (s.core c)).core x = s.core x := by
  obtain rfl | h := eq_or_ne x c
  · exact s.core_setCore x _
  · exact s.core_setCore_ne _ h

theorem State.applyWr_g_zero (s : State) (c : Nat) (v : GVal) : s.applyWr c (.g 0 v) = s.setCore c (s.core c) := rfl

theorem State.applyWr_q_fifteen (s : State) (c : Nat) (b : Bool) : s.applyWr c (.q 15 b) = s.setCore c (s.core c) := rfl

/-- Settles O23: a write of g0 or q15 puts its core back as it was, and a write of another register is read back. -/
theorem hardwiredRegisters : Obligations.HardwiredRegisters := by
  refine ⟨fun k => ⟨k.rg_zero, k.rq_fifteen⟩, fun s c v b x => ⟨?_, ?_⟩, fun s c r v hr => ⟨?_, fun x hx => ?_⟩,
    fun s c r b hr => ⟨?_, fun x hx => ?_⟩⟩
  · rw [State.applyWr_g_zero, State.core_setCore_self]
    exact .refl _
  · rw [State.applyWr_q_fifteen, State.core_setCore_self]
    exact .refl _
  · rw [State.applyWr_g, State.core_setCore, Core.rg_wg _ _ _ hr]
  · rw [State.applyWr_g, State.core_setCore, Core.rg_wg_ne _ _ hx]
  · rw [State.applyWr_q, State.core_setCore, Core.rq_wq_eq, if_pos ⟨rfl, hr⟩]
  · rw [State.applyWr_q, State.core_setCore, Core.rq_wq_eq, if_neg fun h => hx h.1]

/-! ## Reset -/

theorem State.core_reset (c : Nat) : State.reset.core c = Core.reset := rfl

theorem Core.rg_reset (r : GReg) : Core.reset.rg r = ⟨0, 0, false⟩ := ite_self _

theorem Core.rq_reset {r : QReg} (h : r ≠ 15) : Core.reset.rq r = false := by
  simp [Core.rq, h, Core.reset]

theorem Core.rv_reset (r : VReg) : Core.reset.rv r = ⟨0, .noFmt, none⟩ := rfl

/-- Settles O27: every table is empty at reset, so that each entry reads as its reset value. -/
theorem resetState : Obligations.ResetState := by
  refine ⟨fun c => ?_, rfl, rfl, fun _ => rfl, fun _ => rfl, fun _ => rfl, fun _ => ⟨rfl, rfl, rfl⟩⟩
  rw [State.core_reset]
  exact ⟨Core.rg_reset, fun _ => Core.rq_reset, Core.reset.rq_fifteen, Core.rv_reset, fun _ => rfl, fun _ => ⟨rfl, rfl⟩,
    fun _ => rfl, rfl, rfl, rfl, rfl, rfl⟩

/-- Settles O28, by the model's own law of memory at reset. -/
theorem memoryCanonicalAtReset : Obligations.MemoryCanonicalAtReset := memWf_reset

end Sys2Proof.Machine
end

section
/-! Proof that derivation is monotone (R55, R56, R59, R172 to R174).

The bounds of a capability are those of three fields of its metadata (`SameRange`), and metadata made of fields holds them
(`mdG_mdMake`, `mdOfs_mdMake`, `mdLen_mdMake`). Each instruction is then one fact about the value it writes
(`GVal.Inside`), and the trap of a sealed source and the test of R55 are said once, for the frame they share
(`execCap_derives`). -/

namespace Sys2Proof.Machine

/-! ## The fields of metadata (R53) -/

theorem wrap_lt (w : Nat) (v : Int) : wrap w v < 2 ^ w := by
  unfold wrap
  have hpos : (0 : Int) < (2 ^ w : Nat) := by positivity
  have hlt := Int.emod_lt_of_pos v hpos
  omega

theorem sext_wrap {v : Int} (hlo : -2 ^ 20 ≤ v) (hhi : v < 2 ^ 20) : sext 21 (wrap 21 v) = v := by
  unfold sext wrap
  split <;> omega

theorem toNat_mdMake (perms g : Nat) (ofs : Int) (len sl : Nat) : (mdMake perms g ofs len sl).toNat =
    perms % 4096 * 2 ^ 52 + g % 64 * 2 ^ 46 + wrap 21 ofs * 2 ^ 25 + len % 2 ^ 20 * 2 ^ 5 + sl % 32 := by
  have hofs := wrap_lt 21 ofs
  rw [mdMake, BitVec.toNat_ofNat, Nat.mod_eq_of_lt]
  omega

theorem mdPerms_mdMake (perms g : Nat) (ofs : Int) (len sl : Nat) : mdPerms (mdMake perms g ofs len sl) = perms % 4096 := by
  have hofs := wrap_lt 21 ofs
  rw [mdPerms, toNat_mdMake, fld]
  omega

theorem mdPerms_lt (m : Word) : mdPerms m < 4096 := Nat.mod_lt _ (by norm_num)

theorem mdLen_lt (m : Word) : mdLen m < 2 ^ 20 := Nat.mod_lt _ (by norm_num)

/-- Metadata made with the permissions of other metadata has them. -/
theorem mdPerms_mdMake_mdPerms (m : Word) (g : Nat) (ofs : Int) (len sl : Nat) :
    mdPerms (mdMake (mdPerms m) g ofs len sl) = mdPerms m := by
  rw [mdPerms_mdMake, Nat.mod_eq_of_lt (mdPerms_lt m)]

theorem mdG_mdMake (perms g : Nat) (ofs : Int) (len sl : Nat) : mdG (mdMake perms g ofs len sl) = g % 64 := by
  have hofs := wrap_lt 21 ofs
  rw [mdG, toNat_mdMake, fld]
  omega

theorem mdLen_mdMake (perms g : Nat) (ofs : Int) (len sl : Nat) : mdLen (mdMake perms g ofs len sl) = len % 2 ^ 20 := by
  rw [mdLen, toNat_mdMake, fld]
  omega

theorem mdOfs_mdMake (perms g : Nat) {ofs : Int} (len sl : Nat) (hlo : -2 ^ 20 ≤ ofs) (hhi : ofs < 2 ^ 20) :
    mdOfs (mdMake perms g ofs len sl) = ofs := by
  have hofs := wrap_lt 21 ofs
  have hfld : fld (mdMake perms g ofs len sl).toNat 25 21 = wrap 21 ofs := by
    rw [toNat_mdMake, fld]
    omega
  rw [mdOfs, hfld, sext_wrap hlo hhi]

theorem mdHas_eq_testBit (m : Word) (p : Nat) : mdHas m p = (mdPerms m).testBit p := by
  rw [mdHas, fld, Nat.testBit_eq_decide_div_mod_eq, pow_one]
  rfl

/-! ## What bounds depend on (R55) -/

/-- Metadata with one granule exponent, one offset and one length: bounds and validity are the same at every address. -/
structure SameRange (m m' : Word) : Prop where
  g : mdG m' = mdG m
  ofs : mdOfs m' = mdOfs m
  len : mdLen m' = mdLen m

theorem SameRange.capWhole {m m' : Word} (h : SameRange m m') : capWhole m' = capWhole m := by
  simp only [Machine.capWhole, h.g, h.ofs, h.len]

theorem SameRange.capBase {m m' : Word} (h : SameRange m m') (v : Word) : capBase v m' = capBase v m := by
  simp only [Machine.capBase, h.capWhole, h.g, h.ofs]

theorem SameRange.capTop {m m' : Word} (h : SameRange m m') (v : Word) : capTop v m' = capTop v m := by
  simp only [Machine.capTop, h.capWhole, h.capBase, h.g, h.len]

theorem SameRange.capValid {m m' : Word} (h : SameRange m m') (v : Word) : capValid v m' = capValid v m := by
  simp only [Machine.capValid, h.capWhole, h.capBase, h.capTop, h.g]

theorem toNat_setFld_perms (m : Word) (p : Nat) :
    (BitVec.ofNat 64 (setFld m.toNat 52 12 p)).toNat = m.toNat % 2 ^ 52 + p % 2 ^ 12 * 2 ^ 52 := by
  have hm := m.isLt
  rw [BitVec.toNat_ofNat, setFld, fld, Nat.mod_eq_of_lt] <;> omega

theorem toNat_setFld_seal (m : Word) (k : Nat) :
    (BitVec.ofNat 64 (setFld m.toNat 0 5 k)).toNat = m.toNat / 2 ^ 5 * 2 ^ 5 + k % 2 ^ 5 := by
  have hm := m.isLt
  rw [BitVec.toNat_ofNat, setFld, fld, Nat.mod_eq_of_lt] <;> omega

theorem sameRange_setFld_perms (m : Word) (p : Nat) : SameRange m (BitVec.ofNat 64 (setFld m.toNat 52 12 p)) := by
  constructor
  · rw [mdG, mdG, toNat_setFld_perms, fld, fld]; omega
  · rw [mdOfs, mdOfs, toNat_setFld_perms, fld, fld]; congr 1; omega
  · rw [mdLen, mdLen, toNat_setFld_perms, fld, fld]; omega

theorem mdPerms_setFld_perms (m : Word) (p : Nat) : mdPerms (BitVec.ofNat 64 (setFld m.toNat 52 12 p)) = p % 2 ^ 12 := by
  rw [mdPerms, toNat_setFld_perms, fld]
  omega

theorem sameRange_setFld_seal (m : Word) (k : Nat) : SameRange m (BitVec.ofNat 64 (setFld m.toNat 0 5 k)) := by
  constructor
  · rw [mdG, mdG, toNat_setFld_seal, fld, fld]; omega
  · rw [mdOfs, mdOfs, toNat_setFld_seal, fld, fld]; congr 1; omega
  · rw [mdLen, mdLen, toNat_setFld_seal, fld, fld]; omega

theorem mdPerms_setFld_seal (m : Word) (k : Nat) : mdPerms (BitVec.ofNat 64 (setFld m.toNat 0 5 k)) = mdPerms m := by
  rw [mdPerms, mdPerms, toNat_setFld_seal, fld, fld]
  omega

/-! ## The bounds of metadata made of its fields -/

theorem capBase_of_not_whole {v m : Word} (h : capWhole m = false) :
    capBase v m = ((v.toNat / 2 ^ mdG m : Nat) - mdOfs m) * (2 ^ mdG m : Nat) := by
  rw [capBase, h]
  rfl

theorem capTop_of_not_whole {v m : Word} (h : capWhole m = false) :
    capTop v m = capBase v m + ((mdLen m * 2 ^ mdG m : Nat) : Int) := by
  rw [capTop, h]
  rfl

/-- A valid capability that does not span the whole address space has a granule of 2^44 bytes at most. -/
theorem mdG_le_of_capValid {v m : Word} (hv : capValid v m = true) (h : capWhole m = false) : mdG m ≤ 44 := by
  simp only [capValid, h, Bool.false_or, Bool.and_eq_true, decide_eq_true_eq] at hv
  exact hv.1.1

section
variable {perms g len sl : Nat} {ofs : Int} (hg : g ≤ 44) (hlo : -2 ^ 20 ≤ ofs) (hhi : ofs < 2 ^ 20) (hlen : len < 2 ^ 20)

include hg

theorem capWhole_mdMake : capWhole (mdMake perms g ofs len sl) = false := by
  have hne : mdG (mdMake perms g ofs len sl) ≠ 63 := by
    rw [mdG_mdMake]
    omega
  simp [capWhole, hne]

include hlo hhi

theorem capBase_mdMake (v : Word) :
    capBase v (mdMake perms g ofs len sl) = ((v.toNat / 2 ^ g : Nat) - ofs) * (2 ^ g : Nat) := by
  rw [capBase_of_not_whole (capWhole_mdMake hg), mdG_mdMake, mdOfs_mdMake _ _ _ _ hlo hhi, Nat.mod_eq_of_lt (by omega)]

include hlen

theorem capTop_mdMake (v : Word) :
    capTop v (mdMake perms g ofs len sl) = ((v.toNat / 2 ^ g : Nat) - ofs + len) * (2 ^ g : Nat) := by
  rw [capTop_of_not_whole (capWhole_mdMake hg), capBase_mdMake hg hlo hhi, mdG_mdMake, mdLen_mdMake,
    Nat.mod_eq_of_lt hlen, Nat.mod_eq_of_lt (show g < 64 by omega)]
  push_cast
  ring

end

/-! ## A result inside its source -/

/-- A capability with no permission and no byte that another lacks. -/
structure GVal.Inside (r c : GVal) : Prop where
  perms : ∀ p, mdHas r.md p = true → mdHas c.md p = true
  base : capBase c.val c.md ≤ capBase r.val r.md
  top : capTop r.val r.md ≤ capTop c.val c.md

theorem GVal.Inside.withTag {r c : GVal} (h : r.Inside c) (b : Bool) : GVal.Inside { r with tag := b } c :=
  ⟨h.perms, h.base, h.top⟩

/-- One address, one range and one set of permissions. -/
theorem GVal.inside_of_sameRange {r c : GVal} (hval : r.val = c.val) (hm : SameRange c.md r.md)
    (hperms : ∀ p, mdHas r.md p = true → mdHas c.md p = true) : r.Inside c where
  perms := hperms
  base := by rw [hval, hm.capBase]
  top := by rw [hval, hm.capTop]

theorem mdHas_congr {m m' : Word} (h : mdPerms m' = mdPerms m) (p : Nat) : mdHas m' p = mdHas m p := by
  rw [mdHas, mdHas, h]

/-- R174: permissions that are masked are among those that were there. -/
theorem GVal.inside_masked (c : GVal) (y : Nat) :
    GVal.Inside { c with md := BitVec.ofNat 64 (setFld c.md.toNat 52 12 (mdPerms c.md &&& y)) } c := by
  refine GVal.inside_of_sameRange rfl (sameRange_setFld_perms ..) fun p hp => ?_
  simp only [mdHas_eq_testBit, mdPerms_setFld_perms, Nat.testBit_mod_two_pow, Nat.testBit_and, Bool.and_eq_true] at hp ⊢
  exact hp.2.1

theorem GVal.inside_sealed (c : GVal) (k : Nat) :
    GVal.Inside { c with md := BitVec.ofNat 64 (setFld c.md.toNat 0 5 k) } c :=
  GVal.inside_of_sameRange rfl (sameRange_setFld_seal ..) fun p hp => by rwa [mdHas_congr (mdPerms_setFld_seal ..)] at hp

/-! ### An address that moves (R56, R174) -/

/-- The offset that keeps the base where it is fits its field when the address is in the window. -/
theorem ofs_of_capWindow {v m : Word} {a : Nat} (h : capWhole m = false) (hw : capWindow v m a = true) :
    -2 ^ 20 ≤ ((a / 2 ^ mdG m : Nat) : Int) - capBase v m / (2 ^ mdG m : Nat) ∧
      ((a / 2 ^ mdG m : Nat) : Int) - capBase v m / (2 ^ mdG m : Nat) < 2 ^ 20 := by
  simp only [capWindow, h, Bool.false_or, Bool.and_eq_true, decide_eq_true_eq, pow_add] at hw
  obtain ⟨hlo, hhi⟩ := hw
  rw [capBase_of_not_whole h] at hlo hhi ⊢
  generalize hB : (((v.toNat / 2 ^ mdG m : Nat) : Int) - mdOfs m) = B at hlo hhi ⊢
  have hP : (0 : Int) < ((2 ^ mdG m : Nat) : Int) := by positivity
  rw [Int.mul_ediv_cancel _ hP.ne', Int.natCast_ediv]
  have hcast : ((2 ^ mdG m : Nat) : Int) = 2 ^ mdG m := by push_cast; rfl
  rw [← hcast] at hlo hhi
  generalize ((2 ^ mdG m : Nat) : Int) = P at hP hlo hhi ⊢
  constructor
  · have : B - 2 ^ 20 ≤ (a : Int) / P := (Int.le_ediv_iff_mul_le hP).2 (by linarith)
    linarith
  · have : (a : Int) / P < B + 2 ^ 20 := (Int.ediv_lt_iff_lt_mul hP).2 (by linarith)
    linarith

theorem mdPerms_capMoved (v m : Word) (a : Nat) : mdPerms (capMoved v m a) = mdPerms m := by
  unfold capMoved
  split
  · rfl
  · exact mdPerms_mdMake_mdPerms ..

/-- In the window of R56 the bounds stay where they are when the address moves. -/
theorem capMoved_bounds {v m : Word} (hv : capValid v m = true) {a : Nat} (ha : a < 2 ^ 64) (hw : capWindow v m a = true) :
    capBase (BitVec.ofNat 64 a) (capMoved v m a) = capBase v m ∧ capTop (BitVec.ofNat 64 a) (capMoved v m a) = capTop v m := by
  cases hwhole : capWhole m with
  | true => simp [capMoved, capBase, capTop, hwhole]
  | false =>
    have hg := mdG_le_of_capValid hv hwhole
    obtain ⟨hlo, hhi⟩ := ofs_of_capWindow hwhole hw
    have hdiv : capBase v m / (2 ^ mdG m : Nat) * (2 ^ mdG m : Nat) = capBase v m := by
      rw [capBase_of_not_whole hwhole]
      exact Int.ediv_mul_cancel (Dvd.intro_left _ rfl)
    have hnat : (BitVec.ofNat 64 a).toNat = a := by rw [BitVec.toNat_ofNat, Nat.mod_eq_of_lt ha]
    rw [capMoved, hwhole, if_neg (by simp), capBase_mdMake hg hlo hhi, capTop_mdMake hg hlo hhi (mdLen_lt m),
      capTop_of_not_whole hwhole, hnat]
    refine ⟨?_, ?_⟩
    · rw [sub_sub_cancel, hdiv]
    · rw [sub_sub_cancel, add_mul, hdiv]
      push_cast
      rfl

theorem GVal.inside_moveTo {c : GVal} (hv : capValid c.val c.md = true) (a : Nat) (ht : (c.moveTo a).tag = true) :
    (c.moveTo a).Inside c := by
  have hw : capWindow c.val c.md (a % 2 ^ 64) = true := (Bool.and_eq_true_iff.1 ht).2
  obtain ⟨hbase, htop⟩ := capMoved_bounds hv (Nat.mod_lt a (by norm_num)) hw
  exact ⟨fun p hp => by rwa [GVal.moveTo, mdHas_congr (mdPerms_capMoved ..)] at hp, hbase.ge, htop.le⟩

/-! ### A range that is narrowed (R173) -/

theorem csetbSearch_fits {x n : Nat} : ∀ {fuel g : Nat}, csetbSearch x n fuel g < g + fuel →
    (x + n + 2 ^ csetbSearch x n fuel g - 1) / 2 ^ csetbSearch x n fuel g * 2 ^ csetbSearch x n fuel g -
      x / 2 ^ csetbSearch x n fuel g * 2 ^ csetbSearch x n fuel g ≤ (2 ^ 20 - 1) * 2 ^ csetbSearch x n fuel g := by
  intro fuel
  induction fuel with
  | zero => exact fun h => absurd h (lt_irrefl _)
  | succ fuel ih =>
    intro g h
    rw [csetbSearch] at h ⊢
    split
    case isTrue hfit => exact hfit
    case isFalse hfit =>
      rw [if_neg hfit] at h
      exact ih (by omega)

/-- Metadata of offset 0 spans the granules from that of the address on. -/
theorem capBounds_mdMake_granules {perms g sl L H : Nat} {v : Word} (hg : g ≤ 44) (hL : v.toNat / 2 ^ g = L) (hLH : L ≤ H)
    (hfit : H * 2 ^ g - L * 2 ^ g ≤ (2 ^ 20 - 1) * 2 ^ g) :
    capBase v (mdMake perms g 0 ((H * 2 ^ g - L * 2 ^ g) / 2 ^ g) sl) = ((L * 2 ^ g : Nat) : Int) ∧
      capTop v (mdMake perms g 0 ((H * 2 ^ g - L * 2 ^ g) / 2 ^ g) sl) = ((H * 2 ^ g : Nat) : Int) := by
  have hP : 0 < 2 ^ g := by positivity
  rw [← Nat.sub_mul] at hfit ⊢
  have hlen : H - L ≤ 2 ^ 20 - 1 := Nat.le_of_mul_le_mul_right hfit hP
  rw [Nat.mul_div_cancel _ hP, capBase_mdMake hg (by norm_num) (by norm_num),
    capTop_mdMake hg (by norm_num) (by norm_num) (by omega), hL]
  refine ⟨by push_cast; ring, ?_⟩
  push_cast [Nat.cast_sub hLH]
  ring

theorem GVal.inside_csetbResult (exactly : Bool) (c : GVal) (n : Nat) (ht : (csetbResult exactly c n).tag = true) :
    (csetbResult exactly c n).Inside c := by
  simp only [csetbResult, Bool.and_eq_true, decide_eq_true_eq] at ht ⊢
  obtain ⟨-, ⟨⟨⟨-, hg⟩, -⟩, hbase⟩, htop⟩ := ht
  have hfit := csetbSearch_fits (x := c.val.toNat) (n := n) (fuel := 45) (g := 0) (by omega)
  generalize csetbSearch c.val.toNat n 45 0 = g at hg hbase htop hfit ⊢
  rw [min_eq_left (by omega)] at hbase htop ⊢
  have hP : 0 < 2 ^ g := by positivity
  obtain ⟨hb, ht⟩ := capBounds_mdMake_granules (perms := mdPerms c.md) (sl := mdSeal c.md) (v := c.val) (by omega) rfl
    (Nat.div_le_div_right (c := 2 ^ g) (show c.val.toNat ≤ c.val.toNat + n + 2 ^ g - 1 by omega)) hfit
  refine ⟨fun p hp => ?_, hb ▸ hbase, ht ▸ htop⟩
  rwa [mdHas_congr (mdPerms_mdMake_mdPerms ..)] at hp

/-! ## The instructions -/

/-- An instruction has trapped, or has written `gd` with a value that, if it is tagged, is valid and inside the tagged
source `ga`. -/
def State.Derives (s t : State) (gd ga : GReg) : Prop :=
  (∃ cause addr info, t = s.trap cause addr info) ∨
    ∃ r : GVal, t = s.issue colI 1 1 0 [.g gd r] ∧
      (r.tag = true → (s.me.rg ga).tag = true ∧ capValid r.val r.md = true ∧ r.Inside (s.me.rg ga))

/-- A check that fails raises its trap. -/
theorem State.Derives.ite_trap {s u : State} {gd ga : GReg} (h : s.Derives u gd ga) (p : Prop) [Decidable p]
    (cause addr info : Nat) : s.Derives (if p then s.trap cause addr info else u) gd ga := by
  split
  · exact .inl ⟨_, _, _, rfl⟩
  · exact h

section
variable {s t : State} {gd ga : GReg}
  (hv : (s.me.rg ga).tag = true → capValid (s.me.rg ga).val (s.me.rg ga).md = true)
include hv

/-- Sealing and unsealing write the source with another seal. -/
theorem State.derives_sealed (k : Nat) : s.Derives
    (s.issue colI 1 1 0 [.g gd { s.me.rg ga with md := BitVec.ofNat 64 (setFld (s.me.rg ga).md.toNat 0 5 k) }]) gd ga :=
  .inr ⟨_, rfl, fun (ht : (s.me.rg ga).tag = true) =>
    ⟨ht, ((sameRange_setFld_seal _ k).capValid _).trans (hv ht), GVal.inside_sealed _ k⟩⟩

variable (hs : s.Runs)
include hs

/-- What is left to say of an instruction of the shared frame is that its result lies inside a valid source. -/
theorem execCap_derives {f : State → GVal → GVal} (he : execCap gd ga f s = .next t)
    (hf : capValid (s.me.rg ga).val (s.me.rg ga).md = true → (f s (s.me.rg ga)).tag = true →
      (f s (s.me.rg ga)).Inside (s.me.rg ga)) : s.Derives t gd ga := by
  rw [execCap, State.guarded_runs hs] at he
  injection he with he
  subst he
  refine State.Derives.ite_trap (.inr ⟨_, rfl, fun ht => ?_⟩) ..
  simp only [Bool.and_eq_true] at ht
  obtain ⟨⟨hft, hct⟩, hrv⟩ := ht
  exact ⟨hct, hrv, (hf (hv hct) hft).withTag _⟩

theorem execCseal_derives {k : Int} (he : execCseal gd ga k s = .next t) : s.Derives t gd ga := by
  rw [execCseal, State.guarded_runs hs] at he
  injection he with he
  subst he
  exact (((State.derives_sealed hv _).ite_trap ..).ite_trap ..).ite_trap ..

theorem execCunseal_derives {k : Int} (he : execCunseal gd ga k s = .next t) : s.Derives t gd ga := by
  rw [execCunseal, State.guarded_runs hs] at he
  injection he with he
  subst he
  exact (((State.derives_sealed hv _).ite_trap ..).ite_trap ..).ite_trap ..

end

/-- Settles O5: each instruction derives, by the lemma about the value it writes. -/
theorem capabilityMonotone : Obligations.CapabilityMonotone := by
  intro i s t gd ga b n k hs hi _ c hv he
  suffices h : s.Derives t gd ga by
    obtain h | ⟨r, ht, hr⟩ := h
    · exact .inl h
    · refine .inr ⟨r, ht, fun htag => ?_⟩
      obtain ⟨hct, hrv, hperms, hbase, htop⟩ := hr htag
      exact ⟨hct, hrv, hperms, hbase, htop⟩
  simp only [List.mem_cons, List.not_mem_nil, or_false] at hi
  obtain rfl | rfl | rfl | rfl | rfl | rfl | rfl | rfl | rfl := hi
  · exact execCap_derives hv hs (show execCsetb gd ga b s = _ from he) fun _ => GVal.inside_csetbResult _ _ _
  · exact execCap_derives hv hs (show execCsetbx gd ga b s = _ from he) fun _ => GVal.inside_csetbResult _ _ _
  · exact execCap_derives hv hs (show execCandp gd ga b s = _ from he) fun _ _ => GVal.inside_masked _ _
  · exact execCap_derives hv hs (show execCinc gd ga b s = _ from he) fun hcv => GVal.inside_moveTo hcv _
  · exact execCap_derives hv hs (show execCseta gd ga b s = _ from he) fun hcv => GVal.inside_moveTo hcv _
  · exact execCap_derives hv hs (show execCclrt gd ga s = _ from he) fun _ h => absurd h Bool.false_ne_true
  · exact execCap_derives hv hs (show execCrel gd ga n s = _ from he) fun hcv h =>
      (GVal.inside_moveTo hcv _ (Bool.and_eq_true_iff.1 h).1).withTag _
  · exact execCseal_derives hv hs he
  · exact execCunseal_derives hv hs he

end Sys2Proof.Machine
end

section
/-! Proof of what a home does with a request and a core with an answer (R34, R71, R187, R269 to R272, R316).

At a home every request comes through `State.atHome`, so each clause is what it does when the core is missing or when its die
accepts, at one message. At a requester each answer is one change of the core in hand. -/

namespace Sys2Proof.Machine

/-! ## Requests at a home -/

section
variable {s : State} {m : MemReq}

theorem State.atHome_missing (h : coreExists s.hand.core = false) (b : MsgBody) (go : State → State) :
    s.atHome m b go = .next (s.refuse m b 1) := by
  simp [State.atHome, h]

theorem State.atHome_accepts (h : coreExists s.hand.core = true) (hg : s.gate s.hand.core m.src = 0) (b : MsgBody)
    (go : State → State) : s.atHome m b go = .next (go s) := by
  simp [State.atHome, h, hg]

/-! ### The home of a missing core (R316) -/

section
variable (h : coreExists s.hand.core = false)
include h

theorem exec_remoteLoadAtHome_missing (hmsg : s.hand.msg = some (.load m)) :
    exec .remoteLoadAtHome s = .next (s.answer m 0 (.data m [] false [] 1)) := by
  show execRemoteLoadAtHome s = _
  rw [execRemoteLoadAtHome, hmsg]
  exact State.atHome_missing h _ _

theorem exec_remoteStoreAtHome_missing {bytes : List Byte} {tag : Option Bool} (hmsg : s.hand.msg = some (.store m bytes tag)) :
    exec .remoteStoreAtHome s = .next (s.answer m 0 (.ack m false true)) := by
  show execRemoteStoreAtHome s = _
  rw [execRemoteStoreAtHome, hmsg]
  exact State.atHome_missing h _ _

theorem exec_atomicAtHome_missing {kind : AtomKind} {x y : Word} (hmsg : s.hand.msg = some (.atomic m kind x y)) :
    exec .atomicAtHome s = .next (s.answer m 0 (.atomicOld m 0 0 1)) := by
  show execAtomicAtHome s = _
  rw [execAtomicAtHome, hmsg]
  exact State.atHome_missing h _ _

end

/-! ### A home that accepts (R269 to R271) -/

/-- The context that an error met by a request of this core is reported to. -/
def State.ctxOfSrc (s : State) (src : Nat) : Option Nat := if src < 8192 then (s.core src).ctx else none

/-- The words that a load brings beside its bytes when it fills the requester's cache. -/
def State.fillWords (s : State) (m : MemReq) : List (Nat × Word) :=
  if m.fill then (wordsOf m.phys m.size).map (fun w => (w, BitVec.ofNat 64 (leNat (s.fillLoad (keyOf (8 * w)) 8 m.af)))) else []

/-- One byte of a write-combining line written at its home: the state, and the longest wait for revokes so far. -/
def MemReq.putByte (m : MemReq) (acc : State × Nat) (b : Nat × Byte) : State × Nat :=
  let r := acc.1.writeHome m.src (keyOf m.phys + b.1) [b.2] none none
  (r.1, max acc.2 r.2)

/-- The tags of a line's granules after a write-combining line has been written, in a core's own memory. -/
def State.tagLine (s : State) (m : MemReq) (gs : List Nat) : State :=
  { s with tags := gs.foldl (fun t g =>
      if offKind s.hand.core (offOf m.phys) ≤ 1 then setAdd t (keyOf m.phys / 16 + g) else t) s.tags }

section
variable (h : coreExists s.hand.core = true) (hg : s.gate s.hand.core m.src = 0)
include h hg

theorem exec_remoteLoadAtHome_accepts (hmsg : s.hand.msg = some (.load m))
    (hread : s.onRead (s.ctxOfSrc m.src) (keyOf m.phys) m.size m.va (s.whois m.src).2 6 0 = (s, none)) :
    exec .remoteLoadAtHome s = .next
      (s.answer m 0 (.data m (s.fillLoad (keyOf m.phys) m.size m.af) (s.tagAt (keyOf m.phys)) (s.fillWords m) 0)) := by
  show execRemoteLoadAtHome s = _
  rw [State.ctxOfSrc] at hread
  rw [execRemoteLoadAtHome, hmsg]
  dsimp only
  rw [State.atHome_accepts h hg, hread]
  rfl

theorem exec_remoteStoreAtHome_accepts {bytes : List Byte} {tag : Option Bool} (hmsg : s.hand.msg = some (.store m bytes tag)) :
    let wrote := s.writeHome m.src (keyOf m.phys) bytes tag (if m.mt = 0 then some m.src else none)
    exec .remoteStoreAtHome s = .next (wrote.1.answer m wrote.2 (.ack m (decide (m.mt = 0)) false)) := by
  show execRemoteStoreAtHome s = _
  rw [execRemoteStoreAtHome, hmsg]
  exact State.atHome_accepts h hg _ _

theorem exec_remoteStoreAtHome_line {l : List (Nat × Byte)} {gs : List Nat} (hmsg : s.hand.msg = some (.wcLine m l gs)) :
    exec .remoteStoreAtHome s = .next
      (((l.foldl m.putByte (s, 0)).1.tagLine m gs).answer m (l.foldl m.putByte (s, 0)).2 (.ack m false false)) := by
  show execRemoteStoreAtHome s = _
  rw [execRemoteStoreAtHome, hmsg]
  exact State.atHome_accepts h hg _ _

theorem exec_atomicAtHome_accepts {kind : AtomKind} {x y : Word} (hmsg : s.hand.msg = some (.atomic m kind x y))
    (hread : s.onRead (s.ctxOfSrc m.src) (keyOf m.phys) m.size m.va (s.whois m.src).2 6 0 = (s, none)) :
    let did := s.atomPerform m.src (keyOf m.phys) m.size m.af kind x.toNat y.toNat
    exec .atomicAtHome s = .next (did.1.answer m did.2.2.2 (.atomicOld m (BitVec.ofNat 64 did.2.1) did.2.2.1 0)) := by
  show execAtomicAtHome s = _
  rw [State.ctxOfSrc] at hread
  rw [execAtomicAtHome, hmsg]
  dsimp only
  rw [State.atHome_accepts h hg, hread]

/-! ### The control window (R71) -/

theorem exec_remoteControlWindowAccess_write {x : Word} (hmsg : s.hand.msg = some (.window m true x))
    (hoff : offOf m.phys < 0x70200) : exec .remoteControlWindowAccess s = .next
      ((s.crWindowWrite s.hand.core ((offOf m.phys - 0x70000) / 8) x.toNat).answer m 0 (.ack m false false)) := by
  show execRemoteControlWindowAccess s = _
  rw [execRemoteControlWindowAccess, hmsg]
  dsimp only
  rw [State.atHome_accepts h hg, if_pos rfl, if_pos hoff]

theorem exec_remoteControlWindowAccess_read {x : Word} (hmsg : s.hand.msg = some (.window m false x))
    (hoff : offOf m.phys < 0x70200) : exec .remoteControlWindowAccess s = .next
      (s.answer m 0 (.data m (leBytes 8 (s.crRead s.hand.core ((offOf m.phys - 0x70000) / 8)).toNat) false [] 0)) := by
  show execRemoteControlWindowAccess s = _
  rw [execRemoteControlWindowAccess, hmsg]
  dsimp only
  rw [State.atHome_accepts h hg, if_neg Bool.false_ne_true, if_pos hoff]

end

end

/-- The home's clauses, each at its message. -/
theorem homeEvents : Statements.HomeEvents := fun _ _ _ _ _ _ _ _ _ =>
  ⟨fun h => ⟨exec_remoteLoadAtHome_missing h, exec_remoteStoreAtHome_missing h, exec_atomicAtHome_missing h⟩,
    fun h hg => ⟨exec_remoteLoadAtHome_accepts h hg, exec_remoteStoreAtHome_accepts h hg, exec_remoteStoreAtHome_line h hg,
      exec_atomicAtHome_accepts h hg, exec_remoteControlWindowAccess_write h hg, exec_remoteControlWindowAccess_read h hg⟩⟩

/-! ## Answers at a requester -/

/-! ### The end of an operation -/

section
variable (k : Core) (clk : Nat) (o : AsyncOp)

theorem Core.opDone_ops : (k.opDone clk o).ops = k.ops.filter (fun x => x.id != o.id) := by
  rw [Core.opDone, Core.slotDec_ops, Core.setFlags_eq]

theorem Core.opDone_g : (k.opDone clk o).g = k.g := by
  rw [Core.opDone, Core.slotDec_g, Core.setFlags_eq]

theorem Core.opDone_landings : (k.opDone clk o).landings = k.landings := by
  rw [Core.opDone, Core.slotDec_landings, Core.setFlags_eq]

theorem Core.slot_opDone (d : DReg) : (k.opDone clk o).slot d = if o.slot = some d then k.slot d - 1 else k.slot d := by
  rw [Core.opDone, Core.slot_slotDec, Core.setFlags_eq]
  rfl

end

/-! ### A load's data (R271) -/

section
variable {s : State} {m : MemReq} {o : AsyncOp} {bytes : List Byte}

/-- The value that a load of data, not of a capability, writes. -/
def MemReq.dataValue (m : MemReq) (bytes : List Byte) : GVal :=
  ⟨if m.sx then BitVec.ofInt 64 (sext (8 * m.size) (leNat bytes)) else BitVec.ofNat 64 (leNat bytes), 0, false⟩

theorem loadValue_data (tag : Bool) (hcap : m.cap = false) :
    loadValue m.size m.sx m.cap m.ldcap tag bytes = m.dataValue bytes := by
  rw [loadValue, hcap, if_neg Bool.false_ne_true, MemReq.dataValue]
  split <;> rfl

section
variable (hfind : s.me.ops.find? (fun q => q.id == m.id) = some o)
include hfind

theorem all_ne_id_of_find : ¬ s.me.ops.all (fun q => q.id != m.id) = true := by
  have hid : o.id = m.id := by simpa using List.find?_some hfind
  rw [List.all_eq_true]
  intro hall
  exact bne_iff_ne.1 (hall o (List.mem_of_find?_eq_some hfind)) hid

theorem State.dataLands_error : s.dataLands m bytes false [] 1 = s.failOp s.hand.core m.id 3 m.va 3 := by
  rw [State.dataLands, if_neg (all_ne_id_of_find hfind), if_pos rfl]

/-- A load's data ends its operation and puts the register's value in flight. -/
theorem State.dataLands_data (hheld : m.wcHeld = []) (hcap : m.cap = false) (hacq : m.acq = false) :
    s.dataLands m bytes false [] 0 = s.modMe (fun k =>
      (k.landOp m.serial (.g (Fin.ofNat 64 m.reg) (m.dataValue bytes))).opDone s.clk o) := by
  have hid : o.id = m.id := by simpa using List.find?_some hfind
  have hfind' : (s.modMe (·.landOp m.serial (.g (Fin.ofNat 64 m.reg) (m.dataValue bytes)))).me.ops.find?
      (fun q => q.id == o.id) = some o := by
    rw [State.me_modMe, hid]
    exact hfind
  have hdone := State.completeOp_of_find hfind'
  rw [State.modMe_modMe, hid] at hdone
  rw [State.dataLands, if_neg (all_ne_id_of_find hfind), if_neg (by decide), if_neg (by decide), hheld, hacq,
    loadValue_data _ hcap]
  show ((s.modMe _).completeOp _ _).modMe (fun k => k) = _
  exact (congrArg (State.modMe · fun k => k) hdone).trans (State.modMe_modMe ..)

end

theorem exec_remoteLoadData {tag : Bool} {words : List (Nat × Word)} {err : Nat}
    (hmsg : s.hand.msg = some (.data m bytes tag words err)) :
    exec .remoteLoadData s = .next (s.dataLands m bytes tag words err) := by
  show execRemoteLoadData s = _
  rw [execRemoteLoadData, hmsg]

end

/-! ### An acknowledgement (R269, R270) -/

/-- Changes of cached words leave every field but the cache. -/
theorem Core.foldl_modWord_eq (f : Word × Bool → Word × Bool) (l : List Nat) : ∀ k : Core,
    ∃ cache, l.foldl (fun k w => k.modWord w f) k = { k with cache := cache } := by
  induction l with
  | nil => exact fun k => ⟨_, rfl⟩
  | cons w l ih =>
    intro k
    obtain ⟨cache, h⟩ := ih (k.modWord w f)
    exact ⟨cache, h⟩

/-- An acknowledgement ends its store: it leaves the list of stores, its column's hold goes, and cached words may change. -/
theorem State.ackLands_store (s : State) {m : MemReq} (own : Bool) (hline : ¬(m.mt = 1 ∧ m.size = 128)) :
    ∃ cache, s.ackLands m own false = s.modMe (fun k => { k with
      stores := k.stores.filter (fun x => x.id != m.id), colHold := k.colHold.filter (fun p => p.2 != m.id),
      cache := cache }) := by
  rw [State.ackLands, if_neg Bool.false_ne_true, if_neg hline]
  cases own with
  | false => exact ⟨s.me.cache, rfl⟩
  | true =>
    obtain ⟨cache, h⟩ := Core.foldl_modWord_eq (fun x => (x.1, true)) (wordsOf m.phys m.size) { s.me with
      stores := s.me.stores.filter (fun x => x.id != m.id), colHold := s.me.colHold.filter (fun p => p.2 != m.id) }
    exact ⟨cache, congrArg s.setMe h⟩

theorem exec_storeAcknowledgement {s : State} {m : MemReq} {own err : Bool} (hmsg : s.hand.msg = some (.ack m own err)) :
    exec .storeAcknowledgement s = .next (s.ackLands m own err) := by
  show execStoreAcknowledgement s = _
  rw [execStoreAcknowledgement, hmsg]

/-! ### A revoke (R270) -/

theorem Core.cacheWord_modWord (k : Core) (w : Nat) (f : Word × Bool → Word × Bool) :
    (k.modWord w f).cacheWord w = (k.cacheWord w).map f := by
  unfold Core.modWord Core.cacheWord
  dsimp only
  induction k.cache with
  | nil => rfl
  | cons p l ih =>
    obtain ⟨i, line⟩ := p
    by_cases hline : line.phys = w / 16
    · cases hget : mapGet line.words w <;> simp [hline, hget]
    · simpa [hline] using ih

theorem Core.sameRegs_modWord (k : Core) (w : Nat) (f : Word × Bool → Word × Bool) : k.SameRegs (k.modWord w f) :=
  Core.sameRegs_of rfl rfl rfl rfl rfl rfl rfl rfl rfl rfl rfl rfl rfl

theorem exec_revoke {s : State} {p : Nat} (hmsg : s.hand.msg = some (.revoke p)) :
    exec .revoke s = .next (s.modMe (fun k => k.modWord (p / 8) (fun x => (x.1, false)))) := by
  show execRevoke s = _
  rw [execRevoke, hmsg]

/-- The requester's clauses: each answer is one change of the core in hand, read off field by field. -/
theorem requesterEvents : Statements.RequesterEvents := by
  intro s m o bytes own p
  refine ⟨fun hmsg hfind hheld hcap hacq => ?_, fun hmsg hfind => ?_, fun hmsg hline => ?_, fun hmsg => ?_⟩
  case refine_1 =>
    have hid : o.id = m.id := by simpa using List.find?_some hfind
    refine ⟨_, (exec_remoteLoadData hmsg).trans (congrArg _ (State.dataLands_data hfind hheld hcap hacq)), ?_, fun z => ?_,
      fun q hq => ?_, fun d hd => ?_, s.sameMem_modMe _⟩
    · rw [State.me_modMe, Core.opDone_landings]
      exact Core.mem_landOp_self ..
    · rw [State.me_modMe]
      exact Core.rg_congr (Core.opDone_g ..) z
    · rw [State.me_modMe, Core.opDone_ops, List.mem_filter] at hq
      simpa [hid] using hq.2
    · rw [State.me_modMe, Core.slot_opDone, if_pos hd]
      rfl
  case refine_2 => rw [exec_remoteLoadData hmsg, State.dataLands_error hfind]
  case refine_3 =>
    obtain ⟨cache, hack⟩ := s.ackLands_store own hline
    refine ⟨_, (exec_storeAcknowledgement hmsg).trans (congrArg _ hack), fun q => ?_, s.sameMem_modMe _, fun z => ?_⟩
    · rw [State.me_modMe, List.mem_filter, bne_iff_ne]
    · rw [State.me_modMe]
      exact Core.rg_congr rfl z
  case refine_4 =>
    refine ⟨_, exec_revoke hmsg, ?_, s.sameMem_modMe _, ?_, fun c hc => s.core_modMe_ne _ hc⟩
    · rw [State.me_modMe, Core.cacheWord_modWord]
    · rw [State.me_modMe]
      exact Core.sameRegs_modWord ..

/-- Settles O36: the clauses of the home and those of the requester. -/
theorem remoteMemory : Obligations.RemoteMemory := ⟨homeEvents, requesterEvents⟩

end Sys2Proof.Machine
end

section

/-! Proof layer: a vector instruction between registers, its elements and its two forms of landing (R99, R100, R199). -/

namespace Sys2Proof.Machine

/-! ## Lists of elements -/

theorem zipIdx_map_range {α : Type} (n : Nat) (g : Nat → α) :
    ((List.range n).map g).zipIdx = (List.range n).map (fun i => (g i, i)) := by
  refine List.ext_getElem (by simp) fun i h _ => ?_
  simp

theorem IsElemental.width_pos {f : Fmt} (h : IsElemental f) : 0 < fmtWidth f := by
  obtain ⟨h0, h1⟩ := h
  cases f <;> simp_all [fmtWidth]

theorem IsElemental.count_eq {f : Fmt} (h : IsElemental f) : fmtCount f = 1024 / fmtWidth f := by
  obtain ⟨h0, h1⟩ := h
  cases f <;> simp_all [fmtWidth, fmtCount]

theorem IsElemental.elems_eq {f : Fmt} (h : IsElemental f) (b : VBits) :
    elems b (fmtWidth f) = (List.range (fmtCount f)).map (elemAt b (fmtWidth f)) := by
  rw [elems, if_neg h.width_pos.ne', h.count_eq]

theorem getD_map_range {α : Type} {n i : Nat} (hi : i < n) (g : Nat → α) (x : α) : ((List.range n).map g).getD i x = g i := by
  simp [hi]

theorem IsElemental.elemAbsent_eq {f : Fmt} (h : IsElemental f) (x : Nat) : elemAbsent f x = (x == absentCode f) := by
  simp [elemAbsent, h.1, h.2]

theorem packElems_zeros (w n : Nat) : packElems w ((List.range n).map fun _ => 0) = 0 := by
  have key : ∀ l : List Nat, (∀ x ∈ l, x = 0) → l.foldr (fun x acc => x % 2 ^ w + acc * 2 ^ w) 0 = 0 := by
    intro l
    induction l with
    | nil => intro _; rfl
    | cons x l ih => intro hx; simp [hx x (by simp), ih fun y hy => hx y (by simp [hy])]
  rw [packElems, key _ (by simp)]
  rfl

theorem packElems_congr (w n : Nat) {g g' : Nat → Nat} (h : ∀ i < n, g i = g' i) :
    packElems w ((List.range n).map g) = packElems w ((List.range n).map g') := by
  rw [List.map_congr_left fun i hi => h i (List.mem_range.1 hi)]

/-! ## Masks and results in registers -/

theorem keepBits_eq (w n : Nat) (m : Option VBits) (policy : Bool) : keepBits w n m policy =
    packElems w ((List.range n).map (fun i => if maskOn m i ∨ policy then 0 else 2 ^ w - 1)) := by
  cases m with
  | none => simp only [keepBits, maskOn, true_or, if_true, packElems_zeros]
  | some b =>
    cases policy
    · simp [keepBits, maskOn]
    · simp only [keepBits, or_true, if_true, packElems_zeros]

theorem maskElems_map_range (f : Fmt) (m : Option VBits) (n : Nat) (g : Nat → Nat) : maskElems f m ((List.range n).map g) =
    (List.range n).map (fun i => if maskOn m i then g i else absentCode f) := by
  cases m with
  | none => simp [maskElems, maskOn]
  | some b =>
    rw [maskElems, zipIdx_map_range, List.map_map]
    rfl

theorem State.vWrite_eq_putV (s : State) (d : VReg) (f : Fmt) (m : Option VBits) (policy : Bool) (g : Nat → Nat) :
    s.vWrite d f m policy ((List.range (fmtCount f)).map g) = s.putV d f policy m g := by
  simp only [State.vWrite, State.putV, maskElems_map_range, keepBits_eq, List.length_map, List.length_range]

theorem State.vWriteMask_eq_putMask (s : State) (d : VReg) (n : Nat) (m : Option VBits) (policy : Bool) (p : Nat → Bool) :
    s.vWriteMask d m policy ((List.range n).map p) = s.putMask d n policy m p := by
  simp only [State.vWriteMask, State.putMask, zipIdx_map_range, keepBits_eq, List.length_map, List.length_range, List.map_map]
  congr 3
  · funext i
    simp [Bool.and_comm]

theorem maskFlags_eq_flagsOn (m : Option VBits) (n : Nat) (g : Nat → Nat) :
    maskFlags m ((List.range n).map g) = flagsOn n m g := by
  rw [maskFlags, zipIdx_map_range, List.foldl_map]
  rfl

theorem flagsOn_zero (n : Nat) (m : Option VBits) : flagsOn n m (fun _ => 0) = 0 := by
  simp [flagsOn]

/-! ## Operands in registers -/

theorem State.maskOf_masked {s : State} {m : Option VBits} (h : s.Masked m) : s.maskOf = .ok (s, m, 0) := by
  unfold State.Masked at h
  unfold State.maskOf
  split at h
  · obtain ⟨hf, he, hm⟩ := h
    simp_all [flagIf]
  · simp_all

theorem State.vOperand_register {s : State} {f : Fmt} {r : VReg} (hf : (s.me.rv r).fmt = f) (he : s.me.vExpired r = false)
    (field : Nat) : s.vOperand f field (.v r) = .ok (s, elems (s.me.rv r).bits (fmtWidth f), StepOut.empty) := by
  simp [State.vOperand, hf, he, flagIf, StepOut.empty]

/-- A register that may be read in a format. -/
def State.Reads (s : State) (f : Fmt) (r : VReg) : Prop := (s.me.rv r).fmt = f ∧ s.me.vExpired r = false

/-- Register operands with their fields. -/
def regOperands (l : List (Nat × VReg)) : List (Nat × VSM) := l.map (fun p => (p.1, .v p.2))

theorem State.vOperands_registers {s : State} {f : Fmt} (l : List (Nat × VReg)) (h : ∀ p ∈ l, s.Reads f p.2) :
    s.vOperands f (regOperands l) = .ok (s, l.map (fun p => elems (s.me.rv p.2).bits (fmtWidth f)), StepOut.empty) := by
  induction l with
  | nil => rfl
  | cons p l ih =>
    obtain ⟨hf, he⟩ := h p (by simp)
    have ih := ih fun q hq => h q (by simp [hq])
    rw [regOperands] at ih
    simp [regOperands, State.vOperands, State.vOperand_register hf he, ih, StepOut.join, StepOut.empty]

theorem vregsOf_registers (l : List (Nat × VReg)) : vregsOf ((regOperands l).map (·.2)) = l.map (·.2) := by
  simp [vregsOf, regOperands, List.filterMap_map, Function.comp_def]

theorem State.refreshBusy_of_subset {s : State} {l l' : List VReg} (hl : l ⊆ l') (h : s.refreshBusy l' = false) :
    s.refreshBusy l = false := by
  have hany : ∀ {k k' : List VReg}, k ⊆ k' → k'.any s.me.refreshing = false → k.any s.me.refreshing = false :=
    fun hk h => List.any_eq_false.2 fun r hr => List.any_eq_false.1 h r (hk hr)
  unfold State.refreshBusy at h ⊢
  cases hg : s.head.guard with
  | elem v =>
    rw [hg] at h
    exact hany (List.cons_subset_cons v hl) h
  | always | ifQ _ | ifNotQ _ =>
    rw [hg] at h
    exact hany hl h

/-! ## Instructions of one step -/

theorem Core.clearWatchSkip_of_clear {k : Core} (h : ∀ i, i < 4 → k.cf (0x021 + 2 * i) 61 1 = 0) : k.clearWatchSkip = k := by
  have h0 := h 0; have h1 := h 1; have h2 := h 2; have h3 := h 3
  show List.foldl _ k [0, 1, 2, 3] = k
  simp_all [List.foldl]

/-- What a step of an instruction makes that reads and writes registers alone: what lands with its result, what lands in the next
vc, its flags. -/
def StepOut.registers (ws nx : List Wr) (fl : Nat) : StepOut := { StepOut.empty with wrs := ws, next := nx, flags := fl }

/-- The core after the issue of such an instruction. -/
def Core.issueStep (k : Core) (clk : Nat) (e : QEntry) (col lat occ fl : Nat) (ws nx : List Wr) : Core :=
  let k := nx.foldl (fun k w => k.landAt e.serial 1 w) (((k.slotInc clk e.head.set).occupy col occ).addFlags e.serial fl)
  (k.qVisible e.serial (k.vcc + lat + 1)).land e.serial lat e.head.set ws

theorem Core.useBanks_none {k : Core} {o : StepOut} (hr : o.reads = []) (hp : o.puts = []) (col lat pen : Nat) :
    k.useBanks col lat pen o = k := by
  simp [Core.useBanks, hr, hp]

theorem State.modMe_congr {s : State} {f g : Core → Core} (h : f s.me = g s.me) : s.modMe f = s.modMe g := by
  rw [State.modMe_eq, State.modMe_eq, h]

theorem State.vOne_registers {s : State} {col lat occ fl : Nat} {step : State → VRes StepOut} {ws nx : List Wr}
    (hcol : col ≠ colX) (hskip : ∀ i, i < 4 → s.me.cf (0x021 + 2 * i) 61 1 = 0)
    (hstep : step s = .ok (s, StepOut.registers ws nx fl)) :
    s.vOne col lat occ step = s.modMe (fun k => k.issueStep s.clk s.ent col lat occ fl ws nx) := by
  have hpen : (StepOut.registers ws nx fl).penalty = 0 := rfl
  have hdefer : s.me.deferOf col (StepOut.registers ws nx fl) = 0 := by simp [StepOut.registers, StepOut.empty, Core.deferOf]
  have hwait : (StepOut.registers ws nx fl).wait = 0 := rfl
  simp only [State.vOne, hstep, hwait, State.waitClk, if_true, hdefer, State.served, hpen, Core.allow, Nat.add_zero,
    State.stepLands, State.modMe_modMe, State.ent_modMe, State.head_modMe]
  refine State.modMe_congr ?_
  have hclear : ((s.me.slotInc s.clk s.head.set).occupy col occ).clearWatchSkip = (s.me.slotInc s.clk s.head.set).occupy col occ :=
    Core.clearWatchSkip_of_clear (by simpa [Core.cf, Core.cv] using hskip)
  simp only [hclear, Core.useBanks_none (o := StepOut.registers ws nx fl) rfl rfl]
  rw [List.map_id'' (fun w => by cases w <;> simp [hcol])]
  rfl

/-- An issue without writes in the next vc is that of an instruction of fixed latency. -/
theorem State.modMe_issueStep_nil (s : State) (col lat occ fl : Nat) (ws : List Wr) :
    s.modMe (fun k => k.issueStep s.clk s.ent col lat occ fl ws []) = s.issue col lat occ fl ws := by
  unfold State.issue
  refine State.modMe_congr ?_
  simp [Core.issueStep]

theorem State.vOne_eq_issue {s : State} {col lat occ fl : Nat} {step : State → VRes StepOut} {ws : List Wr}
    (hcol : col ≠ colX) (hskip : ∀ i, i < 4 → s.me.cf (0x021 + 2 * i) 61 1 = 0)
    (hstep : step s = .ok (s, StepOut.registers ws [] fl)) : s.vOne col lat occ step = s.issue col lat occ fl ws :=
  (State.vOne_registers hcol hskip hstep).trans (s.modMe_issueStep_nil ..)

/-- An instruction of one step that may issue. -/
theorem State.vSteps_eq_issue {s : State} {col lat fl : Nat} {f : VFn} {srcs ops : List VSM} {regs rd : List VReg}
    {step : State → VRes StepOut} {ws : List Wr} (hready : s.VReady regs rd) (hcol : col ≠ colX) (hstream : f.stream = false)
    (hsrcs : vregsOf srcs ⊆ regs) (hstep : step s = .ok (s, StepOut.registers ws [] fl)) :
    s.vSteps col lat f srcs ops step = .next (s.issue col lat 1 fl ws) := by
  rw [State.vSteps, State.vGuarded_ready hready.runs _ _ _ _ (State.refreshBusy_of_subset hsrcs hready.refresh)]
  simp only [hstream]
  exact congrArg _ (State.vOne_eq_issue hcol hready.skips hstep)

/-- The results of an element function, element by element. -/
def State.results (s : State) (f : Fmt) (l : List (Nat × VReg)) {α : Type} (fn : List Nat → α) (i : Nat) : α :=
  fn (l.map (fun p => s.me.elem f p.2 i))

theorem State.map_results {s : State} {f : Fmt} (h : IsElemental f) (l : List (Nat × VReg)) {α : Type} (fn : List Nat → α) :
    (List.range (fmtCount f)).map (fun i => fn ((l.map (fun p => elems (s.me.rv p.2).bits (fmtWidth f))).map (fun x => x.getD i 0))) =
      (List.range (fmtCount f)).map (s.results f l fn) := by
  refine List.map_congr_left fun i hi => congrArg fn ?_
  rw [List.map_map]
  refine List.map_congr_left fun p _ => ?_
  simp only [Function.comp, h.elems_eq]
  exact getD_map_range (List.mem_range.1 hi) _ _

section
variable {s : State} {f : VFn} {l : List (Nat × VReg)} {m : Option VBits}

/-- A step of an element-wise instruction from registers to a register. -/
theorem State.vMap_registers (hmask : s.Masked m) (h : IsElemental f.fmt) (hl : ∀ p ∈ l, s.Reads f.fmt p.2) (d : VReg)
    (fn : List Nat → Nat × Nat) : s.vMap f (.v d) (regOperands l) fn = .ok (s, StepOut.registers
      [s.putV d f.fmt f.policy m (fun i => (s.results f.fmt l fn i).1)] []
      (flagsOn (fmtCount f.fmt) m (fun i => (s.results f.fmt l fn i).2))) := by
  simp only [State.vMap, State.maskOf_masked hmask, State.vOperands_registers l hl, bind, Except.bind, State.map_results h, pure,
    Except.pure, State.vPlace, StepOut.empty, ite_self, StepOut.join, List.nil_append, Nat.zero_or, Nat.or_zero]
  simp only [List.map_map, State.vWrite_eq_putV, maskFlags_eq_flagsOn]
  rfl

/-- A step of an instruction from registers to a MASK register. -/
theorem State.vMapMask_registers (hmask : s.Masked m) (h : IsElemental f.fmt) (hl : ∀ p ∈ l, s.Reads f.fmt p.2) (d : VReg)
    (fn : List Nat → Bool × Nat) : s.vMapMask f d (regOperands l) fn = .ok (s, StepOut.registers
      [s.putMask d (fmtCount f.fmt) f.policy m (fun i => (s.results f.fmt l fn i).1)] []
      (flagsOn (fmtCount f.fmt) m (fun i => (s.results f.fmt l fn i).2))) := by
  simp only [State.vMapMask, State.maskOf_masked hmask, State.vOperands_registers l hl, bind, Except.bind, State.map_results h, pure,
    Except.pure, StepOut.empty, Nat.zero_or, Nat.or_zero]
  simp only [List.map_map, State.vWriteMask_eq_putMask, maskFlags_eq_flagsOn]
  rfl

variable {R S : List VReg}

theorem State.VReady.reads (h : s.VReady R S) {f : Fmt} {r : VReg} (hr : r ∈ S) (hf : (s.me.rv r).fmt = f) : s.Reads f r :=
  ⟨hf, h.fresh r hr⟩

/-- An element-wise instruction from registers to a register, whose element function answers `r`. -/
theorem execMap_registers {col lat : Nat} (hready : s.VReady R S) (hmask : s.Masked m) (hstream : f.stream = false)
    (h : IsElemental f.fmt) (hcol : col ≠ colX) (hR : l.map (·.2) ⊆ R) (hl : ∀ p ∈ l, s.Reads f.fmt p.2) (d : VReg)
    {fn : List Nat → Nat × Nat} {r : Nat → Nat × Nat} (hr : ∀ i, s.results f.fmt l fn i = r i) :
    execMap col lat f (.v d) (regOperands l) fn s = .next (s.issue col lat 1
      (flagsOn (fmtCount f.fmt) m (fun i => (r i).2)) [s.putV d f.fmt f.policy m (fun i => (r i).1)]) := by
  obtain rfl : s.results f.fmt l fn = r := funext hr
  exact State.vSteps_eq_issue hready hcol hstream (by rwa [vregsOf_registers]) (State.vMap_registers hmask h hl d fn)

end

end Sys2Proof.Machine
end

section

/-! Proof of the element-wise arithmetic between registers (R99, R102, R199, R200). -/

namespace Sys2Proof.Machine

theorem readElem_absentCode {f : Fmt} (h : IsElemental f) : readElem f (absentCode f) = .absent := by
  obtain ⟨h0, h1⟩ := h
  cases f
  case noFmt | mask => contradiction
  all_goals rfl

theorem sigFlags_pair (x y : Num) : sigFlags [x, y] = x.sigFlag ||| y.sigFlag := by
  simp [sigFlags]

section
variable {f : VFn} (h : IsElemental f.fmt)
include h

theorem vArith2_eq (op : Num → Num → Num × Nat) (x y : Nat) : vArith2 f op [x, y] =
    if x = absentCode f.fmt ∧ y = absentCode f.fmt then (absentCode f.fmt, 0)
    else if x = absentCode f.fmt then (if f.pass then y else absentCode f.fmt, (readElem f.fmt y).sigFlag)
    else if y = absentCode f.fmt then (if f.pass then x else absentCode f.fmt, (readElem f.fmt x).sigFlag)
    else vRound f (op (readElem f.fmt x) (readElem f.fmt y)) := by
  have hsig : (readElem f.fmt (absentCode f.fmt)).sigFlag = 0 := by rw [readElem_absentCode h]; rfl
  simp only [vArith2, h.elemAbsent_eq, sigFlags_pair]
  by_cases hx : x = absentCode f.fmt <;> by_cases hy : y = absentCode f.fmt
  · simp [hx, hy]
  · simp [beq_eq_false_iff_ne.2 hy, hx, hy, hsig]
  · simp [beq_eq_false_iff_ne.2 hx, hx, hy, hsig]
  · simp [beq_eq_false_iff_ne.2 hx, beq_eq_false_iff_ne.2 hy, hx, hy]

theorem vSign_eq (neg : Bool) (x : Nat) : vSign f.fmt neg x = if x = absentCode f.fmt then (absentCode f.fmt, 0)
    else ((writeElem f.fmt false false (if neg then (readElem f.fmt x).negate else match readElem f.fmt x with
      | .inf _ => .inf false
      | .fin _ n d => .fin false n d
      | y => y)).1, (readElem f.fmt x).sigFlag) := by
  unfold vSign
  exact if_congr (by rw [h.elemAbsent_eq, beq_iff_eq]) rfl rfl

theorem vFused_eq (sub : Bool) (x y z : Nat) :
    let c := if sub then vSign f.fmt true z else (z, 0)
    let r : Nat × Nat :=
      if x ≠ absentCode f.fmt ∧ y ≠ absentCode f.fmt then
        if c.1 ≠ absentCode f.fmt then vRound f (numFma (readElem f.fmt x) (readElem f.fmt y) (readElem f.fmt c.1))
        else if f.pass then vRound f (numMul (readElem f.fmt x) (readElem f.fmt y)) else (absentCode f.fmt, 0)
      else (if f.pass then c.1 else absentCode f.fmt, 0)
    vFused f sub [x, y, z] = (r.1, r.2 ||| (c.2 ||| (readElem f.fmt x).sigFlag ||| (readElem f.fmt y).sigFlag |||
      (readElem f.fmt c.1).sigFlag)) := by
  intro c r
  have hsig : ∀ u v w : Num, sigFlags [u, v, w] = u.sigFlag ||| v.sigFlag ||| w.sigFlag := by simp [sigFlags]
  have hmodel : vFused f sub [x, y, z] =
      let p : Nat × Nat := if (!elemAbsent f.fmt x && !elemAbsent f.fmt y) && !elemAbsent f.fmt c.1 then
          vRound f (numFma (readElem f.fmt x) (readElem f.fmt y) (readElem f.fmt c.1))
        else if f.pass && (!elemAbsent f.fmt x && !elemAbsent f.fmt y) then vRound f (numMul (readElem f.fmt x) (readElem f.fmt y))
        else (if f.pass && !elemAbsent f.fmt c.1 then c.1 else absentCode f.fmt, 0)
      (p.1, p.2 ||| (c.2 ||| sigFlags [readElem f.fmt x, readElem f.fmt y, readElem f.fmt c.1])) := rfl
  have hr : (if (!elemAbsent f.fmt x && !elemAbsent f.fmt y) && !elemAbsent f.fmt c.1 then
        vRound f (numFma (readElem f.fmt x) (readElem f.fmt y) (readElem f.fmt c.1))
      else if f.pass && (!elemAbsent f.fmt x && !elemAbsent f.fmt y) then vRound f (numMul (readElem f.fmt x) (readElem f.fmt y))
      else (if f.pass && !elemAbsent f.fmt c.1 then c.1 else absentCode f.fmt, 0)) = r := by
    by_cases hprod : x ≠ absentCode f.fmt ∧ y ≠ absentCode f.fmt <;> by_cases hc : c.1 = absentCode f.fmt <;>
      cases hpass : f.pass <;> simp_all [r, h.elemAbsent_eq]
  rw [hmodel]
  simp only [hr, hsig, Nat.or_assoc]

end

/-- Settles O6: each instruction issues with the results of its element function on register operands, and that function is the
statement's. What a NaN becomes in VFMS's negated addend and beside an infinity times zero is the model's choice (log entry 31). -/
theorem vectorArithmetic : Obligations.VectorArithmetic := by
  intro s f d a b m hready hmask hstream h hd ha hb none_ e round two sign fused magnitude put
  have hread : ∀ p ∈ [(4, a), (5, b), (3, d)], s.Reads f.fmt p.2 := by
    simp only [List.forall_mem_cons, List.not_mem_nil, false_implies, implies_true, and_true]
    exact ⟨hready.reads (by simp) ha, hready.reads (by simp) hb, hready.reads (by simp) hd⟩
  have hvec : ∀ (l : List (Nat × VReg)) (fn : List Nat → Nat × Nat) (r : Nat → Nat × Nat), l ⊆ [(4, a), (5, b), (3, d)] →
      (∀ i, s.results f.fmt l fn i = r i) → execMap colV 4 f (.v d) (regOperands l) fn s = .next (put r) := fun l fn r hl hr =>
    execMap_registers hready hmask hstream h (by decide)
      (List.Subset.trans (List.map_subset _ hl) (by simp)) (fun p hp => hread p (hl hp)) d hr
  have htwo : ∀ op, execMap colV 4 f (.v d) [(4, .v a), (5, .v b)] (vArith2 f op) s = .next (put (two op)) := fun op =>
    hvec [(4, a), (5, b)] _ _ (by simp) fun i => vArith2_eq h op _ _
  have hfused : ∀ neg, execMap colV 4 f (.v d) [(4, .v a), (5, .v b), (3, .v d)] (vFused f neg) s = .next (put (fused neg)) := fun neg =>
    hvec [(4, a), (5, b), (3, d)] _ _ (by simp) fun i => by
      have hneg : vSign f.fmt true (e d i) = sign Machine.Num.negate (e d i) := vSign_eq h true _
      refine (vFused_eq h neg _ _ _).trans ?_
      simp only [fused, ← hneg]
      rfl
  have hsign : ∀ (neg : Bool) (g : Machine.Num → Machine.Num), (∀ x, vSign f.fmt neg x = sign g x) →
      execMap colV 4 f (.v d) [(4, .v a)] (on1 (vSign f.fmt neg)) s = .next (put (fun i => sign g (e a i))) := fun neg g hg =>
    hvec [(4, a)] _ _ (by simp) fun i => hg _
  exact ⟨htwo _, htwo _, htwo _, htwo _, htwo _, hfused false, hfused true, hsign false magnitude (vSign_eq h false),
    hsign true Machine.Num.negate (vSign_eq h true)⟩

end Sys2Proof.Machine
end

section

/-! Proof of the vector logic and shifts (R201). -/

namespace Sys2Proof.Machine

/-! ## Elements as bit vectors -/

theorem Core.elem_lt (k : Core) (f : Fmt) (r : VReg) (i : Nat) : k.elem f r i < 2 ^ fmtWidth f :=
  Nat.mod_lt _ (by positivity)

theorem Core.toNat_ofNat_elem (k : Core) (f : Fmt) (r : VReg) (i : Nat) :
    (BitVec.ofNat (fmtWidth f) (k.elem f r i)).toNat = k.elem f r i :=
  Nat.mod_eq_of_lt (k.elem_lt f r i)

theorem sext_toNat {w : Nat} (hw : 0 < w) (x : BitVec w) : sext w x.toNat = x.toInt := by
  obtain ⟨v, rfl⟩ : ∃ v, w = v + 1 := ⟨w - 1, by omega⟩
  rw [sext, BitVec.toInt_eq_toNat_cond, Nat.mod_eq_of_lt x.isLt, Nat.add_sub_cancel, pow_succ]
  split <;> split <;> omega

theorem shiftElem_left {w : Nat} (x : BitVec w) (n : Nat) : shiftElem w true false x.toNat n = (x <<< n).toNat := by
  simp [shiftElem, Nat.shiftLeft_eq]

theorem shiftElem_right {w : Nat} (x : BitVec w) (n : Nat) : shiftElem w false false x.toNat n = (x >>> n).toNat := by
  simp [shiftElem, Nat.shiftRight_eq_div_pow]

theorem shiftElem_arith {w : Nat} (hw : 0 < w) (x : BitVec w) (n : Nat) :
    shiftElem w false true x.toNat n = (x.sshiftRight n).toNat := by
  simp [shiftElem, sext_toNat hw, wrap, BitVec.sshiftRight, Int.shiftRight_eq_div_pow]

/-- R201: each bitwise instruction and shift answers the pattern that the bit-vector operation gives. -/
theorem vectorBits : Statements.VectorBits := by
  intro s f d a b m k hready hmask hstream h ha hb _ w x y put
  have hx : ∀ i, (x i).toNat = s.me.elem f.fmt a i := s.me.toNat_ofNat_elem f.fmt a
  have hy : ∀ i, (y i).toNat = s.me.elem f.fmt b i := s.me.toNat_ofNat_elem f.fmt b
  have hread : ∀ p ∈ [(4, a), (5, b)], s.Reads f.fmt p.2 := by
    simp only [List.forall_mem_cons, List.not_mem_nil, false_implies, implies_true, and_true]
    exact ⟨hready.reads (by simp) ha, hready.reads (by simp) hb⟩
  have hvec : ∀ (l : List (Nat × VReg)) (fn : List Nat → Nat × Nat) (r : Nat → BitVec w), l ⊆ [(4, a), (5, b)] →
      (∀ i, s.results f.fmt l fn i = ((r i).toNat, 0)) → execMap colV 1 f (.v d) (regOperands l) fn s = .next (put r) := by
    intro l fn r hl hr
    have := execMap_registers (lat := 1) hready hmask hstream h (show colV ≠ colX by decide)
      (List.Subset.trans (List.map_subset _ hl) (by simp)) (fun p hp => hread p (hl hp)) d hr
    rwa [flagsOn_zero] at this
  have hpair : ∀ (op : Nat → Nat → Nat) (r : Nat → BitVec w), (∀ i, op (x i).toNat (y i).toNat = (r i).toNat) →
      execMap colV 1 f (.v d) [(4, .v a), (5, .v b)] (on2 op) s = .next (put r) := fun op r hr =>
    hvec [(4, a), (5, b)] _ r (by simp) fun i => by rw [← hr, hx, hy]; rfl
  have hone : ∀ (op : Nat → Nat) (r : Nat → BitVec w), (∀ i, op (x i).toNat = (r i).toNat) →
      execMap colV 1 f (.v d) [(4, .v a)] (on1 fun x => (op x, 0)) s = .next (put r) := fun op r hr =>
    hvec [(4, a)] _ r (by simp) fun i => by rw [← hr, hx]; rfl
  exact ⟨hpair _ _ fun i => rfl, hpair _ _ fun i => rfl, hpair _ _ fun i => rfl, hone _ _ fun i => (BitVec.toNat_not ..).symm,
    hpair _ _ fun i => shiftElem_left _ _, hpair _ _ fun i => shiftElem_right _ _, hpair _ _ fun i => shiftElem_arith h.width_pos _ _,
    hone _ _ fun i => shiftElem_left _ _, hone _ _ fun i => shiftElem_right _ _, hone _ _ fun i => shiftElem_arith h.width_pos _ _⟩

end Sys2Proof.Machine
end

section

/-! Proof of the vector comparisons and presence (R202, R203). -/

namespace Sys2Proof.Machine

theorem State.putV_congr (s : State) (d : VReg) {f : Fmt} (policy : Bool) (m : Option VBits) {g g' : Nat → Nat}
    (hg : ∀ i, i < fmtCount f → g i = g' i) : s.putV d f policy m g = s.putV d f policy m g' := by
  simp only [State.putV]
  rw [packElems_congr _ _ fun i hi => by rw [hg i hi]]

/-! ## What reads as absent -/

theorem FloatSpec.isAbsent_read (f : FloatSpec) (x : Nat) : (f.read x).isAbsent = (x == f.absent) := by
  unfold FloatSpec.read
  by_cases h : x = f.absent
  · simp [h, Num.isAbsent]
  · rw [if_neg h, beq_eq_false_iff_ne.2 h]
    dsimp only
    split_ifs <;> rfl

theorem intRead_isAbsent {w x : Nat} (hx : x < 2 ^ w) : (intRead w x).isAbsent = (x == 2 ^ (w - 1)) := by
  unfold intRead
  rw [Nat.mod_eq_of_lt hx]
  by_cases h : x = 2 ^ (w - 1)
  · simp [h, Num.isAbsent]
  · simp [h, Num.isAbsent]

theorem l16Read_isAbsent (x : Nat) : (l16Read x).isAbsent = (x == 0xC000) := by
  unfold l16Read
  by_cases hz : x = 0x4000
  · subst hz
    rfl
  by_cases h : x = 0xC000 <;> simp [hz, h, Num.isAbsent]

/-- An element reads as absent just when it is the absent code of its format (R79). -/
theorem IsElemental.isAbsent_readElem {f : Fmt} (h : IsElemental f) {x : Nat} (hx : x < 2 ^ fmtWidth f) :
    (readElem f x).isAbsent = (x == absentCode f) := by
  obtain ⟨h0, h1⟩ := h
  cases f
  case noFmt | mask => contradiction
  case f32 | bf16 | f16 | f8 | f8w => exact FloatSpec.isAbsent_read _ x
  case i64 | i32 | i16 | i8 => exact intRead_isAbsent hx
  case l16 => exact l16Read_isAbsent x

/-! ## Comparison, selection and presence -/

section
variable {s : State} {f : VFn} {m : Option VBits} {R S : List VReg}

theorem State.vOperand_elements {r : VReg} (h : IsElemental f.fmt) (hr : s.Reads f.fmt r) (field : Nat) :
    s.vOperand f.fmt field (.v r) = .ok (s, (List.range (fmtCount f.fmt)).map (s.me.elem f.fmt r), StepOut.empty) := by
  rw [State.vOperand_register hr.1 hr.2, h.elems_eq]
  rfl

theorem State.maskReg_reads {r : VReg} (hr : s.Reads .mask r) (field : Nat) :
    s.maskReg field r = .ok (s, (s.me.rv r).bits, 0) := by
  simp [State.maskReg, hr.1, hr.2, flagIf]

/-- An instruction from registers to a MASK register, whose element function answers `r`. -/
theorem State.vSteps_vMapMask {l : List (Nat × VReg)} {lat : Nat} {ops : List VSM} (hready : s.VReady R S) (hmask : s.Masked m)
    (hstream : f.stream = false) (h : IsElemental f.fmt) (hR : l.map (·.2) ⊆ R) (hl : ∀ p ∈ l, s.Reads f.fmt p.2) (d : VReg)
    {fn : List Nat → Bool × Nat} {r : Nat → Bool × Nat} (hr : ∀ i, s.results f.fmt l fn i = r i) :
    s.vSteps colV lat f ((regOperands l).map (·.2)) ops (fun s => s.vMapMask f d (regOperands l) fn) = .next (s.issue colV lat 1
      (flagsOn (fmtCount f.fmt) m (fun i => (r i).2)) [s.putMask d (fmtCount f.fmt) f.policy m (fun i => (r i).1)]) := by
  obtain rfl : s.results f.fmt l fn = r := funext hr
  exact State.vSteps_eq_issue hready (by decide) hstream (by rwa [vregsOf_registers]) (State.vMapMask_registers hmask h hl d fn)

theorem numEq_comm (x y : Num) : numEq x y = numEq y x := by
  cases x <;> cases y <;> simp only [numEq, Bool.and_comm, Bool.beq_comm]

/-- The condition that VCMP tests on two numbers (R202). -/
def vCondition (c : Nat) (x y : Num) : Bool :=
  let u := x.isNan || y.isNan
  match c with
  | 0 => !u && numEq x y
  | 1 => !u && numLt x y
  | 2 => !u && (numLt x y || numEq x y)
  | 3 => u
  | 4 => !u && !numEq x y
  | 5 => !u && numLt y x
  | _ => !u && (numLt y x || numEq y x)

theorem vCompare_eq (h : IsElemental f.fmt) (c : Nat) {x y : Nat} (hx : x < 2 ^ fmtWidth f.fmt) (hy : y < 2 ^ fmtWidth f.fmt) :
    vCompare f.fmt c [x, y] =
      (x != absentCode f.fmt && y != absentCode f.fmt && vCondition c (readElem f.fmt x) (readElem f.fmt y),
        (readElem f.fmt x).sigFlag ||| (readElem f.fmt y).sigFlag) := by
  have hmodel : vCompare f.fmt c [x, y] = (vCondition c (readElem f.fmt x) (readElem f.fmt y) && !(readElem f.fmt x).isAbsent &&
      !(readElem f.fmt y).isAbsent, (readElem f.fmt x).sigFlag ||| (readElem f.fmt y).sigFlag) := by
    unfold vCondition
    rw [numEq_comm (readElem f.fmt y)]
    rfl
  rw [hmodel, h.isAbsent_readElem hx, h.isAbsent_readElem hy, Bool.and_assoc, Bool.and_comm]
  rfl

theorem countP_zipIdx_map_range (n : Nat) (g : Nat → Nat) (p : Nat × Nat → Bool) :
    (((List.range n).map g).zipIdx).countP p = (List.range n).countP (fun i => p (g i, i)) := by
  rw [zipIdx_map_range, List.countP_map]
  rfl

theorem vectorComparePresence : Statements.VectorComparePresence := by
  intro s f d a b gd m c hready hmask hstream h ha hc n p x test
  have hra := hready.reads (r := a) (by simp) ha
  have hspec : fld (c + 16 * b.val) 0 4 = c := by simp only [fld]; omega
  have hb : Fin.ofNat 32 (fld (c + 16 * b.val) 4 5) = b := by ext; simp only [fld, Fin.ofNat]; omega
  refine ⟨fun hfb => ?_, ?_, fun hfb => ?_, ?_⟩
  case refine_1 =>
    have hrb := hready.reads (r := b) (by simp) hfb
    have hread : ∀ p ∈ [(4, a), (5, b)], s.Reads f.fmt p.2 := by simp [hra, hrb]
    constructor
    · show execVcmp f d (.v a) (c + 16 * b.val) s = _
      simp only [execVcmp, hspec, hb]
      refine State.vSteps_vMapMask (l := [(4, a), (5, b)]) hready hmask hstream h (by simp) hread d
        (r := fun i => (p a i && p b i && test i, (x a i).sigFlag ||| (x b i).sigFlag)) fun i => ?_
      exact vCompare_eq h c (s.me.elem_lt ..) (s.me.elem_lt ..)
    · refine State.vSteps_eq_issue hready (by decide) hstream (by simp [vregsOf]) ?_
      simp only [State.maskOf_masked hmask, State.vOperands, State.vOperand_elements h hra, State.vOperand_elements h hrb, bind,
        Except.bind, State.vPlace, pure, Except.pure, State.vWrite_eq_putV]
      rw [State.putV_congr s d false none fun i hi => ?_]
      · rfl
      · cases maskOn m i
        · exact getD_map_range hi _ _
        · exact getD_map_range hi _ _
  case refine_2 =>
    have := State.vSteps_vMapMask (l := [(4, a)]) (lat := 1) (ops := [.v a]) hready hmask hstream h (by simp) (by simp [hra]) d
      (fn := fun l => (!elemAbsent f.fmt (l.getD 0 0), 0)) (r := fun i => (p a i, 0))
      fun i => by simp [State.results, h.elemAbsent_eq, p, bne]
    rwa [flagsOn_zero] at this
  case refine_3 =>
    refine State.vSteps_eq_issue hready (by decide) hstream (by simp [vregsOf]) ?_
    have hrb := hready.reads (r := b) (by simp) hfb
    simp only [State.maskOf_masked hmask, State.vOperands, State.vOperand_elements h hra, State.maskReg_reads hrb, bind, Except.bind,
      State.vPlace, pure, Except.pure, State.vWrite_eq_putV]
    rw [State.putV_congr s d f.policy m fun i hi => ?_]
    · rfl
    · exact congrArg (ite _ _) (getD_map_range hi _ _)
  case refine_4 =>
    refine State.vSteps_eq_issue hready (by decide) hstream (by simp [vregsOf]) ?_
    simp only [State.maskOf_masked hmask, State.vOperand_elements h hra, bind, Except.bind, pure, Except.pure,
      countP_zipIdx_map_range, h.elemAbsent_eq]
    rfl

end

end Sys2Proof.Machine
end

section

/-! Proof of the vector moves, broadcasts, retagging and hashes (R204, R220). -/

namespace Sys2Proof.Machine

theorem State.vGuarded_eq_issue {s : State} {col lat occ occ' fl : Nat} {regs R S : List VReg} {step : State → VRes StepOut}
    {ws : List Wr} (hready : s.VReady R S) (hcol : col ≠ colX) (hregs : regs ⊆ R)
    (hstep : step s = .ok (s, StepOut.registers ws [] fl)) :
    s.vGuarded col regs (fun s => s.vOne col lat occ step) occ' = .next (s.issue col lat occ fl ws) := by
  rw [State.vGuarded_ready hready.runs _ _ _ _ (State.refreshBusy_of_subset hregs hready.refresh)]
  exact congrArg _ (State.vOne_eq_issue hcol hready.skips hstep)

theorem replicate_eq_map_range {α : Type} (n : Nat) (x : α) : List.replicate n x = (List.range n).map fun _ => x := by
  simp

/-- Retagging and moves of short-lived registers write the bits they read; broadcast and hash values fill a register. -/
theorem vectorMoves : Statements.VectorMoves := by
  intro s f d a ga gb x m hready hmask v one
  have hfresh : s.me.vExpired a = false := hready.fresh a (by simp)
  have hexpiry : (s.me.rv a).expiry = (s.me.vraw a).expiry := by simp [Core.rv, hfresh]
  have hmov : ∀ e : Expiry, (match (s.me.vraw a).expiry with
      | some t => .at t
      | none => s.lExpiry) = e → exec (.vmov f d a) s = .next (one (.v d (s.me.rv a).fmt (s.me.rv a).bits 0 0 e)) := by
    intro e he
    show execVmov f d a s = _
    rw [execVmov, State.vGuarded_ready hready.runs _ _ _ _ (State.refreshBusy_of_subset (by simp) hready.refresh)]
    refine congrArg _ (State.vOne_eq_issue (by decide) hready.skips ?_)
    simp only [hfresh, hexpiry]
    rw [← he]
    cases (s.me.vraw a).expiry <;> rfl
  refine ⟨fun hno hm => ?_, fun hm => ?_, fun he => ?_, fun t he => ?_, ?_, fun h => ?_⟩
  case refine_1 =>
    refine State.vGuarded_eq_issue hready (by decide) (List.nil_subset _) ?_
    simp only [State.maskOf_masked hmask, bind, Except.bind, pure, Except.pure, if_neg hm, replicate_eq_map_range, State.vWrite_eq_putV]
    rfl
  case refine_2 =>
    refine State.vGuarded_eq_issue hready (by decide) (List.nil_subset _) ?_
    simp only [State.maskOf_masked hmask, bind, Except.bind, pure, Except.pure, if_pos hm, replicate_eq_map_range,
      State.vWriteMask_eq_putMask]
    rfl
  case refine_3 => exact hmov _ (by rw [he])
  case refine_4 => exact hmov _ (by rw [he])
  case refine_5 =>
    show execVretag f d a s = _
    rw [execVretag, State.vGuarded_ready hready.runs _ _ _ _ (State.refreshBusy_of_subset (by simp) hready.refresh)]
    refine congrArg _ (State.vOne_eq_issue (by decide) hready.skips ?_)
    simp only [hfresh]
    rfl
  case refine_6 =>
    refine State.vGuarded_eq_issue hready (by decide) (List.nil_subset _) ?_
    simp only [State.maskOf_masked hmask, bind, Except.bind, pure, Except.pure, State.vWrite_eq_putV]
    rfl

/-- Settles O43: each instruction issues with what its step makes of register operands. That an unordered comparison sets INV
for a signalling NaN beside an absent element is the model's choice (log entry 31). -/
theorem vectorBitsAndMoves : Obligations.VectorBitsAndMoves := ⟨vectorBits, vectorComparePresence, vectorMoves⟩

end Sys2Proof.Machine
end

section

/-! Proof that the F8Z decoder undoes its encoder (R108): codes of which none begins another, tokens, planes, and the block. -/

namespace Sys2Proof.Machine

/-! ## Bits of a token stream (R92) -/

theorem length_packBits (n : Nat) : ∀ l : List Nat, (packBits n l).length = n := by
  induction n with
  | zero => intro l; rfl
  | succ n ih => intro l; simp [packBits, ih]

theorem packBits_getD (n : Nat) : ∀ (l : List Nat) {j : Nat}, j < n → (packBits n l).getD j 0 =
    BitVec.ofNat 8 ((List.range 8).foldl (fun a i => a + l.getD (8 * j + i) 0 * 2 ^ i) 0) := by
  induction n with
  | zero => intro l j hj; omega
  | succ n ih =>
    intro l j hj
    cases j with
    | zero => simp [packBits]
    | succ j =>
      have hdrop : ∀ i, (l.drop 8).getD (8 * j + i) 0 = l.getD (8 * (j + 1) + i) 0 := fun i => by
        simp only [List.getD_eq_getElem?_getD, List.getElem?_drop]
        congr 2
        omega
      rw [packBits, List.getD_cons_succ, ih _ (by omega)]
      simp only [hdrop]

theorem fld_sum_bits (b : Nat → Nat) (hb : ∀ i, b i ≤ 1) {i : Nat} (hi : i < 8) :
    fld (BitVec.ofNat 8 ((List.range 8).foldl (fun a i => a + b i * 2 ^ i) 0)).toNat i 1 = b i := by
  have h0 := hb 0; have h1 := hb 1; have h2 := hb 2; have h3 := hb 3
  have h4 := hb 4; have h5 := hb 5; have h6 := hb 6; have h7 := hb 7
  have hsum : (List.range 8).foldl (fun a i => a + b i * 2 ^ i) 0 =
      b 0 + b 1 * 2 + b 2 * 4 + b 3 * 8 + b 4 * 16 + b 5 * 32 + b 6 * 64 + b 7 * 128 := by simp [List.range_succ]
  rw [hsum, BitVec.toNat_ofNat, fld]
  interval_cases i <;> omega

/-- A packed stream gives back its bits, and zeros after them. -/
theorem streamBit_packBits {l : List Nat} (hl : ∀ b ∈ l, b ≤ 1) (pad p : Nat) :
    streamBit (packBits ((l.length + 7) / 8) l ++ List.replicate pad 0) p = l.getD p 0 := by
  have hbit : ∀ i, l.getD i 0 ≤ 1 := fun i => by
    rw [List.getD_eq_getElem?_getD]
    cases h : l[i]? with
    | none => simp
    | some b => exact hl b (List.mem_of_getElem? h)
  unfold streamBit
  by_cases hp : p / 8 < (l.length + 7) / 8
  · rw [List.getD_append _ _ _ _ (by rwa [length_packBits]), packBits_getD _ _ hp,
      fld_sum_bits (fun i => l.getD (8 * (p / 8) + i) 0) (fun i => hbit _) (Nat.mod_lt _ (by decide))]
    congr 1
    omega
  · rw [List.getD_append_right _ _ _ _ (by rw [length_packBits]; omega), List.getD_eq_default l _ (by omega)]
    simp only [List.getD_eq_getElem?_getD, List.getElem?_replicate]
    split <;> simp [fld]

/-! ## Codes and tokens (R92) -/

/-- Do the bits from a place on start with a code? -/
def startsWith (b : Nat → Nat) (c : List Nat) : Bool := (List.range c.length).all (fun i => b i == c.getD i 0)

theorem startsWith_iff {b : Nat → Nat} {c : List Nat} : startsWith b c = true ↔ ∀ i, i < c.length → b i = c.getD i 0 := by
  simp [startsWith]

theorem f8zCodes_ge (t : Nat) : f8zCodes (t + 2) = f8zCodes 2 := rfl

/-- Two codes of a table differ in a bit that both have. -/
theorem f8zCodes_prefix_free : ∀ t, ∀ x ∈ f8zCodes t, ∀ y ∈ f8zCodes t,
    (∀ i, i < min x.1.length y.1.length → x.1.getD i 0 = y.1.getD i 0) → x = y
  | 0 => by decide
  | 1 => by decide
  | _ + 2 => by simp only [f8zCodes_ge]; decide

theorem find?_code {t : Nat} {x : List Nat × Option Int} (hx : x ∈ f8zCodes t) {b : Nat → Nat} (hb : startsWith b x.1 = true) :
    (f8zCodes t).find? (fun c => startsWith b c.1) = some x := by
  obtain ⟨y, hy⟩ : ∃ y, (f8zCodes t).find? (fun c => startsWith b c.1) = some y :=
    Option.isSome_iff_exists.1 (by rw [List.find?_isSome]; exact ⟨x, hx, hb⟩)
  have hstart : startsWith b y.1 = true := List.find?_some (p := fun c : List Nat × Option Int => startsWith b c.1) hy
  rw [startsWith_iff] at hb hstart
  rw [hy, f8zCodes_prefix_free t x hx y (List.mem_of_find?_eq_some hy) fun i hi => by rw [← hb i (by omega), ← hstart i (by omega)]]

theorem escape_mem : ∀ t, ([1, 1, 1], none) ∈ f8zCodes t
  | 0 => by decide
  | 1 => by decide
  | _ + 2 => by rw [f8zCodes_ge]; decide

/-- The token of an exponent: four raw bits, the code of its delta, or the escape and four bits. -/
theorem f8zToken_cases (t e0 e : Nat) : (t = 3 ∧ f8zToken t e0 e = nibbleBits e) ∨
    (t ≠ 3 ∧ (f8zToken t e0 e, some ((e : Int) - e0)) ∈ f8zCodes t) ∨
    (t ≠ 3 ∧ f8zToken t e0 e = [1, 1, 1] ++ nibbleBits e) := by
  unfold f8zToken
  by_cases h3 : t = 3
  · exact .inl ⟨h3, by rw [if_pos h3]⟩
  rw [if_neg h3]
  cases hfind : (f8zCodes t).find? (fun c => c.2 == some ((e : Int) - (e0 : Int))) with
  | none => exact .inr (.inr ⟨h3, rfl⟩)
  | some c =>
    have hdelta : c.2 = some ((e : Int) - e0) := by simpa using List.find?_some hfind
    exact .inr (.inl ⟨h3, hdelta ▸ List.mem_of_find?_eq_some hfind⟩)

theorem nibbleBits_sum {e : Nat} (he : e < 16) :
    8 * (nibbleBits e).getD 0 0 + 4 * (nibbleBits e).getD 1 0 + 2 * (nibbleBits e).getD 2 0 + (nibbleBits e).getD 3 0 = e := by
  simp only [nibbleBits, fld, List.getD_cons_zero, List.getD_cons_succ]
  omega

/-! ## Reading the tokens back (R94) -/

section
variable {bs : List Byte} {t e0 : Nat} {d0 : Int}

/-- The four bits of an exponent, read from the stream. -/
theorem streamBit_nibble {q e : Nat} (he : e < 16) (h : ∀ i, i < 4 → streamBit bs (q + i) = (nibbleBits e).getD i 0) :
    8 * streamBit bs q + 4 * streamBit bs (q + 1) + 2 * streamBit bs (q + 2) + streamBit bs (q + 3) = e := by
  have h0 := h 0 (by omega); have h1 := h 1 (by omega); have h2 := h 2 (by omega); have h3 := h 3 (by omega)
  rw [Nat.add_zero] at h0
  rw [h0, h1, h2, h3, nibbleBits_sum he]

theorem find?_tokens {x : List Nat × Option Int} {p : Nat} (hx : x ∈ f8zCodes t)
    (hb : ∀ i, i < x.1.length → streamBit bs (p + i) = x.1.getD i 0) :
    (f8zCodes t).find? (fun c => (List.range c.1.length).all (fun i => streamBit bs (p + i) == c.1.getD i 0)) = some x :=
  find?_code hx (startsWith_iff.2 hb)

/-- One token read back, where the stream holds it from bit p on. -/
theorem f8zTokens_token {e p len n : Nat} {acc : List Nat} (hd : t ≠ 3 → d0 = e0) (he : e < 16)
    (hfits : p + (f8zToken t e0 e).length ≤ len)
    (hbits : ∀ i, i < (f8zToken t e0 e).length → streamBit bs (p + i) = (f8zToken t e0 e).getD i 0) :
    f8zTokens bs t d0 len (n + 1) p acc = f8zTokens bs t d0 len n (p + (f8zToken t e0 e).length) (e :: acc) := by
  obtain ⟨h3, htok⟩ | ⟨h3, hcode⟩ | ⟨h3, htok⟩ := f8zToken_cases t e0 e
  · rw [htok] at hfits hbits ⊢
    rw [f8zTokens]
    simp only [if_pos h3, streamBit_nibble he hbits]
    exact if_pos hfits
  · rw [f8zTokens]
    have hback : d0 + ((e : Int) - e0) = e := by rw [hd h3]; omega
    simp only [if_neg h3, find?_tokens hcode hbits, hback, Int.toNat_natCast]
    exact if_pos ⟨hfits, by omega, by omega⟩
  · rw [htok] at hfits hbits ⊢
    have hescape : ∀ i, i < [1, 1, 1].length → streamBit bs (p + i) = [1, 1, 1].getD i 0 := fun i hi => by
      rw [hbits i (by simp at hi ⊢; omega), List.getD_append _ _ _ _ hi]
    rw [f8zTokens]
    simp only [if_neg h3, find?_tokens (escape_mem t) hescape]
    have hraw : ∀ i, i < 4 → streamBit bs (p + [1, 1, 1].length + i) = (nibbleBits e).getD i 0 := fun i hi => by
      rw [Nat.add_assoc, hbits _ (by simp [nibbleBits]; omega), List.getD_append_right _ _ _ _ (by omega), Nat.add_sub_cancel_left]
    rw [streamBit_nibble he hraw]
    exact if_pos (by simpa [nibbleBits] using hfits)

/-- Exponents are read back from their tokens. -/
theorem f8zTokens_flatMap {bits : List Nat} (hd : t ≠ 3 → d0 = e0) (hbits : ∀ p, streamBit bs p = bits.getD p 0) :
    ∀ (ex pre acc : List Nat), (∀ e ∈ ex, e < 16) → pre ++ ex.flatMap (f8zToken t e0) = bits →
      f8zTokens bs t d0 bits.length ex.length pre.length acc = some (acc.reverse ++ ex, bits.length)
  | [], pre, acc, _, h => by
    rw [List.flatMap_nil, List.append_nil] at h
    simp [f8zTokens, h]
  | e :: ex, pre, acc, hlt, h => by
    rw [List.flatMap_cons, ← List.append_assoc] at h
    rw [List.length_cons, f8zTokens_token hd (hlt e (by simp)) (by rw [← h]; simp) fun i hi => ?_, ← List.length_append,
      f8zTokens_flatMap hd hbits ex _ _ (fun e he => hlt e (by simp [he])) h]
    · simp
    · rw [hbits, ← h, List.append_assoc, List.getD_append_right _ _ _ _ (by omega), Nat.add_sub_cancel_left, List.getD_append _ _ _ _ hi]

end

/-! ## A block from its elements (R91, R93) -/

/-- The four bits of an element that stand in the plane. -/
def planeNibble (x : Nat) : Nat := fld x 7 1 * 8 + fld x 0 3

/-- A block with a table, a first exponent and a token stream. -/
def f8zBlock (t e0 : Nat) (el bits : List Nat) : List Byte :=
  let body := leBytes 4 (t * 2 ^ 30 + e0 * 2 ^ 26 + bits.length * 2 ^ 16) ++
    (List.range 32).map (fun i => BitVec.ofNat 8 (planeNibble (el.getD (2 * i) 0) + 16 * planeNibble (el.getD (2 * i + 1) 0))) ++
    packBits ((bits.length + 7) / 8) bits
  body ++ List.replicate ((8 - body.length % 8) % 8) 0

/-- The token stream of elements. -/
def f8zStream (t e0 : Nat) (el : List Nat) : List Nat := (el.map (fun x => fld x 3 4)).flatMap (f8zToken t e0)

theorem foldl_inv {α β : Type} {P : β → Prop} {f : β → α → β} : ∀ (l : List α) (b : β), P b → (∀ b a, a ∈ l → P b → P (f b a)) →
    P (l.foldl f b)
  | [], _, hb, _ => hb
  | a :: l, b, hb, hf => foldl_inv l _ (hf b a (by simp) hb) fun b x hx => hf b x (by simp [hx])

theorem length_f8zStream_raw (e0 : Nat) (el : List Nat) : (f8zStream 3 e0 el).length = 4 * el.length := by
  induction el with
  | nil => rfl
  | cons x el ih =>
    have htok : (f8zToken 3 e0 (fld x 3 4)).length = 4 := rfl
    rw [f8zStream] at ih ⊢
    rw [List.map_cons, List.flatMap_cons, List.length_append, ih, htok, List.length_cons]
    omega

/-- The encoder's block: its table's stream is no longer than the raw one. -/
theorem f8zEncode_eq (el : List Nat) : ∃ t e0, t < 4 ∧ e0 < 16 ∧ (f8zStream t e0 el).length ≤ 4 * el.length ∧
    f8zEncode el = f8zBlock t (if t = 3 then 0 else e0) el (f8zStream t e0 el) := by
  let ex := el.map (fun x => fld x 3 4)
  let cnt (e : Nat) : Nat := (ex.filter (· == e)).length
  let e0 := (List.range 16).foldl (fun b e => if cnt e > cnt b then e else b) 0
  let n (t : Nat) : Nat := (f8zStream t e0 el).length
  let t := (List.range 4).foldl (fun b t => if n t < n b then t else b) 0
  have he0 : e0 < 16 := foldl_inv (P := (· < 16)) _ _ (by decide) fun b e he hb => by
    have := List.mem_range.1 he
    split <;> assumption
  have ht : t < 4 := foldl_inv (P := (· < 4)) _ _ (by decide) fun b e he hb => by
    have := List.mem_range.1 he
    split <;> assumption
  have hmin : n t ≤ n 3 := by
    have hlast : ∀ b, n (if n 3 < n b then 3 else b) ≤ n 3 := fun b => by split <;> omega
    exact hlast _
  exact ⟨t, e0, ht, he0, hmin.trans (length_f8zStream_raw e0 el).le, rfl⟩

/-! ## Decoding a block (R94) -/

theorem nibbleBits_le_one (e : Nat) : ∀ b ∈ nibbleBits e, b ≤ 1 := by
  simp only [nibbleBits, fld, List.forall_mem_cons, List.not_mem_nil, false_implies, implies_true, and_true]
  omega

theorem f8zCodes_le_one : ∀ t, ∀ x ∈ f8zCodes t, ∀ b ∈ x.1, b ≤ 1
  | 0 => by decide
  | 1 => by decide
  | _ + 2 => by simp only [f8zCodes_ge]; decide

theorem f8zStream_le_one (t e0 : Nat) (el : List Nat) : ∀ b ∈ f8zStream t e0 el, b ≤ 1 := by
  intro b hb
  obtain ⟨e, -, hb⟩ := List.mem_flatMap.1 hb
  obtain ⟨-, htok⟩ | ⟨-, hcode⟩ | ⟨-, htok⟩ := f8zToken_cases t e0 e
  · exact nibbleBits_le_one e b (htok ▸ hb)
  · exact f8zCodes_le_one t _ hcode b hb
  · rw [htok, List.mem_append] at hb
    exact hb.elim (fun hb => by simp at hb; omega) (nibbleBits_le_one e b)

section
variable {t e0 : Nat} {el bits : List Nat}

theorem header_fields {n : Nat} (ht : t < 4) (he : e0 < 16) (hn : n < 1024) :
    (t * 2 ^ 30 + e0 * 2 ^ 26 + n * 2 ^ 16) % 65536 = 0 ∧ fld (t * 2 ^ 30 + e0 * 2 ^ 26 + n * 2 ^ 16) 30 2 = t ∧
      fld (t * 2 ^ 30 + e0 * 2 ^ 26 + n * 2 ^ 16) 26 4 = e0 ∧ fld (t * 2 ^ 30 + e0 * 2 ^ 26 + n * 2 ^ 16) 16 10 = n := by
  simp only [fld]
  omega

theorem f8zBlock_header (ht : t < 4) (he : e0 < 16) (hbits : bits.length ≤ 256) :
    leNat ((f8zBlock t e0 el bits).take 4) = t * 2 ^ 30 + e0 * 2 ^ 26 + bits.length * 2 ^ 16 := by
  simp only [f8zBlock, List.append_assoc]
  rw [List.take_left' (length_leBytes 4 _), leNat_leBytes]
  omega

theorem f8zBlock_plane {i : Nat} (hi : i < 32) : ((f8zBlock t e0 el bits).getD (4 + i) 0).toNat =
    (planeNibble (el.getD (2 * i) 0) + 16 * planeNibble (el.getD (2 * i + 1) 0)) % 256 := by
  simp only [f8zBlock, List.append_assoc]
  rw [List.getD_append_right _ _ _ _ (by simp [length_leBytes]), length_leBytes, Nat.add_sub_cancel_left,
    List.getD_append _ _ _ _ (by simpa), getD_map_range hi, BitVec.toNat_ofNat]

theorem f8zBlock_stream : ∃ pad, (f8zBlock t e0 el bits).drop 36 = packBits ((bits.length + 7) / 8) bits ++ List.replicate pad 0 := by
  simp only [f8zBlock, List.append_assoc]
  rw [← List.append_assoc (leBytes _ _), List.drop_left' (by simp [length_leBytes])]
  exact ⟨_, rfl⟩

theorem length_f8zBlock (hbits : bits.length ≤ 256) : (f8zBlock t e0 el bits).length ≤ 72 := by
  simp only [f8zBlock, List.length_append, length_leBytes, List.length_map, List.length_range, length_packBits, List.length_replicate]
  omega

end

/-- The decoding of a block gives back its elements. -/
theorem f8zDecode_f8zBlock {t e0 : Nat} {el : List Nat} (hel : el.length = 64) (hlt : ∀ x ∈ el, x < 256) (ht : t < 4) (he : e0 < 16)
    (hlen : (f8zStream t e0 el).length ≤ 4 * el.length) :
    f8zDecode (f8zBlock t (if t = 3 then 0 else e0) el (f8zStream t e0 el)) = (el, 0) := by
  have hlen' : (f8zStream t e0 el).length ≤ 256 := by omega
  have hd : (if t = 3 then 0 else e0) < 16 := by split <;> omega
  have hraw : t = 3 → (f8zStream t e0 el).length = 256 := fun h => by rw [h, length_f8zStream_raw, hel]
  obtain ⟨pad, hstream⟩ := f8zBlock_stream (t := t) (e0 := if t = 3 then 0 else e0) (el := el) (bits := f8zStream t e0 el)
  have htokens := f8zTokens_flatMap (bs := packBits _ (f8zStream t e0 el) ++ List.replicate pad 0) (t := t) (e0 := e0)
    (d0 := ((if t = 3 then 0 else e0 : Nat) : Int)) (fun h3 => by rw [if_neg h3]) (streamBit_packBits (f8zStream_le_one t e0 el) pad)
    (el.map (fun x => fld x 3 4)) [] [] (by simp only [List.mem_map, fld]; rintro _ ⟨x, -, rfl⟩; omega) rfl
  rw [List.length_map, hel, List.length_nil] at htokens
  rw [f8zDecode]
  obtain ⟨hzero, htab, hfirst, hcount⟩ := header_fields ht hd (show (f8zStream t e0 el).length < 1024 by omega)
  simp only [f8zBlock_header ht hd hlen', hstream, hzero, htab, hfirst, hcount]
  rw [if_neg (by omega), htokens]
  simp only [if_true, List.reverse_nil, List.nil_append]
  refine congrArg (·, 0) (List.ext_getElem (by simp [hel]) fun i hi h64 => ?_)
  simp only [List.length_map, List.length_range] at hi
  have hex : (el.map (fun x => fld x 3 4)).getD i 0 = fld el[i] 3 4 := by simp [h64]
  have hpair : el.getD (2 * (i / 2) + i % 2) 0 = el[i] := by rw [Nat.div_add_mod]; simp [h64]
  have hbyte : ∀ j, planeNibble (el.getD j 0) < 16 := fun j => by simp only [planeNibble, fld]; omega
  have h0 := hbyte (2 * (i / 2))
  have h1 := hbyte (2 * (i / 2) + 1)
  have hnibble : fld ((planeNibble (el.getD (2 * (i / 2)) 0) + 16 * planeNibble (el.getD (2 * (i / 2) + 1) 0)) % 256) (4 * (i % 2)) 4 =
      planeNibble el[i] := by
    rw [← hpair]
    obtain hodd | hodd := Nat.mod_two_eq_zero_or_one i <;> simp only [hodd, fld, Nat.add_zero] <;> omega
  have hsmall : el[i] < 256 := hlt _ (List.getElem_mem _)
  simp only [List.getElem_map, List.getElem_range, f8zBlock_plane (show i / 2 < 32 by omega), hnibble, hex]
  simp only [planeNibble, fld]
  omega

/-- R93, R94: a block of 64 elements decodes to those elements, and is no longer than 72 bytes. -/
theorem f8zDecode_f8zEncode {el : List Nat} (hel : el.length = 64) (hlt : ∀ x ∈ el, x < 256) :
    f8zDecode (f8zEncode el) = (el, 0) ∧ (f8zEncode el).length ≤ 72 := by
  obtain ⟨t, e0, ht, he, hlen, heq⟩ := f8zEncode_eq el
  rw [heq]
  exact ⟨f8zDecode_f8zBlock hel hlt ht he hlen, length_f8zBlock (by omega)⟩

end Sys2Proof.Machine
end

section

/-! Proof of the block add and the F8Z instructions (R108, R207, R219). -/

namespace Sys2Proof.Machine

/-- The count that an element of a block brings: none where its count or the element itself is absent (R219). -/
def blockCount (f : Fmt) (x c : Nat) : Nat := if c < 32768 ∧ x ≠ absentCode f then c else 0

/-- The element a block add gives, from the two counts that join (R219). -/
theorem blockAdd_spec {f : VFn} (h : IsElemental f.fmt) {x cx y cy nx ny : Nat} {r : Nat × Nat × Nat}
    (hnx : blockCount f.fmt x cx = nx) (hny : blockCount f.fmt y cy = ny) (hr : blockAdd f x cx y cy = r) :
    r.2.1 = min 32767 (nx + ny) ∧ (r.2.1 = 0 → r.1 = absentCode f.fmt) ∧
      (0 < nx → ny = 0 → r.1 = (writeElem f.fmt false f.sat (readElem f.fmt x)).1) ∧
      (nx = 0 → 0 < ny → r.1 = (writeElem f.fmt false f.sat (readElem f.fmt y)).1) ∧
      (0 < nx → 0 < ny → r.1 =
        (writeElem f.fmt false f.sat (roundF32 (numAdd (readElem f.fmt x) (readElem f.fmt y)).1).1).1) := by
  have hcount : ∀ z c, ((if c = 0x8000 ∨ 0x8000 ≤ c then 0 else c) ≠ 0 ∧ (!elemAbsent f.fmt z) = true) ↔
      0 < blockCount f.fmt z c := by
    intro z c
    unfold blockCount
    rw [h.elemAbsent_eq]
    by_cases hz : z = absentCode f.fmt <;> simp [hz]
    split <;> omega
  have hsum : ∀ z c, (if 0 < blockCount f.fmt z c then (if c = 0x8000 ∨ 0x8000 ≤ c then 0 else c) else 0) =
      blockCount f.fmt z c := by
    intro z c
    unfold blockCount
    split_ifs <;> omega
  unfold blockAdd at hr
  simp only [hcount, hsum] at hr
  simp only [hnx, hny] at hr
  subst hr
  obtain rfl | hx := Nat.eq_zero_or_pos nx <;> obtain rfl | hy := Nat.eq_zero_or_pos ny
  · simp
  · by_cases hbig : 32767 < ny <;> simp [hy, hy.ne', hbig] <;> omega
  · by_cases hbig : 32767 < nx <;> simp [hx, hx.ne', hbig] <;> omega
  · by_cases hbig : 32767 < nx + ny <;> simp [hx, hy, hx.ne', hbig] <;> omega

theorem IsElemental.of_isFloatFmt {f : Fmt} (h : isFloatFmt f = true) : IsElemental f := by
  cases f <;> simp_all [isFloatFmt, floatSpec, IsElemental]

theorem IsElemental.width_dvd {f : Fmt} (h : IsElemental f) : fmtWidth f ∣ 1024 := by
  obtain ⟨h0, h1⟩ := h
  cases f
  case noFmt | mask => contradiction
  all_goals decide

theorem getD_elems (b : VBits) {w : Nat} (hw : w ∣ 1024) (i : Nat) : (elems b w).getD i 0 = elemAt b w i := by
  obtain ⟨n, hn⟩ := hw
  have hw : 0 < w := Nat.pos_of_mul_pos_right (hn ▸ (by decide : 0 < 1024))
  have hdiv : 1024 / w = n := by rw [hn, Nat.mul_div_cancel_left _ hw]
  by_cases hi : i < 1024 / w
  · rw [elems, if_neg hw.ne', getD_map_range hi]
  · have hlen : (elems b w).length ≤ i := by simp [elems, hw.ne']; omega
    have hbits : 1024 ≤ w * i := hn ▸ Nat.mul_le_mul_left w (hdiv ▸ not_lt.1 hi)
    have hb : b.toNat / 2 ^ (w * i) = 0 := Nat.div_eq_of_lt (BitVec.toNat_lt_twoPow_of_le hbits)
    simp [List.getD_eq_getElem?_getD, List.getElem?_eq_none hlen, elemAt, hb]

/-- VBADDQ writes the elements and the counts of the block add, each where its mask selects it. -/
theorem blockAddPair : Statements.BlockAdd := by
  intro s f d a b m hd ha hb two hready hmask hfloat hfa hca hfb hcb n cnt x
  have h := IsElemental.of_isFloatFmt hfloat
  let r (i : Nat) : Nat × Nat × Nat :=
    blockAdd f (s.me.elem f.fmt a i) (s.me.elem .i16 (two a) i) (s.me.elem f.fmt b i) (s.me.elem .i16 (two b) i)
  refine ⟨fun i => (r i).1, fun i => (r i).2.1, flagsOn n m (fun i => (r i).2.2), ?_, fun i _ =>
    blockAdd_spec h rfl rfl rfl⟩
  have ha := hready.reads (r := a) (by simp) hfa
  have hca := hready.reads (r := two a) (by simp) hca
  have hb := hready.reads (r := b) (by simp) hfb
  have hcb := hready.reads (r := two b) (by simp) hcb
  refine State.vGuarded_eq_issue hready (by decide) (fun _ => id) ?_
  have hcounts : (List.range 64).map ((fun p : Nat × Nat => if p.2 < n ∧ (!maskOn m p.2) = true then 32768 else p.1) ∘
      fun i => (if i < n then (((List.range n).map r).getD i (0, 0, 0)).2.1 else 0, i)) = (List.range 64).map
        (fun i => if i < n ∧ (!maskOn m i) = true then absentCode .i16 else if i < n then (r i).2.1 else 0) := by
    refine List.map_congr_left fun i _ => ?_
    by_cases hi : i < n
    · simp only [Function.comp, getD_map_range hi]
      rfl
    · simp only [Function.comp, hi, false_and, if_false]
  simp only [State.maskOf_masked hmask, State.vOperand_register ha.1 ha.2, State.vOperand_register hb.1 hb.2,
    State.vOperand_register (r := Fin.ofNat 32 (a.val + 1)) hca.1 hca.2,
    State.vOperand_register (r := Fin.ofNat 32 (b.val + 1)) hcb.1 hcb.2, bind, Except.bind, pure, Except.pure]
  simp only [getD_elems _ h.width_dvd, getD_elems _ (show fmtWidth .i16 ∣ 1024 by decide), List.map_map,
    State.vWrite_eq_putV, maskFlags_eq_flagsOn, keepBits_eq, zipIdx_map_range, StepOut.empty, Nat.or_zero, Nat.zero_or]
  rw [← hcounts]
  rfl

/-! ## Halves of a register of 8-bit elements -/

theorem length_f8zDecode (l : List Byte) : (f8zDecode l).1.length = 64 := by
  simp only [f8zDecode]
  split
  · simp
  · split
    · split <;> simp
    · simp

/-- A list of 64 elements beside 64 copies of another. -/
theorem halves {h : Nat} (hh : h < 2) {l : List Nat} (hl : l.length = 64) (o : Nat) :
    (if h = 0 then l ++ List.replicate 64 o else List.replicate 64 o ++ l) =
      (List.range 128).map (fun i => if i / 64 == h then l.getD (i % 64) 0 else o) := by
  have hl : l = (List.range 64).map (fun i => l.getD i 0) := by
    refine List.ext_getElem (by simp [hl]) fun i hi _ => ?_
    simp [hi]
  have hsplit : List.range 128 = List.range 64 ++ (List.range 64).map (64 + ·) := List.range_add (n := 64) (m := 64)
  rw [hsplit, List.map_append, List.map_map, replicate_eq_map_range]
  have hlow : ∀ i ∈ List.range 64, i / 64 = 0 ∧ i % 64 = i := fun i hi => by have := List.mem_range.1 hi; omega
  have hhigh : ∀ i ∈ List.range 64, (64 + i) / 64 = 1 ∧ (64 + i) % 64 = i := fun i hi => by have := List.mem_range.1 hi; omega
  obtain rfl | rfl : h = 0 ∨ h = 1 := by omega
  · rw [if_pos rfl]
    conv_lhs => rw [hl]
    exact congrArg₂ _ (List.map_congr_left fun i hi => by simp [hlow i hi])
      (List.map_congr_left fun i hi => by simp)
  · rw [if_neg Nat.one_ne_zero]
    conv_lhs => rw [hl]
    exact congrArg₂ _ (List.map_congr_left fun i hi => by simp [hlow i hi])
      (List.map_congr_left fun i hi => by simp [hhigh i hi])

theorem take_drop_half {h : Nat} (hh : h < 2) (b : VBits) :
    ((elems b (fmtWidth .f8)).drop (64 * (h : Int).toNat)).take 64 = (List.range 64).map (fun i => elemAt b 8 (64 * h + i)) := by
  have hle : 64 * h + 64 ≤ 128 := by omega
  refine List.ext_getElem (by simp [elems, fmtWidth]; omega) fun i _ hi => ?_
  simp [elems, fmtWidth]

theorem execVzdec_eq_issue {s : State} (f : VFn) {d a : VReg} {h : Nat} (hready : s.VReady [a] [a]) (hh : h < 2)
    {es : List Nat} {fl : Nat} (hblock : f8zDecode (bytesOfV (s.me.rv a).bits) = (es, fl)) :
    execVzdec f d a h s = .next (s.issue colV 6 1 fl [.v d .f8
      (packElems 8 ((List.range 128).map (fun i => if i / 64 == h then es.getD (i % 64) 0 else 0))) 0
      (packElems 8 ((List.range 128).map (fun i => if i / 64 == h then 0 else 255))) s.lExpiry]) := by
  have hes : es.length = 64 := (congrArg (·.1.length) hblock).symm.trans (length_f8zDecode _)
  have hh' : (h : Int).toNat % 2 = h := by rw [Int.toNat_natCast, Nat.mod_eq_of_lt hh]
  have hzeros : ∀ i, (List.replicate 64 0).getD i 0 = 0 := fun i => by
    by_cases hi : i < 64
    · exact List.getD_replicate _ hi
    · simp [List.getD_eq_getElem?_getD, hi]
  have hfresh : s.me.vExpired a = false := hready.fresh a (by simp)
  rw [execVzdec, State.vGuarded_ready hready.runs _ _ _ _ (State.refreshBusy_of_subset (by simp) hready.refresh)]
  simp only [hblock, hh', halves hh hes, halves hh List.length_replicate, hzeros]
  refine congrArg _ (State.vOne_eq_issue (by decide) hready.skips ?_)
  simp only [hfresh, flagIf, Bool.false_eq_true, if_false, Nat.or_zero]
  rfl

/-- VZENC packs half a register into a block that VZDEC expands again; VZDEC writes its own half and keeps the other. -/
theorem vectorBlocksF8z : Statements.VectorBlocks := by
  intro s f d a h hready hh half block inside
  have hfresh : s.me.vExpired a = false := hready.fresh a (by simp)
  have hlen : half.length = 64 := by simp [half]
  have hlt : ∀ x ∈ half, x < 256 := by
    intro x hx
    obtain ⟨i, -, rfl⟩ := List.mem_map.1 hx
    exact Core.elem_lt _ .f8 _ _
  obtain ⟨hcodec, hsize⟩ := f8zDecode_f8zEncode hlen hlt
  refine ⟨fun hf => ⟨?_, hcodec, hsize⟩, ?_⟩
  · refine State.vGuarded_eq_issue hready (by decide) (by simp) ?_
    have hhalf : ((elems (s.me.rv a).bits (fmtWidth .f8)).drop (64 * (h : Int).toNat)).take 64 = half :=
      take_drop_half hh _
    simp only [State.vOperand_register hf hfresh, bind, Except.bind, pure, Except.pure, hhalf]
    rfl
  · exact execVzdec_eq_issue f hready hh rfl

/-- Settles O45: both blocks issue with what their step makes, and the codec undoes itself. -/
theorem vectorBlocks : Obligations.VectorBlocks := ⟨blockAddPair, vectorBlocksF8z⟩

end Sys2Proof.Machine
end

section

/-! Proof of the tensor slice's configuration (R231, R242, R243). -/

namespace Sys2Proof.Machine

/-! ## Issuing in the T column -/

section
variable {s t : State} {n : Nat} {w : Wr}

theorem State.Kept.occupy (h : s.Kept t) (col m : Nat) : s.Kept (t.modMe (fun k => k.occupy col m)) := by
  obtain ⟨hmem, hregs⟩ := h
  refine ⟨hmem.trans (State.sameMem_modMe _ _), hregs.trans ?_⟩
  rw [State.me_modMe]
  apply Core.sameRegs_of <;> simp

theorem State.Lands.occupy (h : s.Lands t n w) (col m : Nat) : s.Lands (t.modMe (fun k => k.occupy col m)) n w := by
  unfold State.Lands
  rw [State.me_modMe]
  exact h

theorem State.kept_tIssue (s : State) (lat : Nat) (ws : List Wr) : s.Kept (s.tIssue lat ws) :=
  (s.kept_issue colT lat 1 0 ws).occupy 8 lat

theorem State.lands_tIssue (s : State) (lat : Nat) {ws : List Wr} (h : w ∈ ws) : s.Lands (s.tIssue lat ws) lat w :=
  (s.lands_issue colT lat 1 0 ws h).occupy 8 lat

end

/-! ## The word of MSTAT (R243) -/

theorem foldl_range_four {α : Type} (f : α → Nat → α) (z : α) : (List.range 4).foldl f z = f (f (f (f z 0) 1) 2) 3 := rfl

/-- The word that MSTAT reads: the accumulators' use and tags, and the slice's configuration. -/
def statWord (use code : Nat → Nat) (fmt bz kb kcfg : Nat) : Nat :=
  (List.range 4).foldl (fun v i => v + use i * 2 ^ (40 + i) + code i * 2 ^ (32 + 2 * i)) 0 +
    fmt * 2 ^ 28 + bz * 2 ^ 27 + kb * 2 ^ 16 + kcfg * 2 ^ 5

/-- Its fields do not overlap. -/
theorem fld_statWord {use code : Nat → Nat} {fmt bz kb kcfg : Nat} (huse : ∀ i, use i ≤ 1) (hcode : ∀ i, code i ≤ 2)
    (hfmt : fmt < 16) (hbz : bz ≤ 1) (hkb : kb < 2 ^ 11) (hkcfg : kcfg < 2 ^ 11) {x : Nat}
    (hx : x = statWord use code fmt bz kb kcfg) :
    x < 2 ^ 44 ∧ fld x 0 5 = 0 ∧ fld x 5 11 = kcfg ∧ fld x 16 11 = kb ∧ fld x 27 1 = bz ∧ fld x 28 4 = fmt ∧
      ∀ i, i < 4 → fld x (32 + 2 * i) 2 = code i ∧ fld x (40 + i) 1 = use i := by
  have u0 := huse 0; have u1 := huse 1; have u2 := huse 2; have u3 := huse 3
  have c0 := hcode 0; have c1 := hcode 1; have c2 := hcode 2; have c3 := hcode 3
  rw [statWord, foldl_range_four] at hx
  unfold fld
  refine ⟨by omega, by omega, by omega, by omega, by omega, by omega, fun i hi => ?_⟩
  obtain rfl | rfl | rfl | rfl : i = 0 ∨ i = 1 ∨ i = 2 ∨ i = 3 := by omega
  · omega
  · omega
  · omega
  · omega

/-- Does a tensor operation or VREDQ of the core use an accumulator? -/
def Core.accBusy (k : Core) (i : Nat) : Bool :=
  k.tops.any (fun o => !o.load && o.acc.val == i) || k.vredq.any (fun v => v.acc.val == i)

theorem Core.accBusy_iff (k : Core) (i : Nat) : k.accBusy i = true ↔
    (∃ o, o ∈ k.tops ∧ o.load = false ∧ o.acc.val = i) ∨ ∃ v, k.vredq = some v ∧ v.acc.val = i := by
  simp [Core.accBusy, List.any_eq_true, Option.any_eq_true]

/-- The word of MSTAT for a core. -/
def Core.stat (k : Core) : Nat :=
  statWord (fun i => if k.accBusy i then 1 else 0) (fun i => accCode (k.ra (Fin.ofNat 4 i)).tag) (fmtCode k.slice.bfmt)
    (if k.slice.bz then 1 else 0) k.slice.kb k.slice.kcfg

theorem execMstat_eq {s : State} (h : s.Runs) (f : VFn) (gd : GReg) :
    execMstat f gd s = .next (s.tIssue 1 [.g gd (GVal.data (BitVec.ofNat 64 s.me.stat))]) := by
  have hbit : ∀ (b : Bool) (n : Nat), (if b then 2 ^ n else 0) = (if b then 1 else 0) * 2 ^ n := fun b n => by
    cases b <;> simp
  rw [execMstat, State.guarded_runs h]
  cases hv : s.me.vredq <;> simp only [hbit, Core.stat, statWord, Core.accBusy, hv, Option.any]

theorem fmtCode_lt (f : Fmt) : fmtCode f < 16 := by cases f <;> decide

theorem accCode_le (f : Fmt) : accCode f ≤ 2 := by
  unfold accCode
  split_ifs <;> omega

/-! ## MRST (R243) -/

theorem fld_one_iff_testBit (m i : Nat) : fld m i 1 = 1 ↔ m.testBit i = true := by
  rw [Nat.testBit_eq_decide_div_mod_eq, decide_eq_true_iff, fld, pow_one]

/-- What MRST clears: the accumulators, the configuration and RPR that its mask names. -/
def resetWrites (mask : Nat) : List Wr :=
  (List.finRange 4).filterMap (fun (i : AReg) => if mask.testBit i.val then some (Wr.accPut i ⟨.noFmt, []⟩) else none) ++
    (if mask.testBit 4 then [.slice 0 false 0 0, .bbuf .noFmt 0 []] else []) ++ (if mask.testBit 5 then [Wr.cr 0x00C 0] else [])

theorem execMrst_eq {s : State} (h : s.Runs) (f : VFn) (mask : Nat) (htops : s.me.tops = []) (hv : s.me.vredq = none)
    (hfree : s.me.free 8 ≤ s.me.vcc) (hland : ∀ l, l ∈ s.me.landings → ∀ x y z, l.wr ≠ .bbuf x y z) :
    execMrst f mask s = .next (s.tIssue 1 (resetWrites mask)) := by
  rw [execMrst, State.guarded_runs h]
  refine congrArg _ ((if_neg ?_).trans ?_)
  · simp only [htops, hv, List.isEmpty_nil, Option.isSome_none, Bool.not_true, Bool.or_false, Bool.false_or,
      decide_eq_false (not_lt.2 hfree), List.any_eq_true, not_exists, not_and]
    intro l hl
    cases hw : l.wr <;> simp
    exact hland l hl _ _ _ hw
  · simp only [resetWrites, fld_one_iff_testBit]
    rfl

theorem sext_mod (w x : Nat) : sext w (x % 2 ^ w) = sext w x := by
  rw [sext, sext, Nat.mod_mod]

/-- The configuration, MZERO, MSTAT and MRST issue with the writes that R231, R242 and R243 name. -/
theorem tensorConfiguration : Statements.TensorConfiguration := by
  intro s f ga gb gd ak mask hruns a b kk astr bstr sl one busy
  have hone : ∀ {i : Instr} {ws wrs : List Wr}, exec i s = .next (s.tIssue 1 ws) → (∀ w ∈ wrs, w ∈ ws) → one i wrs :=
    fun hexec hws => ⟨_, hexec, s.kept_tIssue 1 _, fun w hw => s.lands_tIssue 1 (hws w hw)⟩
  have hcfg : exec (.mcfg f ga gb) s = .next (if kk = 0 ∨ kk > 1024 ∨ kk % 8 ≠ 0 then s.trap causeFORMAT 0 4
      else if astr % 8 ≠ 0 ∨ bstr % 8 ≠ 0 then s.trap causeFORMAT 0 5
      else s.tIssue 1 [.slice kk (fld a 11 1 == 1) astr bstr]) := by
    show execMcfg f ga gb s = _
    have hk : fld a 0 11 = kk := by rw [fld, pow_zero, Nat.div_one]
    have ha : sext 32 (fld b 0 32) = astr := by rw [fld, pow_zero, Nat.div_one, sext_mod]
    have hb : sext 32 (fld b 32 32) = bstr := sext_mod _ _
    rw [execMcfg, State.guarded_runs hruns, ← hk, ← ha, ← hb]
  refine ⟨fun h0 h1 h2 h3 h4 => hone (ws := [.slice kk (fld a 11 1 == 1) astr bstr]) ?_ ?_, fun h => ?_,
    fun h0 h1 h2 h3 => ?_, ?_, fun hk hb => ?_, fun ht hv hf hl => ?_⟩
  · rw [hcfg, if_neg (by omega), if_neg (by omega)]
  · have hbit : decide (a / 2 ^ 11 % 2 = 1) = (fld a 11 1 == 1) := by rw [fld, pow_one, Bool.beq_eq_decide_eq]
    exact fun w hw => hbit ▸ hw
  · rw [hcfg, if_pos (by omega)]
  · rw [hcfg, if_neg (by omega), if_pos (by omega)]
  · exact hone (by show execMzero f ak s = _; rw [execMzero, State.guarded_runs hruns]) fun w => id
  · obtain ⟨hlt, h0, hkc, hkb, hbz, hfmt, hacc⟩ := fld_statWord (x := s.me.stat) (fun i => by
      split <;> omega) (fun i => accCode_le _) (fmtCode_lt _) (by split <;> omega) hb hk rfl
    refine ⟨s.me.stat, hlt, hone (execMstat_eq hruns f gd) fun w => id, h0, hkc, hkb, hbz, hfmt, fun i => ?_⟩
    obtain ⟨hcode, huse⟩ := hacc i i.isLt
    refine ⟨by rw [hcode, Fin.ofNat_val_eq_self], ?_⟩
    rw [huse, show busy i ↔ _ from (s.me.accBusy_iff i).symm]
    cases s.me.accBusy i <;> simp
  · exact hone (execMrst_eq hruns f mask ht hv hf hl) fun w => id

end Sys2Proof.Machine
end

section

/-! Proof of the accumulator rows: MDRN, MRDR and MWRR (R104, R241, R242). -/

namespace Sys2Proof.Machine

/-! ## The core after a step -/

theorem Core.foldl_landAt (serial n : Nat) (ws : List Wr) : ∀ k : Core, ws.foldl (fun k w => k.landAt serial n w) k =
    { k with landings := ws.foldl (fun l w => landInsert l ⟨k.vcc + n, serial, w, none, false⟩) k.landings } := by
  induction ws with
  | nil => intro k; rfl
  | cons w ws ih => intro k; rw [List.foldl_cons, ih]; rfl

section
variable (s : State) (col lat occ fl : Nat) (ws nx : List Wr)

theorem State.kept_issueStep : s.Kept (s.modMe (fun k => k.issueStep s.clk s.ent col lat occ fl ws nx)) := by
  refine ⟨State.sameMem_modMe _ _, ?_⟩
  rw [State.me_modMe, Core.issueStep, Core.foldl_landAt]
  apply Core.sameRegs_of <;> simp

theorem State.mem_landings_issueStep (y : Landing) :
    y ∈ (s.modMe (fun k => k.issueStep s.clk s.ent col lat occ fl ws nx)).me.landings ↔
      y = ⟨s.me.vcc + lat, s.ent.serial, .none, s.head.set, true⟩ ∨
      (∃ w, w ∈ ws ∧ y = ⟨s.me.vcc + lat, s.ent.serial, w, none, false⟩) ∨
      (∃ w, w ∈ nx ∧ y = ⟨s.me.vcc + 1, s.ent.serial, w, none, false⟩) ∨ y ∈ s.me.landings := by
  rw [State.me_modMe, Core.issueStep, Core.foldl_landAt, Core.mem_land]
  simp [mem_foldl_landInsert, State.head, State.ent]

variable {ws nx} {w : Wr}

theorem State.lands_issueStep (h : w ∈ ws) :
    s.Lands (s.modMe (fun k => k.issueStep s.clk s.ent col lat occ fl ws nx)) lat w :=
  (s.mem_landings_issueStep ..).2 (.inr (.inl ⟨w, h, rfl⟩))

theorem State.lands_issueStep_next (h : w ∈ nx) :
    s.Lands (s.modMe (fun k => k.issueStep s.clk s.ent col lat occ fl ws nx)) 1 w :=
  (s.mem_landings_issueStep ..).2 (.inr (.inr (.inl ⟨w, h, rfl⟩)))

end

/-! ## MDRN -/

theorem drainElem_value (f : Fmt) (sat : Bool) (mode : Nat) (tag : Fmt) (x : BitVec 32 × Nat) :
    (drainElem f sat mode tag x).1.1 = if mode = 3 then min 32767 x.2
      else if x.2 = 0 then (if mode = 2 then 0 else absentCode f)
      else (tWrite f sat (if mode = 1 then (numDiv (tRead tag x.1.toNat) (.fin false x.2 1)).1 else tRead tag x.1.toNat)).1 := by
  unfold drainElem
  split_ifs <;> simp [Nat.min_comm]

theorem drainElem_count (f : Fmt) (sat : Bool) (mode : Nat) (tag : Fmt) (x : BitVec 32 × Nat) :
    (drainElem f sat mode tag x).1.2 = min 32767 x.2 := by
  unfold drainElem
  split_ifs <;> simp [*, Nat.min_comm]

/-- A cell of an accumulator row, empty where the accumulator has no tag. -/
def Core.accCell (k : Core) (ak : AReg) (row j : Nat) : BitVec 32 × Nat :=
  if (k.ra ak).tag = .noFmt then (0, 0) else (k.ra ak).at row j

/-- The registers that MDRN writes with the values and counts of a row. -/
def State.drainWrites (s : State) (f : VFn) (vd : VReg) (mode : Nat) (m : Option VBits) (v c : Nat → Nat) : List Wr :=
  let reg (i : Nat) : VReg := Fin.ofNat 32 (vd.val + i)
  (if mode = 3 then [s.putV vd .i16 f.policy m v]
    else if fmtWidth f.fmt = 32 then [s.putV vd f.fmt f.policy m v,
      s.putV (reg 1) f.fmt f.policy (m.map (fun (b : VBits) => b >>> (32 : Nat))) (fun j => v (32 + j))]
    else if fmtWidth f.fmt = 16 then [s.putV vd f.fmt f.policy m v]
    else [.v vd f.fmt (packElems 8 ((List.range 64).map (fun j => if maskOn m j then v j else absentCode f.fmt)))
      (packElems 8 ((List.range 64).map (fun j => if maskOn m j ∨ f.policy then 0 else 255)))
      (packElems 8 ((List.range 128).map (fun j => if j < 64 then 0 else 255))) s.lExpiry]) ++
  (if mode = 0 then [s.putV (reg (if fmtWidth f.fmt = 32 then 2 else 1)) .i16 f.policy m c] else [])

theorem packElems_low_zeros (w n : Nat) : ∀ l : List Nat,
    (List.replicate n 0 ++ l).foldr (fun x acc => x % 2 ^ w + acc * 2 ^ w) 0 =
      l.foldr (fun x acc => x % 2 ^ w + acc * 2 ^ w) 0 * 2 ^ (w * n) := by
  induction n with
  | zero => simp
  | succ n ih =>
    intro l
    rw [List.replicate_succ, List.cons_append, List.foldr_cons, ih, Nat.zero_mod, Nat.zero_add, Nat.mul_assoc, ← pow_add, Nat.mul_succ]

theorem packElems_ones (w n : Nat) :
    (List.replicate n (2 ^ w - 1)).foldr (fun x acc => x % 2 ^ w + acc * 2 ^ w) 0 = 2 ^ (w * n) - 1 := by
  induction n with
  | zero => simp
  | succ n ih =>
    have hw := Nat.two_pow_pos w
    have hn := Nat.two_pow_pos (w * n)
    rw [List.replicate_succ, List.foldr_cons, ih, Nat.mod_eq_of_lt (by omega), Nat.mul_succ, pow_add, Nat.sub_mul, Nat.one_mul]
    have := Nat.le_mul_of_pos_left (2 ^ w) hn
    omega

/-- The upper half of a register. -/
theorem upperHalf_eq : BitVec.ofNat 1024 (2 ^ 1024 - 2 ^ 512) =
    packElems 8 ((List.range 128).map (fun j => if j < 64 then 0 else 255)) := by
  have hlist : (List.range 128).map (fun j => if j < 64 then 0 else 255) = List.replicate 64 0 ++ List.replicate 64 255 := by
    rw [show List.range 128 = List.range 64 ++ (List.range 64).map (64 + ·) from List.range_add (n := 64) (m := 64),
      List.map_append, List.map_map, replicate_eq_map_range, replicate_eq_map_range]
    exact congrArg₂ _ (List.map_congr_left fun i hi => if_pos (List.mem_range.1 hi))
      (List.map_congr_left fun i _ => if_neg (Nat.not_lt.2 (Nat.le_add_right 64 i)))
  have hones : (List.replicate 64 255).foldr (fun x acc => x % 2 ^ 8 + acc * 2 ^ 8) 0 = 2 ^ (8 * 64) - 1 := packElems_ones 8 64
  rw [packElems, hlist, packElems_low_zeros, hones, Nat.sub_mul, Nat.one_mul, ← pow_add]

theorem fmtCount_of_width_32 {f : Fmt} (h : fmtWidth f = 32) : fmtCount f = 32 := by
  cases f <;> simp_all [fmtWidth, fmtCount]

theorem fmtCount_of_width_16 {f : Fmt} (h : fmtWidth f = 16) : fmtCount f = 64 := by
  cases f <;> simp_all [fmtWidth, fmtCount]

theorem take_map_range {α : Type} {n m : Nat} (h : n ≤ m) (g : Nat → α) :
    ((List.range m).map g).take n = (List.range n).map g := by
  rw [← List.map_take, List.take_range, Nat.min_eq_left h]

theorem drop_map_range {α : Type} {n m : Nat} (g : Nat → α) :
    ((List.range (n + m)).map g).drop n = (List.range m).map (fun j => g (n + j)) := by
  rw [List.range_add, List.map_append, List.drop_left' (by simp), List.map_map]
  rfl

section
variable {s : State} {f : VFn} {m : Option VBits} {row mode : Nat} {clr : Bool}

theorem State.drainWrites_eq (s : State) (f : VFn) (vd : VReg) (mode : Nat) (m : Option VBits) (v c : Nat → Nat) :
    (if mode = 3 then [s.vWrite vd .i16 m f.policy ((List.range 64).map v)]
      else if fmtWidth f.fmt = 32 then [s.vWrite vd f.fmt m f.policy (((List.range 64).map v).take 32),
        s.vWrite (Fin.ofNat 32 (vd.val + 1)) f.fmt (m.map (fun (b : VBits) => b >>> (32 : Nat))) f.policy
          (((List.range 64).map v).drop 32)]
      else if fmtWidth f.fmt = 16 then [s.vWrite vd f.fmt m f.policy ((List.range 64).map v)]
      else [.v vd f.fmt (packElems 8 (maskElems f.fmt m ((List.range 64).map v))) (keepBits 8 64 m f.policy)
        (BitVec.ofNat 1024 (2 ^ 1024 - 2 ^ 512)) s.lExpiry]) ++
    (if mode = 0 then [s.vWrite (Fin.ofNat 32 (vd.val + if fmtWidth f.fmt = 32 then 2 else 1)) .i16 m f.policy
      ((List.range 64).map c)] else []) = s.drainWrites f vd mode m v c := by
  have hput : ∀ (d : VReg) (g : Fmt) (n : Nat) (p : Option VBits) (u : Nat → Nat), fmtCount g = n →
      s.vWrite d g p f.policy ((List.range n).map u) = s.putV d g f.policy p u := by
    rintro d g n p u rfl
    exact s.vWrite_eq_putV ..
  rw [State.drainWrites, take_map_range (by omega : 32 ≤ 64), drop_map_range (n := 32) (m := 32), maskElems_map_range,
    keepBits_eq, upperHalf_eq, hput vd .i16 64 m v rfl,
    hput _ .i16 64 m c rfl]
  refine congrArg (· ++ _) (ite_congr rfl (fun _ => rfl) fun _ => ite_congr rfl (fun h => ?_) fun _ =>
    ite_congr rfl (fun h => ?_) fun _ => rfl)
  · rw [hput vd _ 32 m v (fmtCount_of_width_32 h), hput _ _ 32 _ _ (fmtCount_of_width_32 h)]
  · rw [hput vd _ 64 m v (fmtCount_of_width_16 h)]

/-- MDRN of a row whose accumulator it may read issues with the drained registers, and clears the row in the next vc. -/
theorem execMdrn_eq (hready : s.VReady [] []) (hmask : s.Masked m) (hrow : row < 32) (hmode : mode < 4) (vd : VReg) (ak : AReg) :
    execMdrn f vd ak (row + 32 * mode + (if clr then 128 else 0)) s = .next
      (if mode ≠ 3 ∧ (s.me.ra ak).tag ≠ (if isFloatFmt f.fmt then .f32 else .i32) then s.formatTrap 4 (s.me.ra ak).tag f.fmt
       else
        let r (j : Nat) := drainElem f.fmt f.sat mode (s.me.ra ak).tag (s.me.accCell ak row j)
        (s.modMe (fun k => k.issueStep s.clk s.ent colT 4 1 (flagsOn 64 m (fun j => (r j).2))
          (s.drainWrites f vd mode m (fun j => (r j).1.1) (fun j => (r j).1.2)) (if clr then [.accClearRow ak row] else []))).modMe
            (fun k => k.occupy 8 4)) := by
  have hfields : ∀ c : Nat, c ≤ 1 → fld (row + 32 * mode + c * 128) 0 5 = row ∧ fld (row + 32 * mode + c * 128) 5 2 = mode ∧
      fld (row + 32 * mode + c * 128) 7 1 = c := fun c hc => by
    unfold fld
    omega
  obtain ⟨h0, h5, h7⟩ : fld (row + 32 * mode + (if clr then 128 else 0)) 0 5 = row ∧
      fld (row + 32 * mode + (if clr then 128 else 0)) 5 2 = mode ∧
      (fld (row + 32 * mode + (if clr then 128 else 0)) 7 1 == 1) = clr := by
    cases clr
    · obtain ⟨h0, h5, h7⟩ := hfields 0 (by omega)
      exact ⟨h0, h5, beq_eq_false_iff_ne.2 (h7.trans_ne Nat.zero_ne_one)⟩
    · obtain ⟨h0, h5, h7⟩ := hfields 1 (by omega)
      exact ⟨h0, h5, beq_iff_eq.2 h7⟩
  rw [execMdrn, State.vGuarded_ready hready.runs _ _ _ _ (State.refreshBusy_of_subset (List.nil_subset _) hready.refresh)]
  simp only [h0, h5, h7]
  refine congrArg _ (if_congr Iff.rfl rfl (congrArg (fun t : State => t.modMe (fun k => k.occupy 8 4)) ?_))
  refine State.vOne_registers (by decide) hready.skips ?_
  have hcell : ∀ j, (if (s.me.ra ak).tag = .noFmt then (0, 0) else (s.me.ra ak).at row j) = s.me.accCell ak row j := fun _ => rfl
  simp only [State.maskOf_masked hmask, bind, Except.bind, pure, Except.pure, hcell, List.map_map, maskFlags_eq_flagsOn]
  rw [Nat.zero_or, ← State.drainWrites_eq]
  rfl

end

/-! ## MRDR -/

/-- MRDR issues with the row's patterns in two registers and its counts in a third. -/
theorem execMrdr_eq {s : State} (hready : s.VReady [] []) (f : VFn) (vd : VReg) (ak : AReg) (row : Nat) :
    let a := (s.me.ra ak).tag
    let cell := s.me.accCell ak row
    let reg (i : Nat) : VReg := Fin.ofNat 32 (vd.val + i)
    execMrdr f vd ak row s = .next ((s.issue colT 3 1 0 [
      .v vd a (packElems 32 ((List.range 32).map (fun j => (cell j).1.toNat))) 0 0 s.lExpiry,
      .v (reg 1) a (packElems 32 ((List.range 32).map (fun j => (cell (32 + j)).1.toNat))) 0 0 s.lExpiry,
      .v (reg 2) .i16 (packElems 16 ((List.range 64).map (fun j => (cell j).2))) 0 0 s.lExpiry]).modMe (fun k => k.occupy 8 3)) := by
  intro a cell reg
  rw [execMrdr, State.vGuarded_ready hready.runs _ _ _ _ (State.refreshBusy_of_subset (List.nil_subset _) hready.refresh)]
  refine congrArg (fun t : State => (.next (t.modMe (fun k => k.occupy 8 3)) : Res)) (State.vOne_eq_issue (by decide) hready.skips ?_)
  have hcell : ∀ j, (if (s.me.ra ak).tag = .noFmt then (0, 0) else (s.me.ra ak).at (row : Int).toNat j) = cell j := fun _ => rfl
  simp only [hcell, List.map_map, Nat.add_zero, Fin.ofNat_val_eq_self]
  rw [take_map_range (by omega : 32 ≤ 64), drop_map_range (n := 32) (m := 32)]
  rfl

/-! ## MWRR -/

theorem Acc.at_put (a : Acc) (key : Nat) (x : BitVec 32 × Nat) (i j : Nat) :
    (a.put key x).at i j = if 64 * i + j = key then x else a.at i j := by
  unfold Acc.put Acc.at
  by_cases hkey : 64 * i + j = key
  · rw [if_pos hkey, hkey]
    split
    · next hx => simp [mapGetD, hx]
    · exact mapGetD_mapPut_same ..
  · rw [if_neg hkey]
    split
    · rw [mapGetD, mapGetD, mapGet_mapDel_ne _ hkey]
    · exact mapGetD_mapPut_ne _ _ _ hkey

/-- A row of cells put into an accumulator. -/
theorem Acc.at_foldl_put (a : Acc) (row : Nat) (c : Nat → BitVec 32 × Nat) {n : Nat} (hn : n ≤ 64) :
    let b := ((List.range n).map (fun j => (64 * row + j, c j))).foldl (fun a p => a.put p.1 p.2) a
    b.tag = a.tag ∧ ∀ i j, j < 64 → b.at i j = if i = row ∧ j < n then c j else a.at i j := by
  induction n with
  | zero => simp
  | succ n ih =>
    obtain ⟨htag, hat⟩ := ih (by omega)
    rw [List.range_succ, List.map_append, List.foldl_append]
    refine ⟨htag, fun i j hj => ?_⟩
    rw [List.map_cons, List.map_nil, List.foldl_cons, List.foldl_nil, Acc.at_put, hat i j hj]
    by_cases hkey : 64 * i + j = 64 * row + n
    · obtain ⟨rfl, rfl⟩ : i = row ∧ j = n := by omega
      simp
    · rw [if_neg hkey]
      exact if_congr (by omega) rfl rfl

/-- The cell of a column that MWRR writes from three registers. -/
def Core.rowCell (k : Core) (va : VReg) (j : Nat) : BitVec 32 × Nat :=
  let reg (i : Nat) : VReg := Fin.ofNat 32 (va.val + i)
  (BitVec.ofNat 32 (if j < 32 then k.elem .i32 va j else k.elem .i32 (reg 1) (j - 32)),
    let c := k.elem .i16 (reg 2) j
    if c < 32768 then c else 0)

/-- The cells of a row that MWRR writes. -/
def Core.rowCells (k : Core) (va : VReg) (row : Nat) : List (Nat × (BitVec 32 × Nat)) :=
  (List.range 64).map (fun j => (64 * row + j, k.rowCell va j))

/-- An accumulator of these cells alone. -/
def Core.rowAcc (k : Core) (va : VReg) (row : Nat) : Acc :=
  (k.rowCells va row).foldl (fun a p => a.put p.1 p.2) ⟨(k.rv va).fmt, []⟩

theorem Core.tag_rowAcc (k : Core) (va : VReg) (row : Nat) : (k.rowAcc va row).tag = (k.rv va).fmt :=
  (Acc.at_foldl_put _ row _ (le_refl 64)).1

theorem Core.at_rowAcc (k : Core) (va : VReg) (row i : Nat) {j : Nat} (hj : j < 64) :
    (k.rowAcc va row).at i j = if i = row then k.rowCell va j else (0, 0) := by
  refine ((Acc.at_foldl_put _ row _ (le_refl 64)).2 i j hj).trans ?_
  exact if_congr (and_iff_left hj) rfl rfl

theorem getD_append_elems (b b' : VBits) (j : Nat) :
    (elems b 32 ++ elems b' 32).getD j 0 = if j < 32 then elemAt b 32 j else elemAt b' 32 (j - 32) := by
  have hlen : (elems b 32).length = 32 := by simp [elems]
  split
  · rw [List.getD_append _ _ _ _ (by omega), getD_elems _ (by decide)]
  · rw [List.getD_append_right _ _ _ _ (by omega), hlen, getD_elems _ (by decide)]

theorem getD_map_elems {b : VBits} {j : Nat} (hj : j < 64) :
    ((elems b 16).map (fun c => if c ≥ 0x8000 then 0 else c)).getD j 0 =
      let c := elemAt b 16 j
      if c < 32768 then c else 0 := by
  have helems : elems b 16 = (List.range 64).map (elemAt b 16) := by simp [elems]
  rw [helems, List.map_map, getD_map_range hj]
  exact (ite_not ..).symm.trans (if_congr not_le rfl rfl)

/-- What MWRR writes from registers of the tags R242 names. -/
theorem execMwrr_eq {s : State} {va : VReg} {ak : AReg} {row : Nat} (f : VFn)
    (hready : s.VReady [va, Fin.ofNat 32 (va.val + 1), Fin.ofNat 32 (va.val + 2)]
      [va, Fin.ofNat 32 (va.val + 1), Fin.ofNat 32 (va.val + 2)])
    (hfmt : (s.me.rv va).fmt = .noFmt ∨ (s.me.rv va).fmt = .f32 ∨ (s.me.rv va).fmt = .i32)
    (h1 : (s.me.rv (Fin.ofNat 32 (va.val + 1))).fmt = (s.me.rv va).fmt) (h2 : (s.me.rv (Fin.ofNat 32 (va.val + 2))).fmt = .i16)
    (htag : (s.me.ra ak).tag = .noFmt ∨ (s.me.ra ak).tag = (s.me.rv va).fmt) :
    execMwrr f ak va row s = .next ((s.issue colT 1 1 0 (if (s.me.rv va).fmt = .noFmt then []
      else if (s.me.ra ak).tag = .noFmt then
        [.accPut ak (s.me.rowAcc va row)]
      else [.acc ak (s.me.ra ak).tag (s.me.rowCells va row)])).modMe (fun k => k.occupy 8 1)) := by
  rw [execMwrr, State.vGuarded_ready hready.runs _ _ _ _ (State.refreshBusy_of_subset (fun _ => id) hready.refresh)]
  have hcells : ((List.range 64).map (fun j => (64 * (row : Int).toNat + j,
      (BitVec.ofNat 32 ((elems (s.me.rv va).bits 32 ++ elems (s.me.rv (Fin.ofNat 32 (va.val + 1))).bits 32).getD j 0),
        ((elems (s.me.rv (Fin.ofNat 32 (va.val + 2))).bits 16).map (fun c => if c ≥ 0x8000 then 0 else c)).getD j 0)))) =
      s.me.rowCells va row := by
    unfold Core.rowCells
    refine List.map_congr_left fun j hj => ?_
    have hj := List.mem_range.1 hj
    rw [getD_append_elems, getD_map_elems hj, Int.toNat_natCast]
    rfl
  have hfresh : ([va, Fin.ofNat 32 (va.val + 1), Fin.ofNat 32 (va.val + 2)].any s.me.vExpired) = false := by
    rw [List.any_eq_false]
    exact fun r hr => by simp [hready.fresh r hr]
  simp only [hcells, hfresh]
  rw [if_neg (not_not.2 hfmt), if_neg (not_not.2 h1), if_neg (not_not.2 h2), if_neg (by
    rintro ⟨hno, hne⟩
    exact htag.elim hno fun h => hne h.symm)]
  rfl

/-! ## The statement -/

/-- What MDRN's issue leaves: its registers in flight, and the cleared row when it clears. -/
theorem State.drainIssue_lands (s : State) (fl : Nat) (ws : List Wr) (clr : Bool) (ak : AReg) (row : Nat) :
    let t := (s.modMe (fun k => k.issueStep s.clk s.ent colT 4 1 fl ws (if clr then [.accClearRow ak row] else []))).modMe
      (fun k => k.occupy 8 4)
    (s.Kept t ∧ (clr = true → s.Lands t 1 (.accClearRow ak row))) ∧ ∀ w, w ∈ ws → s.Lands t 4 w :=
  ⟨⟨(s.kept_issueStep ..).occupy 8 4, fun h => (s.lands_issueStep_next _ _ _ _ (by simp [h])).occupy 8 4⟩,
    fun _ hw => (s.lands_issueStep _ _ _ _ hw).occupy 8 4⟩

/-- Rows are drained with their counts, read raw, and written back. -/
theorem tensorRows : Statements.TensorRows := by
  intro s f vd ak row mode clr m hready hmask hrow hmode hvd a cell v count drain reg spec each goes
  have hdrn : exec (.mdrn f vd ak spec) s = _ := execMdrn_eq hready hmask hrow hmode vd ak
  have hval : mode ≠ 3 → (fun j => (drainElem f.fmt f.sat mode a.tag (s.me.accCell ak row j)).1.1) = drain := fun hm =>
    funext fun j => (drainElem_value ..).trans (if_neg hm)
  have hcount : (fun j => (drainElem f.fmt f.sat mode a.tag (s.me.accCell ak row j)).1.2) = count :=
    funext fun j => drainElem_count ..
  refine ⟨fun hm hf => ?_, fun hm htag => ?_, fun hm htag => ?_, ?_, fun hregs h1 h2 => ⟨fun h0 ht => ?_, fun h0 ht => ?_, fun h0 ht => ?_⟩⟩
  · obtain ⟨hgoes, hlands⟩ := s.drainIssue_lands (flagsOn 64 m fun j => (drainElem f.fmt f.sat mode a.tag (s.me.accCell ak row j)).2)
      (s.drainWrites f vd mode m (fun j => (drainElem f.fmt f.sat mode a.tag (s.me.accCell ak row j)).1.1) count) clr ak row
    refine ⟨_, ?_, hgoes, hlands _ ?_⟩
    · rw [hdrn, if_neg (fun h => h.1 hm), ← hcount]
    · have hval3 : (fun j => (drainElem f.fmt f.sat mode a.tag (s.me.accCell ak row j)).1.1) = count :=
        funext fun j => (drainElem_value ..).trans (if_pos hm)
      rw [hval3]
      simp [State.drainWrites, hm]
  · obtain ⟨hgoes, hlands⟩ := s.drainIssue_lands (flagsOn 64 m fun j => (drainElem f.fmt f.sat mode a.tag (s.me.accCell ak row j)).2)
      (s.drainWrites f vd mode m drain count) clr ak row
    refine ⟨_, ?_, hgoes, fun hw => ⟨hlands _ ?_, fun h0 => hlands _ ?_⟩,
      fun hw => ⟨hlands _ ?_, hlands _ ?_, fun h0 => hlands _ ?_⟩, fun hw => hlands _ ?_⟩
    · rw [hdrn, if_neg (fun h => h.2 htag), ← hcount, ← hval hm]
    all_goals simp [State.drainWrites, hm, hw, reg, each]
    all_goals simp [h0]
  · rw [hdrn, if_pos ⟨hm, htag⟩]
    rfl
  · refine ⟨_, execMrdr_eq hready f vd ak row, (s.kept_issue ..).occupy 8 3, ?_, ?_, ?_⟩ <;>
      refine (s.lands_issue _ _ _ _ _ ?_).occupy 8 3
    · exact List.mem_cons_self
    · exact List.mem_cons_of_mem _ List.mem_cons_self
    · exact List.mem_cons_of_mem _ (List.mem_cons_of_mem _ List.mem_cons_self)
  · exact ⟨_, execMwrr_eq f hregs (.inl h0) h1 h2 (.inl ht), (s.kept_issue ..).occupy 8 1⟩
  · refine ⟨_, execMwrr_eq f hregs (.inr h0) h1 h2 (.inr ht), (s.kept_issue ..).occupy 8 1,
      (s.lands_issue _ _ _ _ _ ?_).occupy 8 1⟩
    have hv : (s.me.rv vd).fmt ≠ .noFmt := by rcases h0 with h0 | h0 <;> rw [h0] <;> decide
    rw [if_neg hv, if_neg (ht.trans_ne hv)]
    exact List.mem_singleton_self _
  · refine ⟨_, s.me.rowAcc vd row, execMwrr_eq f hregs (.inr h0) h1 h2 (.inl ht), (s.kept_issue ..).occupy 8 1,
      (s.lands_issue _ _ _ _ _ ?_).occupy 8 1, s.me.tag_rowAcc vd row, fun i j _ hj => s.me.at_rowAcc vd row i hj⟩
    rw [if_neg (by rcases h0 with h0 | h0 <;> rw [h0] <;> decide), if_pos ht]
    exact List.mem_singleton_self _

/-- Settles O49: the instructions of the configuration and of the accumulator rows issue with the writes they name. That a
subnormal accumulator is read as zero, and the FORMAT information of MDRN, also for an accumulator without a tag, are the model's
choice (log entries 31 and 35). -/
theorem tensorRegisters : Obligations.TensorRegisters := ⟨tensorConfiguration, tensorRows⟩

end Sys2Proof.Machine
end

section

/-! Proof of the start of MLDB and MMA (R232, R233, R237, R280). -/

namespace Sys2Proof.Machine

/-! ## The range-lock table -/

theorem State.disarm_of_no_lines {s : State} (h : s.lines = []) (key n : Nat) : s.disarm key n = s := by
  simp [State.disarm, State.armedLines, h]

theorem State.armedTrap_of_no_lines {s : State} (h : s.lines = []) (ps : List CPiece) : s.armedTrap ps = none := by
  simp [State.armedTrap, State.seqBad, State.armedLines, h]

/-- The core with another range-lock table. -/
def Core.withLocks (k : Core) (l : List (Nat × Lock)) : Core := { k with locks := l }

theorem State.lockFoot_eq (s : State) (fp : List CPiece) : ∃ l, s.lockFoot fp = s.modMe (fun k => k.withLocks l) := by
  unfold State.lockFoot
  cases h : s.me.tensorLock s.ent.serial with
  | none => exact ⟨s.me.locks, State.modMe_congr (by simp only [h]; rfl)⟩
  | some i => exact ⟨_, State.modMe_congr (by simp only [h]; rfl)⟩

/-- Without schedule lines, a footprint takes an entry and nothing else. -/
theorem State.holdFoot_eq {s : State} (h : s.lines = []) (fp : List CPiece) :
    s.holdFoot fp = s ∨ ∃ l, s.holdFoot fp = s.modMe (fun k => k.withLocks l) := by
  have hfold : ∀ ps : List CPiece, ps.foldl (fun s p => s.disarm (keyOf p.phys) p.len) s = s := fun ps => by
    induction ps with
    | nil => rfl
    | cons p ps ih => rw [List.foldl_cons, State.disarm_of_no_lines h, ih]
  unfold State.holdFoot
  split
  · exact .inl rfl
  · rw [hfold]
    exact .inr (s.lockFoot_eq fp)

/-! ## Starting an operation -/

/-- The core after the start of a tensor operation, with its entry in the range-lock table. -/
def Core.startTop (k : Core) (l : List (Nat × Lock)) (clk : Nat) (e : QEntry) (occ : Nat) (ws : List Wr) (o : TensorOp) : Core :=
  let k := ws.foldl (fun k w => k.landAt e.serial 1 w) (((k.withLocks l).slotInc clk e.head.set).occupy colT occ)
  { k with tops := k.tops ++ [o] }

/-- The start of an operation over a footprint, without schedule lines. -/
theorem State.modMe_holdFoot {s : State} (h : s.lines = []) (fp : List CPiece) (f : State → Core → Core)
    (hf : ∀ g k, f (s.modMe g) k = f s k) :
    ∃ l, (let t := s.holdFoot fp; t.modMe (f t)) = s.modMe (fun k => f s (k.withLocks l)) := by
  obtain heq | ⟨l, heq⟩ := s.holdFoot_eq h fp
  · exact ⟨s.me.locks, by rw [heq]; exact State.modMe_congr rfl⟩
  · refine ⟨l, ?_⟩
    rw [heq]
    exact (congrArg _ (funext (hf _))).trans (State.modMe_modMe ..)

section
variable (s : State) (l : List (Nat × Lock)) (occ : Nat) (ws : List Wr) (o : TensorOp)

/-- The state after the start of a tensor operation. -/
def State.startTop : State := s.modMe (fun k => k.startTop l s.clk s.ent occ ws o)

theorem Core.startTop_eq (k : Core) (clk : Nat) (e : QEntry) : k.startTop l clk e occ ws o =
    { ((k.withLocks l).slotInc clk e.head.set).occupy colT occ with
      landings := ws.foldl (fun l w => landInsert l ⟨k.vcc + 1, e.serial, w, none, false⟩) k.landings, tops := k.tops ++ [o] } := by
  rw [Core.startTop, Core.foldl_landAt]
  cases e.head.set <;> rfl

/-- What has started: the operation is one more in its core, its slot counts, its writes are in flight, and nothing that a program
sees has changed. -/
theorem State.started {s t : State} {l : List (Nat × Lock)} {occ : Nat} {ws : List Wr} {o : TensorOp}
    (ht : t = s.startTop l occ ws o) : t.me.tops = s.me.tops ++ [o] ∧ s.Kept t ∧
      (∀ d, s.head.set = some d → t.me.slot d = s.me.slot d + 1) ∧ ∀ w, w ∈ ws → s.Lands t 1 w := by
  subst ht
  refine ⟨?_, ⟨State.sameMem_modMe _ _, ?_⟩, fun d hd => ?_, fun w hw => ?_⟩
  · rw [State.startTop, State.me_modMe, Core.startTop_eq]
  · rw [State.startTop, State.me_modMe, Core.startTop_eq]
    apply Core.sameRegs_of <;> simp <;> rfl
  · rw [State.startTop, State.me_modMe, Core.startTop_eq]
    have hset : s.ent.head.set = some d := hd
    simp only [hset]
    exact mapGetD_mapPut_same ..
  · unfold State.Lands
    rw [State.startTop, State.me_modMe, Core.startTop_eq]
    exact (mem_foldl_landInsert _ ws _ _).2 (.inl ⟨w, hw, rfl⟩)

end

/-! ## MLDB -/

/-- The ranges that MLDB checks: the rows of B, or the offset table of an F8Z tensor. -/
def State.loadRanges (s : State) (f : Fmt) (m : MemOp) : List (Nat × Nat) :=
  if s.me.slice.bz then [(s.me.memAddr m 128, tableBytes s.me.slice.kcfg)]
  else bRows (s.me.memAddr m 128) s.me.slice.kcfg s.me.slice.bstr f

/-- The beats of MLDB. -/
def State.loadBeats (s : State) (f : Fmt) : Nat :=
  if s.me.slice.bz then 1 else (s.me.slice.kcfg * 8 * fmtWidth f + 127) / 128

/-- The operation that MLDB starts. -/
def State.loadOp (s : State) (f : Fmt) (m : MemOp) (vs : List Nat) : TensorOp :=
  ⟨s.ent.serial, s.ent.pc, false, true, f, 0, s.me.vcc, 0, s.loadBeats f, 0, 0, 0,
    if s.me.slice.bz then [s.me.memAddr m 128] else vs, s.me.slice.kcfg, s.me.slice.bz, [], [], 0,
    s.ent.head.set, m.g, s.me.rg m.g, s.ent.block, none, none⟩

section
variable {s : State} {f : VFn} {m : MemOp} {vs : List Nat}

theorem execMldb_starts (hruns : s.Runs) (hlines : s.lines = []) (hlock : s.me.freeLock.isNone = false)
    (hk : s.me.slice.kcfg ≠ 0) (hwide : ¬(s.me.slice.kcfg > 512 ∧ fmtWidth f.fmt = 16)) (hbz : ¬(s.me.slice.bz = true ∧ f.fmt ≠ .f8))
    (hreach : s.tensorReach (s.me.rg m.g) m.g (s.me.memAddr m 128) (if s.me.slice.bz then 0 else wrap 64 s.me.slice.bstr)
      (s.loadRanges f.fmt m) = .ok vs)
    (hfoot : s.footTrap (s.footprint (vs.zip ((s.loadRanges f.fmt m).map (·.2)))) = none) :
    ∃ l, execMldb f m s = .next (s.startTop l (4 + s.loadBeats f.fmt) (s.me.postInc m 128) (s.loadOp f.fmt m vs)) := by
  obtain ⟨l, hl⟩ := State.modMe_holdFoot hlines (s.footprint (vs.zip ((s.loadRanges f.fmt m).map (·.2))))
    (fun t k =>
      let k := (s.me.postInc m 128).foldl (fun k w => k.landAt s.ent.serial 1 w)
        ((k.slotInc t.clk s.ent.head.set).occupy colT (4 + s.loadBeats f.fmt))
      { k with tops := k.tops ++ [s.loadOp f.fmt m vs] }) (fun _ _ => rfl)
  refine ⟨l, ?_⟩
  rw [execMldb, State.guarded_runs hruns]
  refine congrArg _ ?_
  rw [if_neg hk, if_neg hwide, if_neg hbz]
  simp only [State.loadRanges] at hreach hfoot hl
  simp only [hreach, hfoot, hlock, Bool.and_false]
  exact hl

end

/-! ## MMA -/

/-- The operation that MMA or GMMA starts. -/
def State.mmaOp (s : State) (gang : Bool) (f : Fmt) (ak : AReg) (m : MemOp) (vas : List Nat) : TensorOp :=
  let c0 := s.me.firstChunk gang (s.ent.pc % 4096) ak
  ⟨s.ent.serial, s.ent.pc, gang, false, f, ak, s.me.vcc, c0, s.me.slice.kb / 8, c0, c0, 0, vas, s.me.slice.kb, false,
    s.me.slice.rows, [], 0, s.ent.head.set, m.g, s.me.rg m.g, s.ent.block, none, none⟩

/-- What MMA or GMMA lands: the moved address and the tag of an accumulator without one. -/
def State.mmaWrites (s : State) (f : Fmt) (ak : AReg) (m : MemOp) : List Wr :=
  s.me.postInc m 128 ++ (if (s.me.ra ak).tag = .noFmt then [Wr.accPut ak ⟨if f = .i8 then .i32 else .f32, []⟩] else [])

section
variable {s : State} {f : VFn} {m : MemOp} {vs : List Nat} {ak : AReg}

theorem State.mmaStart_eq (hlines : s.lines = []) (gang : Bool) (f : Fmt) (ak : AReg) (m : MemOp) (vas : List Nat) (fp : List CPiece) :
    ∃ l occ, s.mmaStart gang f ak m vas fp = s.modMe (fun k =>
      let k := k.startTop l s.clk s.ent occ (s.mmaWrites f ak m) (s.mmaOp gang f ak m vas)
      if s.me.firstChunk gang (s.ent.pc % 4096) ak = s.me.slice.kb / 8 then k.finish s.ent.serial else k) := by
  let occ := max 1 (chunkClk f * (s.me.slice.kb / 8 - s.me.firstChunk gang (s.ent.pc % 4096) ak))
  obtain ⟨l, hl⟩ := State.modMe_holdFoot hlines fp
    (fun t k =>
      let k := (s.mmaWrites f ak m).foldl (fun k w => k.landAt s.ent.serial 1 w)
        ((k.slotInc t.clk s.ent.head.set).occupy colT occ)
      let k := { k with tops := k.tops ++ [s.mmaOp gang f ak m vas] }
      if s.me.firstChunk gang (s.ent.pc % 4096) ak = s.me.slice.kb / 8 then k.finish s.ent.serial else k) (fun _ _ => rfl)
  exact ⟨l, occ, hl⟩

theorem execMma_starts (hruns : s.Runs) (hlines : s.lines = []) (hlock : s.me.freeLock.isNone = false)
    (hfmt : s.me.mmaFormat f.fmt ak = none) (hfirst : s.me.firstChunk false (s.ent.pc % 4096) ak = 0) (hchunks : 0 < s.me.slice.kb / 8)
    (hreach : s.tensorReach (s.me.rg m.g) m.g (s.me.memAddr m 128) (wrap 64 s.me.slice.astr)
      (aRows (s.me.memAddr m 128) s.me.slice.kb s.me.slice.astr f.fmt) = .ok vs)
    (hfoot : s.footTrap (s.footprint (vs.zip ((aRows (s.me.memAddr m 128) s.me.slice.kb s.me.slice.astr f.fmt).map (·.2)))) = none) :
    ∃ l occ, execMma f ak m s = .next (s.startTop l occ (s.mmaWrites f.fmt ak m) (s.mmaOp false f.fmt ak m vs)) := by
  obtain ⟨l, occ, hl⟩ := s.mmaStart_eq hlines false f.fmt ak m vs
    (s.footprint (vs.zip ((aRows (s.me.memAddr m 128) s.me.slice.kb s.me.slice.astr f.fmt).map (·.2))))
  refine ⟨l, occ, ?_⟩
  rw [execMma, State.guarded_runs hruns]
  refine congrArg _ ?_
  simp only [hfmt, hreach, hfoot, hlock, Bool.and_false]
  refine hl.trans ?_
  simp only [hfirst, if_neg hchunks.ne]
  rfl

end

/-! ## The statement -/

/-- MLDB and MMA start when their checks pass, and the format checks refuse the rest. -/
theorem tensorStarts : Statements.TensorStarts := by
  intro s f ak mo vs i hruns sl x cap w acc bRange aRange started chunks hlines hlock
  have hfree : s.me.freeLock.isNone = false := by rw [hlock]; rfl
  have hpost : mo.post = true → (.g mo.g (cap.inc (mo.count * 128)) : Wr) ∈ s.me.postInc mo 128 := fun h => by
    simp [Core.postInc, h, cap]
  have hstart : ∀ {t l occ ws o v}, t = s.startTop l occ ws o → s.me.postInc mo 128 ⊆ ws → o.serial = s.ent.serial → o.pc = s.ent.pc →
      o.fmt = f.fmt → o.start = s.me.vcc → o.vas = v → o.slot = s.head.set → o.data = [] → o.fault = none → started t o v := by
    intro t l occ ws o v ht hws h1 h2 h3 h4 h5 h6 h7 h8
    obtain ⟨htops, hkept, hslot, hlands⟩ := State.started ht
    exact ⟨htops, h1, h2, h3, h4, h5, h6, h7, h8, hkept, hslot, fun h => hlands _ (hws (hpost h))⟩
  refine ⟨fun hk hwide hbz hreach hfoot => ?_, fun hk hf hbz hreach hfoot => ?_, fun h => ?_,
    fun hb htag hrpr hchunks hreach hfoot => ?_, fun hb => ?_⟩
  · have hbz : s.me.slice.bz = false := hbz
    have hranges : s.loadRanges f.fmt mo = bRange := by simp only [State.loadRanges, hbz]; rfl
    have halign : (if s.me.slice.bz then 0 else wrap 64 s.me.slice.bstr) = wrap 64 sl.bstr := by simp [hbz, sl]
    obtain ⟨l, hl⟩ := execMldb_starts hruns hlines hfree hk.ne'
      (fun h => hwide.elim (not_le.2 h.1) fun h8 => absurd (h.2.symm.trans h8) (by decide)) (by simp [hbz])
      (hranges ▸ halign ▸ hreach) (hranges ▸ hfoot)
    have hbeats : s.loadBeats f.fmt = (sl.kcfg * 8 * w + 127) / 128 := by simp only [State.loadBeats, hbz]; rfl
    exact ⟨_, s.loadOp f.fmt mo vs, hl, hstart rfl (List.Subset.refl _) rfl rfl rfl rfl (by simp [State.loadOp, hbz]) rfl rfl rfl,
      rfl, hbz, rfl, hbeats, rfl⟩
  · have hbz : s.me.slice.bz = true := hbz
    have hranges : s.loadRanges f.fmt mo = [(x, tableBytes sl.kcfg)] := by simp only [State.loadRanges, hbz]; rfl
    have halign : (if s.me.slice.bz then 0 else wrap 64 s.me.slice.bstr) = 0 := by simp [hbz]
    obtain ⟨l, hl⟩ := execMldb_starts hruns hlines hfree hk.ne' (by simp [hf, fmtWidth]) (by simp [hf])
      (hranges ▸ halign ▸ hreach) (hranges ▸ hfoot)
    exact ⟨_, s.loadOp f.fmt mo vs, hl, hstart rfl (List.Subset.refl _) rfl rfl rfl rfl (by simp [State.loadOp, hbz, x]) rfl rfl rfl,
      rfl, hbz, rfl, rfl⟩
  · show execMldb f mo s = _
    rw [execMldb, State.guarded_runs hruns]
    refine congrArg _ ?_
    by_cases h0 : s.me.slice.kcfg = 0
    · rw [if_pos h0]
    · rw [if_neg h0]
      by_cases hwide : s.me.slice.kcfg > 512 ∧ fmtWidth f.fmt = 16
      · rw [if_pos hwide]
      · exact (if_neg hwide).trans (if_pos ((h.resolve_left h0).resolve_left hwide))
  · have hformat : s.me.mmaFormat f.fmt ak = none := by
      unfold Core.mmaFormat
      exact (if_neg (not_not.2 hb)).trans (if_neg fun h => htag.elim h.2 h.1)
    have hfirst : s.me.firstChunk false (s.ent.pc % 4096) ak = 0 :=
      if_neg fun h => Nat.zero_ne_one (hrpr.symm.trans h.1)
    obtain ⟨l, occ, hl⟩ := execMma_starts hruns hlines hfree hformat hfirst hchunks hreach hfoot
    refine ⟨_, s.mmaOp false f.fmt ak mo vs, hl, hstart rfl (List.subset_append_left _ _) rfl rfl rfl rfl rfl rfl rfl rfl,
      rfl, rfl, rfl, rfl, rfl, hfirst, hfirst, fun hno => ?_⟩
    exact (State.started rfl).2.2.2 _ (List.mem_append_right _ (by rw [if_pos hno]; exact List.mem_singleton_self _))
  · have hformat : s.me.mmaFormat f.fmt ak =
        some ⟨causeFORMAT, 0, 4 + 16 * fmtCode s.me.slice.bfmt + 256 * fmtCode f.fmt, 0, false⟩ := if_pos hb
    show execMma f ak mo s = _
    rw [execMma, State.guarded_runs hruns]
    simp only [hformat]
    rfl

end Sys2Proof.Machine
end

section

/-! Proof of the gang multiply: its checks, its wait on the wire, and the join (R238, R359, R368). -/

namespace Sys2Proof.Machine

/-! ## The gang's wire -/

/-- A wire whose members' joins are all those of GMMAs neither breaks nor completes a barrier (R368). -/
theorem State.gangWire_of_ready {s : State} (h : ∀ k j, j ∈ (s.core k).joins → j = 1) (x gang : Nat) : s.gangWire x gang = s := by
  have hnone : ∀ l, l ∈ ((gangCores gang).filter (fun c => (s.core c).unit != .done)).map (fun c => (s.core c).joins) →
      (0 : Nat) ∉ l := by
    intro l hl h0
    obtain ⟨c, -, rfl⟩ := List.mem_map.1 hl
    exact Nat.zero_ne_one (h c 0 h0)
  unfold State.gangWire
  dsimp only
  generalize ((gangCores gang).filter (fun c => (s.core c).unit != .done)).map (fun c => (s.core c).joins) = lists at hnone
  refine (if_neg ?_).trans (if_neg ?_)
  · simp only [List.any_eq_true, Bool.and_eq_true, not_exists, not_and, beq_iff_eq]
    rintro i _ ⟨l, hl, h0⟩
    exact absurd (List.mem_of_getElem? h0) (hnone l hl)
  · cases lists with
    | nil => simp
    | cons l rest =>
      have h0 := hnone l List.mem_cons_self
      simp only [List.all_cons, Bool.and_eq_true, beq_iff_eq, not_and]
      intro _ hhead
      exact absurd (List.mem_of_head? hhead) h0

/-! ## A GMMA that waits -/

/-- The core in which a GMMA waits at the head of its T queue. -/
def Core.waitGmma (k : Core) (e : QEntry) (clk : Nat) : Core :=
  { k.setQueueOf colT (e :: k.queueOf colT) with
      gmma := some ⟨e.serial, clk⟩
      joins := k.joins ++ [1]
      colHold := mapPut k.colHold colT gmmaHold }

theorem Core.joins_waitGmma (k : Core) (l : List (Nat × Lock)) (e : QEntry) (clk : Nat) :
    ((k.withLocks l).waitGmma e clk).joins = k.joins ++ [1] := rfl

theorem Core.sameRegs_waitGmma (k : Core) (l : List (Nat × Lock)) (e : QEntry) (clk : Nat) :
    k.SameRegs ((k.withLocks l).waitGmma e clk) := by
  unfold Core.waitGmma Core.withLocks Core.setQueueOf
  exact Core.sameRegs_of rfl rfl rfl rfl rfl rfl rfl rfl rfl rfl rfl rfl rfl

theorem Core.queueOf_waitGmma (k : Core) (l : List (Nat × Lock)) (e : QEntry) (clk : Nat) :
    ((k.withLocks l).waitGmma e clk).queueOf colT = e :: k.queueOf colT := by
  simp [Core.waitGmma, Core.queueOf, Core.setQueueOf, Core.withLocks]

section
variable {s : State} {f : VFn} {ak : AReg} {m : MemOp}

/-- With its footprint held, a GMMA that waits is a change of its core. -/
theorem State.modMe_waitGmma (s : State) (none_ : Bool) :
    ∃ l, (if none_ then s else s.lockFoot []).modMe (fun k => k.waitGmma s.ent s.clk) =
      s.modMe (fun k => (k.withLocks l).waitGmma s.ent s.clk) := by
  cases none_ with
  | true => exact ⟨s.me.locks, State.modMe_congr rfl⟩
  | false =>
    obtain ⟨l, hl⟩ := s.lockFoot_eq []
    refine ⟨l, ?_⟩
    rw [if_neg Bool.false_ne_true, hl, State.modMe_modMe]

/-- A ready GMMA joins the wire, with an entry of the range-lock table where it holds a part of A. -/
theorem execGmma_waits (hruns : s.Runs) (hwhole : s.gangWhole s.hand.core = true) (hbar : (s.bar (s.gangKey s.hand.core)).st ≠ .broken)
    (hjoins : ∀ k j, j ∈ (s.core k).joins → j = 1) (hfree : s.gmmaFoot f m = [] ∨ s.me.freeLock ≠ none) :
    ∃ l, execGmma f ak m s = .next (s.modMe (fun k => (k.withLocks l).waitGmma s.ent s.clk)) := by
  obtain ⟨l, hl⟩ := s.modMe_waitGmma (s.gmmaFoot f m).isEmpty
  have hready : ∀ k j, j ∈ ((s.modMe (fun k => (k.withLocks l).waitGmma s.ent s.clk)).core k).joins → j = 1 := by
    intro k j hj
    by_cases hk : k = s.hand.core
    · subst hk
      have hme : (s.modMe (fun k => (k.withLocks l).waitGmma s.ent s.clk)).core s.hand.core =
        (s.me.withLocks l).waitGmma s.ent s.clk := State.me_modMe ..
      rw [hme, Core.joins_waitGmma, List.mem_append, List.mem_singleton] at hj
      exact hj.elim (hjoins _ j) id
    · rw [State.core_modMe_ne _ _ hk] at hj
      exact hjoins k j hj
  have hlock : ¬(!(s.gmmaFoot f m).isEmpty && s.me.freeLock.isNone) = true := by
    rcases hfree with h | h <;> simp [h]
  refine ⟨l, ?_⟩
  rw [execGmma, State.guarded_runs hruns]
  refine congrArg _ ?_
  rw [if_neg (by simp [hwhole]), if_neg hbar, if_neg hlock]
  have hent : (if (s.gmmaFoot f m).isEmpty then s else s.lockFoot []).ent = s.ent := by split <;> rfl
  have hclk : (if (s.gmmaFoot f m).isEmpty then s else s.lockFoot []).clk = s.clk := by split <;> rfl
  dsimp only
  rw [hent, hclk]
  exact (congrArg (fun t : State => t.gangWire _ _) hl).trans (State.gangWire_of_ready hready _ _)

end

/-! ## The view of a waiting member -/

/-- A state that differs in its hand and in its cores' registers other than control registers. -/
def State.Alike (s t : State) : Prop :=
  t = { s with hand := t.hand, cores := t.cores } ∧ t.cores.map (fun p => (p.1, p.2.cr)) = s.cores.map (fun p => (p.1, p.2.cr))

theorem mapGet_map_value {α β : Type} (f : α → β) (m : List (Nat × α)) (i : Nat) :
    mapGet (m.map (fun p => (p.1, f p.2))) i = (mapGet m i).map f := by
  induction m with
  | nil => rfl
  | cons p m ih =>
    obtain ⟨k, v⟩ := p
    simp only [List.map_cons, mapGet, ih]
    split_ifs <;> rfl

theorem map_mapPut_value {α β : Type} (f : α → β) {i : Nat} {x y : α} (hf : f x = f y) : ∀ {m : List (Nat × α)}, mapGet m i = some y →
    (mapPut m i x).map (fun p => (p.1, f p.2)) = m.map (fun p => (p.1, f p.2)) := by
  intro m
  induction m with
  | nil => intro h; cases h
  | cons p m ih =>
    obtain ⟨k, v⟩ := p
    simp only [mapGet, mapPut]
    split_ifs with hk hlt
    · rintro ⟨⟩
      simp [hf]
    · rintro ⟨⟩
    · intro h
      simp [ih h]

theorem State.cr_core (s : State) (c : Nat) : (s.core c).cr = mapGetD (s.cores.map (fun p => (p.1, p.2.cr))) c [] := by
  rw [State.core, mapGetD, mapGetD, mapGet_map_value]
  cases mapGet s.cores c <;> rfl

/-- Does an armed injection of these control registers name a word (R452)? -/
def State.injNames (s : State) (key n : Nat) (cr : List (Nat × Word)) : Bool :=
  let cv (i : Nat) : Nat := (mapGetD cr i (crReset i)).toNat
  fld (cv 0x031) 0 1 == 1 && (let a := cv 0x030 / 8 * 8
    s.isHere a && decide (keyOf a < key + n) && decide (key < keyOf a + 8))

theorem State.injAt_eq (s : State) (key n : Nat) : s.injAt key n =
    ((s.cores.map (fun p => (p.1, p.2.cr))).find? (fun q => s.injNames key n q.2)).map (·.1) := by
  rw [List.find?_map, Option.map_map]
  rfl

namespace State.Alike
variable {s t : State}

theorem refl (s : State) : s.Alike s := ⟨rfl, rfl⟩

theorem isl (h : s.Alike t) : t.isl = s.isl := by rw [h.1]

theorem injBad (h : s.Alike t) (key n : Nat) : t.injBad key n = s.injBad key n := by
  have hcr : ∀ c, (t.core c).cv 0x031 = (s.core c).cv 0x031 := fun c => by
    rw [Core.cv, Core.cv, State.cr_core, State.cr_core, h.2]
  have hat : t.injAt key n = s.injAt key n := by
    have hnames : t.injNames key n = s.injNames key n := by rw [h.1]; rfl
    rw [State.injAt_eq, State.injAt_eq, h.2, hnames]
  unfold State.injBad
  rw [hat]
  cases s.injAt key n with
  | none => rfl
  | some c => simp only [hcr]

theorem walkFrom (h : s.Alike t) (va : Nat) : ∀ (l : List (Nat × Nat × Nat)) (table : Nat),
    t.walkFrom va table l = s.walkFrom va table l := by
  intro l
  induction l with
  | nil => intro table; rfl
  | cons p l ih =>
    intro table
    obtain ⟨lvl, lo, w⟩ := p
    have hplace : t.placeUp = s.placeUp := by rw [h.1]; rfl
    have hpoison : t.poisoned = s.poisoned := by rw [h.1]; rfl
    have hload : t.memLoad = s.memLoad := by rw [h.1]; rfl
    have hleaf : t.leafInvalid = s.leafInvalid := by rw [h.1]; rfl
    simp only [State.walkFrom, hplace, hpoison, hload, hleaf, h.injBad, ih]

theorem walk (h : s.Alike t) (x va : Nat) : t.walk x va = s.walk x va := by
  have hctx : t.ctx x = s.ctx x := by rw [h.1]; rfl
  simp only [State.walk, hctx, h.walkFrom]

theorem withHand (h : s.Alike t) (hd : Hand) : s.Alike { t with hand := hd } := by
  obtain ⟨heq, hcr⟩ := h
  exact ⟨by rw [heq], hcr⟩

/-- A listed core changes, its control registers aside. -/
theorem setCore (h : s.Alike t) {c : Nat} {k l : Core} (hk : mapGet t.cores c = some k) (hcr : l.cr = k.cr) : s.Alike (t.setCore c l) := by
  obtain ⟨heq, hcores⟩ := h
  refine ⟨?_, (map_mapPut_value Core.cr hcr hk).trans hcores⟩
  rw [heq]
  rfl

end State.Alike

/-- The core whose waiting GMMA has left its queue. -/
def Core.leaveGmma (k : Core) : Core :=
  { k.setQueueOf colT ((k.queueOf colT).drop 1) with
      gmma := none, joins := k.joins.drop 1, colHold := k.colHold.filter (fun p => p.2 != gmmaHold) }

/-- Two states in which a member's GMMA meets the same checks: before and after it leaves its queue. -/
structure State.SameChecks (s t : State) : Prop where
  core : t.hand.core = s.hand.core
  me : t.me = s.me.leaveGmma
  walk : t.walk = s.walk
  here : t.isHere = s.isHere
  unarmed : s.lines = []
  unarmed' : t.lines = []

namespace State.SameChecks
variable {s t : State}

theorem own (h : s.SameChecks t) : t.isOwn = s.isOwn := by
  unfold State.isOwn
  rw [h.here]

theorem relResolve (h : s.SameChecks t) (c : GVal) (x : Nat) : t.relResolve c x = s.relResolve c x := by
  unfold State.relResolve
  rw [h.me, h.core]
  rfl

theorem tensorReach (h : s.SameChecks t) (cap : GVal) (g : GReg) (x align : Nat) (l : List (Nat × Nat)) :
    t.tensorReach cap g x align l = s.tensorReach cap g x align l := by
  unfold State.tensorReach
  simp only [h.relResolve]

theorem footprint (h : s.SameChecks t) (l : List (Nat × Nat)) : t.footprint l = s.footprint l := by
  have hctx : t.me.ctx = s.me.ctx := by rw [h.me]; rfl
  unfold State.footprint
  simp only [hctx, h.walk, h.own, h.core]

theorem footTrap (h : s.SameChecks t) (fp : List CPiece) : t.footTrap fp = s.footTrap fp := by
  have hlock : t.lockTrap false fp = s.lockTrap false fp := by
    have hhit : t.me.lockHit = s.me.lockHit := by rw [h.me]; rfl
    unfold State.lockTrap
    simp only [hhit, h.own, h.core]
  unfold State.footTrap
  rw [hlock, State.armedTrap_of_no_lines h.unarmed, State.armedTrap_of_no_lines h.unarmed']

theorem gmmaCheck (h : s.SameChecks t) (f : VFn) (ak : AReg) (m : MemOp) : t.gmmaCheck f ak m = s.gmmaCheck f ak m := by
  have hformat : t.me.mmaFormat f.fmt ak = s.me.mmaFormat f.fmt ak := by rw [h.me]; rfl
  have haddr : t.me.memAddr m 128 = s.me.memAddr m 128 := by rw [h.me]; rfl
  have hrows : t.gmmaRows f m = s.gmmaRows f m := by simp only [State.gmmaRows, h.me]; rfl
  have hcap : t.me.rg m.g = s.me.rg m.g := by rw [h.me]; rfl
  have hslice : t.me.slice = s.me.slice := by rw [h.me]; rfl
  have hctx : t.me.ctx = s.me.ctx := by rw [h.me]; rfl
  unfold State.gmmaCheck
  simp only [hformat, haddr, hrows, hcap, hslice, hctx, h.tensorReach, h.footprint, h.footTrap, h.walk, h.own, h.core]

end State.SameChecks

/-! ## The join -/

/-- The core of a member after its part has started: a part without chunks is done. -/
def Core.startPart (k : Core) (done : Bool) (l : List (Nat × Lock)) (clk : Nat) (e : QEntry) (occ : Nat) (ws : List Wr)
    (o : TensorOp) : Core :=
  if done then (k.startTop l clk e occ ws o).finish e.serial else k.startTop l clk e occ ws o

theorem Core.startPart_spec (k : Core) (done : Bool) (l : List (Nat × Lock)) (clk : Nat) (e : QEntry) (occ : Nat) (ws : List Wr)
    (o : TensorOp) : (k.startPart done l clk e occ ws o).cr = k.cr ∧ (k.startPart done l clk e occ ws o).gmma = k.gmma ∧
      (k.startPart done l clk e occ ws o).tops = k.tops ++ [o] := by
  have hstart : (k.startTop l clk e occ ws o).cr = k.cr ∧ (k.startTop l clk e occ ws o).gmma = k.gmma ∧
      (k.startTop l clk e occ ws o).tops = k.tops ++ [o] := by
    rw [Core.startTop_eq]
    cases e.head.set <;> exact ⟨rfl, rfl, rfl⟩
  cases done <;> exact hstart

/-- A member's GMMA leaves its queue and starts. -/
def State.joinMember (s : State) (m : Nat) : State := (s.takeGmma m).startGmma

/-- What a member has after the join. -/
def State.Joined (s t : State) (ak : AReg) (f : Fmt) (m : Nat) : Prop :=
  (t.core m).gmma = none ∧
    ∃ o, o ∈ (t.core m).tops ∧ o.gang = true ∧ o.acc = ak ∧ o.fmt = f ∧ o.start = (s.core m).vcc

/-- A member waits at a GMMA that would raise nothing. -/
def State.MayJoin (s : State) (f : VFn) (ak : AReg) (mo : MemOp) (m : Nat) : Prop :=
  (∃ w, (s.core m).gmma = some w) ∧ s.gmmaTrap m = none ∧
    ∃ e rest, (s.core m).queueOf colT = e :: rest ∧ e.instr = .gmma f ak mo

section
variable {s t : State} {f : VFn} {ak : AReg} {mo : MemOp} {m : Nat}

theorem State.ent_atGmma {e : QEntry} {rest : List QEntry} (hq : (s.core m).queueOf colT = e :: rest) : (s.atGmma m).ent = e := by
  show ((s.core m).queueOf colT).headD QEntry.empty = e
  rw [hq]
  rfl

/-- A member whose GMMA passes its checks starts its part, and no other core changes. -/
theorem State.joinMember_spec (halike : s.Alike t) (hcore : t.core m = s.core m) (hlines : s.lines = [])
    (hmay : s.MayJoin f ak mo m) :
    s.Alike (t.joinMember m) ∧ s.Joined (t.joinMember m) ak f.fmt m ∧ ∀ n, n ≠ m → (t.joinMember m).core n = t.core n := by
  obtain ⟨hwait, htrap, e, rest, hq, hinstr⟩ := hmay
  have hent : (s.atGmma m).ent = e := State.ent_atGmma hq
  have hent' : (t.takeGmma m).ent = e := State.ent_atGmma (s := t) (by rw [hcore, hq])
  have hme : (t.takeGmma m).me = (s.core m).leaveGmma := by
    rw [← hcore]
    exact State.core_setCore (t.atGmma m) m _
  have hlines' : t.lines = [] := by rw [halike.1]; exact hlines
  have hget : mapGet t.cores m = some (s.core m) := by
    obtain ⟨w, hw⟩ := hwait
    rw [← hcore] at hw ⊢
    rw [State.core, mapGetD] at hw ⊢
    cases hm : mapGet t.cores m with
    | none => rw [hm] at hw; cases hw
    | some k => rfl
  have htake : s.Alike (t.takeGmma m) :=
    (halike.withHand _).setCore (l := (t.core m).leaveGmma) hget (by rw [hcore]; rfl)
  have hchecks : (s.atGmma m).SameChecks (t.takeGmma m) :=
    { core := rfl, me := hme
      walk := funext fun x => funext fun va => (htake.walk x va).trans (((State.Alike.refl s).withHand _).walk x va).symm
      here := by unfold State.isHere State.chip; rw [htake.isl]; rfl
      unarmed := hlines, unarmed' := hlines' }
  obtain ⟨⟨vs, fp⟩, hok⟩ : ∃ r, (t.takeGmma m).gmmaCheck f ak mo = .ok r := by
    rw [hchecks.gmmaCheck]
    unfold State.gmmaTrap at htrap
    rw [hent, hinstr] at htrap
    cases hcheck : (s.atGmma m).gmmaCheck f ak mo with
    | ok r => exact ⟨r, rfl⟩
    | error t => simp [hcheck] at htrap
  have hstart : t.joinMember m = (t.takeGmma m).mmaStart true f.fmt ak mo vs fp := by
    unfold State.joinMember State.startGmma
    rw [hent', hinstr]
    simp only [hok]
  obtain ⟨l, occ, hl⟩ := State.mmaStart_eq (s := t.takeGmma m) hlines' true f.fmt ak mo vs fp
  have hcores : ∃ k, t.joinMember m = (t.takeGmma m).setCore m k ∧ k.cr = (s.core m).cr ∧ k.gmma = none ∧
      k.tops = (s.core m).tops ++ [(t.takeGmma m).mmaOp true f.fmt ak mo vs] := by
    have hpart := hl.trans (State.modMe_congr (g := fun k => k.startPart (decide _) l (t.takeGmma m).clk (t.takeGmma m).ent occ
      ((t.takeGmma m).mmaWrites f.fmt ak mo) ((t.takeGmma m).mmaOp true f.fmt ak mo vs))
      (by unfold Core.startPart; exact (if_congr decide_eq_true_iff rfl rfl).symm))
    refine ⟨_, hstart.trans hpart, ?_⟩
    obtain ⟨hcr, hgmma, htops⟩ := Core.startPart_spec (t.takeGmma m).me _ l (t.takeGmma m).clk (t.takeGmma m).ent occ
      ((t.takeGmma m).mmaWrites f.fmt ak mo) ((t.takeGmma m).mmaOp true f.fmt ak mo vs)
    exact ⟨hcr.trans (by rw [hme]; rfl), hgmma.trans (by rw [hme]; rfl), htops.trans (by rw [hme]; rfl)⟩
  obtain ⟨k, hjoin, hcr, hgmma, htops⟩ := hcores
  have hjoined : (t.joinMember m).core m = k := by rw [hjoin]; exact State.core_setCore ..
  refine ⟨?_, ⟨by rw [hjoined, hgmma], (t.takeGmma m).mmaOp true f.fmt ak mo vs, ?_, rfl, rfl, rfl, ?_⟩, fun n hn => ?_⟩
  · rw [hjoin]
    exact htake.setCore (k := (t.core m).leaveGmma) (mapGet_mapPut_same ..) (by rw [hcr, hcore]; rfl)
  · rw [hjoined, htops]
    exact List.mem_append_right _ (List.mem_singleton_self _)
  · show (t.takeGmma m).me.vcc = _
    rw [hme]
    rfl
  · rw [hjoin, State.core_setCore_ne _ _ hn]
    exact State.core_setCore_ne (t.atGmma m) _ hn

end

theorem nodup_gangCores (g : Nat) : (gangCores g).Nodup :=
  List.nodup_range.map fun _ _ h => Nat.add_left_cancel h

/-- The members join one after another; a member's start leaves the others as they are. -/
theorem State.joinMembers_spec {s : State} {f : VFn} {ak : AReg} {mo : MemOp} (hlines : s.lines = []) :
    ∀ (ms : List Nat) (t : State), ms.Nodup → s.Alike t → (∀ m, m ∈ ms → t.core m = s.core m) →
      (∀ m, m ∈ ms → s.MayJoin f ak mo m) →
      (∀ m, m ∈ ms → s.Joined (ms.foldl State.joinMember t) ak f.fmt m) ∧
        ∀ n, n ∉ ms → (ms.foldl State.joinMember t).core n = t.core n := by
  intro ms
  induction ms with
  | nil => simp
  | cons m ms ih =>
    intro t hnodup halike hcores hall
    obtain ⟨hm, hnodup⟩ := List.nodup_cons.1 hnodup
    obtain ⟨halike', hjoined, hothers⟩ :=
      State.joinMember_spec halike (hcores m List.mem_cons_self) hlines (hall m List.mem_cons_self)
    obtain ⟨hrest, hkeep⟩ := ih (t.joinMember m) hnodup halike'
      (fun n hn => (hothers n (ne_of_mem_of_not_mem hn hm)).trans (hcores n (List.mem_cons_of_mem _ hn)))
      (fun n hn => hall n (List.mem_cons_of_mem _ hn))
    rw [List.foldl_cons]
    refine ⟨fun n hn => ?_, fun n hn => ?_⟩
    · obtain rfl | hn := List.mem_cons.1 hn
      · unfold State.Joined
        rw [hkeep n hm]
        exact hjoined
      · exact hrest n hn
    · obtain ⟨hne, hn⟩ := not_or.1 (List.mem_cons.not.1 hn)
      exact (hkeep n hn).trans (hothers n hne)

/-- A gang whose members' GMMAs all pass their checks alike starts them one by one. -/
theorem execGmmaJoin_joins {s : State} {f : VFn} {ak : AReg} {mo : MemOp} (hverdict : s.gangVerdict s.hand.core = .join)
    (hall : ∀ m, m ∈ gangCores (gangOf s.hand.core) → s.MayJoin f ak mo m ∧ s.gmmaKeyOf m = s.gmmaKeyOf s.hand.core) :
    execGmmaJoin s = .next ((gangCores (gangOf s.hand.core)).foldl State.joinMember s) := by
  have hheld : (gangCores (gangOf s.hand.core)).filter (fun m => (s.core m).gmma.isSome) = gangCores (gangOf s.hand.core) := by
    rw [List.filter_eq_self]
    intro m hm
    obtain ⟨⟨⟨w, hw⟩, -⟩, -⟩ := hall m hm
    rw [hw]
    rfl
  have hbad : (gangCores (gangOf s.hand.core)).any (fun m => (s.gmmaTrap m).isSome) = false := by
    rw [List.any_eq_false]
    intro m hm
    obtain ⟨⟨-, htrap, -⟩, -⟩ := hall m hm
    simp [htrap]
  have hdiffer : (gangCores (gangOf s.hand.core)).any (fun m => s.gmmaKeyOf m != s.gmmaKeyOf s.hand.core) = false := by
    rw [List.any_eq_false]
    intro m hm
    obtain ⟨-, hkey⟩ := hall m hm
    simp [hkey]
  unfold execGmmaJoin
  simp only [hverdict, hheld, hbad, hdiffer, Bool.false_eq_true, if_false]
  rfl

/-- GMMA breaks with its gang, waits for it, and starts with it. -/
theorem gangMultiply : Statements.GangMultiply := by
  intro s f ak mo c b gang
  refine ⟨fun hruns hwhole => ?_, fun hruns hwhole hbroken => ?_, fun hruns hwhole hbar hjoins hfree => ?_, fun hverdict hall hlines => ?_⟩
  · show execGmma f ak mo s = _
    rw [execGmma, State.guarded_runs hruns]
    exact congrArg _ (if_pos (by rw [hwhole]; rfl))
  · show execGmma f ak mo s = _
    rw [execGmma, State.guarded_runs hruns]
    exact congrArg _ ((if_neg (by rw [hwhole]; decide)).trans (if_pos hbroken))
  · obtain ⟨l, hl⟩ := execGmma_waits (f := f) (ak := ak) (m := mo) hruns hwhole hbar hjoins hfree
    refine ⟨_, ⟨s.ent.serial, s.clk⟩, hl, ?_, rfl, rfl, ?_, ?_, State.sameMem_modMe _ _, ?_⟩
    · rw [State.me_modMe]
      rfl
    · rw [State.me_modMe, Core.joins_waitGmma]
    · rw [State.me_modMe, Core.queueOf_waitGmma]
      rfl
    · rw [State.me_modMe]
      exact Core.sameRegs_waitGmma ..
  · have hmembers : ∀ m, m ∈ gang → s.MayJoin f ak mo m ∧ s.gmmaKeyOf m = s.gmmaKeyOf c := fun m hm => by
      obtain ⟨w, e, rest, hw, htrap, hkey, hq, hinstr⟩ := hall m hm
      exact ⟨⟨⟨w, hw⟩, htrap, e, rest, hq, hinstr⟩, hkey⟩
    exact ⟨_, execGmmaJoin_joins hverdict hmembers,
      (State.joinMembers_spec hlines gang s (nodup_gangCores _) (State.Alike.refl s) (fun _ _ => rfl) fun m hm => (hmembers m hm).1).1⟩

end Sys2Proof.Machine
end

section

/-! Proof layer: arithmetic of numbers that are integers (R84, R88, R106). -/

namespace Sys2Proof.Machine

/-- A finite number that is an integer, over the denominator 1. -/
def Num.IsInt (x : Num) (v : Int) : Prop := ∃ s n, x = .fin s n 1 ∧ (if s then -(n : Int) else n) = v

theorem Num.IsInt.frac {x : Num} {v : Int} (h : x.IsInt v) : x.frac = ⟨v, 1⟩ := by
  obtain ⟨s, n, rfl, rfl⟩ := h
  rfl

theorem signed_natAbs (v : Int) : (if decide (v < 0) = true then -(v.natAbs : Int) else v.natAbs) = v := by
  by_cases h : v < 0
  · rw [decide_eq_true h, if_pos rfl]
    omega
  · rw [decide_eq_false h, if_neg Bool.false_ne_true]
    omega

theorem Num.isInt_ofFrac (z : Bool) (v : Int) : (Num.ofFrac z ⟨v, 1⟩).IsInt v := by
  unfold Num.ofFrac
  split
  · next h =>
    have h : v = 0 := h
    exact ⟨z, 0, rfl, by cases z <;> simp [h]⟩
  · exact ⟨decide (v < 0), v.natAbs, rfl, signed_natAbs v⟩

theorem isInt_intRead {w x : Nat} (h : x % 2 ^ w ≠ 2 ^ (w - 1)) : (intRead w x).IsInt (sext w x) := by
  unfold intRead
  rw [if_neg h]
  exact ⟨decide (sext w x < 0), (sext w x).natAbs, rfl, signed_natAbs _⟩

section
variable {x y : Num} {v w : Int}

theorem isInt_numMul (hx : x.IsInt v) (hy : y.IsInt w) : (numMul x y).1.IsInt (v * w) := by
  have hmul : x.frac.mul y.frac = ⟨v * w, 1⟩ := by rw [hx.frac, hy.frac]; rfl
  obtain ⟨s, n, rfl, -⟩ := hx
  obtain ⟨t, m, rfl, -⟩ := hy
  show (Num.ofFrac _ (Frac.mul _ _)).IsInt _
  rw [hmul]
  exact Num.isInt_ofFrac _ _

theorem isInt_numAdd (hx : x.IsInt v) (hy : y.IsInt w) : (numAdd x y).1.IsInt (v + w) := by
  have hadd : x.frac.add y.frac = ⟨v + w, 1⟩ := by rw [hx.frac, hy.frac]; rfl
  obtain ⟨s, n, rfl, -⟩ := hx
  obtain ⟨t, m, rfl, -⟩ := hy
  show (Num.ofFrac _ (Frac.add _ _)).IsInt _
  rw [hadd]
  exact Num.isInt_ofFrac _ _

end

theorem foldl_add_frac {α : Type} (x : α → Num) (v : α → Int) : ∀ (l : List α), (∀ i, i ∈ l → (x i).IsInt (v i)) → ∀ b : Int,
    (l.map x).foldl (fun (a : Frac) y => a.add y.frac) ⟨b, 1⟩ = ⟨b + (l.map v).sum, 1⟩ := by
  intro l
  induction l with
  | nil => intro _ b; simp
  | cons i l ih =>
    intro h b
    have hi : (⟨b, 1⟩ : Frac).add (x i).frac = ⟨b + v i, 1⟩ := by rw [(h i List.mem_cons_self).frac]; rfl
    rw [List.map_cons, List.foldl_cons, hi, ih (fun j hj => h j (List.mem_cons_of_mem _ hj)), List.map_cons, List.sum_cons, Int.add_assoc]

theorem isInt_numSum {α : Type} {x : α → Num} {v : α → Int} {l : List α} (h : ∀ i, i ∈ l → (x i).IsInt (v i)) :
    (numSum (l.map x)).1.IsInt (l.map v).sum := by
  have hnan : (l.map x).any Num.isNan = false := by
    rw [List.any_eq_false]
    intro y hy
    obtain ⟨i, hi, rfl⟩ := List.mem_map.1 hy
    obtain ⟨s, n, hx, -⟩ := h i hi
    simp [hx, Num.isNan]
  have hinf : ∀ s, (l.map x).any (fun y => y == .inf s) = false := fun s => by
    rw [List.any_eq_false]
    intro y hy
    obtain ⟨i, hi, rfl⟩ := List.mem_map.1 hy
    obtain ⟨s, n, hx, -⟩ := h i hi
    simp [hx]
  unfold numSum
  simp only [hnan, hinf, Bool.and_self, Bool.false_eq_true, if_false]
  rw [foldl_add_frac x v l h 0, Int.zero_add]
  exact Num.isInt_ofFrac _ _

theorem intWrite_isInt {x : Num} {v : Int} (h : x.IsInt v) (w : Nat) : (intWrite w false x).1 = (intClamp w v).1 := by
  have hround : x.frac.roundNE = v := by
    rw [h.frac]
    simp [Frac.roundNE, Frac.floor]
  obtain ⟨s, n, rfl, -⟩ := h
  unfold intWrite
  simp only [hround]
  rfl

theorem toInt_intClamp (v : Int) : (BitVec.ofNat 32 (intClamp 32 v).1).toInt = max (-(2 ^ 31 - 1)) (min (2 ^ 31 - 1) v) := by
  have hwrap : ∀ u : Int, -(2 ^ 31 - 1) ≤ u → u ≤ 2 ^ 31 - 1 → (BitVec.ofNat 32 (wrap 32 u)).toInt = u := by
    intro u hlo hhi
    rw [BitVec.toInt_ofNat', wrap, Int.toNat_of_nonneg (Int.emod_nonneg _ (by decide)), Int.emod_bmod]
    exact Int.bmod_eq_of_le (by omega) (by omega)
  unfold intClamp
  have hmax : intMax 32 = 2 ^ 31 - 1 := rfl
  rw [hmax]
  split
  · rw [hwrap _ (by omega) (by omega)]
    omega
  · split
    · rw [hwrap _ (by omega) (by omega)]
      omega
    · rw [hwrap _ (by omega) (by omega)]
      omega

end Sys2Proof.Machine
end

section

/-! Proof of the chunk that lands (R106, R233). -/

namespace Sys2Proof.Machine

/-! ## Operands of a chunk -/

theorem isSubnormal_absentCode (f : Fmt) : isSubnormal f (absentCode f) = false := by
  cases f <;> decide

/-- An operand of the T column reads as absent just when it is the absent code (R79, R86). -/
theorem isAbsent_tRead {f : Fmt} (h : IsElemental f) {x : Nat} (hx : x < 2 ^ fmtWidth f) :
    (tRead f x).isAbsent = (x == absentCode f) := by
  unfold tRead
  split
  · next hsub =>
    have hne : x ≠ absentCode f := fun heq => by
      rw [heq, isSubnormal_absentCode] at hsub
      exact Bool.false_ne_true hsub
    rw [beq_eq_false_iff_ne.2 hne]
    rfl
  · exact h.isAbsent_readElem hx

/-- The element of A in a chunk: row i, column k of the chunk. -/
def chunkA (f : Fmt) (seg : List Byte) (i k : Nat) : Nat :=
  leNat ((seg.drop (fmtWidth f * i + k * (fmtWidth f / 8))).take (fmtWidth f / 8))

/-- The element of B that meets column k of chunk n. -/
def chunkB (f : Fmt) (rows : List (Nat × Nat)) (n k j : Nat) : Nat :=
  mapGetD rows (8 * n + k) 0 / 2 ^ (fmtWidth f * j) % 2 ^ fmtWidth f

/-- The eight pairs of operands of an element. -/
def chunkPairs (f : Fmt) (seg : List Byte) (rows : List (Nat × Nat)) (n i j : Nat) : List (Num × Num) :=
  (List.range 8).map (fun k => (tRead f (chunkA f seg i k), tRead f (chunkB f rows n k j)))

theorem take_drop_segment {α : Type} (l : List α) {i k wb : Nat} (hk : k < 8) :
    (((l.drop (i * (8 * wb))).take (8 * wb)).drop (k * wb)).take wb = (l.drop (8 * wb * i + k * wb)).take wb := by
  have hle : k * wb + wb ≤ 8 * wb := by nlinarith
  rw [List.drop_take, List.drop_drop, List.take_take, Nat.min_eq_left (by omega), Nat.mul_comm i]

/-! ## The cells a chunk changes -/

/-- The cell that a chunk gives an element. -/
def chunkCell (f : Fmt) (a : Acc) (seg : List Byte) (rows : List (Nat × Nat)) (n i j : Nat) : Option (BitVec 32 × Nat) :=
  (chunkElem f (a.at i j) (chunkPairs f seg rows n i j)).map (·.1)

/-- The cells of a row. -/
def chunkRow (f : Fmt) (a : Acc) (seg : List Byte) (rows : List (Nat × Nat)) (n i : Nat) : List (Nat × (BitVec 32 × Nat)) :=
  (List.range 64).flatMap (fun j => ((chunkCell f a seg rows n i j).map (fun x => (64 * i + j, x))).toList)

theorem foldl_append_flatMap {α γ δ : Type} (step : List γ × δ → α → List γ × δ) (g : α → List γ) : ∀ (l : List α)
    (_ : ∀ i, i ∈ l → ∀ acc, (step acc i).1 = acc.1 ++ g i) (acc : List γ × δ), (l.foldl step acc).1 = acc.1 ++ l.flatMap g := by
  intro l
  induction l with
  | nil => simp
  | cons i l ih =>
    intro h acc
    rw [List.foldl_cons, ih (fun i hi => h i (List.mem_cons_of_mem _ hi)), h i List.mem_cons_self, List.flatMap_cons, List.append_assoc]

theorem chunkElem_of_absent {f : Fmt} {old : BitVec 32 × Nat} {l : List (Num × Num)} (h : ∀ p, p ∈ l → p.1.isAbsent = true) :
    chunkElem f old l = none := by
  have hnil : l.filter (fun p => !p.1.isAbsent && !p.2.isAbsent) = [] := by
    rw [List.filter_eq_nil_iff]
    intro p hp
    simp [h p hp]
  unfold chunkElem
  rw [hnil]
  rfl

theorem chunkCells_fst {f : Fmt} (hw : fmtWidth f = 8 * (fmtWidth f / 8)) (a : Acc) (n : Nat) (seg : List Byte) (rows : List (Nat × Nat)) :
    (chunkCells f a n seg rows).1 = (List.range 32).flatMap (chunkRow f a seg rows n) := by
  unfold chunkCells
  refine (foldl_append_flatMap _ (chunkRow f a seg rows n) _ (fun i _ acc => ?_) _).trans (List.nil_append _)
  have hxs : (List.range 8).map (fun k => tRead f (leNat ((((seg.drop (i * chunkClk f)).take (chunkClk f)).drop
      (k * (fmtWidth f / 8))).take (fmtWidth f / 8)))) = (List.range 8).map (fun k => tRead f (chunkA f seg i k)) := by
    refine List.map_congr_left fun k hk => ?_
    have := take_drop_segment seg (i := i) (wb := fmtWidth f / 8) (List.mem_range.1 hk)
    rw [← hw] at this
    rw [chunkClk, this, chunkA]
  have hpairs : ∀ j, j < 64 → ((List.range 8).map (fun k => tRead f (chunkA f seg i k))).zip (((List.range 8).map (fun k =>
      (List.range 64).map (fun j => tRead f (mapGetD rows (8 * n + k) 0 / 2 ^ (fmtWidth f * j) % 2 ^ fmtWidth f)))).map
        (fun b => b.getD j .absent)) = chunkPairs f seg rows n i j := by
    intro j hj
    rw [List.map_map, List.zip_map']
    refine List.map_congr_left fun k _ => ?_
    rw [Function.comp_apply, getD_map_range hj]
    rfl
  dsimp only
  rw [hxs]
  split
  · next habsent =>
    have hrow : chunkRow f a seg rows n i = [] := by
      refine List.flatMap_eq_nil_iff.2 fun j _ => ?_
      have hnone : chunkElem f (a.at i j) (chunkPairs f seg rows n i j) = none := chunkElem_of_absent fun p hp => by
        obtain ⟨k, hk, rfl⟩ := List.mem_map.1 hp
        exact List.all_eq_true.1 habsent _ (List.mem_map_of_mem hk)
      rw [chunkCell, hnone]
      rfl
    rw [hrow, List.append_nil]
  · refine foldl_append_flatMap _ _ _ (fun j hj acc => ?_) _
    rw [hpairs j (List.mem_range.1 hj), chunkCell]
    cases chunkElem f (a.at i j) (chunkPairs f seg rows n i j) with
    | none => exact (List.append_nil _).symm
    | some p => rfl

/-! ## The value of a cell -/

section
variable {f : Fmt} {a : Acc} {seg : List Byte} {rows : List (Nat × Nat)} {n i j : Nat}

/-- Are both operands of a pair present? -/
def chunkOn (f : Fmt) (seg : List Byte) (rows : List (Nat × Nat)) (n i j k : Nat) : Bool :=
  chunkA f seg i k != absentCode f && chunkB f rows n k j != absentCode f

/-- The product of a pair. -/
def chunkProduct (f : Fmt) (seg : List Byte) (rows : List (Nat × Nat)) (n i j k : Nat) : Num × Nat :=
  numMul (tRead f (chunkA f seg i k)) (tRead f (chunkB f rows n k j))

theorem leNat_lt : ∀ l : List Byte, leNat l < 256 ^ l.length := by
  intro l
  induction l with
  | nil => exact Nat.one_pos
  | cons b l ih =>
    have hb : b.toNat < 256 := b.isLt
    rw [leNat, List.length_cons, pow_succ]
    omega

theorem chunkA_lt (hw : fmtWidth f = 8 * (fmtWidth f / 8)) (seg : List Byte) (i k : Nat) : chunkA f seg i k < 2 ^ fmtWidth f := by
  rw [hw, pow_mul]
  exact (leNat_lt _).trans_le (Nat.pow_le_pow_right (by omega) (List.length_take_le ..))

theorem chunkB_lt (f : Fmt) (rows : List (Nat × Nat)) (n k j : Nat) : chunkB f rows n k j < 2 ^ fmtWidth f :=
  Nat.mod_lt _ (Nat.two_pow_pos _)

/-- The products that a chunk adds are those of its present pairs. -/
theorem products_chunkPairs (h : IsElemental f) (hw : fmtWidth f = 8 * (fmtWidth f / 8)) :
    ((chunkPairs f seg rows n i j).filter (fun p => !p.1.isAbsent && !p.2.isAbsent)).map (fun p => numMul p.1 p.2) =
      ((List.range 8).filter (chunkOn f seg rows n i j)).map (chunkProduct f seg rows n i j) := by
  have hon : ∀ k, (!(tRead f (chunkA f seg i k)).isAbsent && !(tRead f (chunkB f rows n k j)).isAbsent) = chunkOn f seg rows n i j k := by
    intro k
    rw [isAbsent_tRead h (chunkA_lt hw seg i k), isAbsent_tRead h (chunkB_lt ..)]
    rfl
  rw [chunkPairs, List.filter_map, List.map_map]
  refine congrArg₂ _ rfl (List.filter_congr fun k _ => ?_)
  exact hon k

/-- The cell of an element without a present pair stays. -/
theorem chunkCell_none (h : IsElemental f) (hw : fmtWidth f = 8 * (fmtWidth f / 8))
    (h0 : (List.range 8).countP (chunkOn f seg rows n i j) = 0) : chunkCell f a seg rows n i j = none := by
  have hnil : (List.range 8).filter (chunkOn f seg rows n i j) = [] := by
    rw [List.filter_eq_nil_iff]
    exact List.countP_eq_zero.1 h0
  unfold chunkCell chunkElem
  rw [products_chunkPairs h hw, hnil]
  rfl

/-- The number of an accumulator's cell before a chunk. -/
def oldNum (f : Fmt) (old : BitVec 32 × Nat) : Num :=
  if old.2 = 0 then .zero false else tRead (if f = .i8 then .i32 else .f32) old.1.toNat

/-- An element with present pairs gets the sum of their products and its old value, and counts them (R106). -/
theorem chunkCell_some (h : IsElemental f) (hw : fmtWidth f = 8 * (fmtWidth f / 8))
    (h0 : 0 < (List.range 8).countP (chunkOn f seg rows n i j)) : chunkCell f a seg rows n i j =
      some (BitVec.ofNat 32 (tWrite (if f = .i8 then .i32 else .f32) false (numAdd (oldNum f (a.at i j)) (numSum
        (((List.range 8).filter (chunkOn f seg rows n i j)).map (fun k => (chunkProduct f seg rows n i j k).1))).1).1).1,
        min 65535 ((a.at i j).2 + (List.range 8).countP (chunkOn f seg rows n i j))) := by
  have hne : (((List.range 8).filter (chunkOn f seg rows n i j)).map (chunkProduct f seg rows n i j)).isEmpty = false := by
    rw [List.isEmpty_eq_false_iff, ne_eq, List.map_eq_nil_iff, List.filter_eq_nil_iff]
    intro hall
    exact h0.ne' (List.countP_eq_zero.2 hall)
  unfold chunkCell chunkElem
  rw [products_chunkPairs h hw]
  dsimp only
  rw [if_neg (hne.trans_ne Bool.false_ne_true), List.map_map, List.length_map, ← List.countP_eq_length_filter]
  rfl

theorem isInt_oldNum {old : BitVec 32 × Nat} (h : old.1 ≠ 0x80000000#32) :
    (oldNum .i8 old).IsInt (if old.2 = 0 then 0 else old.1.toInt) := by
  unfold oldNum
  by_cases h0 : old.2 = 0
  · rw [if_pos h0, if_pos h0]
    exact ⟨false, 0, rfl, rfl⟩
  · rw [if_neg h0, if_neg h0, ← sext_toNat (by decide)]
    refine isInt_intRead (w := 32) ?_
    rw [Nat.mod_eq_of_lt old.1.isLt]
    exact fun heq => h (BitVec.eq_of_toNat_eq heq)

/-- A present operand of I8 reads as its integer. -/
theorem isInt_tRead_i8 {x : Nat} (hx : x < 2 ^ 8) (h : x ≠ absentCode .i8) : (tRead .i8 x).IsInt (sext 8 x) :=
  isInt_intRead (w := 8) (by rw [Nat.mod_eq_of_lt hx]; exact h)

/-- For I8 the exact sum joins the value, saturating (R106). -/
theorem toInt_chunkCell_i8 {x : BitVec 32 × Nat} (hf : f = .i8) (h0 : 0 < (List.range 8).countP (chunkOn f seg rows n i j))
    (hx : chunkCell f a seg rows n i j = some x) (hold : (a.at i j).1 ≠ 0x80000000#32) :
    x.1.toInt = max (-(2 ^ 31 - 1)) (min (2 ^ 31 - 1) ((if (a.at i j).2 = 0 then 0 else (a.at i j).1.toInt) +
      (((List.range 8).filter (chunkOn f seg rows n i j)).map
        (fun k => sext 8 (chunkA f seg i k) * sext 8 (chunkB f rows n k j))).sum)) := by
  subst hf
  have hproduct : ∀ k, k ∈ (List.range 8).filter (chunkOn .i8 seg rows n i j) →
      (chunkProduct .i8 seg rows n i j k).1.IsInt (sext 8 (chunkA .i8 seg i k) * sext 8 (chunkB .i8 rows n k j)) := by
    intro k hk
    have hon := (List.mem_filter.1 hk).2
    rw [chunkOn, Bool.and_eq_true, bne_iff_ne, bne_iff_ne] at hon
    exact isInt_numMul (isInt_tRead_i8 (chunkA_lt rfl seg i k) hon.1) (isInt_tRead_i8 (chunkB_lt ..) hon.2)
  rw [chunkCell_some ⟨by decide, by decide⟩ rfl h0] at hx
  obtain rfl := Option.some.inj hx
  show (BitVec.ofNat 32 (intWrite 32 false _).1).toInt = _
  rw [intWrite_isInt (isInt_numAdd (isInt_oldNum hold) (isInt_numSum hproduct)), toInt_intClamp]

end

/-! ## Cells put into an accumulator -/

theorem Acc.tag_foldl_put (l : List (Nat × (BitVec 32 × Nat))) : ∀ a : Acc, (l.foldl (fun a p => a.put p.1 p.2) a).tag = a.tag := by
  induction l with
  | nil => intro a; rfl
  | cons p l ih => intro a; rw [List.foldl_cons, ih]; rfl

/-- A cell that a list of cells sets to at most one value. -/
theorem Acc.at_foldl_puts {i j : Nat} {v : Option (BitVec 32 × Nat)} : ∀ (l : List (Nat × (BitVec 32 × Nat))) (a : Acc),
    (∀ p, p ∈ l → p.1 = 64 * i + j → v = some p.2) →
      (l.foldl (fun a p => a.put p.1 p.2) a).at i j = if (∃ p, p ∈ l ∧ p.1 = 64 * i + j) then v.getD (0, 0) else a.at i j := by
  intro l
  induction l with
  | nil => simp
  | cons p l ih =>
    intro a h
    rw [List.foldl_cons, ih _ fun q hq => h q (List.mem_cons_of_mem _ hq), Acc.at_put]
    by_cases hp : p.1 = 64 * i + j
    · have hv := h p List.mem_cons_self hp
      have hex : ∃ q, q ∈ p :: l ∧ q.1 = 64 * i + j := ⟨p, List.mem_cons_self, hp⟩
      rw [if_pos hex, if_pos hp.symm, hv]
      split <;> rfl
    · have hiff : (∃ q, q ∈ p :: l ∧ q.1 = 64 * i + j) ↔ ∃ q, q ∈ l ∧ q.1 = 64 * i + j := by simp [hp]
      exact if_congr hiff.symm rfl (if_neg fun heq => hp heq.symm)

/-- An accumulator after a chunk: each cell has what the chunk gives it, or stays. -/
theorem Acc.at_chunk {f : Fmt} {a b : Acc} {seg : List Byte} {rows : List (Nat × Nat)} {n i j : Nat} (hi : i < 32) (hj : j < 64) :
    (((List.range 32).flatMap (chunkRow f a seg rows n)).foldl (fun a p => a.put p.1 p.2) b).at i j =
      (chunkCell f a seg rows n i j).getD (b.at i j) := by
  have hmem : ∀ p, p ∈ (List.range 32).flatMap (chunkRow f a seg rows n) ↔
      ∃ i', i' < 32 ∧ ∃ j', j' < 64 ∧ ∃ x, chunkCell f a seg rows n i' j' = some x ∧ (64 * i' + j', x) = p := by
    intro p
    simp [chunkRow, List.mem_flatMap]
  have hkey : ∀ p, p ∈ (List.range 32).flatMap (chunkRow f a seg rows n) → p.1 = 64 * i + j →
      chunkCell f a seg rows n i j = some p.2 := by
    intro p hp hpk
    obtain ⟨i', -, j', hj', x, hx, rfl⟩ := (hmem p).1 hp
    have hpk : 64 * i' + j' = 64 * i + j := hpk
    obtain ⟨rfl, rfl⟩ : i' = i ∧ j' = j := by omega
    exact hx
  rw [Acc.at_foldl_puts _ _ hkey]
  cases hcell : chunkCell f a seg rows n i j with
  | none =>
    refine if_neg ?_
    rintro ⟨p, hp, hpk⟩
    rw [hkey p hp hpk] at hcell
    cases hcell
  | some x => exact if_pos ⟨_, (hmem _).2 ⟨i, hi, j, hj, x, hcell, rfl⟩, rfl⟩

/-! ## The landing -/

/-- Registers of a core that a chunk's end leaves. -/
theorem Core.topDone_registers (k : Core) (clk : Nat) (o : TensorOp) :
    (k.topDone clk o).acc = k.acc ∧ (k.topDone clk o).g = k.g ∧ (k.topDone clk o).v = k.v := by
  have hflags : (k.setFlags clk o.flags).acc = k.acc ∧ (k.setFlags clk o.flags).g = k.g ∧ (k.setFlags clk o.flags).v = k.v := by
    unfold Core.setFlags
    split <;> exact ⟨rfl, rfl, rfl⟩
  unfold Core.topDone
  split <;> split <;> simp [hflags]

/-- The core after a chunk: its operation goes on, or is over. -/
def Core.chunkDone (k : Core) (clk : Nat) (o : TensorOp) : Core :=
  if o.lands = o.count then (k.modTop o.serial (fun _ => o)).topDone clk o else k.modTop o.serial (fun _ => o)

theorem Core.chunkDone_registers (k : Core) (clk : Nat) (o : TensorOp) :
    (k.chunkDone clk o).acc = k.acc ∧ (k.chunkDone clk o).g = k.g ∧ (k.chunkDone clk o).v = k.v := by
  unfold Core.chunkDone
  split
  · exact (k.modTop o.serial (fun _ => o)).topDone_registers clk o
  · exact ⟨rfl, rfl, rfl⟩

theorem execChunkLand_lands {s : State} {o : TensorOp} {n due : Nat} {bytes : List Byte} {rest : List (Nat × (Nat × List Byte))}
    (hb : s.hand.arg.bytes = []) (ha : s.hand.arg.a = 0) (ho : s.me.tops.find? (fun p => p.serial == s.hand.arg.ix) = some o)
    (hdata : o.data = (n, (due, bytes)) :: rest) (hdue : due ≤ s.me.vcc) :
    ∃ o' clk, execChunkLand s = .next ((s.landWr s.hand.core o.serial (.acc o.acc (if o.fmt = .i8 then .i32 else .f32)
      (chunkCells o.fmt (s.me.ra o.acc) n bytes o.rows).1)).modMe (fun k => k.chunkDone clk o')) := by
  refine ⟨{ o with data := rest, lands := n + 1, flags := o.flags ||| (chunkCells o.fmt (s.me.ra o.acc) n bytes o.rows).2 },
    (s.landWr s.hand.core o.serial (.acc o.acc (if o.fmt = .i8 then .i32 else .f32)
      (chunkCells o.fmt (s.me.ra o.acc) n bytes o.rows).1)).clk, ?_⟩
  unfold execChunkLand
  simp only [hb, ha, ho, hdata, hdue, List.isEmpty_nil, Bool.not_true, Bool.false_eq_true, if_false, if_true]
  rfl

/-- The core after a chunk has the cells in its accumulator, and its other registers and memory as they were. -/
theorem State.landed_acc (s : State) (n : Nat) (r : AReg) (tag : Fmt) (cells : List (Nat × (BitVec 32 × Nat))) (clk : Nat) (o : TensorOp) :
    let t := (s.landWr s.hand.core n (.acc r tag cells)).modMe (fun k => k.chunkDone clk o)
    t.me.acc = (s.me.wa r (cells.foldl (fun a p => a.put p.1 p.2) { s.me.ra r with tag := tag })).acc ∧
      t.me.g = s.me.g ∧ t.me.v = s.me.v ∧ s.SameMem t := by
  intro t
  obtain ⟨hbut, log, hcore⟩ := s.landWr_spec s.hand.core n (.acc r tag cells)
  have happly : (s.applyWr s.hand.core (.acc r tag cells)).core s.hand.core =
      s.me.wa r (cells.foldl (fun a p => a.put p.1 p.2) { s.me.ra r with tag := tag }) := State.core_setCore ..
  have hme : (s.landWr s.hand.core n (.acc r tag cells)).me =
      { s.me.wa r (cells.foldl (fun a p => a.put p.1 p.2) { s.me.ra r with tag := tag }) with wlog := log } := by
    rw [hbut.me, ← happly]
    exact hcore
  obtain ⟨hacc, hg, hv⟩ := (s.landWr s.hand.core n (.acc r tag cells)).me.chunkDone_registers clk o
  have ht : t.me = (s.landWr s.hand.core n (.acc r tag cells)).me.chunkDone clk o := State.me_modMe ..
  rw [← ht, hme] at hacc hg hv
  exact ⟨hacc, hg, hv, ((State.sameMem_setCore s _ _).trans hbut.sameMem).trans (State.sameMem_modMe _ _)⟩

theorem IsElemental.width_bytes {f : Fmt} (h : IsElemental f) : fmtWidth f = 8 * (fmtWidth f / 8) := by
  obtain ⟨h0, h1⟩ := h
  cases f
  case mask => contradiction
  all_goals decide

/-- A chunk that lands updates the cells of its present pairs and nothing else. -/
theorem chunkLanding : Statements.ChunkLanding := by
  intro s o n due bytes rest hb ha ho hdata hdue hfmt w a b on present sum old base
  have h : IsElemental o.fmt := hfmt.elim (fun h => by rw [h]; exact ⟨by decide, by decide⟩) IsElemental.of_isFloatFmt
  have hw := h.width_bytes
  obtain ⟨o', clk, hexec⟩ := execChunkLand_lands hb ha ho hdata hdue
  obtain ⟨hacc, hg, hv, hmem⟩ := s.landed_acc o.serial o.acc (if o.fmt = .i8 then .i32 else .f32)
    (chunkCells o.fmt (s.me.ra o.acc) n bytes o.rows).1 clk o'
  refine ⟨_, hexec, ?_, fun i j hi hj => ?_, fun k hk => ?_, hmem, Core.rg_congr hg, Core.vraw_congr hv⟩
  · rw [Core.ra, hacc]
    exact (congrArg Acc.tag (Core.ra_wa ..)).trans (Acc.tag_foldl_put _ _)
  · intro new
    have hnew : new = (chunkCell o.fmt (s.me.ra o.acc) bytes o.rows n i j).getD (old i j) := by
      have hra : new = ((s.me.wa o.acc _).ra o.acc).at i j := congrArg (fun l => (mapGetD l o.acc.val Acc.empty).at i j) hacc
      rw [hra, Core.ra_wa, chunkCells_fst hw, Acc.at_chunk hi hj]
      rfl
    refine ⟨fun h0 => ?_, fun h0 => ?_, fun h0 hi8 hold => ?_⟩
    · rw [hnew, chunkCell_none h hw h0]
      rfl
    · rw [hnew, chunkCell_some h hw h0]
      rfl
    · have hcell := chunkCell_some (a := s.me.ra o.acc) h hw h0
      rw [hnew, hcell]
      exact toInt_chunkCell_i8 hi8 h0 hcell hold
  · rw [Core.ra, hacc]
    exact Core.ra_wa_ne _ _ hk

/-- Settles O50: MLDB and MMA start, their chunks land, and a gang multiplies together. The FORMAT information of MLDB and MMA
and the reason of GMMA on a broken barrier are the model's choice (log entries 35 and 25). -/
theorem tensorOperations : Obligations.TensorOperations := by
  unfold Obligations.TensorOperations
  exact ⟨tensorStarts, chunkLanding, gangMultiply⟩

end Sys2Proof.Machine
end
